-- ==== Sys2Proof/Word.lean ====
section
/-! DEFINITION. The word types and the sparse table of the model: the plainest types, nothing that a reading of the
spec could change. Multi-byte numbers are little-endian everywhere (R16); their helpers stand in Machine/Bits.lean. -/

namespace Sys2Proof

/-- One byte of any memory. -/
abbrev Byte := BitVec 8

/-- One 32-bit register word (R532). -/
abbrev W32 := BitVec 32

/-- One 64-bit value. -/
abbrev W64 := BitVec 64

/-- A sparse table: pairs of a key and a value, keys strictly rising. The operations stand in Machine/Table.lean. -/
abbrev Tbl (α : Type) := List (Nat × α)

end Sys2Proof
end

