-- ==== Sys2Proof/Syntax.lean ====
section
/-! DEFINITION. The commands of the block: one constructor of `Instr` per row of spec/opcode_table.json, in the table's
order, and the operand types they carry. What a physical event brings from outside (a bit error, a voltage, the verdict of
a signature check, the bytes of a frame) is an operand of its command. -/

namespace Sys2Proof

/-- The three variants (R1, R2). -/
inductive Variant where
  | f | s | m
  deriving DecidableEq, Repr

/-- The two requesters of the register map (R531). -/
inductive Requester where
  | host | secure
  deriving DecidableEq, Repr

/-- The node-wide status codes (R320). -/
inductive Status where
  | ok | short | caught | tooLate
  | badArg | keyFail | bounds | rights | quota | policed | notFound | idExists | indexFull | noSpace | notPresent | notMine
  | retryLater | stale | genMismatch | reasmTimeout | noConn | epochStale
  | tierTimeout | poison | checkFail | aborted | sigFail | badPack | noResource | planBusy | rollback | stepHang
  | nodeBusy
  deriving DecidableEq, Repr

/-- The fields of a submission entry a command needs (R517): the function and queue it was rung on, and its entry. -/
structure HostHdr where
  fn     : Nat
  q      : Nat
  cid    : Nat
  tenant : Nat
  epoch  : Nat
  dlen   : Nat
  rlen   : Nat
  deriving DecidableEq, Repr

/-- A quota record (R330), without its tenant field. -/
structure QuotaRec where
  cores    : Nat
  leases   : Nat
  indexes  : Nat
  hbm      : Nat
  pool     : Nat
  hostmem  : Nat
  flash    : Nat
  commons  : Nat
  reslines : Nat
  outreq   : Nat
  plans    : Nat
  tables   : Nat
  deriving DecidableEq, Repr

/-- The rates of SET_RATE (R395). -/
structure RateRec where
  prate  : Nat
  pburst : Nat
  srate  : Nat
  sburst : Nat
  tquant : Nat
  deriving DecidableEq, Repr

/-- The creation fields of an index (R40). -/
structure CreateFields where
  tenant   : Nat
  index    : Nat
  skw      : Nat
  vfmt     : Nat
  metric   : Nat
  dim      : Nat
  planes   : Nat
  fpc      : Nat
  ncoarse  : Nat
  sidecap  : Nat
  mergeth  : Nat
  compth   : Nat
  splitth  : Nat
  jointh   : Nat
  vscale   : Nat
  dirn     : Nat
  maxitems : Nat
  cfmt     : Nat
  store    : Nat
  deriving DecidableEq, Repr

/-- A gather-table descriptor (R338). -/
structure TableDesc where
  tenant   : Nat
  table    : Nat
  tfmt     : Nat
  tflags   : Nat
  nnodes   : Nat
  rowbytes : Nat
  chunk    : Nat
  rows     : Nat
  base     : Nat
  nodes    : List Nat
  hotth    : Nat
  hotwin   : Nat
  deriving DecidableEq, Repr

/-- A section of a plan (R295): its type, class, whether its bounds lie in the plan and its CRC verifies, and its bytes. -/
structure PlanSection where
  stype    : Nat
  cls      : Nat
  boundsOk : Bool
  crcOk    : Bool
  bytes    : List Byte
  deriving DecidableEq, Repr

/-- A plan header (R293), with whether its reserved bytes are zero, and with what its IODECL section names: the gather tables read and
written (R337, R340). -/
structure PlanHdr where
  magicOk   : Bool
  zerosOk   : Bool
  kind      : Nat
  varmask   : Nat
  classmask : Nat
  prio      : Nat
  cores     : Nat
  dies      : Nat
  widenmax  : Nat
  rmcfg     : Nat
  sloeq     : Nat
  brmctx    : Nat
  nbuwords  : Nat
  qbatch    : Nat
  batchwait : Nat
  stepcyc   : Nat
  nrdv      : Nat
  nbranch   : Nat
  reslines  : Nat
  timeout   : Nat
  stepmax   : Nat
  estep     : Nat
  epeak     : Nat
  linger    : Nat
  toolver   : Nat
  hbmbytes  : Nat
  poolbytes : Nat
  commonsb  : Nat
  dim       : Nat
  vfmt      : Nat
  metric    : Nat
  skw       : Nat
  pflags    : Nat
  inlen     : Nat
  outlen    : Nat
  sections  : List PlanSection
  tablesRd  : List Nat
  tablesWr  : List Nat
  deriving DecidableEq, Repr

/-- A plan pack (R288) as its bytes spell it (`packOf`), with the verdicts of its signature and digest, and whether its reserved bytes are
zero. -/
structure Pack where
  magicOk  : Bool
  format   : Nat
  nplans   : Nat
  packlen  : Nat
  dirOk    : Bool
  toolver  : Nat
  keyslot  : Nat
  pkflags  : Nat
  seq      : Nat
  digestOk : Bool
  sigOk    : Bool
  zerosOk  : Bool
  digest   : List Byte
  plans    : List PlanHdr
  deriving DecidableEq, Repr

/-- The ARG of LOAD_PACK (R521). -/
structure PackPart where
  first  : Nat
  owner  : Nat
  offset : Nat
  last   : Bool
  deriving DecidableEq, Repr

/-- A plan-signing key slot of the KEYS section (R563, R567). -/
structure KeySlot where
  present : Bool
  revoked : Bool
  floor   : Nat
  deriving DecidableEq, Repr

/-- A member of a cascade group in the member table (R413). -/
structure MemberEnt where
  node : Nat
  ip   : Nat
  conn : Nat
  deriving DecidableEq, Repr

/-- The GROUP section (R413): role 1 MEMBER or 2 MASTER, own position, the master's position (log 39), partner, parent's master and its connection. `children` are the
masters of the child groups that a parent's master collects ARRIVE from (R420). -/
structure GroupSection where
  role    : Nat
  pos     : Nat
  master  : Nat
  members : List MemberEnt
  partner : Nat
  pmaster : Nat
  pconn   : Nat
  children : List MemberEnt
  deriving DecidableEq, Repr

/-- The QUEUES section (R516): ring addresses and depths of PF0's admin queues. -/
structure QueuesSection where
  sqRing  : Nat
  cqRing  : Nat
  sqDepth : Nat
  cqDepth : Nat
  deriving DecidableEq, Repr

/-- The geometry that a die's parameter page reports (R162): data and spare bytes of a page, planes of the LUN, pages of a block in QLC
mode, blocks of a plane, bits of a cell, whether the die has an SLC mode, and whether a multi-plane read takes a page address of each
plane. -/
structure Geom where
  data   : Nat
  spare  : Nat
  planes : Nat
  pages  : Nat
  blocks : Nat
  bits   : Nat
  slc    : Bool
  indep  : Bool
  deriving DecidableEq, Repr

/-- What bring-up finds at a chip enable (R163): whether RESET and READ ID succeed, the redundant copies of the parameter page (none where
a copy's CRC fails), whether calibration, the timing mode and training succeed, and the blocks marked bad at the factory, as plane and
block (R187). -/
structure DieReport where
  ch     : Nat
  ce     : Nat
  idOk   : Bool
  copies : List (Option Geom)
  train  : Bool
  marked : List (Nat × Nat)
  deriving DecidableEq, Repr

/-- What the flash bring-up of a boot finds (R163, R203): the dies, the channels whose copy of the superblock does not decode, and the
journal records, as copy and JSEQ, that do not. -/
structure NandReport where
  dies     : List DieReport
  superBad : List Nat
  jrecBad  : List (Nat × Nat)
  deriving DecidableEq, Repr

/-- What a reading of the boot image brings that its bytes do not spell (R560, R562, R563): the device and its size, the verdicts of the two
ML-DSA-65 signatures, the sections whose layout the spec does not give (NAND, GROUP, QUEUES, POWER), the digests of the two parts of
FIRMWARE that are measured (R571), WBSIZE (R190), and what channel bring-up finds. -/
structure ImageEnv where
  deviceOk  : Bool
  devSize   : Nat
  sigOk     : Bool
  maintSigOk : Bool
  fwSecDigest : List Byte
  fwElderDigest : List Byte
  retryFeat : Nat
  retryVals : List (List Byte)
  slcPrefix : Nat
  firstPoll : List Nat
  wbSize    : Nat
  group     : Option GroupSection
  queues    : QueuesSection
  pmbus     : List Nat
  storeMon  : Nat
  nand      : NandReport
  deriving DecidableEq, Repr

/-- A boot image (R562, R563) as its bytes spell it (`imageOf`), with the verdicts of its digests and signature and what channel
bring-up finds. `config` is the CONFIG section: BAR0 offset and 64-bit value; `secDigests` the DIGEST of each type, and the
next two the digests of the two parts of FIRMWARE that are measured (R571). -/
structure BootImage where
  deviceOk  : Bool
  magicOk   : Bool
  format    : Nat
  nsect     : Nat
  imglen    : Nat
  devSize   : Nat
  boundsOk  : Bool
  fwver     : Nat
  mintool   : Nat
  arb       : Nat
  rootslot  : Nat
  variants  : Nat
  bindser   : Nat
  rootKeyOk : Bool
  sigOk     : Bool
  digestsOk : Bool
  types     : List Nat
  secDigests : List (Nat × List Byte)
  fwSecDigest : List Byte
  fwElderDigest : List Byte
  config    : List (Nat × Nat)
  keys      : List KeySlot
  retryFeat : Nat
  retryVals : List (List Byte)
  slcPrefix : Nat
  firstPoll : List Nat
  wbSize    : Nat
  maint     : Pack
  group     : Option GroupSection
  queues    : QueuesSection
  pmbus     : List Nat
  storeMon  : Nat
  nand      : NandReport
  deriving DecidableEq, Repr

/-- A unit that fails a self-test group (R578): the group, 1 to 6, and the unit. In group 3 a unit is a channel, with the row
that failed or none for its currant; in group 4 a unit that is not zero is a link with no spare lane. -/
structure BistFail where
  group : Nat
  unit  : Nat
  row   : Option Nat
  deriving DecidableEq, Repr

/-- A state object that a RUN needs, and the region that holds it, as the plan's IODECL declares them (R428, R430). -/
structure ObjRef where
  sid    : Nat
  region : Nat
  deriving DecidableEq, Repr

/-- A route-map region entry (R334). -/
structure RegionEnt where
  region : Nat
  kind   : Nat
  rights : Nat
  owner  : Nat
  target : Nat
  length : Nat
  deriving DecidableEq, Repr

/-- A connection record (R366). -/
structure ConnRec where
  conn     : Nat
  pconn    : Nat
  tenant   : Nat
  ckind    : Nat
  cls      : Nat
  peerip   : Nat
  homeport : Nat
  spray    : Nat
  paths    : Nat
  cgroup   : Nat
  iseq     : Nat
  irseq    : Nat
  pin      : Bool
  rqdepth  : Nat
  cq       : Nat
  deriving DecidableEq, Repr

/-- A keyed-region record (R377). -/
structure RegionRec where
  key      : Nat
  tenant   : Nat
  rights   : Nat
  rkind    : Nat
  base     : Nat
  length   : Nat
  segshift : Nat
  expoff   : Nat
  deriving DecidableEq, Repr

/-- A Pustan message after reassembly, or one packet: its header with its payload, PLEN bytes (R358). -/
structure Msg where
  port    : Nat
  mtype   : Nat
  flags   : Nat
  tenant  : Nat
  epoch   : Nat
  dconn   : Nat
  sconn   : Nat
  seq     : Nat
  msgid   : Nat
  offset  : Nat
  totlen  : Nat
  status  : Nat
  opc     : Nat
  tag     : Nat
  key     : Nat
  aux     : Nat
  arg     : Nat
  payload : List Byte
  deriving DecidableEq, Repr

/-- A fabric frame (R355, R356): its length in bytes, the IPv6 address that it comes from, what the port checks of it, its class, and its
Pustan packet. -/
structure Frame where
  len      : Nat
  sip      : Nat
  fcsOk    : Bool
  etherOk  : Bool
  addrOk   : Bool
  udpOk    : Bool
  ver      : Nat
  pause    : Bool
  cls      : Nat
  msg      : Msg
  deriving DecidableEq, Repr

/-- Where a request came from: a submission entry, or a CMD message of a connection. -/
inductive ReqSrc where
  | queue (h : HostHdr)
  | conn (m : Msg)
  deriving DecidableEq, Repr

/-- What an ABORT names: a CID on a queue's function, or a tag on a connection (R386, R521). -/
inductive AbortSrc where
  | queue (h : HostHdr) (cid : Nat)
  | conn (m : Msg)
  deriving DecidableEq, Repr

/-- The two SPDM transports (R570). -/
inductive SpdmTr where
  | doe | mctp
  deriving DecidableEq, Repr

/-- What the ECC decoder finds in the row a micro-op reads (R148), and the cycles the operation took: its own NoC cycles
and those lost to conflicts and arbitration (R141). -/
inductive Ecc where
  | clean | corrected | uncorrectable
  deriving DecidableEq, Repr

structure UEnv where
  ecc   : Ecc
  cyc   : Nat
  confw : Nat
  entryEcc : List Ecc
  deriving DecidableEq, Repr

/-- A tile descriptor (R228). -/
structure TileDesc where
  fmt     : Nat
  cell    : Nat
  acc     : Nat
  drain   : Nat
  k       : Nat
  amask   : Nat
  ofmt    : Nat
  wbase   : Nat
  wstride : Nat
  abase   : List Nat
  astride : Nat
  pbase   : Nat
  dbase   : Nat
  dstride : Nat
  scbase  : Nat
  chk     : Bool
  tag     : Nat
  deriving DecidableEq, Repr

/-- An arithmetic fault in a tile: a value added to the accumulator of a cell, or to a checksum cell when row or column
is 128. -/
structure CellErr where
  array : Nat
  row   : Nat
  col   : Nat
  delta : Int
  deriving DecidableEq, Repr

/-- A stream-engine transfer (R296): its identifier in the stream, the node address (R326) outside, the core-store
address and the length in bytes, and the logical address of its first block (R448). -/
structure Xfer where
  id    : Nat
  addr  : Nat
  local_ : Nat
  len   : Nat
  laddr : Nat
  deriving DecidableEq, Repr

/-- What befalls a transfer on its way (R445, R450): whether the first and the second copy arrive as they left, parity replays, and
lines that failed four of them. -/
structure PathEnv where
  cv1     : Bool
  cv2     : Bool
  replays : Nat
  dead    : List Nat
  deriving DecidableEq, Repr

/-- A receive buffer that a plan posts on a connection of its own (R374), and the core-store line that reports it filled. -/
structure PlanPost where
  conn   : Nat
  key    : Nat
  offset : Nat
  len    : Nat
  line   : Nat
  deriving DecidableEq, Repr

/-- A SEND of the stream engine: a transfer out of a core store, with what befalls it on its way; or, with `post`, the posting of a receive
buffer (R374; log 135). -/
structure SendOp where
  x    : Xfer
  e    : PathEnv
  post : Option PlanPost
  deriving DecidableEq, Repr

/-- What a fill brings when it lands: the bytes of an outside tier, an error status, and what befell it on its way. -/
structure FillEnv where
  data    : List Byte
  err     : Bool
  path    : PathEnv
  deriving DecidableEq, Repr

/-- A gather or scatter command (R342). -/
structure GsCmd where
  gmode    : Nat
  table    : Nat
  nidx     : Nat
  idxaddr  : Nat
  dataddr  : Nat
  multaddr : Nat
  mapaddr  : Nat
  cntaddr  : Nat
  line     : Nat
  tag      : Nat
  deriving DecidableEq, Repr

/-- A row of a gather table as its home on another member gave it: row, bytes, poison of its lines (R339, R343). -/
structure RowData where
  row   : Nat
  bytes : List Byte
  pois  : List Bool
  deriving DecidableEq, Repr

/-- An entry offered to a selector or a merge unit (R250, R253). `dist` is the bits of an FP32. -/
structure TkEntry where
  dist : Nat
  okey : Nat
  vid  : Nat
  loc  : Nat
  rec_ : Nat
  deriving DecidableEq, Repr

/-- The trailer of a selector or context at CLOSE (R252). -/
structure Trailer where
  n     : Nat
  cap   : Nat
  worst : Nat
  ties  : Nat
  nans  : Nat
  dups  : Nat
  deriving DecidableEq, Repr

/-- A sloe descriptor (R172). -/
structure SloeDesc where
  op     : Nat
  qslot  : Nat
  metric : Nat
  vfmt   : Nat
  dim    : Nat
  ns     : Nat
  rec_   : Nat
  rlen   : Nat
  vscale : Nat
  addr   : Nat
  okey   : Nat
  dmax   : Nat
  dest   : Nat
  lease  : Nat
  tag    : Nat
  aux    : Nat
  dflags : Nat
  deriving DecidableEq, Repr

/-- What an array read of a page finds (R169, R170): whether the bytes of the record that the fast path transfers have a raw bit error, and
the sectors of the page that do not decode at level 0, with the read-retry level at which they do, none if no level does. -/
structure NandEnv where
  rawErr : Bool
  errs   : List (Nat × Option Nat)
  deriving DecidableEq, Repr

/-- A page that an array read finds in error, the sectors concerned, and the read-retry level at which they decode, none if no level
does (R170). -/
structure ReadErr where
  page  : Nat
  sects : List Nat
  level : Option Nat
  deriving DecidableEq, Repr

/-- What the copies of a fold or a collection meet (R198, R211): errors of the reads, and the programs that fail, as their place in the
order of the copies and the planes that show FAIL. -/
structure CopyEnv where
  reads : List ReadErr
  fails : List (Nat × List Nat)
  deriving DecidableEq, Repr

/-- The body of an INSERT or UPSERT (R26), and the errors that the array reads made for it meet. -/
structure PutBody where
  bytes : List Byte
  errs  : List ReadErr
  deriving DecidableEq, Repr

/-- The two centroids that the maintenance plan computed for a split (R76): of the list, and of the new one. -/
structure SplitCents where
  old : List Byte
  new : List Byte
  deriving DecidableEq, Repr

/-- The bytes of a part of a pack (R291), and whether the signature over the whole pack verifies (R289). -/
structure PackBytes where
  bytes : List Byte
  sigOk : Bool
  deriving DecidableEq, Repr

/-- What scrub finds in a row (R456): channel, row, and the uncorrectable line or a corrected error. -/
structure ScrubFind where
  ch   : Nat
  row  : Nat
  line : Option Nat
  deriving DecidableEq, Repr

/-- Why the data of a rendezvous were late (R307): the source kind that a peer waited on, whether the stack reports that the transfer
waited on refresh, whether an on-chip transfer was replayed for parity, and the currant slot awaited (R147). -/
structure Late where
  src     : Nat
  refresh : Bool
  replay  : Bool
  ch      : Nat
  slot    : Nat
  deriving DecidableEq, Repr

/-- A rendezvous freeze of a step (R308): the index of its entry, the core cycles the lease was frozen, those of them under an energy
hold (R310), and why the data were late. -/
structure RdvMeas where
  idx  : Nat
  cyc  : Nat
  held : Nat
  late : Late
  deriving DecidableEq, Repr

/-- Local freezes of a position (R234, R308): core cycles on a bank lost to a priority fill, and on a full drain or a held selector. -/
structure LocalFrz where
  pos   : Nat
  bank  : Nat
  drain : Nat
  deriving DecidableEq, Repr

/-- What was measured of a step when it executed STEPEND (R317, R318): its freezes, the wall cycles that local freezes added on the
critical position, the cycles it waited for its predecessor's result (R282), energy in µJ, and the largest 100 µs window in µJ. -/
structure StepMeas where
  rdvs     : List RdvMeas
  locals   : List LocalFrz
  extra    : Nat
  predWait : Nat
  emeas    : Nat
  peak     : Nat
  deriving DecidableEq, Repr

/-- A 64-byte line of the core store of which a feed word fails parity in a tile (R245), and how many reads of it in a row fail. -/
structure FeedPar where
  line  : Nat
  fails : Nat
  deriving DecidableEq, Repr

/-- What befalls a tile (R244, R245): arithmetic faults, and lines whose feed words fail parity. -/
structure TileEnv where
  errs : List CellErr
  par  : List FeedPar
  deriving DecidableEq, Repr

/-- The capacity and the mode with which a bramble context opens (R253). -/
structure CtxOpen where
  cap     : Nat
  maxMode : Bool
  deriving DecidableEq, Repr

/-- The trailer that ends an upstream result (R252, R254), and whether it is the last of the context. -/
structure CtxEnd where
  up    : Trailer
  close : Bool
  deriving DecidableEq, Repr

/-- What the planner measured in the window just ended (R477): average draw in W, base energy and ballast energy per
core in µJ. -/
structure WindowMeas where
  draw  : Nat
  ebase : Nat
  ebal  : Nat
  deriving DecidableEq, Repr

/-- The commands, one per row of the opcode table. -/
inductive Instr where
  -- power, reset, boot, clocks, energy
  | coldPowerOn
  | perstAssert
  | perstRelease (bist7Ok : Bool)
  | bootImageVerify (e : ImageEnv)
  | bootComplete (fails : List BistFail)
  | watchdogReset
  | elderWatchdog
  | refclkLoss
  | refclkRestore
  | pllUnlock
  | pf0Flr
  | vfFlr (vf : Nat)
  | vwarnTaken
  | vwarnRelease
  | brownoutRecovery
  | vwmaxExpiry
  | resetThreshold
  | flushComplete
  | thermalTrip
  | pwrLimChange (code : Nat)
  | holdupOkDeassert
  | holdupRead (mv : Option Nat)
  | calibrationUpdate (regulator : Nat) (factor : Option Nat)
  | energyWindow (w : WindowMeas)
  | idle1Entry (core : Nat)
  -- host commands
  | createCq (h : HostHdr) (fn q depth : Nat) (ien : Bool) (ring : Nat)
  | createSq (h : HostHdr) (fn q depth cq ring : Nat)
  | deleteSq (h : HostHdr) (fn q : Nat)
  | deleteCq (h : HostHdr) (fn q : Nat)
  | vfBind (h : HostHdr) (vf tenant : Nat)
  | tenantCreate (h : HostHdr) (tenant : Nat)
  | tenantDelete (h : HostHdr) (tenant : Nat)
  | setQuota (h : HostHdr) (tenant : Nat) (rec_ : QuotaRec)
  | quotaStats (h : HostHdr) (tenant : Nat)
  | setRate (h : HostHdr) (tenant : Nat) (rate : RateRec)
  | setClass (h : HostHdr) (tenant cls : Nat)
  | indexCreate (h : HostHdr) (d : CreateFields) (splan uplan : Nat)
  | indexDelete (h : HostHdr) (index : Nat)
  | deletionFinish (index : Nat)
  | indexQuiesce (h : HostHdr) (index : Nat)
  | indexAttach (h : HostHdr) (index splan uplan : Nat)
  | setHot (h : HostHdr) (ns : Nat) (hot : Bool) (first count : Nat)
  | createTable (h : HostHdr) (d : TableDesc)
  | deleteTable (h : HostHdr) (table : Nat)
  | groupIndex (h : HostHdr) (index mask : Nat)
  | loadPack (h : HostHdr) (part : PackPart) (pack : PackBytes)
  | packLoadTimeout
  | unloadPlan (h : HostHdr) (plan : Nat)
  | leaseOpen (h : HostHdr) (plan : Nat)
  | leaseClose (h : HostHdr) (lease : Nat)
  | stepLog (h : HostHdr)
  | planStats (h : HostHdr) (lease : Nat)
  | connOpen (h : HostHdr) (c : ConnRec)
  | connClose (h : HostHdr) (conn : Nat)
  | postRecv (h : HostHdr) (conn key offset length : Nat)
  | regRegion (h : HostHdr) (r : RegionRec)
  | deregRegion (h : HostHdr) (key : Nat)
  | segPresent (h : HostHdr) (key seg : Nat)
  | segAbsent (h : HostHdr) (key seg : Nat)
  | fabTstats (h : HostHdr) (tenant : Nat) (clear : Bool)
  | routeMap (h : HostHdr) (epoch : Nat) (entries : List RegionEnt)
  | groupReset (h : HostHdr)
  | casLog (h : HostHdr)
  | errLog (h : HostHdr)
  | tierStats (h : HostHdr)
  | progressStats (h : HostHdr) (tenant : Nat)
  | energyStats (h : HostHdr)
  | setPowerRun (h : HostHdr) (autowake : Bool)
  | setPowerIdle2 (h : HostHdr) (autowake : Bool)
  | setPowerStandby (h : HostHdr) (autowake : Bool)
  -- tenant requests
  | search (src : ReqSrc) (body : List Byte)
  | insert (src : ReqSrc) (body : PutBody)
  | upsert (src : ReqSrc) (body : PutBody)
  | delete (src : ReqSrc) (body : List Byte)
  | run (src : ReqSrc) (body : List Byte) (ioOk : Bool) (objects : List ObjRef)
  | abort (src : AbortSrc)
  -- host port
  | sqTailDoorbell (fn q value : Nat)
  | cqHeadDoorbell (fn q value : Nat)
  | dmaTimeout (h : HostHdr)
  | cxlLinkTrain (width rate : Nat)
  | hdmCommit
  | cxlMemRead (offset : Nat) (ecc : Ecc)
  | cxlMemWrite (offset : Nat) (bytes : List (Option Byte))
  -- SPDM
  | getVersion (tr : SpdmTr)
  | getCapabilities (tr : SpdmTr)
  | negotiateAlgorithms (tr : SpdmTr) (mldsa sha3 : Bool)
  | getDigests (tr : SpdmTr)
  | getCertificate (tr : SpdmTr) (slot offset length : Nat)
  | challenge (tr : SpdmTr) (slot : Nat) (nonce : List Byte)
  | getMeasurements (tr : SpdmTr) (index : Nat) (sign : Bool) (nonce : List Byte)
  -- management messages
  | regread (mseq addr par : Nat)
  | regwrite (mseq addr : Nat) (x : W32) (par : Nat)
  | health (mseq : Nat)
  | healthInterval
  | cperread (mseq : Nat)
  | standby (mseq : Nat)
  | wake (mseq : Nat)
  | recover (mseq : Nat)
  | flashread (mseq addr len : Nat)
  | flasherase (mseq addr : Nat)
  | flashwrite (mseq addr : Nat) (data : List Byte)
  | reset (mseq : Nat)
  | arbcommit (mseq : Nat)
  | foreignMctpMessage
  -- register accesses; `par`: how often the word failed parity on its way (R446)
  | registerWrite (req : Requester) (addr : Nat) (x : W32) (par : Nat)
  | sqClear (req : Requester) (addr : Nat) (x : W32) (par : Nat)
  | aliasSetWrite (req : Requester) (addr : Nat) (x : W32) (par : Nat)
  | aliasClearWrite (req : Requester) (addr : Nat) (x : W32) (par : Nat)
  | aliasToggleWrite (req : Requester) (addr : Nat) (x : W32) (par : Nat)
  | multiwordStagedWrite (req : Requester) (addr : Nat) (x : W32) (par : Nat)
  | quiesce
  | quiesced
  | portReset (port : Nat)
  | gateListEnable (port : Nat)
  | gateIntervalEnd (port : Nat)
  | scaleRegisterWrite (core idx : Nat) (x : W32) (par : Nat)
  | nbuGo (block : Nat) (mask : Nat)
  | slotRelease (ch slot : Nat)
  -- near-bank units
  | slotStart (ch qwait : Nat)
  | uNop (ch : Nat) (e : UEnv)
  | uLda (ch : Nat) (e : UEnv)
  | uAdda (ch : Nat) (e : UEnv)
  | uLdc (ch : Nat) (e : UEnv)
  | uLoop (ch : Nat) (e : UEnv)
  | uJmp (ch : Nat) (e : UEnv)
  | uSets (ch : Nat) (e : UEnv)
  | uRd (ch : Nat) (e : UEnv)
  | uWr (ch : Nat) (e : UEnv)
  | uCopy (ch : Nat) (e : UEnv)
  | uInit (ch : Nat) (e : UEnv)
  | uRdl (ch : Nat) (e : UEnv)
  | uAnd (ch : Nat) (e : UEnv)
  | uOr (ch : Nat) (e : UEnv)
  | uXor (ch : Nat) (e : UEnv)
  | uAndnot (ch : Nat) (e : UEnv)
  | uNot (ch : Nat) (e : UEnv)
  | uXpop (ch : Nat) (e : UEnv)
  | uMacv (ch : Nat) (e : UEnv)
  | uQk (ch : Nat) (e : UEnv)
  | uSmax (ch : Nat) (e : UEnv)
  | uAv (ch : Nat) (e : UEnv)
  | uOnorm (ch : Nat) (e : UEnv)
  | uAccw (ch : Nat) (e : UEnv)
  | uVld (ch : Nat) (e : UEnv)
  | uAclr (ch : Nat) (e : UEnv)
  | uSignal (ch : Nat) (e : UEnv)
  | uEnd (ch : Nat) (e : UEnv)
  | refDue (ch : Nat)
  | forcedPause (ch : Nat)
  | refreshComplete (ch cyc : Nat)
  | cewarnInterval (ch : Nat)
  -- cores and sequencer
  | tile (core : Nat) (d : TileDesc) (env : TileEnv)
  | fill (core : Nat) (x : Xfer)
  | fillComplete (core id : Nat) (e : FillEnv)
  | poolReadTimeout (core id : Nat)
  | streamSend (core : Nat) (x : SendOp)
  | gather (core : Nat) (g : GsCmd) (remote : List RowData)
  | scatter (core : Nat) (g : GsCmd) (remote : List RowData)
  | release (core first count : Nat)
  | scaleld (core base addr : Nat)
  | rmslot (core array slot : Nat)
  | rmseed (core array addr : Nat)
  | flagrd (core base addr : Nat)
  | tkopen (core k : Nat) (maxMode : Bool)
  | tkoffer (core : Nat) (e : TkEntry)
  | tkclose (core ctx : Nat)
  | brambleMerge (unit ctx : Nat) (open_ : CtxOpen) (entries : List TkEntry) (end_ : CtxEnd)
  | nbucmd (core ch slot : Nat) (bytes : List Byte)
  | sloedesc (core : Nat) (d : SloeDesc)
  | fabsend (core conn opc : Nat) (payload : List Byte)
  | branch (lease pos addr : Nat)
  | wait (core cycles : Nat)
  | stepend (lease : Nat) (m : StepMeas)
  -- steps and leases
  | chkwaitExpiry (lease : Nat)
  | resultStands (lease : Nat)
  | leaseAdmit
  | leaseWaitLimit (lease : Nat)
  | stepStart (lease : Nat) (errs : List ReadErr)
  | batchwaitExpiry (lease : Nat)
  | lingerExpiry (lease : Nat)
  | rendezvousTimeout (lease rdv : Nat) (m : StepMeas)
  | stepHang (lease : Nat) (m : StepMeas)
  -- maintenance
  | merge (list : Nat)
  | compaction (list : Nat)
  | split (list : Nat) (cents : SplitCents) (errs : List ReadErr)
  | listMerge (a b : Nat)
  | reclusterPassEnd (index : Nat)
  | extentFree (list gen : Nat)
  | sideFullTimeout (req : Nat)
  -- flash
  | loadq (d : SloeDesc)
  | fetch (d : SloeDesc)
  | scan (d : SloeDesc) (errs : List ReadErr)
  | flashStatusPoll (ch ce : Nat) (ready : Bool) (fails : List Nat)
  | nandReadComplete (ch ce : Nat) (e : NandEnv)
  | nandProgramComplete (ch ce : Nat)
  | nandEraseComplete (ch stripe : Nat) (fails : List Nat)
  | wbageExpiry (ns unit : Nat)
  | writeAdmitTimeout (req : Nat)
  | foldStart (ch : Nat) (e : CopyEnv)
  | gcStart (ch : Nat) (e : CopyEnv)
  | victimErase (ch : Nat)
  | checkpoint
  | zqCalibration
  | scrubPass (finds : List ScrubFind)
  | hotwinBoundary (table : Nat)
  -- fabric
  | frameReceive (port : Nat) (f : Frame)
  | pfcFrame (port classes quanta : Nat)
  | pfcRefresh (port cls : Nat)
  | pfcwdExpiry (port cls : Nat)
  | egressPick (port : Nat)
  | linkUp (port : Nat)
  | linkDown (port : Nat)
  | losttimeExpiry (port : Nat)
  | reasmtoExpiry (port dconn msgid : Nat)
  | deadListExpiry (port dconn msgid : Nat)
  | reordertoExpiry (conn seq : Nat)
  | xrdytoExpiry (buf : Nat)
  | rtoExpiry (conn seq : Nat)
  | ackintExpiry (conn : Nat)
  | reswaitExpiry (conn seq : Nat)
  | connStateFetched (conn : Nat) (ok : Bool)
  | stagingBufferGrant
  | rangeLockGrant (group : Nat)
  | reply (m : Msg)
  | ack (m : Msg)
  | nak (m : Msg)
  | send (m : Msg)
  | xrdy (m : Msg)
  | data (m : Msg)
  | read (m : Msg) (host : List Byte) (err : Bool)
  | rdata (m : Msg)
  | write (m : Msg)
  | flush (m : Msg) (err : Bool)
  | flushed (m : Msg)
  | abortrep (m : Msg)
  | close (m : Msg)
  | closeack (m : Msg)
  | ping (m : Msg)
  | pong (m : Msg)
  -- cascade groups
  | arrive (m : Msg)
  | go (m : Msg)
  | expel (m : Msg)
  | barrierReset (m : Msg)
  | barrierRelease
  | releaseDetect
  | bartoExpiry
  | barstuck
  | membtoExpiry (tag pos : Nat)
  | groupRecordSend (tag : Nat)
  | confirm (m : Msg)
  | retract (m : Msg)
  | replay (m : Msg)
  | gone (m : Msg)
  | verdictTimeout (steptag : Nat)
  | replayTimeout (steptag : Nat)
  | rpkeepExpiry (steptag : Nat)
  | applied (m : Msg)
  | epochDrain
  | ownerQuery (m : Msg)
  | ownerAnswer (m : Msg)
  | ownerAssign (m : Msg)
  | ownerDrop (m : Msg)
  | ownerFetch (m : Msg)
  | ownerConflict (m : Msg)
  | hello (m : Msg)
  | accept (m : Msg)
  | refuse (m : Msg)
  | snapend (m : Msg)
  | caughtup (m : Msg)
  | joinAdmit (m : Msg)
  | jointoExpiry (pos : Nat)
  -- the table's last rows
  | powerLoss
  | holdupOkAssert
  | portResetDone (port : Nat)
  | gateListRestart (port : Nat)
  | linkTrainingFailure (port : Nat)
  deriving DecidableEq, Repr

end Sys2Proof
end

