-- ==== Sys2Proof/Machine/Bits.lean ====
section
/-! DEFINITION. Bit fields, little-endian byte strings (R16) and the CRC-32C (R59). -/

namespace Sys2Proof

/-- Bits [lo + n − 1 : lo] of a number. -/
def bits (x lo n : Nat) : Nat := x / 2 ^ lo % 2 ^ n

/-- Bit i of a number. -/
def bitOf (x i : Nat) : Bool := x.testBit i

/-- `x` with bits [lo + n − 1 : lo] replaced by `v`. -/
def putBits (x lo n v : Nat) : Nat :=
  x % 2 ^ lo + v % 2 ^ n * 2 ^ lo + x / 2 ^ (lo + n) * 2 ^ (lo + n)

/-- One as a bit. -/
def b2n (b : Bool) : Nat := if b then 1 else 0

/-- The mask of bits [hi:lo]. -/
def maskOf (lo hi : Nat) : Nat := (2 ^ (hi + 1 - lo) - 1) * 2 ^ lo

/-- The `n` little-endian bytes of a number (R16). -/
def leBytes (n x : Nat) : List Byte :=
  match n with
  | 0 => []
  | m + 1 => BitVec.ofNat 8 x :: leBytes m (x / 256)

/-- The number that little-endian bytes spell (R16). -/
def fromLe (bs : List Byte) : Nat :=
  match bs with
  | [] => 0
  | b :: r => b.toNat + 256 * fromLe r

/-- The little-endian number of `n` bytes at an offset of a byte string; bytes beyond its end are zero. -/
def leAt (bs : List Byte) (off n : Nat) : Nat := fromLe ((bs.drop off).take n)

/-- `n` zero bytes. -/
def zeros (n : Nat) : List Byte := List.replicate n 0

/-- A byte string cut or filled with zeros to `n` bytes. -/
def padTo (n : Nat) (bs : List Byte) : List Byte := (bs ++ zeros n).take n

/-- Rounds up to a multiple of `m`. -/
def roundUp (x m : Nat) : Nat := (x + m - 1) / m * m

/-- Division rounding up. -/
def ceilDiv (x m : Nat) : Nat := (x + m - 1) / m

/-- Sum that saturates at 2^n − 1. -/
def satAdd (n x k : Nat) : Nat := min (x + k) (2 ^ n - 1)

/-- One bit of the reflected CRC-32C. -/
def crcBit (c : Nat) : Nat := if c % 2 = 1 then (c / 2) ^^^ 0x82F63B78 else c / 2

/-- One byte of the reflected CRC-32C. -/
def crcByte (c : Nat) (b : Byte) : Nat :=
  crcBit (crcBit (crcBit (crcBit (crcBit (crcBit (crcBit (crcBit (c ^^^ b.toNat))))))))

/-- CRC-32C with the parameters of R59. -/
def crc32c (bs : List Byte) : Nat := bs.foldl crcByte 0xFFFFFFFF ^^^ 0xFFFFFFFF

/-- One bit and one byte of the CRC-32 of IEEE 802.3, reflected. -/
def fcsBit (c : Nat) : Nat := if c % 2 = 1 then (c / 2) ^^^ 0xEDB88320 else c / 2
def fcsByte (c : Nat) (b : Byte) : Nat := fcsBit (fcsBit (fcsBit (fcsBit (fcsBit (fcsBit (fcsBit (fcsBit (c ^^^ b.toNat))))))))

/-- The FCS of a frame (R355). -/
def fcsOf (bs : List Byte) : Nat := bs.foldl fcsByte 0xFFFFFFFF ^^^ 0xFFFFFFFF

/-- A number in `n` bytes in network order. -/
def beBytes (n v : Nat) : List Byte := (leBytes n v).reverse

/-- The sum of the 16-bit words of a byte string in network order. -/
def sum16 (bs : List Byte) : Nat :=
  match bs with
  | [] => 0
  | [a] => 256 * a.toNat
  | a :: b :: r => 256 * a.toNat + b.toNat + sum16 r

/-- The UDP checksum (R355) of a datagram between two IPv6 addresses: the ones' complement of the sum with the pseudo-header, never zero. -/
def udpSum (src dst udp : List Byte) : Nat :=
  let fold := fun (x : Nat) => x / 65536 + x % 65536
  let c := 65535 - fold (fold (sum16 (src ++ dst ++ beBytes 4 udp.length ++ [0, 0, 0, 17] ++ udp)))
  if c = 0 then 65535 else c

/-- The check value of data bytes under a logical address (R447). -/
def checkValue (bs : List Byte) (laddr : Nat) : Nat := crc32c (bs ++ leBytes 8 laddr)

/-- Number of one bits among the low `n` bits. -/
def popcount (n x : Nat) : Nat :=
  match n with
  | 0 => 0
  | m + 1 => x % 2 + popcount m (x / 2)

/-- The positions below `n` of the one bits of a mask. -/
def maskBits (n x : Nat) : List Nat := (List.range n).filter (fun i => x.testBit i)

/-- Replaces element `i` of a list. -/
def setAt {α : Type} (l : List α) (i : Nat) (x : α) : List α := l.set i x

/-- The two's complement reading of the low `n` bits. -/
def signed (n x : Nat) : Int :=
  let y := x % 2 ^ n
  if 2 ^ (n - 1) ≤ y then (y : Int) - (2 ^ n : Nat) else (y : Int)

/-- The low `n` bits of an integer in two's complement. -/
def unsigned (n : Nat) (x : Int) : Nat := (x % ((2 ^ n : Nat) : Int)).toNat

/-- Clamp of an integer to 32 bits (R270), and whether it changed. -/
def clamp32 (x : Int) : Int × Bool :=
  if x < -2147483648 then (-2147483648, true)
  else if 2147483647 < x then (2147483647, true)
  else (x, false)

/-- Index of the first element that satisfies `p`. -/
def indexOf {α : Type} (p : α → Bool) (l : List α) : Option Nat := l.findIdx? p

end Sys2Proof
end

