-- ==== Sys2Proof/Machine/Float.lean ====
section
/-! DEFINITION. The element formats of R264 to R266 and their arithmetic (R86, R87, R267, R271, R273): exact on dyadic
numbers, then one rounding to nearest, ties to even, with subnormals kept. Floating-point values are carried as bits. -/

namespace Sys2Proof

/-- A floating-point number as a value: NaN, infinity, or ± m × 2^e. -/
inductive Fp where
  | nan
  | inf (neg : Bool)
  | fin (neg : Bool) (m : Nat) (e : Int)
  deriving DecidableEq, Repr

/-- A binary floating-point layout: exponent bits, mantissa bits, bias, the code of the largest finite value, and its
canonical NaN (R266, R267). `ieee` is false for E2M1 and E4M3, which have no infinity. -/
structure FpFmt where
  eb   : Nat
  mb   : Nat
  bias : Nat
  maxf : Nat
  qnan : Nat
  ieee : Bool
  deriving DecidableEq, Repr

def fp32 : FpFmt := ⟨8, 23, 127, 0x7F7FFFFF, 0x7FC00000, true⟩
def fp16 : FpFmt := ⟨5, 10, 15, 0x7BFF, 0x7E00, true⟩
def bf16 : FpFmt := ⟨8, 7, 127, 0x7F7F, 0x7FC0, true⟩
def e5m2 : FpFmt := ⟨5, 2, 15, 0x7B, 0x7F, true⟩
def e4m3 : FpFmt := ⟨4, 3, 7, 0x7E, 0x7F, false⟩
def e2m1 : FpFmt := ⟨2, 1, 1, 0x7, 0, false⟩

/-- The value of a code of a layout (R266). E2M1 has no NaN; E4M3 has one code of each sign. -/
def FpFmt.value (f : FpFmt) (b : Nat) : Fp :=
  let m := bits b 0 f.mb
  let e := bits b f.mb f.eb
  let s := bitOf b (f.mb + f.eb)
  let top := 2 ^ f.eb - 1
  if f.ieee && e == top then (if m = 0 then .inf s else .nan)
  else if f == e4m3 && e == top && m == 7 then .nan
  else if e = 0 then .fin s m (1 - (f.bias : Int) - f.mb)
  else .fin s (2 ^ f.mb + m) ((e : Int) - f.bias - f.mb)

/-- `m / 2^k` to the nearest integer, ties to even. -/
def rneShift (m k : Nat) : Nat :=
  let q := m / 2 ^ k
  let r := m % 2 ^ k
  if 2 * r > 2 ^ k || (2 * r == 2 ^ k && q % 2 == 1) then q + 1 else q

/-- The sign bit of a layout as a number. -/
def FpFmt.sgn (f : FpFmt) (neg : Bool) : Nat := if neg then 2 ^ (f.mb + f.eb) else 0

/-- The code of ± m × 2^e rounded with the layout's mantissa and an exponent range unbounded above. It exceeds `maxf`
exactly when the rounded magnitude exceeds the largest finite value. -/
def FpFmt.magCode (f : FpFmt) (m : Nat) (e : Int) : Nat :=
  if m = 0 then 0
  else
    let len : Int := (Nat.log2 m : Int) + 1
    let minq : Int := 1 - (f.bias : Int) - f.mb
    let q : Int := max (e + len - 1 - f.mb) minq
    let n := if q ≤ e then m * 2 ^ (e - q).toNat else rneShift m (q - e).toNat
    (q - minq).toNat * 2 ^ f.mb + n

/-- The code of infinity, where the layout has one. -/
def FpFmt.infCode (f : FpFmt) : Nat := (2 ^ f.eb - 1) * 2 ^ f.mb

/-- RNE32 and the other IEEE roundings: overflow goes to infinity (R86). -/
def FpFmt.round (f : FpFmt) (x : Fp) : Nat :=
  match x with
  | .nan => f.qnan
  | .inf s => f.sgn s + f.infCode
  | .fin s m e =>
    let c := f.magCode m e
    f.sgn s + (if f.maxf < c then f.infCode else c)

/-- Exact product. -/
def Fp.mul (x y : Fp) : Fp :=
  match x, y with
  | .nan, _ => .nan
  | _, .nan => .nan
  | .inf s, .inf t => .inf (s != t)
  | .inf s, .fin t m _ => if m = 0 then .nan else .inf (s != t)
  | .fin s m _, .inf t => if m = 0 then .nan else .inf (s != t)
  | .fin s m e, .fin t n d => .fin (s != t) (m * n) (e + d)

/-- ± m at the scale 2^e as an integer. -/
def sgnInt (neg : Bool) (m : Nat) : Int := if neg then -(m : Int) else (m : Int)

/-- Exact sum. A sum of opposite values is +0, a sum of two negative zeros is −0. -/
def Fp.add (x y : Fp) : Fp :=
  match x, y with
  | .nan, _ => .nan
  | _, .nan => .nan
  | .inf s, .inf t => if s = t then .inf s else .nan
  | .inf s, .fin _ _ _ => .inf s
  | .fin _ _ _, .inf t => .inf t
  | .fin s m e, .fin t n d =>
    let l := min e d
    let z := sgnInt s (m * 2 ^ (e - l).toNat) + sgnInt t (n * 2 ^ (d - l).toNat)
    if z = 0 then .fin (s && t) 0 l else .fin (decide (z < 0)) z.natAbs l

/-- Negation. -/
def Fp.neg (x : Fp) : Fp :=
  match x with
  | .nan => .nan
  | .inf s => .inf (!s)
  | .fin s m e => .fin (!s) m e

/-- Quotient with a sticky bit below 64 quotient bits, so that one rounding of it is the rounding of the exact quotient. -/
def Fp.div (x y : Fp) : Fp :=
  match x, y with
  | .nan, _ => .nan
  | _, .nan => .nan
  | .inf _, .inf _ => .nan
  | .inf s, .fin t _ _ => .inf (s != t)
  | .fin s _ _, .inf t => .fin (s != t) 0 0
  | .fin s m e, .fin t n d =>
    if n = 0 then (if m = 0 then .nan else .inf (s != t))
    else
      let k := 64 + Nat.log2 n
      let q := m * 2 ^ k / n
      let r := m * 2 ^ k % n
      .fin (s != t) (2 * q + (if r = 0 then 0 else 1)) (e - d - k - 1)

/-- The value of FP32 bits. -/
def fval (b : Nat) : Fp := fp32.value b

/-- RNE32 (R86). -/
def rne32 (x : Fp) : Nat := fp32.round x

/-- RNE32 of a product of FP32 bits. -/
def fmul (a b : Nat) : Nat := rne32 (Fp.mul (fval a) (fval b))

/-- RNE32 of a sum of FP32 bits. -/
def fadd (a b : Nat) : Nat := rne32 (Fp.add (fval a) (fval b))

/-- RNE32 of a difference of FP32 bits. -/
def fsub (a b : Nat) : Nat := rne32 (Fp.add (fval a) (Fp.neg (fval b)))

/-- RNE32 of a quotient of FP32 bits. -/
def fdiv (a b : Nat) : Nat := rne32 (Fp.div (fval a) (fval b))

/-- FP32 bits with the sign inverted; a NaN becomes canonical. -/
def fneg (a : Nat) : Nat := rne32 (Fp.neg (fval a))

/-- The value of an integer. -/
def Fp.ofInt (z : Int) : Fp := .fin (decide (z < 0)) z.natAbs 0

/-- RNE32 of an integer. -/
def fOfInt (z : Int) : Nat := rne32 (.fin (decide (z < 0)) z.natAbs 0)

/-- The integer square root below 2^k, bit by bit. -/
def isqrt (k r x : Nat) : Nat :=
  match k with
  | 0 => r
  | n + 1 => isqrt n (if (r + 2 ^ n) * (r + 2 ^ n) ≤ x then r + 2 ^ n else r) x

/-- Square root as R606 needs it: 2 × ⌊√(m × 4^k)⌋ plus a sticky bit, so that one rounding of it rounds the exact root. -/
def fsqrt (a : Nat) : Nat :=
  match fval a with
  | .nan => fp32.qnan
  | .inf s => if s then fp32.qnan else fp32.infCode
  | .fin s m e =>
    if m = 0 then a
    else if s then fp32.qnan
    else
      let odd := e % 2
      let m1 := m * 2 ^ odd.toNat * 2 ^ 64
      let r := isqrt 48 0 m1
      rne32 (.fin false (2 * r + (if r * r = m1 then 0 else 1)) ((e - odd) / 2 - 32 - 1))

def isNan (b : Nat) : Bool := decide (fval b = .nan)
def isInf (b : Nat) : Bool := b % 2 ^ 31 == 0x7F800000
def isFinite (b : Nat) : Bool := b % 2 ^ 31 < 0x7F800000

/-- The place of FP32 bits that are no NaN in the order of R108: −0 equals +0, infinities at the ends. -/
def ford (b : Nat) : Int := sgnInt (bitOf b 31) (b % 2 ^ 31)

/-- The magnitude of FP32 bits. -/
def fabs (b : Nat) : Nat := b % 2 ^ 31

def f32One : Nat := 0x3F800000
def f32Inf : Nat := 0x7F800000

/-! ## Element formats -/

/-- Width in bits of a format code (R264). -/
def fmtWidth (fmt : Nat) : Nat :=
  if fmt = 1 || fmt = 2 then 4 else if fmt = 3 || fmt = 4 || fmt = 5 then 8
  else if fmt = 6 || fmt = 7 then 16 else if fmt = 8 || fmt = 9 then 2 else if fmt = 10 then 1 else 8

/-- Is the format an integer format (R265)? -/
def fmtInt (fmt : Nat) : Bool := fmt = 1 || fmt = 3 || fmt = 8 || fmt = 9 || fmt = 10

/-- The layout of a floating-point format code. -/
def fmtFp (fmt : Nat) : FpFmt :=
  if fmt = 2 then e2m1 else if fmt = 4 then e4m3 else if fmt = 5 then e5m2 else if fmt = 6 then bf16 else fp16

/-- The integer an element of an integer format stands for (R265). -/
def elemInt (fmt c : Nat) : Int :=
  if fmt = 10 then (c % 2 : Nat)
  else if fmt = 9 then (if c % 4 = 1 then 1 else if c % 4 = 3 then -1 else 0)
  else signed (fmtWidth fmt) c

/-- The FP32 bits of an element: exact for every format (R87). -/
def elemF32 (fmt c : Nat) : Nat :=
  if fmtInt fmt then fOfInt (elemInt fmt c) else rne32 ((fmtFp fmt).value c)

/-- QMAX of R265 and R266, none for BIN, BF16 and FP16. -/
def qmax (fmt : Nat) : Option Nat :=
  if fmt = 8 || fmt = 9 then some 1 else if fmt = 1 then some 7 else if fmt = 3 then some 127
  else if fmt = 2 then some 6 else if fmt = 4 then some 448 else if fmt = 5 then some 57344 else none

/-- An FP32 value to the nearest integer, ties to even. -/
def roundInt (neg : Bool) (m : Nat) (e : Int) : Int :=
  sgnInt neg (if 0 ≤ e then m * 2 ^ e.toNat else rneShift m (-e).toNat)

/-- Conversion of FP32 bits to a format, and whether it counts as a clip (R273). -/
def convert (fmt u : Nat) : Nat × Bool :=
  if fmt = 10 then
    match fval u with
    | .nan => (0, true)
    | .inf s => (b2n (!s), false)
    | .fin s m _ => (b2n (!s || m = 0), false)
  else if fmtInt fmt then
    let w := fmtWidth fmt
    let hi : Int := if fmt = 9 then 1 else (2 ^ (w - 1) - 1 : Nat)
    let lo : Int := if fmt = 9 then -1 else -((2 ^ (w - 1) : Nat) : Int)
    match fval u with
    | .nan => (0, true)
    | .inf s => (unsigned w (if s then lo else hi), true)
    | .fin s m e =>
      let z := roundInt s m e
      if z < lo then (unsigned w lo, true) else if hi < z then (unsigned w hi, true) else (unsigned w z, false)
  else
    let f := fmtFp fmt
    match fval u with
    | .nan => (f.qnan, fmt = 2)
    | .inf s => (f.sgn s + (if f.ieee then f.infCode else f.maxf), !f.ieee)
    | .fin s m e =>
      let c := f.magCode m e
      if f.maxf < c then (f.sgn s + (if f.ieee then f.infCode else f.maxf), true) else (f.sgn s + c, false)

/-- Element `n` of a packed vector (R268). -/
def elemAt (fmt : Nat) (bs : List Byte) (n : Nat) : Nat :=
  let w := fmtWidth fmt
  if w = 16 then leAt bs (2 * n) 2
  else
    let k := 8 / w
    bits (leAt bs (n / k) 1) (w * (n % k)) w

/-- Packs elements of width `w` into bytes from the least significant bit (R268). -/
def packElems (w : Nat) (n : Nat) (es : List Nat) : List Byte :=
  leBytes (ceilDiv (n * w) 8) (es.foldr (fun e acc => e % 2 ^ w + 2 ^ w * acc) 0)

end Sys2Proof
end

