-- ==== Sys2Proof/Config.lean ====
section
/-! DEFINITION. What the spec leaves open as a value, and the cryptographic functions the spec only names. Each is an
opaque constant: nothing in Lean can prove a value of it, so a statement holds for every value (assumption log 9). -/

namespace Sys2Proof

/-- A value the spec does not state, drawn by a step from the counter `State.free` (log 9). -/
opaque Config.freeValue : Nat → Nat

/-- The exp of the online softmax (R137): deterministic and within one unit in the last place, its bits not stated. -/
opaque Config.expBits : Nat → Nat

/-- The bytes an SPDM signature or certificate chain carries (R570); the spec names the algorithms only. -/
opaque Config.spdmBytes : Nat → List Byte → List Byte

/-- UDS, the 256-bit unique device secret in the fuses (R568); no command reads it (R569). -/
opaque Config.uds : List Byte

/-- The score a RERANK plan gives a candidate (R106), a function of the plan, the query input, the vector ID, the exact
distance and the full vector; the plan's own data decides it. -/
opaque Config.rerankScore : Nat → List Byte → Nat → Nat → List Byte → Nat

/-- The FP32 elements an ENCODE plan makes of an input (R90), a function of the plan and the input. -/
opaque Config.encodeOutput : Nat → List Byte → Nat → List Nat

/-- The output bytes of a COMPUTE plan (R364): what its program makes of its input and of the memories it reads, so a fresh
value for each draw, plan and input. -/
opaque Config.runOutput : Nat → Nat → List Byte → List Byte

/-- The gather tables that an IODECL section names, to read or to write (R337); the spec gives the section no layout (log 122). -/
opaque Config.ioTables : List Byte → Bool → List Nat

/-- The LDPC parity of a sector's data and metadata (R167); the spec gives its size and not the code. -/
opaque Config.ldpcParity : List Byte → List Byte

/-- Spare rows of a bank of a channel (R456); the spec gives no number (log 5). -/
opaque Config.bankSpareRows : Nat

/-- Bytes of a class that a port's ingress buffer holds (R357); the spec gives no size (log 38). -/
opaque Config.ingressBytes : Nat

end Sys2Proof
end

