-- ==== Sys2Proof/Machine/State.lean ====
section
/-! DEFINITION. The state of the block as plain data, what can stop it, and the state after reset. Every register of the
register map has its one home in `State.regs`; the structures below hold the rest of what the spec gives the node. -/

namespace Sys2Proof.Machine

/-- Why the block would stop with a fault. It never does: a host error (R13) and every other outcome the spec calls unpredictable
leaves the node running (R12; log 94), and a write or event at a unit the part lacks is ignored or cannot happen (R9, R534; log 12). -/
inductive Fault where
  deriving DecidableEq, Repr

/-- Why the block has no meaning for a command. -/
inductive Refusal where
  /-- The command has no meaning in this model yet. Raised by Dispatch.lean only. Safe. -/
  | notModelled (mnemonic : String)
  deriving DecidableEq, Repr

/-! ## Fuses, power and boot -/

/-- What the fuses hold (R549, R550, R564, R566) and the variant of the part (R1). -/
structure Hw where
  variant     : Variant
  dieRev      : Nat
  serial      : Nat
  rootRevoked : Nat
  rootDigests : List (List Byte)
  arbFuse     : Nat
  deriving DecidableEq, Repr

/-- Where the node is between rails off and service (R579, R584). `stopped` is the reset in which it holds itself after a flush on
hold-up energy or a thermal trip (R491, R605). -/
inductive Phase where
  | off | held | stage1 | verified | running | failed | recovery | standby | stopped
  deriving DecidableEq, Repr

/-- Why the write buffer is being flushed (R207, R208, R605, R574, R581). -/
inductive FlushWhy where
  | perst | watchdog (src : Nat) | holdup | thermal | recover | standby | idle2 | mgmtReset
  deriving DecidableEq, Repr

/-- Pins, clocks and the power phase. `heldAt` is the µs at which the brownout hold began; `bootStalled` says that VWARN stops the
power-up stages (R599). -/
structure Power where
  phase       : Phase
  perst       : Bool
  refclk      : Bool
  vwarn       : Bool
  vwRecover   : Bool
  heldAt      : Nat
  bootStalled : Bool
  holdupOk    : Bool
  huFails     : Nat
  thermtrip   : Bool
  flushing    : Option FlushWhy
  wdSrc       : Nat
  cause       : Nat
  resets      : Nat
  stepRdyLow  : Bool
  stepGo      : Bool
  deriving DecidableEq, Repr

/-- The boot flash device (R560) and the running image. -/
structure Boot where
  flash : Tbl Byte
  image : Option BootImage
  deriving DecidableEq, Repr

/-! ## Memory -/

/-- The memories: HBM keyed by channel × 2^32 + offset in the channel (R327), core stores keyed by core × 2^21 + byte
(R246), commons keyed by die × 2^26 + byte (R249). Poison and fill bits are per 64-byte line (R453, R247): the tables
list the lines that carry them. `checks` holds the check values of 4 KiB granules (R449). -/
structure Mem where
  hbm           : Tbl Byte
  hbmPoison     : Tbl Bool
  store         : Tbl Byte
  storePoison   : Tbl Bool
  storeFilled   : Tbl Bool
  commons       : Tbl Byte
  commonsPoison : Tbl Bool
  checks        : Tbl Nat
  checkLaddr    : Tbl Nat
  deriving DecidableEq, Repr

/-- An allocated interval: first row or byte, and length. -/
structure Span where
  base : Nat
  len  : Nat
  deriving DecidableEq, Repr

/-- A retired extent waiting for the queries that read its generation (R73): list, generation, channel, spans and the
record numbers dropped with it. -/
structure Retired where
  list  : Nat
  gen   : Nat
  ch    : Nat
  spans : List Span
  areas : List Span
  index : Nat
  recs  : List Nat
  deriving DecidableEq, Repr

/-- Allocation of channel rows and of the interleaved area, and the state of rows (R456). `rows` is keyed by channel;
`ceRows` and `gone` by channel × 2^32 + row; `bankSpares` by channel × 32 + bank, counting spare rows used. -/
structure Alloc where
  rows       : Tbl (List Span)
  areas      : List Span
  retired    : List Retired
  ceRows     : Tbl Nat
  gone       : Tbl Bool
  bankSpares : Tbl Nat
  deadCh     : Tbl Bool
  deriving DecidableEq, Repr

/-! ## Indexes -/

/-- STATE of an index descriptor (R41). -/
inductive IdxState where
  | free | building | active | detached | deleting
  deriving DecidableEq, Repr

/-- An index descriptor (R40). `c` holds the creation fields with the zero defaults applied; `charged` says that the owner is
charged for it, and not the node reserve (R331, R583). -/
structure Desc where
  st        : IdxState
  c         : CreateFields
  coarse0   : Nat
  epoch     : Nat
  coarseadr : Nat
  fineadr   : Nat
  projadr   : Nat
  scaleadr  : Nat
  diradr    : Nat
  live      : Nat
  splan     : Nat
  uplan     : Nat
  sealValid : Bool
  sealSeq   : Nat
  sealDig   : List Byte
  skipedge  : Nat
  mdefer    : Nat
  sdefer    : Nat
  sidefull  : Nat
  charged   : Bool
  deriving DecidableEq, Repr

/-- List states (R51). -/
inductive ListState where
  | free | active | forward | dead
  deriving DecidableEq, Repr

/-- A list header (R50). -/
structure Hdr where
  st     : ListState
  home   : Nat
  copy   : Bool
  gen    : Nat
  mbase  : Nat
  mcount : Nat
  mcap   : Nat
  sbase  : Nat
  scount : Nat
  scap   : Nat
  tombs  : Nat
  succ   : Nat
  fepoch : Nat
  owner  : Nat
  mcopy  : Nat
  scopy  : Nat
  deriving DecidableEq, Repr

/-- An adjacency record (R64): neighbours with their FP16 centroid distances. -/
structure Adj where
  aepoch : Nat
  nbs    : List (Nat × Nat)
  deriving DecidableEq, Repr

/-- DST of a directory entry (R58). -/
inductive Dst where
  | empty | live | deleted
  deriving DecidableEq, Repr

/-- A directory entry (R58). -/
structure DirEnt where
  list : Nat
  fp   : Nat
  dst  : Dst
  deriving DecidableEq, Repr

/-- The structures of the indexes that the elders keep. Keys: `desc` by index number, `hdr` and `adj` by list ID, `mask`
by coarse number, `dir` by index × 2^36 + bucket × 16 + entry, `recs` by index × 2^48 + record number (in use).
Their bytes stand in HBM as `tableByte` gives them, and their poison is that of their lines there. `deferred` lists the lists whose merge
waits for an extent of their channel (R74). -/
structure Idx where
  desc      : Tbl Desc
  hdr       : Tbl Hdr
  adj       : Tbl Adj
  mask      : Tbl W64
  dir       : Tbl DirEnt
  recs      : Tbl Bool
  changed   : Tbl Bool
  deferred  : List Nat
  groupMask : Tbl Nat
  deriving DecidableEq, Repr

/-! ## Tenants, plans, leases, requests -/

/-- The progress categories (R461). -/
structure Progress where
  commit  : Nat
  replay  : Nat
  lost    : Nat
  stall   : Nat
  ballast : Nat
  idle    : Nat
  deriving DecidableEq, Repr

/-- A tenant: limits and present use (R330), class (R32), rates with their token buckets in bits (R391, R394, R395),
accounts (R483, R462) and transport statistics (R398, R409); `hwm` holds its residence marks by port × 8 + class. -/
structure Tenant where
  limit    : QuotaRec
  used     : QuotaRec
  resident : Bool
  rate     : RateRec
  ptokens  : Nat
  stokens  : Nat
  poldrop  : Nat
  shaped   : Nat
  hwm      : Tbl Nat
  energy   : Nat
  held     : Nat
  prog     : Progress
  deriving DecidableEq, Repr

/-- A loaded plan (R290): its owner (0xFFFF for SYSTEM), the pack it came with, and its header. `window` is the largest
100 µs window measured over its last 64 steps (R317), newest first; `areas` the HBM addresses of its sections; `usesRm` says that a
stream of it has used the running-maximum slots (R282). -/
structure Plan where
  owner  : Nat
  pack   : Nat
  hdr    : PlanHdr
  areas  : List Nat
  window : List Nat
  usesRm : Bool
  deriving DecidableEq, Repr

/-- The load in progress (R291): its submission queue, first plan number and owner, the bytes received so far, and the area of the node
reserve where they are staged. -/
structure Load where
  fn    : Nat
  q     : Nat
  first : Nat
  owner : Nat
  bytes : List Byte
  area  : Nat
  deriving DecidableEq, Repr

/-- A search result record before encoding (R112 to R114). -/
structure SearchRec where
  status   : Status
  tieAtK   : Bool
  widened  : Bool
  reranked : Bool
  partial_ : Bool
  k        : Nat
  ties     : Nat
  index    : Nat
  tenant   : Nat
  epoch    : Nat
  wlevel   : Nat
  failed   : Nat
  lists    : Nat
  poisoned : Nat
  nans     : Nat
  skipped  : Nat
  passed   : Nat
  cands    : Nat
  steptag  : Nat
  qtag     : Nat
  entries  : List TkEntry
  deriving DecidableEq, Repr

/-- Where a slot of a list lies: main or side extent, and its number there (R53). -/
structure SlotAt where
  side : Bool
  slot : Nat
  deriving DecidableEq, Repr

/-- A candidate: Hamming distance and order key, ID, record, the list scanned with its header, and the slot (R94 to R97). -/
structure Cand where
  ham  : Nat
  okey : Nat
  vid  : Nat
  rec_ : Nat
  list : Nat
  hdr  : Hdr
  at_  : SlotAt
  deriving DecidableEq, Repr

/-- What the scans of a query have gathered: lists scanned with their rank, in order; their generations; their heaps; counts. -/
structure Scan where
  lists    : List (Nat × Nat)
  gens     : List (Nat × Nat)
  cands    : List Cand
  poisoned : Nat
  passed   : Nat
  skipped  : Nat
  deriving DecidableEq, Repr

/-- A SEARCH between stage 3 and stage 8 (R24, R25): the probed lists that are not scanned yet, each with its rank, the first rank not in use,
and what the scans have gathered. -/
structure Look where
  todo : List (Nat × Nat)
  next : Nat
  scan : Scan
  deriving DecidableEq, Repr

/-- The kinds of tenant request (R362, R521). -/
inductive ReqOp where
  | search | insert | upsert | delete | run
  deriving DecidableEq, Repr

/-- Where an accepted request stands. -/
inductive ReqState where
  | queued | running | sideWait | admitWait | dataWait | ownerWait
  deriving DecidableEq, Repr

/-- An accepted request that has not completed. `gens` are the list generations its scan read (R73, R431), `qAt` the µs at which it
queued on its lease (R302). `errs` is what the array reads of a unit read in for it would find (R191), `capWait` says that it waits for the
cap of the write buffer (R206); `look` is a SEARCH whose lists are being scanned. -/
structure Req where
  id      : Nat
  src     : ReqSrc
  op      : ReqOp
  tenant  : Nat
  epoch   : Nat
  plan    : Nat
  index   : Nat
  body    : List Byte
  st      : ReqState
  lease   : Nat
  result  : Option SearchRec
  gens    : List (Nat × Nat)
  qAt     : Nat
  forwarded : Bool
  errs    : List ReadErr
  capWait : Bool
  look    : Option Look
  deriving DecidableEq, Repr

/-- What the step controller keeps of one array of a checked tile (R457): position, core, array, the tile's place in the
run, its tag and format, whether it passed, the drained accumulators (they are compared bit for bit, so they stand for their
digest) with the cells to skip (R243), and the checksum cells. -/
structure TileFail where
  pos   : Nat
  core  : Nat
  array : Nat
  tile  : Nat
  tag   : Nat
  fmt   : Nat
  pass  : Bool
  accs  : List Int
  skip  : List Bool
  cells : List Int
  deriving DecidableEq, Repr

/-- A gather-table row as bytes with the poison of its lines: staged by a scatter (R347), or as it stood (R341). -/
structure Staged where
  table  : Nat
  row    : Nat
  bytes  : List Byte
  pois   : List Bool
  deriving DecidableEq, Repr

/-- One input of a scatter (R347): lease position, table, row, ADD or OVERWRITE, its bytes with the poison of its lines, and
for a row whose home is another member its value there. -/
structure ScatIn where
  pos    : Nat
  table  : Nat
  row    : Nat
  add    : Bool
  bytes  : List Byte
  pois   : List Bool
  base   : Option Staged
  deriving DecidableEq, Repr

/-- What the node holds of a step that was measured (R317, R318): step cycles advanced, wall cycles, stall cycles by cause 1 to 9,
rendezvous that stalled, energy in µJ, the largest 100 µs window in µJ, and for each position its step cycles and its frozen core
cycles by counter: fill, drain, hold, lease (R236). -/
structure Meas where
  adv   : Nat
  wall  : Nat
  stall : List Nat
  nrdvl : Nat
  emeas : Nat
  peak  : Nat
  cyc   : List Nat
  frz   : List (List Nat)
  deriving DecidableEq, Repr

/-- A step of a lease. `fails` are the failing arrays of the present run, `prevFails` those of the run before, `third` all
checked arrays of a third run; `waitB` are the positions that wait for a core B (R457, R458). `runsAdv` are the core cycles
advanced in runs whose result does not stand, `advRun2` those of the second run, `frz` the frozen core cycles. `before` keeps table
rows that other leases have since overwritten (R341), `arms` the branches taken (R311), and `errs` what the array reads of
its searches find (R102, R170). `rdvDone` are the rendezvous passed in the
present run, `rdvFroze` those that froze the lease, and `wasHeld` says that an energy hold took effect (R308, R310). `rm2` keeps the step
maxima of the second run and `rmax` those of the run whose result stands, by position, keyed by array × 16 + slot (R281). -/
structure Step where
  seq      : Nat
  epoch    : Nat
  run      : Nat
  reqs     : List Nat
  status   : Status
  ended    : Bool
  fails    : List TileFail
  prevFails : List TileFail
  third    : List TileFail
  waitB    : List Nat
  admitwait : Nat
  runsAdv  : Nat
  advRun2  : Nat
  frz      : Nat
  meas     : Option Meas
  staged   : List ScatIn
  before   : List Staged
  arms     : List Bool
  errs     : List ReadErr
  rdvDone  : List Nat
  rdvFroze : List Nat
  wasHeld  : Bool
  rm2      : List (Tbl Nat)
  rmax     : List (Tbl Nat)
  provSent : Bool
  replayed : Bool
  resident : Bool
  group    : Bool
  deriving DecidableEq, Repr

/-- States of a lease (R298, R300, R303). -/
inductive LeaseState where
  | waiting | open_ | closing
  deriving DecidableEq, Repr

/-- A lease (R298 to R305). `cores` lists the core of each position; `ctxBase` the bramble context base of the stack, leaf,
die and node stages; `queue` the requests that wait; `step` is the running
step, `past` the steps that have ended and whose result does not stand yet; `nextGroup` says that the barrier has released
its next step (R302). `closeReq` is the host command that closes it. `resident` is the class it was admitted in (R32). `held` says that
the planner or a brownout holds it and `frozen` that it is frozen at a rendezvous (R308, R310). `kv` lists the rows of its pinned KV
cache by channel (R31, R139). -/
structure Lease where
  plan     : Nat
  owner    : Nat
  prio     : Nat
  maint    : Bool
  st       : LeaseState
  arrival  : Nat
  overdue  : Bool
  cores    : List Nat
  nbuBase  : Nat
  ctxBase  : List Nat
  qBase    : Nat
  queue    : List Nat
  batchOk  : Bool
  nextSeq  : Nat
  step     : Option Step
  past     : List Step
  totals   : List Nat
  held     : Bool
  frozen   : Bool
  nextGroup : Bool
  resident : Bool
  kv       : List (Nat × Span)
  hbmSpan  : Option Span
  comSpan  : Option Span
  closeReq : Option HostHdr
  deriving DecidableEq, Repr

/-- A step record (R318). -/
structure StepRec where
  steptag   : Nat
  plan      : Nat
  status    : Status
  exceed    : Bool
  reexec    : Bool
  replay    : Bool
  prov      : Bool
  tenant    : Nat
  adv       : Nat
  wall      : Nat
  stall     : List Nat
  emeas     : Nat
  edecl     : Nat
  nrdvl     : Nat
  admitwait : Nat
  nreq      : Nat
  tordv     : Nat
  deriving DecidableEq, Repr

/-- The plans, leases and requests of the node, the pool, host and peer reads outstanding, by core and identifier, oldest
first (R325), and the step log (R318) with the host's read mark. -/
structure Work where
  tenants   : Tbl Tenant
  plans     : Tbl Plan
  packs     : Tbl (List Byte)
  load      : Option Load
  leases    : Tbl Lease
  reqs      : List Req
  nextReq   : Nat
  reads     : List (Nat × Nat)
  arrivals  : Nat
  stepLog   : List StepRec
  stepUnread : Nat
  nodeTotals : List Nat
  deriving DecidableEq, Repr

/-! ## Near-bank units -/

/-- A heap entry of a currant (R134). -/
structure HeapEnt where
  d     : Nat
  pos   : Nat
  eline : Nat
  eword : Nat
  deriving DecidableEq, Repr

/-- Slot states (R123) as the currant's own record of what runs. -/
inductive RunState where
  | idle | run | paused
  deriving DecidableEq, Repr

/-- A currant (R120): the running slot's registers, the per-currant items with their poison, the GO groups waiting
(R125), refresh (R144) and the corrected-error interval (R155). `buf` are B0 to B3; poison lists are per 64-byte line of
a buffer or V, and per entry of S and O. `sInt` says of each entry of the S file whether it holds an INT32 accumulation (R137).
`lastRdl` is the row that the last RDL left open, and whether its open met an uncorrectable error (R119, R148). -/
structure Currant where
  rs       : RunState
  slot     : Nat
  pc       : Nat
  a        : List Nat
  c        : List Nat
  scanpos  : Nat
  side     : Bool
  limit    : Nat
  groups   : List (List Nat)
  group    : List Nat
  lastLease : Nat
  refDue   : Bool
  buf      : List (List Byte)
  bufPois  : List (List Bool)
  ps       : Nat
  psPois   : Bool
  heap     : List HeapEnt
  v        : List Byte
  vPois    : List Bool
  sf       : List W32
  sPois    : List Bool
  sInt     : List Bool
  of_      : List W32
  oPois    : List Bool
  m        : W32
  l        : W32
  mlPois   : Bool
  accPois  : Bool
  passcnt  : Nat
  poiscnt  : Nat
  rowops   : Nat
  pausec   : Nat
  qwait    : Nat
  confw    : Nat
  ovf      : Bool
  spois    : Bool
  ceCount  : Nat
  ceWarned : Bool
  lastRdl  : Option (Nat × Bool)
  deriving DecidableEq, Repr

/-! ## Cores and merge units -/

/-- A running-maximum slot of an array (R278): history newest first, seed, gain of the current step, maximum of the
current step, whether it drained, the snapshot of the step, its OFMT, and the gain of the original execution that a later run of the
step uses (R283). All FP32 bits. -/
structure RmSlot where
  hist    : List Nat
  seed    : Nat
  gain    : Nat
  cur     : Nat
  drained : Bool
  snap    : List Nat
  ofmt    : Nat
  kept    : Option Nat
  deriving DecidableEq, Repr

/-- A top-k unit: a core selector or a bramble context (R250, R253). -/
structure Topk where
  cap     : Nat
  maxMode : Bool
  held    : List TkEntry
  ties    : Nat
  nans    : Nat
  dups    : Nat
  ups     : List Trailer
  deriving DecidableEq, Repr

/-- A core (R226): accumulators of its four arrays with saturation and poison per cell and the checksum cells, the last
tile's DRAIN (R229), running-maximum slots keyed by array × 16 + slot, current slots, the tiles of the run so far, selector,
outstanding fills, the instruction that waits on an EMPTY line (R234), whether the core is gated (R493), and the step cycle from which
its feeders take the next tile (R237, R296). -/
structure Core where
  acc      : List (List Int)
  accPois  : List (List Bool)
  accSat   : List (List Bool)
  chkCells : List (List Int)
  lastDrain : Option Nat
  rm       : Tbl RmSlot
  curSlot  : List Nat
  tileNo   : Nat
  sel      : Option Topk
  fills    : List Xfer
  waiting  : List Instr
  gated    : Bool
  feedUntil : Nat
  deriving DecidableEq, Repr

/-- The cores and merge units. `brm` is keyed by unit × 4 + context. `compWin` and `chkWin` keep, for each core, how many
steps it has run since each of its compute and checker faults (R459). -/
structure Compute where
  cores    : Tbl Core
  brm      : Tbl Topk
  compWin  : Tbl (List Nat)
  chkWin   : Tbl (List Nat)
  deriving DecidableEq, Repr

/-! ## Gather tables -/

/-- An entry of the hot table (R344). -/
structure HotEnt where
  table : Nat
  row   : Nat
  count : Nat
  err   : Nat
  deriving DecidableEq, Repr

/-- Gather tables, the hot table, replicated rows (keyed by table × 2^40 + row, with the base of their copies), decisions that wait for a step boundary
(R345), and the tier counters of R352 in table order. -/
structure Tables where
  descs     : Tbl TableDesc
  hot       : List HotEnt
  replicas  : Tbl Nat
  decisions : List (Nat × Nat × Bool)
  counters  : List Nat
  deriving DecidableEq, Repr

/-! ## Flash -/

/-- A map entry of a unit (R183, R184). `sect` lists the sectors of a split unit that are mapped, with their pages: its
second-level table. Whether the entry reads poisoned (R186) is the poison of its line of HBM. -/
structure MapEnt where
  page   : Nat
  mapped : Bool
  psn    : Bool
  hot    : Bool
  split  : Bool
  sect   : Tbl Nat
  deriving DecidableEq, Repr

/-- The contents of a unit: its bytes that are not zero, and its poisoned 64-byte lines. -/
structure UnitData where
  bytes : Tbl Byte
  pois  : Tbl Bool
  deriving DecidableEq, Repr

/-- A programmed multi-plane page (R168, R183): namespace, unit, write sequence, flags and data. The spare bytes of its sectors follow from
them (`FPage.spare`). -/
structure FPage where
  ns    : Nat
  unit  : Nat
  wseq  : Nat
  slc   : Bool
  hot   : Bool
  moved : Bool
  dat   : UnitData
  deriving DecidableEq, Repr

/-- Stripe states (R187, R197). `system` is the stripe of a channel that holds its superblock, and the journal and the checkpoint of the
two channels chosen for them (R200, R202). -/
inductive StripeState where
  | free | opened | closed | retired | victim | system
  deriving DecidableEq, Repr

/-- A stripe of a channel (R187). -/
structure Stripe where
  st     : StripeState
  slc    : Bool
  next   : Nat
  erases : Nat
  deriving DecidableEq, Repr

/-- A dirty unit of the write buffer (R190): its place in the buffer's region, namespace, unit, channel it is staged for, the page it is
being programmed into, whether a write reached it meanwhile (R192), the sectors that have changed since it was staged or programmed, the
sectors discarded meanwhile (R195), and data. -/
structure WUnit where
  slot  : Nat
  ns    : Nat
  unit  : Nat
  ch    : Nat
  prog  : Option Nat
  dirtyAgain : Bool
  sects : Tbl Bool
  gone  : List Nat
  dat   : UnitData
  deriving DecidableEq, Repr

/-- Journal record types (R201). -/
inductive JType where
  | map | gcmap | gccommit | erased | discard | retire | ckpt | flushend
  deriving DecidableEq, Repr

/-- A journal record (R200). -/
structure JRec where
  jtype   : JType
  sector  : Bool
  ns      : Nat
  jseq    : Nat
  logical : Nat
  newpa   : Nat
  oldpa   : Nat
  deriving DecidableEq, Repr

/-- Where an array read of a FETCH stands: not begun, under way, or done with what it found. -/
inductive PartState where
  | waiting
  | reading
  | done (e : NandEnv)
  deriving DecidableEq, Repr

/-- One page that a FETCH reads (R169, R175): the page, the sectors of it that cover the record, how many bytes of the record lie there, and
where its array read stands. -/
structure FPart where
  page  : Nat
  sects : List Nat
  bytes : Nat
  st    : PartState
  deriving DecidableEq, Repr

/-- A FETCH that its sloe has begun (R171, R174, R175): the query and the record as they stood when it left the dispatcher, whether a line
of the record or of the query is poisoned, whether it takes the fast path, whether part of it comes from the write buffer, whether its
result is to be discarded (R179), and its pages; `ch` is the sloe's channel. -/
structure Fetch where
  d     : SloeDesc
  ch    : Nat
  query : List Byte
  bytes : List Byte
  bad   : Bool
  fast  : Bool
  buf   : Bool
  dead  : Bool
  parts : List FPart
  deriving DecidableEq, Repr

/-- A copy of the superblock (R202): its write sequence number, the physical address of the latest checkpoint (zero for none), the
channels of the journal, and the substitution tables. -/
structure Super where
  wseq  : Nat
  ckpt  : Nat
  jchs  : List Nat
  subst : Tbl Nat
  deriving DecidableEq, Repr

/-- A checkpoint of the whole map (R202) and the first journal sequence number after it. -/
structure Ckpt where
  jseq : Nat
  map  : Tbl MapEnt
  deriving DecidableEq, Repr

/-- What a die of a channel is doing (R166). A read names the FETCH that it belongs to; a program carries the sectors that it maps. -/
inductive DieOp where
  | read (d : SloeDesc) (page : Nat)
  | prog (page ns unit : Nat) (sects : List Nat)
  | erase (stripe : Nat)
  deriving DecidableEq, Repr

/-- A die's array command: whether its status has been polled ready, and the planes whose FAIL bit it showed after a program (R166). -/
structure Die where
  op    : DieOp
  ready : Bool
  fails : List Nat
  deriving DecidableEq, Repr

/-- Collection of a victim under way in a channel (R198): victim stripe, whether its GCCOMMIT is written, and whether it
is a fold. -/
structure Gc where
  victim : Nat
  commit : Bool
  fold   : Bool
  deriving DecidableEq, Repr

/-- The flash side. Keys: `map`, `subs` ns × 2^32 + unit; `pages` by page number (see Machine/FlashOps.lean); `stripes` and
`urgent` by channel × 16,384 + stripe; `gc`, `supers`, `foldOn` and `gcOn` by channel; `spares` (spares left) and `badBlocks` (blocks marked
bad at the factory or retired) by channel × 32 + ce × 4 + plane; `subst` (the block that stands for a block) by that × 16,384 + block; `dies` by
channel × 8 + ce; `nsLen` (units) and `mapArea` (where the first-level entries lie) by namespace; `ckpts` by physical address; `wbRows`
(first row of the write buffer's region) by channel; `qslots` by query slot, with whether a line of the query is poisoned. `subs` gives the
HBM address of a split unit's second-level table, `subFree` the places for more. `journal` holds the two copies of the journal, `jchs` their channels. `urgent` are the victims of priority with the
blocks, as ce × 4 + plane, that are retired without erase (R170, R211); `foldOn` and `gcOn` the channels in which folding and collection
run until their lower marks (R196, R197). -/
structure Flash where
  geom     : Option Geom
  sparesFmt : Nat
  map      : Tbl MapEnt
  mapArea  : Tbl Nat
  subs     : Tbl Nat
  subFree  : List Nat
  nsLen    : Tbl Nat
  pages    : Tbl FPage
  stripes  : Tbl Stripe
  spares   : Tbl Nat
  badBlocks : Tbl (List Nat)
  subst    : Tbl Nat
  dies     : Tbl Die
  gc       : Tbl Gc
  wbuf     : List WUnit
  wbRows   : Tbl Nat
  jchs     : List Nat
  journal  : List JRec × List JRec
  jseq     : Nat
  wseq     : Nat
  sinceCkpt : Nat
  ckpts    : Tbl Ckpt
  supers   : Tbl Super
  qslots   : Tbl (List Byte × Bool)
  disp     : List SloeDesc
  fetches  : List Fetch
  urgent   : Tbl (List Nat)
  foldOn   : Tbl Bool
  gcOn     : Tbl Bool
  deriving DecidableEq, Repr

/-! ## Fabric -/

/-- A reassembly context (R383, R384): traffic class, the message's first packet, the 512-byte chunks that have come, the
bytes that are not zero, and how many bytes the port has staged for it. -/
structure Ctx where
  cls    : Nat
  head   : Msg
  chunks : Tbl Bool
  bytes  : Tbl Byte
  held   : Nat
  deriving DecidableEq, Repr

/-- A frame waiting to leave a port (R392): class, tenant (0xFFFF for SYS), frame bytes, what it carries, and the IPv6 address that it goes
to. -/
structure Egress where
  cls    : Nat
  tenant : Nat
  path   : Nat
  len    : Nat
  at_    : Nat
  msg    : Msg
  offset : Nat
  dip    : Nat
  deriving DecidableEq, Repr

/-- A fabric port: link, PFC pauses by class with the µs they end (R357), egress queues in order, deficits per class and
per class × 65,536 + tenant (R393) with the turns of the round robins, class-shaper tokens in bits, the gate list position and
the ns left of its interval (R396), contexts, messages refused for want of staging, dead list (R385), and bytes staged.
`armed` says that a barrier release awaits its restart of the gate list, `restart` that it waits for the frame being sent. -/
structure Port where
  up       : Bool
  lost     : Bool
  paused   : Tbl Nat
  txPause  : Tbl Bool
  occ      : Tbl Nat
  egress   : List Egress
  cdef     : Tbl Nat
  tdef     : Tbl Nat
  cturn    : Nat
  tturn    : Tbl Nat
  ctokens  : Tbl Nat
  gate     : Nat
  gateLeft : Nat
  armed    : Bool
  restart  : Bool
  sending  : Bool
  ctxs     : List Ctx
  refused  : List (Nat × Nat)
  dead     : List (Nat × Nat)
  staged   : Nat
  deriving DecidableEq, Repr

/-- Connection states (R367). -/
inductive ConnState where
  | closed | open_ | draining | failed
  deriving DecidableEq, Repr

/-- The plan that posted a receive buffer (R374): its lease with that lease's arrival number, the position, and the line that reports it. -/
structure PostedBy where
  lease   : Nat
  arrival : Nat
  pos     : Nat
  line    : Nat
  deriving DecidableEq, Repr

/-- A posted receive buffer (R374, R375): region key, offset, length, generation, index, the SEQ it is granted to, and what
has come of its DATA. -/
structure PostBuf where
  key    : Nat
  offset : Nat
  len    : Nat
  gen    : Nat
  idx    : Nat
  grant  : Option Nat
  filled : Tbl Byte
  chunks : Tbl Bool
  plan   : Option PostedBy
  deriving DecidableEq, Repr

/-- A request the node sent on a connection and keeps until it is acknowledged (R372), with its bulk data. -/
structure Sent where
  seq   : Nat
  mtype : Nat
  tag   : Nat
  msg   : Msg
  tries : Nat
  acked : Bool
  bulk  : List Byte
  deriving DecidableEq, Repr

/-- A request accepted on a connection and not completed (R370, R373, R380, R388): its message, and what it waits for. -/
inductive Wait where
  | none_ | staging | data (buf : Nat) | segs | lock | exec | draining
  deriving DecidableEq, Repr

structure Inflight where
  msg  : Msg
  wait : Wait
  deriving DecidableEq, Repr

/-- A connection (R366 to R372): `unacked` lists the accepted SEQs that no ACK or REPLY has acknowledged, `lastAcc` the
request accepted last, `gens` the generations of the posted buffers by index (R375); `hostWr` says that data has been placed
in host memory since the last FLUSH (R390). -/
structure Conn where
  rec_   : ConnRec
  st     : ConnState
  txSeq  : Nat
  next   : Nat
  held   : List Msg
  infl   : List Inflight
  unacked : List Nat
  lastAcc : Option Msg
  sent   : List Sent
  recv   : List PostBuf
  gens   : Tbl Nat
  cached : Bool
  lru    : Nat
  closing : Bool
  hostWr : Bool
  polAt  : Option Nat
  deriving DecidableEq, Repr

/-- A keyed region with the segments that are present (R377, R380). -/
structure Region where
  rec_    : RegionRec
  present : Tbl Bool
  deriving DecidableEq, Repr

/-- A range-lock entry (R388). `begun` says that its access has been made and, for a READ, that RDATA is leaving. -/
structure RLock where
  conn  : Nat
  seq   : Nat
  slot  : Nat
  base  : Nat
  len   : Nat
  write : Bool
  begun : Bool
  deriving DecidableEq, Repr

/-- How a request completed: by a REPLY, by a NAK, or with no answer but its acknowledgement or data (R360, R370). -/
inductive Answered where
  | reply | nak | ack
  deriving DecidableEq, Repr

/-- A completion of the replay store (R371). -/
structure Replay where
  conn   : Nat
  seq    : Nat
  tag    : Nat
  status : Status
  opc    : Nat
  body   : List Byte
  nodata : Bool
  how    : Answered
  deriving DecidableEq, Repr

/-- A staging buffer in use (R373, R375): the connection and SEQ granted, none when free but with a generation that is
not zero; `pois` says that a line of what it holds is poisoned (R452). -/
structure StBuf where
  gen   : Nat
  owner : Option (Nat × Nat)
  filled : Tbl Byte
  chunks : Tbl Bool
  pois   : Bool
  deriving DecidableEq, Repr

/-- The fabric. `ready` are the messages that have passed reassembly and the sequence window; `missq` the packets waiting for a
connection's state (R368), each with its port in its message; `stWait` and `lockWait` the requests, by connection and SEQ, that
wait for a staging buffer (R373) and for a range-lock entry (R388); `noConnAt` when NO_CONN was last answered (R367). -/
structure Fab where
  ports   : Tbl Port
  conns   : Tbl Conn
  regions : Tbl Region
  ready   : List Msg
  missq   : List Frame
  noConnAt : Tbl Nat
  replay  : List Replay
  staging : Tbl StBuf
  stWait  : List (Nat × Nat)
  locks   : Tbl (List RLock)
  lockWait : List (Nat × Nat)
  msgid   : Nat
  lruClock : Nat
  deriving DecidableEq, Repr

/-! ## Cascade group -/

/-- Member states (R436). -/
inductive MState where
  | absent | joining | active
  deriving DecidableEq, Repr

/-- A member position, or a child group, as the master keeps it (R423, R424, R436); `admitAt` is the round at whose release a joiner
becomes ACTIVE (R438). -/
structure Member where
  st      : MState
  suspect : Bool
  arrived : Option Nat
  lasts   : List Bool
  expelled : Bool
  admitAt : Option Nat
  deriving DecidableEq, Repr

/-- A straggler record (R425). -/
structure StragRec where
  bseq   : Nat
  order  : List Nat
  spread : Nat
  last   : Nat
  susp   : Nat
  arr    : List Nat
  deriving DecidableEq, Repr

/-- A member's record of a group request at the master (R415, R434): its position, the SEQ of the CMD forwarded to it, its record, or
the status that it ended or failed with and the output of a RUN, whether the record is provisional, and the step whose provisional
record has been discarded. -/
structure Part where
  pos     : Nat
  seq     : Option Nat
  rec_    : Option SearchRec
  failed  : Option Status
  out     : List Byte
  prov    : Bool
  discard : Option Nat
  deriving DecidableEq, Repr

/-- A request the master forwarded (R414, R415): `req` is the number of the request it holds for it, `tag` the TAG it forwards. -/
structure GroupReq where
  tag   : Nat
  req   : Nat
  op    : ReqOp
  index : Nat
  parts : List Part
  deriving DecidableEq, Repr

/-- A provisional step a member keeps replay state of (R431): its tag, lease, the step with its requests, the running-maximum
slots of each position as the step found them (R283), the verdict sent, and whether a REPLAY waits for the lease. -/
structure Prov where
  steptag : Nat
  lease   : Nat
  conn    : Nat
  step    : Step
  reqs    : List Req
  rm      : List (Tbl RmSlot)
  verdict : Option Bool
  replay  : Bool
  deriving DecidableEq, Repr

/-- An ownership lease (R430): state object, keeper, lease epoch, and whether this node holds a copy. -/
structure Owner where
  sid    : Nat
  keeper : Nat
  lepoch : Nat
  copy   : Bool
  deriving DecidableEq, Repr

/-- An OWNER query of this node (R430): the object, the keeper named in each live epoch, newest first, and the answers so far: the
node and the lease epoch it claims. `fetch` says that the object has been assigned to this node and its copy is on the way. -/
structure OQuery where
  sid     : Nat
  asked   : List (Nat × Nat)
  answers : List (Nat × Option Nat)
  fetch   : Bool
  deriving DecidableEq, Repr

/-- A route map (R334) under its epoch. -/
structure RMap where
  epoch   : Nat
  entries : List RegionEnt
  deriving DecidableEq, Repr

/-- A ROUTE_MAP that waits for OLD to drain (R426). -/
structure HeldMap where
  h   : HostHdr
  map : RMap
  deriving DecidableEq, Repr

/-- Join sequence of this node (R438): as partner, the joiner that updates are forwarded to; as joiner, whether HELLO has been sent,
the snapshot has ended, CAUGHTUP has been sent, and the round at which it takes part. -/
structure Join where
  joiner  : Option Nat
  waiting : Bool
  snapEnd : Bool
  caught  : Bool
  admitAt : Option Nat
  deriving DecidableEq, Repr

/-- The cascade group (R410 to R438). `detected` says that a round is open, `sentArrive` that the parent's master has had this round's
ARRIVE, and `rdySince` is the µs at which the node detected the release. `verdicts` are the provisional steps that the master awaits a verdict of, with the
member's position; `ignored` the steps whose later verdicts it ignores and `confirmed` those it has had CONFIRM for (R434). -/
structure Cas where
  members  : Tbl Member
  parentGo : Bool
  sentArrive : Bool
  detected : Bool
  children : Tbl Member
  rdySince : Nat
  ring     : List StragRec
  unread   : Nat
  groupReqs : List GroupReq
  provs    : List Prov
  verdicts : List (Nat × Nat)
  ignored  : List Nat
  confirmed : List Nat
  owners   : List Owner
  queries  : List OQuery
  newMap   : Option RMap
  oldMap   : Option RMap
  heldMap  : Option HeldMap
  appliedFrom : List Nat
  remoteRows : List (Nat × Staged)
  join     : Join
  expelled : Bool
  outside  : Bool
  resetWait : Option HostHdr
  stuck    : Bool
  deriving DecidableEq, Repr

/-! ## Integrity, energy, host, management -/

/-- A CPER record (R466, R467). -/
structure Cper where
  code    : Nat
  sev     : Nat
  replace : Bool
  coal    : Bool
  uptime  : Nat
  uaddr   : Nat
  node    : Nat
  tenant  : Nat
  plan    : Nat
  steptag : Nat
  count   : Nat
  rseq    : Nat
  loc     : List Byte
  dat     : List Nat
  quarcnt : Nat
  suspcnt : Nat
  rcause  : Nat
  deriving DecidableEq, Repr

/-- The error ring (R465), oldest first, with the next RSEQ and the two read marks (RSEQ of the oldest unread record). -/
structure Chk where
  ring     : List Cper
  rseq     : Nat
  hostMark : Nat
  secMark  : Nat
  deriving DecidableEq, Repr

/-- The energy planner (R474 to R484). `eplan` in µJ, `factor` in 1/1,000. -/
structure Energy where
  draw     : Nat
  ebase    : Nat
  eplan    : Nat
  admittedNow : Nat
  pcap     : Nat
  pmin     : Nat
  factor   : Tbl Nat
  telFails : Tbl Nat
  heldOrder : List Nat
  vwHeld   : List Nat
  deriving DecidableEq, Repr

/-- A completion or event entry (R519). -/
structure Cqe where
  cid    : Nat
  status : Status
  sqid   : Nat
  sqhead : Nat
  rbytes : Nat
  result : List Byte
  deriving DecidableEq, Repr

/-- A submission queue (R516). `running` lists the commands fetched and not completed, each CID with the head after its
fetch (R519). -/
structure Sq where
  depth   : Nat
  cq      : Nat
  ring    : Nat
  head    : Nat
  tail    : Nat
  enabled : Bool
  running : List (Nat × Nat)
  deriving DecidableEq, Repr

/-- A completion queue (R519, R520): the head the host last wrote, entries not yet taken, entries that wait. -/
structure Cq where
  depth   : Nat
  ring    : Nat
  ien     : Bool
  head    : Nat
  tail    : Nat
  count   : Nat
  phase   : Bool
  enabled : Bool
  waiting : List Cqe
  deriving DecidableEq, Repr

/-- A host command that waits for work to end (R303, R377, R381, R521, R612). -/
inductive HostWait where
  | delSq (fn q : Nat)
  | delIndex (index : Nat)
  | dereg (slot : Nat)
  | segAbsent (slot seg : Nat)
  | setPower (st : Nat)
  deriving DecidableEq, Repr

/-- The host port: queues keyed by function × 64 + queue, VF bindings, HDM commit, event entries waiting (R524). -/
structure HostPort where
  sqs     : Tbl Sq
  cqs     : Tbl Cq
  binds   : Tbl Nat
  evtq    : List Cqe
  waits   : List (HostHdr × HostWait)
  pcieOnly : Bool
  deriving DecidableEq, Repr

/-- SPDM state of a transport (R570): versions asked, capabilities asked, algorithms negotiated, transcript. -/
structure Spdm where
  version : Bool
  caps    : Bool
  algs    : Bool
  transcript : List Byte
  deriving DecidableEq, Repr

/-- The management block: the SPDM state of its transports, and the MSEQ of a WAKE, STANDBY or RECOVER that waits for its response. -/
structure Mgmt where
  doe  : Spdm
  mctp : Spdm
  wakeReq : Option Nat
  stbyReq : Option Nat
  recoverReq : Option Nat
  deriving DecidableEq, Repr

/-- What the node drives on its interfaces. -/
inductive Out where
  /-- A completion or event entry written to a ring (R519): function, queue, slot, PHASE, entry. -/
  | cqe (fn q slot : Nat) (phase : Bool) (e : Cqe)
  /-- Result bytes written at RPTR of a command (R517): function, queue, CID, bytes. -/
  | result (fn q cid : Nat) (bytes : List Byte)
  /-- A frame that begins on a port (R355, R392): port and bytes. -/
  | frame (port : Nat) (bytes : List Byte)
  /-- A PFC frame (R357): port, class, quanta. -/
  | pfc (port cls quanta : Nat)
  /-- A management message (R573): MKIND, MSEQ, status, payload. -/
  | mgmt (kind mseq : Nat) (st : Status) (payload : List Byte)
  /-- An SPDM response (R570): transport, code, payload. -/
  | spdm (tr : SpdmTr) (code : Nat) (payload : List Byte)
  /-- An ONFI command to a die (R164): channel, chip enable, opcode. -/
  | nand (ch ce : Nat) (ops : List Nat)
  /-- A write to host or pool memory (R324): host address, bytes, poisoned lines. -/
  | hostWrite (addr : Nat) (bytes : List Byte) (pois : List Nat)
  /-- A read request to host or pool memory. -/
  | hostRead (addr len : Nat)
  /-- CXL.mem read data with the poison indication (R515). -/
  | memData (bytes : List Byte) (pois : Bool)
  /-- A currant's completion message (R126): TAG, STATUS, PASSCNT, POISCNT. -/
  | nbuDone (ch tag : Nat) (st : Status) (passcnt poiscnt : Nat)
  /-- A currant's progress message (R130 SIGNAL): value and TAG. -/
  | nbuSignal (ch val tag : Nat)
  /-- A heap delivery to the stack stage (R134). -/
  | heap (ch tag : Nat) (entries : List (Nat × Nat × Nat × Nat))
  /-- A sloe result (R177): destination core and its 40 bytes, then element bytes. -/
  | sloe (dest : Nat) (bytes elems : List Byte)
  /-- A host error or another outcome that the spec calls unpredictable (R12, R13): the rule that names it, and the free value that
  stands for what it leaves in what it touches (log 94). Not driven by the node: the model's own mark in the trace. -/
  | unpredictable (rule v : Nat)
  /-- A descriptor that completes with a status and nothing else (R6): core, TAG, status. -/
  | descDone (core tag : Nat) (st : Status)
  /-- A selector's or context's delivery (R252, R254). -/
  | topk (unit ctx : Nat) (entries : List TkEntry) (t : Trailer)
  deriving DecidableEq, Repr

/-- The state of the node. -/
structure State where
  pending : List Instr
  hw      : Hw
  pwr     : Power
  boot    : Boot
  regs    : Tbl W32
  stagedW : Tbl W32
  mem     : Mem
  alloc   : Alloc
  idx     : Idx
  work    : Work
  nbu     : Tbl Currant
  comp    : Compute
  tables  : Tables
  flash   : Flash
  fab     : Fab
  cas     : Cas
  chk     : Chk
  nrg     : Energy
  host    : HostPort
  mgmt    : Mgmt
  uptime  : Nat
  out     : List Out
  free    : Nat
  deriving DecidableEq, Repr

/-! ## Reset -/

/-- Progress totals at zero. -/
def Progress.zero : Progress := ⟨0, 0, 0, 0, 0, 0⟩

/-- A quota record of zeros: a new tenant's limits and use (R330). -/
def QuotaRec.none : QuotaRec := ⟨0, 0, 0, 0, 0, 0, 0, 0, 0, 0, 0, 0⟩

/-- SPDM state before GET_VERSION. -/
def Spdm.reset : Spdm := ⟨false, false, false, []⟩

/-- The state right after cold power-on: rails up, PERST# asserted, everything cleared (R580 column Cold, R584). The
variant and the fuses are assumption log 1; the empty flash is log 6. -/
def State.reset : State where
  pending := []
  hw := ⟨.f, 0, 0, 0, [], 0⟩
  pwr := { phase := .held, perst := true, refclk := true, vwarn := false, vwRecover := false, heldAt := 0, bootStalled := false,
           holdupOk := false, huFails := 0, thermtrip := false, flushing := none, wdSrc := 0, cause := 0, resets := 0,
           stepRdyLow := false, stepGo := false }
  boot := ⟨[], none⟩
  regs := []
  stagedW := []
  mem := ⟨[], [], [], [], [], [], [], [], []⟩
  alloc := ⟨[], [], [], [], [], [], []⟩
  idx := ⟨[], [], [], [], [], [], [], [], []⟩
  work := { tenants := [], plans := [], packs := [], load := none, leases := [], reqs := [], nextReq := 0, reads := [], arrivals := 0,
            stepLog := [], stepUnread := 0, nodeTotals := [0, 0, 0, 0, 0, 0, 0, 0, 0] }
  nbu := []
  comp := ⟨[], [], [], []⟩
  tables := ⟨[], [], [], [], [0, 0, 0, 0, 0, 0, 0, 0, 0, 0, 0]⟩
  flash := { geom := none, sparesFmt := 0, map := [], mapArea := [], subs := [], subFree := [], nsLen := [], pages := [], stripes := [],
             spares := [], badBlocks := [], subst := [], dies := [], gc := [], wbuf := [], wbRows := [], jchs := [], journal := ([], []),
             jseq := 0, wseq := 0, sinceCkpt := 0, ckpts := [], supers := [], qslots := [], disp := [], fetches := [], urgent := [],
             foldOn := [], gcOn := [] }
  fab := { ports := [], conns := [], regions := [], ready := [], missq := [], noConnAt := [], replay := [], staging := [],
           stWait := [], locks := [], lockWait := [], msgid := 0, lruClock := 0 }
  cas := { members := [], parentGo := false, sentArrive := false, detected := false, children := [],
           rdySince := 0, ring := [], unread := 0, groupReqs := [], provs := [], verdicts := [], ignored := [], confirmed := [],
           owners := [], queries := [], newMap := none, oldMap := none, heldMap := none, appliedFrom := [],
           remoteRows := [], join := ⟨none, false, false, false, none⟩, expelled := false, outside := false,
           resetWait := none, stuck := false }
  chk := ⟨[], 0, 0, 0⟩
  nrg := { draw := 0, ebase := 0, eplan := 0, admittedNow := 0, pcap := 0, pmin := 0, factor := [], telFails := [],
           heldOrder := [], vwHeld := [] }
  host := ⟨[], [], [], [], [], false⟩
  mgmt := ⟨Spdm.reset, Spdm.reset, none, none, none⟩
  uptime := 0
  out := []
  free := 0

end Sys2Proof.Machine
end

