-- ==== Sys2Proof/Machine/RegMap.lean ====
section
/-! DEFINITION. The register map (R531 to R559, R585, R586 and the register rules of the other chapters): where each
register lies, its fields with their access codes and reset values, and names for the fields, counters and event registers
that the meanings use. A register's address is its BAR0 offset (R547). -/

namespace Sys2Proof

/-! ## The variants (R1, R2) -/

def Variant.code (v : Variant) : Nat := match v with | .f => 1 | .s => 2 | .m => 3
def Variant.cores (v : Variant) : Nat := match v with | .f => 192 | .s => 128 | .m => 192
def Variant.stacks (v : Variant) : Nat := match v with | .f => 6 | .s => 4 | .m => 6
def Variant.channels (v : Variant) : Nat := match v with | .f => 192 | .s => 128 | .m => 192
def Variant.ports (v : Variant) : Nat := match v with | .f => 6 | .s => 4 | .m => 6
def Variant.mac (v : Variant) : Bool := match v with | .f => true | .s => false | .m => true
def Variant.flash (v : Variant) : Bool := match v with | .f => true | .s => true | .m => false
def Variant.brambles (v : Variant) : Nat := match v with | .f => 33 | .s => 23 | .m => 33
def Variant.allowMax (v : Variant) : Nat := match v with | .f => 1400 | .s => 900 | .m => 1100

end Sys2Proof

namespace Sys2Proof.Machine

/-- The access codes (R536). -/
inductive Acc where
  | rw | ro | sq | wb | pz | sz | wo
  deriving DecidableEq, Repr

/-- Bits [hi:lo] of a register, their access code and reset value. -/
structure Fld where
  lo    : Nat
  hi    : Nat
  acc   : Acc
  reset : Nat
  deriving DecidableEq, Repr

/-- A register at an offset of its block's base page, in 32-bit words (R532). -/
structure Reg where
  off   : Nat
  words : Nat
  flds  : List Fld
  deriving DecidableEq, Repr

/-- A named field: the address of its register, its lowest bit and its width. -/
structure FieldAt where
  addr : Nat
  lo   : Nat
  n    : Nat
  deriving DecidableEq, Repr

/-! ## The tables of fields -/

/-- TOP block (R549 to R559). -/
def topRegs (hw : Hw) : List Reg := [
  ⟨0x0000, 2, [⟨0, 3, .ro, hw.variant.code⟩, ⟨4, 7, .ro, hw.dieRev % 16⟩, ⟨8, 23, .ro, 0x0048⟩, ⟨24, 31, .wb, 0⟩,
      ⟨32, 47, .ro, 0x484B⟩, ⟨48, 63, .wb, 0⟩]⟩,
  ⟨0x0008, 2, [⟨0, 7, .ro, hw.variant.cores⟩, ⟨8, 15, .ro, hw.variant.cores / 2⟩, ⟨16, 18, .ro, 4⟩,
      ⟨19, 19, .wb, 0⟩, ⟨20, 27, .ro, hw.variant.brambles⟩, ⟨28, 31, .ro, 8⟩, ⟨32, 39, .ro, 64⟩, ⟨40, 63, .wb, 0⟩]⟩,
  ⟨0x0010, 2, [⟨0, 3, .ro, hw.variant.stacks⟩, ⟨4, 9, .ro, 32⟩, ⟨10, 17, .ro, hw.variant.channels⟩,
      ⟨18, 18, .ro, b2n hw.variant.mac⟩, ⟨19, 25, .ro, 80⟩, ⟨26, 31, .wb, 0⟩, ⟨32, 55, .ro, 0⟩, ⟨56, 63, .wb, 0⟩]⟩,
  ⟨0x0018, 2, [⟨0, 5, .ro, 32 * b2n hw.variant.flash⟩, ⟨6, 6, .ro, b2n hw.variant.flash⟩, ⟨7, 7, .wb, 0⟩,
      ⟨8, 39, .ro, 0⟩, ⟨40, 47, .ro, 8 * b2n hw.variant.flash⟩, ⟨48, 63, .wb, 0⟩]⟩,
  ⟨0x0020, 2, [⟨0, 3, .ro, hw.variant.ports⟩, ⟨4, 7, .ro, 8⟩, ⟨8, 12, .ro, 16⟩, ⟨13, 18, .ro, 63⟩,
      ⟨19, 31, .wb, 0⟩, ⟨32, 47, .ro, 4096⟩, ⟨48, 63, .wb, 0⟩]⟩,
  ⟨0x0028, 2, [⟨0, 31, .ro, 0⟩, ⟨32, 63, .ro, 0⟩]⟩,
  ⟨0x0030, 2, [⟨0, 0, .ro, 1⟩, ⟨1, 1, .ro, 0⟩, ⟨2, 2, .ro, 0⟩, ⟨3, 3, .ro, 0⟩, ⟨4, 4, .ro, 0⟩, ⟨5, 5, .ro, 0⟩,
      ⟨6, 6, .ro, 0⟩, ⟨7, 15, .wb, 0⟩, ⟨16, 23, .ro, 0⟩, ⟨24, 63, .wb, 0⟩]⟩,
  ⟨0x0038, 2, [⟨0, 0, .rw, 0⟩, ⟨1, 31, .wb, 0⟩, ⟨32, 63, .wb, 0⟩]⟩,
  ⟨0x0040, 1, [⟨0, 0, .sq, 0⟩, ⟨1, 1, .sq, 0⟩, ⟨2, 2, .sq, 0⟩, ⟨3, 23, .wb, 0⟩, ⟨24, 31, .sq, 0⟩]⟩,
  ⟨0x0048, 1, [⟨0, 11, .ro, 0⟩, ⟨12, 31, .wb, 0⟩]⟩,
  ⟨0x0050, 2, [⟨0, 63, .ro, 0⟩]⟩,
  ⟨0x0058, 2, [⟨0, 3, .ro, 0⟩, ⟨4, 7, .ro, 0⟩, ⟨8, 31, .wb, 0⟩, ⟨32, 63, .ro, 0⟩]⟩,
  ⟨0x0060, 2, [⟨0, 63, .ro, hw.serial⟩]⟩,
  ⟨0x0068, 2, [⟨0, 63, .pz, 0⟩]⟩,
  ⟨0x0070, 2, [⟨0, 63, .sz, 0⟩]⟩,
  ⟨0x0080, 2, [⟨0, 63, .ro, 0⟩]⟩]

/-- HST block (R527 to R529). -/
def hstRegs : List Reg := [
  ⟨0x0000, 2, [⟨0, 4, .ro, 0⟩, ⟨5, 6, .ro, 0⟩, ⟨7, 7, .ro, 0⟩, ⟨8, 8, .ro, 0⟩, ⟨9, 63, .wb, 0⟩]⟩,
  ⟨0x0008, 2, [⟨0, 9, .ro, 0⟩, ⟨10, 15, .ro, 0⟩, ⟨16, 63, .wb, 0⟩]⟩,
  ⟨0x0010, 2, [⟨0, 11, .rw, 0xFFF⟩, ⟨12, 63, .wb, 0⟩]⟩,
  ⟨0x0018, 1, [⟨0, 0, .sq, 0⟩, ⟨1, 1, .sq, 0⟩, ⟨2, 2, .sq, 0⟩, ⟨3, 3, .sq, 0⟩, ⟨4, 23, .wb, 0⟩, ⟨24, 31, .sq, 0⟩]⟩,
  ⟨0x0020, 2, [⟨0, 63, .ro, 0⟩]⟩]

/-- NRG block (R499 to R503). -/
def nrgRegs (hw : Hw) : List Reg := [
  ⟨0x0000, 2, [⟨0, 15, .ro, hw.variant.allowMax⟩, ⟨16, 23, .ro, 15⟩, ⟨24, 31, .wb, 0⟩, ⟨32, 47, .ro, 100⟩,
      ⟨48, 63, .wb, 0⟩]⟩,
  ⟨0x0008, 2, [⟨0, 15, .rw, 0⟩, ⟨16, 25, .rw, 100⟩, ⟨26, 35, .rw, 100⟩, ⟨36, 51, .rw, 5000⟩, ⟨52, 63, .wb, 0⟩]⟩,
  ⟨0x0010, 2, [⟨0, 15, .rw, 0xFFFF⟩, ⟨16, 18, .ro, 0x7⟩, ⟨19, 31, .wb, 0⟩, ⟨32, 47, .ro, 0⟩, ⟨48, 63, .wb, 0⟩]⟩,
  ⟨0x0018, 2, [⟨0, 15, .rw, 0⟩, ⟨16, 31, .rw, 0⟩, ⟨32, 47, .ro, 0⟩, ⟨48, 48, .ro, 0⟩, ⟨49, 49, .ro, 0⟩,
      ⟨50, 63, .wb, 0⟩]⟩,
  ⟨0x0020, 2, [⟨0, 2, .ro, 0⟩, ⟨3, 3, .ro, 0⟩, ⟨4, 4, .ro, 0⟩, ⟨5, 15, .wb, 0⟩, ⟨16, 31, .ro, 0⟩, ⟨32, 47, .ro, 0⟩,
      ⟨48, 55, .ro, 0⟩, ⟨56, 63, .wb, 0⟩]⟩,
  ⟨0x0028, 1, [⟨0, 0, .sq, 0⟩, ⟨1, 1, .sq, 0⟩, ⟨2, 2, .sq, 0⟩, ⟨3, 3, .sq, 0⟩, ⟨4, 4, .sq, 0⟩, ⟨5, 5, .sq, 0⟩,
      ⟨6, 6, .sq, 0⟩, ⟨7, 7, .sq, 0⟩, ⟨8, 23, .wb, 0⟩, ⟨24, 31, .sq, 0⟩]⟩,
  ⟨0x0030, 2, [⟨0, 63, .ro, 0⟩]⟩,
  ⟨0x0038, 2, [⟨0, 0, .ro, 0⟩, ⟨1, 1, .ro, 0⟩, ⟨2, 2, .ro, 0⟩, ⟨3, 3, .ro, 0⟩, ⟨4, 4, .ro, 0⟩, ⟨5, 10, .ro, 0⟩,
      ⟨11, 15, .wb, 0⟩, ⟨16, 23, .ro, 6⟩, ⟨24, 63, .wb, 0⟩]⟩]

/-- CHK block (R470 to R472). -/
def chkRegs : List Reg := [
  ⟨0x0000, 2, [⟨0, 3, .rw, 3⟩, ⟨4, 23, .rw, 1000000⟩, ⟨24, 39, .rw, 1000⟩, ⟨40, 47, .rw, 24⟩, ⟨48, 55, .rw, 8⟩,
      ⟨56, 63, .wb, 0⟩]⟩,
  ⟨0x0008, 1, [⟨0, 0, .sq, 0⟩, ⟨1, 1, .sq, 0⟩, ⟨2, 2, .sq, 0⟩, ⟨3, 3, .sq, 0⟩, ⟨4, 4, .sq, 0⟩, ⟨5, 5, .sq, 0⟩,
      ⟨6, 6, .sq, 0⟩, ⟨7, 7, .sq, 0⟩, ⟨8, 8, .sq, 0⟩, ⟨9, 23, .wb, 0⟩, ⟨24, 31, .sq, 0⟩]⟩,
  ⟨0x0010, 2, [⟨0, 0, .ro, 0⟩, ⟨1, 1, .ro, 0⟩, ⟨2, 2, .ro, 0⟩, ⟨3, 3, .ro, 0⟩, ⟨4, 31, .wb, 0⟩, ⟨32, 39, .ro, 0⟩,
      ⟨40, 47, .ro, 0⟩, ⟨48, 63, .wb, 0⟩]⟩]

/-- SEC block (R585). -/
def secRegs : List Reg := [
  ⟨0x0000, 2, [⟨0, 0, .ro, 0⟩, ⟨1, 1, .ro, 0⟩, ⟨2, 3, .ro, 0⟩, ⟨4, 9, .ro, 0⟩, ⟨10, 15, .ro, 0⟩, ⟨16, 23, .ro, 0⟩,
      ⟨24, 63, .wb, 0⟩]⟩,
  ⟨0x0008, 2, [⟨0, 3, .ro, 0⟩, ⟨4, 7, .ro, 0⟩, ⟨8, 11, .ro, 0⟩, ⟨12, 63, .wb, 0⟩]⟩,
  ⟨0x0010, 1, [⟨0, 0, .sq, 0⟩, ⟨1, 1, .sq, 0⟩, ⟨2, 2, .sq, 0⟩, ⟨3, 23, .wb, 0⟩, ⟨24, 31, .sq, 0⟩]⟩]

/-- MGT block (R586). -/
def mgtRegs : List Reg := [
  ⟨0x0000, 2, [⟨0, 6, .ro, 0⟩, ⟨7, 7, .ro, 0⟩, ⟨8, 15, .sz, 0⟩, ⟨16, 63, .wb, 0⟩]⟩,
  ⟨0x0008, 1, [⟨0, 0, .sq, 0⟩, ⟨1, 1, .sq, 0⟩, ⟨2, 2, .sq, 0⟩, ⟨3, 23, .wb, 0⟩, ⟨24, 31, .sq, 0⟩]⟩]

/-- CAS block (R439 to R442). -/
def casRegs : List Reg := [
  ⟨0x0000, 2, [⟨0, 63, .ro, 0⟩]⟩,
  ⟨0x0008, 2, [⟨0, 1, .ro, 0⟩, ⟨2, 4, .ro, 0⟩, ⟨5, 8, .ro, 0⟩, ⟨9, 11, .ro, 2⟩, ⟨12, 15, .wb, 0⟩, ⟨16, 31, .ro, 0⟩,
      ⟨32, 47, .ro, 0⟩, ⟨48, 63, .ro, 0⟩]⟩,
  ⟨0x0010, 2, [⟨0, 6, .rw, 64⟩, ⟨7, 13, .rw, 48⟩, ⟨14, 15, .wb, 0⟩, ⟨16, 31, .rw, 625⟩, ⟨32, 47, .rw, 1000⟩,
      ⟨48, 63, .rw, 10⟩]⟩,
  ⟨0x0018, 2, [⟨0, 15, .rw, 1000⟩, ⟨16, 31, .rw, 60⟩, ⟨32, 63, .wb, 0⟩]⟩,
  ⟨0x0020, 1, [⟨0, 0, .sq, 0⟩, ⟨1, 1, .sq, 0⟩, ⟨2, 2, .sq, 0⟩, ⟨3, 3, .sq, 0⟩, ⟨4, 4, .sq, 0⟩, ⟨5, 5, .sq, 0⟩,
      ⟨6, 23, .wb, 0⟩, ⟨24, 31, .sq, 0⟩]⟩,
  ⟨0x0028, 2, [⟨0, 31, .ro, 0⟩, ⟨32, 32, .ro, 0⟩, ⟨33, 33, .ro, 0⟩, ⟨34, 63, .wb, 0⟩]⟩,
  ⟨0x0030, 2, [⟨0, 15, .ro, 0⟩, ⟨16, 31, .ro, 0⟩, ⟨32, 32, .ro, 0⟩, ⟨33, 33, .ro, 0⟩, ⟨34, 34, .ro, 0⟩,
      ⟨35, 63, .wb, 0⟩]⟩,
  ⟨0x0038, 2, [⟨0, 63, .ro, 0⟩]⟩]

/-- FTL block (R221 to R224). -/
def ftlRegs : List Reg := [
  ⟨0x0000, 2, [⟨0, 7, .rw, 75⟩, ⟨8, 15, .rw, 50⟩, ⟨16, 23, .rw, 4⟩, ⟨24, 31, .rw, 8⟩, ⟨32, 47, .rw, 10⟩,
      ⟨48, 63, .rw, 200⟩]⟩,
  ⟨0x0008, 2, [⟨0, 15, .rw, 60⟩, ⟨16, 31, .rw, 400⟩, ⟨32, 47, .rw, 1000⟩, ⟨48, 63, .rw, 2000⟩]⟩,
  ⟨0x0010, 2, [⟨0, 15, .rw, 1500⟩, ⟨16, 31, .rw, 30000⟩, ⟨32, 39, .rw, 80⟩, ⟨40, 47, .rw, 3⟩, ⟨48, 63, .wb, 0⟩]⟩,
  ⟨0x0018, 2, [⟨0, 0, .ro, 0⟩, ⟨1, 1, .ro, 0⟩, ⟨2, 2, .ro, 0⟩, ⟨3, 3, .ro, 0⟩, ⟨4, 4, .ro, 0⟩, ⟨5, 5, .ro, 0⟩,
      ⟨6, 6, .ro, 0⟩, ⟨7, 17, .ro, 0⟩, ⟨18, 31, .wb, 0⟩, ⟨32, 63, .ro, 0⟩]⟩,
  ⟨0x0020, 1, [⟨0, 0, .sq, 0⟩, ⟨1, 1, .sq, 0⟩, ⟨2, 2, .sq, 0⟩, ⟨3, 3, .sq, 0⟩, ⟨4, 4, .sq, 0⟩, ⟨5, 5, .sq, 0⟩,
      ⟨6, 23, .wb, 0⟩, ⟨24, 31, .sq, 0⟩]⟩,
  ⟨0x0028, 2, [⟨0, 63, .ro, 0⟩]⟩,
  ⟨0x0030, 2, [⟨0, 63, .ro, 0⟩]⟩]

/-- A fabric port block (R401 to R404). -/
def portRegs : List Reg := [
  ⟨0x0000, 2, [⟨0, 3, .ro, 8⟩, ⟨4, 11, .ro, 64⟩, ⟨12, 22, .ro, 1024⟩, ⟨23, 26, .ro, 8⟩, ⟨27, 63, .wb, 0⟩]⟩,
  ⟨0x0008, 2, [⟨0, 0, .rw, 0⟩, ⟨1, 1, .rw, 0⟩, ⟨2, 3, .rw, 0⟩, ⟨4, 4, .ro, 0⟩, ⟨5, 15, .wb, 0⟩,
      ⟨16, 47, .rw, 65536⟩, ⟨48, 63, .rw, 10⟩]⟩,
  ⟨0x0010, 1, [⟨0, 0, .sq, 0⟩, ⟨1, 1, .sq, 0⟩, ⟨2, 2, .sq, 0⟩, ⟨3, 3, .sq, 0⟩, ⟨4, 4, .sq, 0⟩, ⟨5, 5, .sq, 0⟩,
      ⟨6, 23, .wb, 0⟩, ⟨24, 31, .sq, 0⟩]⟩,
  ⟨0x0018, 2, [⟨0, 7, .rw, 0⟩, ⟨8, 23, .rw, 1024⟩, ⟨24, 39, .rw, 512⟩, ⟨40, 55, .rw, 10000⟩, ⟨56, 63, .wb, 0⟩]⟩,
  ⟨0x0020, 1, [⟨0, 0, .rw, 0⟩, ⟨1, 1, .rw, 0⟩, ⟨2, 8, .rw, 1⟩, ⟨9, 15, .wb, 0⟩, ⟨16, 31, .rw, 0⟩]⟩,
  ⟨0x0028, 2, [⟨0, 47, .rw, 0⟩, ⟨48, 59, .rw, 0⟩, ⟨60, 63, .ro, 0⟩]⟩,
  ⟨0x0030, 2, [⟨0, 47, .rw, 0⟩, ⟨48, 63, .ro, 0⟩]⟩,
  ⟨0x0038, 2, [⟨0, 5, .rw, 0⟩, ⟨6, 7, .ro, 0⟩, ⟨8, 13, .rw, 0⟩, ⟨14, 15, .ro, 0⟩, ⟨16, 21, .rw, 0⟩,
      ⟨22, 23, .ro, 0⟩, ⟨24, 29, .rw, 0⟩, ⟨30, 31, .ro, 0⟩, ⟨32, 37, .rw, 0⟩, ⟨38, 39, .ro, 0⟩, ⟨40, 45, .rw, 0⟩,
      ⟨46, 47, .ro, 0⟩, ⟨48, 53, .rw, 0⟩, ⟨54, 55, .ro, 0⟩, ⟨56, 61, .rw, 0⟩, ⟨62, 63, .ro, 0⟩]⟩,
  ⟨0x0200, 4, [⟨0, 127, .rw, 0⟩]⟩]

/-- The fabric transport block (R406 to R408). -/
def transRegs : List Reg := [
  ⟨0x0000, 2, [⟨0, 16, .ro, 65536⟩, ⟨17, 30, .ro, 8192⟩, ⟨31, 41, .ro, 1024⟩, ⟨42, 63, .wb, 0⟩]⟩,
  ⟨0x0008, 2, [⟨0, 15, .rw, 1000⟩, ⟨16, 31, .rw, 4000⟩, ⟨32, 47, .rw, 200⟩, ⟨48, 63, .rw, 4000⟩]⟩,
  ⟨0x0010, 2, [⟨0, 15, .rw, 100⟩, ⟨16, 19, .rw, 8⟩, ⟨20, 27, .rw, 2⟩, ⟨28, 31, .wb, 0⟩, ⟨32, 47, .ro, 0⟩,
      ⟨48, 63, .wb, 0⟩]⟩,
  ⟨0x0018, 1, [⟨0, 0, .sq, 0⟩, ⟨1, 1, .sq, 0⟩, ⟨2, 2, .sq, 0⟩, ⟨3, 23, .wb, 0⟩, ⟨24, 31, .sq, 0⟩]⟩,
  ⟨0x0020, 2, [⟨0, 63, .rw, 0⟩]⟩]

/-- A flash channel block (R216 to R219). -/
def fceRegs : List Reg := [
  ⟨0x0000, 1, [⟨0, 7, .ro, 0⟩, ⟨8, 11, .ro, 4⟩, ⟨12, 16, .ro, 0⟩, ⟨17, 31, .wb, 0⟩]⟩,
  ⟨0x0008, 1, [⟨0, 0, .rw, 0⟩, ⟨1, 2, .rw, 0⟩, ⟨3, 7, .wb, 0⟩, ⟨8, 15, .rw, 0⟩, ⟨16, 20, .rw, 0⟩, ⟨21, 25, .rw, 4⟩,
      ⟨26, 31, .wb, 0⟩]⟩,
  ⟨0x0010, 2, [⟨0, 11, .rw, 30⟩, ⟨12, 23, .rw, 150⟩, ⟨24, 35, .rw, 2000⟩, ⟨36, 47, .rw, 3000⟩, ⟨48, 63, .rw, 1250⟩]⟩,
  ⟨0x0018, 1, [⟨0, 0, .sq, 0⟩, ⟨1, 1, .sq, 0⟩, ⟨2, 2, .sq, 0⟩, ⟨3, 3, .sq, 0⟩, ⟨4, 4, .sq, 0⟩, ⟨5, 5, .sq, 0⟩,
      ⟨6, 6, .sq, 0⟩, ⟨7, 7, .sq, 0⟩, ⟨8, 8, .sq, 0⟩, ⟨9, 23, .wb, 0⟩, ⟨24, 31, .sq, 0⟩]⟩,
  ⟨0x0020, 1, [⟨0, 15, .ro, 0⟩, ⟨16, 31, .ro, 0⟩]⟩]

/-- A core block (R258 to R261); `die` is the core's compute die. -/
def coreRegs (die : Nat) : List Reg := [
  ⟨0x0000, 2, [⟨0, 2, .ro, 4⟩, ⟨3, 10, .ro, 128⟩, ⟨11, 18, .ro, 128⟩, ⟨19, 30, .ro, 2048⟩, ⟨31, 31, .ro, die⟩,
      ⟨32, 41, .ro, 512⟩, ⟨42, 52, .ro, 1024⟩, ⟨53, 63, .wb, 0⟩]⟩,
  ⟨0x0008, 1, [⟨0, 0, .rw, 1⟩, ⟨1, 1, .rw, 1⟩, ⟨2, 6, .rw, 12⟩, ⟨7, 31, .wb, 0⟩]⟩,
  ⟨0x0010, 1, [⟨0, 15, .ro, 0xFFFF⟩, ⟨16, 16, .ro, 0⟩, ⟨17, 17, .ro, 0⟩, ⟨18, 18, .ro, 0⟩, ⟨19, 19, .ro, 0⟩,
      ⟨20, 20, .ro, 0⟩, ⟨21, 31, .wb, 0⟩]⟩,
  ⟨0x0018, 1, [⟨0, 0, .sq, 0⟩, ⟨1, 1, .sq, 0⟩, ⟨2, 2, .sq, 0⟩, ⟨3, 3, .sq, 0⟩, ⟨4, 4, .sq, 0⟩, ⟨5, 23, .wb, 0⟩,
      ⟨24, 31, .sq, 0⟩]⟩,
  ⟨0x0020, 2, [⟨0, 63, .ro, 0⟩]⟩]

/-- A currant block (R153 to R157, R159). -/
def nbuRegs (hw : Hw) : List Reg := [
  ⟨0x0000, 2, [⟨0, 7, .ro, 16⟩, ⟨8, 17, .ro, 512⟩, ⟨18, 18, .ro, b2n hw.variant.mac⟩,
      ⟨19, 25, .ro, 64 * b2n hw.variant.mac⟩, ⟨26, 31, .ro, 32⟩, ⟨32, 42, .ro, 1024⟩, ⟨43, 63, .wb, 0⟩]⟩,
  ⟨0x0008, 1, [⟨0, 0, .rw, 1⟩, ⟨1, 1, .rw, 0⟩, ⟨2, 7, .wb, 0⟩, ⟨8, 15, .rw, 0x40⟩, ⟨16, 31, .wb, 0⟩]⟩,
  ⟨0x0010, 1, [⟨0, 0, .sq, 0⟩, ⟨1, 1, .sq, 0⟩, ⟨2, 2, .sq, 0⟩, ⟨3, 3, .sq, 0⟩, ⟨4, 23, .wb, 0⟩, ⟨24, 31, .sq, 0⟩]⟩,
  ⟨0x0018, 1, [⟨0, 15, .wo, 0⟩, ⟨16, 31, .wb, 0⟩]⟩,
  ⟨0x0020, 1, [⟨0, 3, .ro, 0⟩, ⟨4, 4, .ro, 0⟩, ⟨5, 5, .ro, 0⟩, ⟨6, 15, .wb, 0⟩, ⟨16, 31, .ro, 0⟩]⟩,
  ⟨0x0028, 2, [⟨0, 63, .rw, 0⟩]⟩]

/-- Fields of FAB_CSHAPE (R404). -/
def cshapeFlds : List Fld := [⟨0, 19, .rw, 0⟩, ⟨20, 35, .rw, 64⟩, ⟨36, 47, .rw, 144⟩, ⟨48, 48, .rw, 0⟩, ⟨49, 63, .wb, 0⟩]

/-- Fields of FAB_HWM (R404). -/
def hwmFlds : List Fld := [⟨0, 23, .sq, 0⟩, ⟨24, 31, .sq, 0⟩]

/-- Fields of A gate control list entry (R404). -/
def gateFlds : List Fld := [⟨0, 7, .rw, 0xFF⟩, ⟨8, 39, .rw, 0⟩, ⟨40, 63, .wb, 0⟩]

/-- Fields of A scale register (R274). -/
def scaleFlds : List Fld := [⟨0, 19, .rw, 0x7F000⟩, ⟨20, 20, .rw, 0⟩, ⟨21, 21, .rw, 0⟩, ⟨22, 23, .wb, 0⟩, ⟨24, 31, .rw, 0⟩]

/-- Fields of CAS_MEMBER (R442). -/
def memberFlds : List Fld := [⟨0, 15, .ro, 0⟩, ⟨16, 17, .ro, 0⟩, ⟨18, 18, .ro, 0⟩, ⟨19, 23, .wb, 0⟩, ⟨24, 30, .ro, 0⟩, ⟨31, 63, .wb, 0⟩]

/-- Fields of CORE_BRM_STATE (R263). -/
def brmStateFlds : List Fld := [⟨0, 3, .ro, 0⟩, ⟨4, 63, .wb, 0⟩]

/-! ## The address map (R547, R548) -/

/-- What a block of 64 KiB belongs to (R152, R215, R257, R400, R547). -/
inductive Blk where
  | top | hst | nrg | chk | sec | mgt | cas | ftl
  | port (p : Nat) | portAll | trans
  | fce (c : Nat) | fceAll
  | core (c : Nat) | coreDie (d : Nat) | coreAll | bramble
  | nbu (c : Nat) | nbuStack (s : Nat) | nbuAll
  | reserved
  deriving DecidableEq, Repr

/-- The block of a block number. -/
def blkOf (n : Nat) : Blk :=
  if n = 0 then .top else if n = 1 then .hst else if n = 2 then .nrg else if n = 3 then .chk
  else if n = 4 then .sec else if n = 5 then .mgt else if n = 6 then .cas else if n = 7 then .ftl
  else if n < 14 then .port (n - 8) else if n = 14 then .portAll else if n = 15 then .trans
  else if n < 48 then .fce (n - 16) else if n = 48 then .fceAll
  else if n < 64 then .reserved
  else if n < 256 then .core (n - 64) else if n < 258 then .coreDie (n - 256) else if n = 258 then .coreAll
  else if n = 259 then .bramble else if n < 320 then .reserved
  else if n < 512 then .nbu (n - 320) else if n < 518 then .nbuStack (n - 512) else if n = 518 then .nbuAll
  else .reserved

/-- Does the block belong wholly to a unit the variant lacks (R9, R548)? -/
def blkAbsent (v : Variant) (b : Blk) : Bool :=
  match b with
  | .port p => v.ports ≤ p
  | .fce _ => !v.flash
  | .fceAll => !v.flash
  | .ftl => !v.flash
  | .core c => v.cores ≤ c
  | .nbu c => v.channels ≤ c
  | .nbuStack s => v.stacks ≤ s
  | _ => false

/-- The numbers of the blocks a write to a broadcast block reaches (R152, R215, R257, R400). -/
def blkCovers (v : Variant) (b : Blk) : List Nat :=
  match b with
  | .portAll => (List.range v.ports).map (· + 8)
  | .fceAll => if v.flash then (List.range 32).map (· + 16) else []
  | .coreDie d => (List.range (v.cores / 2)).map (· + 64 + d * (v.cores / 2))
  | .coreAll => (List.range v.cores).map (· + 64)
  | .nbuStack s => (List.range 32).map (· + 320 + 32 * s)
  | .nbuAll => (List.range v.channels).map (· + 320)
  | _ => []

def portBase (p : Nat) : Nat := 0x80000 + 0x10000 * p
def fceBase (c : Nat) : Nat := 0x100000 + 0x10000 * c
def coreBase (c : Nat) : Nat := 0x400000 + 0x10000 * c
def nbuBase (c : Nat) : Nat := 0x1400000 + 0x10000 * c
def brambleBase : Nat := 0x1030000


/-- The register that holds offset `o` in one of `n` equal registers from `first`. -/
def inArray (o first n words : Nat) (fl : List Fld) : Option Reg :=
  if first ≤ o ∧ o < first + 4 * words * n then
    some ⟨first + (o - first) / (4 * words) * (4 * words), words, fl⟩
  else none

/-- The register that holds offset `o` in a table. -/
def inTable (o : Nat) (t : List Reg) : Option Reg :=
  t.find? (fun r => decide (r.off ≤ o) && decide (o < r.off + 4 * r.words))

/-- The counters of each block are 64-bit, RO and reset to 0 (R158, R220, R225, R262, R405, R409, R443, R473, R504, R530). -/
def counterFlds : List Fld := [⟨0, 63, .ro, 0⟩]

/-- A word of a currant command slot or of its micro-program store: it takes any value (R122, R129). -/
def plainFlds : List Fld := [⟨0, 31, .rw, 0⟩]

/-- Is the merge unit present (R253, R263)? -/
def unitPresent (v : Variant) (u : Nat) : Bool :=
  if u < 6 then u < v.stacks else if u < 30 then u - 6 < v.cores / 8 else u < 33

/-- The register at an offset of the bramble block (R263): STATE, OFFERS, DUPS and NANS of a merge unit; an absent unit reads zero. -/
def bramReg (v : Variant) (o : Nat) : Option Reg :=
  if o < 0x100 ∨ !unitPresent v ((o - 0x100) / 0x20) then none
  else some ⟨o / 8 * 8, 2, if o % 0x20 < 8 then brmStateFlds else counterFlds⟩

/-- The register at offset `o` of the base page of block number `n`; none where the offset is reserved (R534). -/
def regAt (hw : Hw) (n o : Nat) : Option Reg :=
  match blkOf n with
  | .top => inTable o (topRegs hw)
  | .hst => (inTable o hstRegs).or (inArray o 0x40 5 2 counterFlds)
  | .nrg => (inTable o (nrgRegs hw)).or (inArray o 0x40 8 2 counterFlds)
  | .chk => (((inTable o chkRegs).or (inArray o 0x40 13 2 counterFlds)).or (inArray o 0x100 6 2 counterFlds)).or
      (inArray o 0x140 6 2 counterFlds)
  | .sec => inTable o secRegs
  | .mgt => inTable o mgtRegs
  | .cas => ((inTable o casRegs).or (inArray o 0x40 8 2 memberFlds)).or (inArray o 0x80 7 2 counterFlds)
  | .ftl => (inTable o ftlRegs).or (inArray o 0x40 7 2 counterFlds)
  | .port _ => ((((inTable o portRegs).or (inArray o 0x40 8 2 cshapeFlds)).or (inArray o 0x80 8 1 hwmFlds)).or
      (inArray o 0x100 15 2 counterFlds)).or (inArray o 0x1000 64 2 gateFlds)
  | .trans => (inTable o transRegs).or (inArray o 0x40 12 2 counterFlds)
  | .fce _ => (inTable o fceRegs).or (inArray o 0x40 10 2 counterFlds)
  | .core c => ((inTable o (coreRegs (if c < hw.variant.cores / 2 then 0 else 1))).or
      (inArray o 0x40 13 2 counterFlds)).or (inArray o 0x1000 512 1 scaleFlds)
  | .bramble => bramReg hw.variant o
  | .nbu _ => (((inTable o (nbuRegs hw)).or (inArray o 0x40 8 2 counterFlds)).or
      (inArray o 0x1000 1024 1 plainFlds)).or (inArray o 0x2000 1024 1 plainFlds)
  | _ => none

/-- The value of a register whose fields hold their reset values. -/
def regReset (r : Reg) : Nat :=
  r.flds.foldl (fun x f => x + f.reset % 2 ^ (f.hi + 1 - f.lo) * 2 ^ f.lo) 0

/-- The reset value of the 32-bit word at an address of the base page (R532). -/
def resetWord (hw : Hw) (a : Nat) : W32 :=
  match regAt hw (a / 0x10000) (a % 0x10000) with
  | some r => BitVec.ofNat 32 (regReset r / 2 ^ (8 * (a % 0x10000 - r.off)))
  | none => 0

/-- The bits of a register whose access code satisfies `p`. -/
def regMask (r : Reg) (p : Acc → Bool) : Nat :=
  r.flds.foldl (fun x f => if p f.acc then x + maskOf f.lo f.hi else x) 0

/-! ## Event registers -/

/-- Addresses of the event status registers (R156 and the event registers of the other chapters). -/
def eTop : Nat := 0x40
def eHst : Nat := 0x10018
def eNrg : Nat := 0x20028
def eChk : Nat := 0x30008
def eSec : Nat := 0x40010
def eMgt : Nat := 0x50008
def eCas : Nat := 0x60020
def eFtl : Nat := 0x70020
def eTra : Nat := 0xF0018
def ePort (p : Nat) : Nat := portBase p + 0x10
def eFce (c : Nat) : Nat := fceBase c + 0x18
def eCore (c : Nat) : Nat := coreBase c + 0x18
def eNbu (c : Nat) : Nat := nbuBase c + 0x10

/-! ## Counters -/

def kHstSqfetch : Nat := 0x10040
def kHstCpls : Nat := 0x10048
def kHstDmaerrs : Nat := 0x10050
def kHstQerrs : Nat := 0x10058
def kHstEvtdrops : Nat := 0x10060
def kNrgStepe : Nat := 0x20040
def kNrgBallaste : Nat := 0x20048
def kNrgBasee : Nat := 0x20050
def kNrgHolds : Nat := 0x20058
def kNrgAdmitdefer : Nat := 0x20060
def kNrgBrownouts : Nat := 0x20068
def kNrgSlewmisses : Nat := 0x20070
def kNrgFlushes : Nat := 0x20078
def kChkParreplay : Nat := 0x30040
def kChkParpoison : Nat := 0x30048
def kChkCvretry : Nat := 0x30050
def kChkCvmis : Nat := 0x30058
def kChkCvskip : Nat := 0x30060
def kChkPoisonuse : Nat := 0x30068
def kChkTransient : Nat := 0x30070
def kChkChkfault : Nat := 0x30078
def kChkCompfault : Nat := 0x30080
def kChkCheckfail : Nat := 0x30088
def kChkScrubce : Nat := 0x30090
def kChkScrubue : Nat := 0x30098
def kChkCpers : Nat := 0x300A0
def kChkCommit : Nat := 0x30100
def kChkReplay : Nat := 0x30108
def kChkLost : Nat := 0x30110
def kChkStall : Nat := 0x30118
def kChkBallast : Nat := 0x30120
def kChkIdle : Nat := 0x30128
def kChkRetrows (s : Nat) : Nat := 0x30140 + 8 * s
def kCasReleases : Nat := 0x60080
def kCasProvsent : Nat := 0x60088
def kCasConfirms : Nat := 0x60090
def kCasRetracts : Nat := 0x60098
def kCasReplays : Nat := 0x600A0
def kCasOwnconfs : Nat := 0x600A8
def kCasEpstale : Nat := 0x600B0
def kFtlHostbytes : Nat := 0x70040
def kFtlNandbytes : Nat := 0x70048
def kFtlGcmoves : Nat := 0x70050
def kFtlFoldunits : Nat := 0x70058
def kFtlStagewait : Nat := 0x70060
def kFtlRetrylater : Nat := 0x70068
def kFtlDiscards : Nat := 0x70070
def kFabTxframes (p : Nat) : Nat := portBase p + 0x100
def kFabRxframes (p : Nat) : Nat := portBase p + 0x108
def kFabTxbytes (p : Nat) : Nat := portBase p + 0x110
def kFabRxbytes (p : Nat) : Nat := portBase p + 0x118
def kFabFcserr (p : Nat) : Nat := portBase p + 0x120
def kFabOversize (p : Nat) : Nat := portBase p + 0x128
def kFabOther (p : Nat) : Nat := portBase p + 0x130
def kFabBadaddr (p : Nat) : Nat := portBase p + 0x138
def kFabUdperr (p : Nat) : Nat := portBase p + 0x140
def kFabLossydrop (p : Nat) : Nat := portBase p + 0x148
def kFabPfctx (p : Nat) : Nat := portBase p + 0x150
def kFabPfcrx (p : Nat) : Nat := portBase p + 0x158
def kFabReasmtmo (p : Nat) : Nat := portBase p + 0x160
def kFabReasmdup (p : Nat) : Nat := portBase p + 0x168
def kFabDeaddrop (p : Nat) : Nat := portBase p + 0x170
def kTraCmiss : Nat := 0xF0040
def kTraCmissdrop : Nat := 0xF0048
def kTraEvicts : Nat := 0xF0050
def kTraDups : Nat := 0xF0058
def kTraStales : Nat := 0xF0060
def kTraReorddrop : Nat := 0xF0068
def kTraGenmis : Nat := 0xF0070
def kTraPoldrop : Nat := 0xF0078
def kTraLockwait : Nat := 0xF0080
def kTraResfaults : Nat := 0xF0088
def kTraResnak : Nat := 0xF0090
def kTraRetx : Nat := 0xF0098
def kFceReads (c : Nat) : Nat := fceBase c + 0x40
def kFceFastfail (c : Nat) : Nat := fceBase c + 0x48
def kFceDecodes (c : Nat) : Nat := fceBase c + 0x50
def kFceRetries (c : Nat) : Nat := fceBase c + 0x58
def kFceUncorrs (c : Nat) : Nat := fceBase c + 0x60
def kFceProgs (c : Nat) : Nat := fceBase c + 0x68
def kFceErases (c : Nat) : Nat := fceBase c + 0x70
def kFceBytesrd (c : Nat) : Nat := fceBase c + 0x78
def kFceDescs (c : Nat) : Nat := fceBase c + 0x80
def kFceRetired (c : Nat) : Nat := fceBase c + 0x88
def kCoreRuncyc (c : Nat) : Nat := coreBase c + 0x40
def kCoreFrzfill (c : Nat) : Nat := coreBase c + 0x48
def kCoreFrzdrain (c : Nat) : Nat := coreBase c + 0x50
def kCoreFrzreplay (c : Nat) : Nat := coreBase c + 0x58
def kCoreFrzhold (c : Nat) : Nat := coreBase c + 0x60
def kCoreFrzlease (c : Nat) : Nat := coreBase c + 0x68
def kCoreTiles (c : Nat) : Nat := coreBase c + 0x70
def kCoreSwaps (c : Nat) : Nat := coreBase c + 0x78
def kCoreChkpass (c : Nat) : Nat := coreBase c + 0x80
def kCoreChkmis (c : Nat) : Nat := coreBase c + 0x88
def kCoreChkskip (c : Nat) : Nat := coreBase c + 0x90
def kCoreBallastcyc (c : Nat) : Nat := coreBase c + 0x98
def kCoreTopkoff (c : Nat) : Nat := coreBase c + 0xA0
def kNbuRowops (c : Nat) : Nat := nbuBase c + 0x40
def kNbuRefpause (c : Nat) : Nat := nbuBase c + 0x48
def kNbuForcepause (c : Nat) : Nat := nbuBase c + 0x50
def kNbuPausecyc (c : Nat) : Nat := nbuBase c + 0x58
def kNbuCecnt (c : Nat) : Nat := nbuBase c + 0x60
def kNbuUecnt (c : Nat) : Nat := nbuBase c + 0x68
def kNbuPoisdrop (c : Nat) : Nat := nbuBase c + 0x70
def kNbuBusycyc (c : Nat) : Nat := nbuBase c + 0x78

/-! ## Fields -/

def fTopIdentVariant : FieldAt := ⟨0x0, 0, 4⟩
def fTopIdentDierev : FieldAt := ⟨0x0, 4, 4⟩
def fTopIdentPartnum : FieldAt := ⟨0x0, 8, 16⟩
def fTopIdentMfr : FieldAt := ⟨0x0, 32, 16⟩
def fTopCapComputeCores : FieldAt := ⟨0x8, 0, 8⟩
def fTopCapComputeDiecores : FieldAt := ⟨0x8, 8, 8⟩
def fTopCapComputeArrays : FieldAt := ⟨0x8, 16, 3⟩
def fTopCapComputeBrmunits : FieldAt := ⟨0x8, 20, 8⟩
def fTopCapComputeElders : FieldAt := ⟨0x8, 28, 4⟩
def fTopCapComputeCommonsmib : FieldAt := ⟨0x8, 32, 8⟩
def fTopCapMemoryStacks : FieldAt := ⟨0x10, 0, 4⟩
def fTopCapMemoryChperstack : FieldAt := ⟨0x10, 4, 6⟩
def fTopCapMemoryNbus : FieldAt := ⟨0x10, 10, 8⟩
def fTopCapMemoryNbumac : FieldAt := ⟨0x10, 18, 1⟩
def fTopCapMemoryStackgb : FieldAt := ⟨0x10, 19, 7⟩
def fTopCapMemoryIrow0 : FieldAt := ⟨0x10, 32, 24⟩
def fTopCapFlashChannels : FieldAt := ⟨0x18, 0, 6⟩
def fTopCapFlashFtl : FieldAt := ⟨0x18, 6, 1⟩
def fTopCapFlashChmask : FieldAt := ⟨0x18, 8, 32⟩
def fTopCapFlashCeperch : FieldAt := ⟨0x18, 40, 8⟩
def fTopCapFabricPorts : FieldAt := ⟨0x20, 0, 4⟩
def fTopCapFabricClasses : FieldAt := ⟨0x20, 4, 4⟩
def fTopCapFabricCxllanes : FieldAt := ⟨0x20, 8, 5⟩
def fTopCapFabricMaxvf : FieldAt := ⟨0x20, 13, 6⟩
def fTopCapFabricTenants : FieldAt := ⟨0x20, 32, 16⟩
def fTopFwverFwver : FieldAt := ⟨0x28, 0, 32⟩
def fTopFwverMintool : FieldAt := ⟨0x28, 32, 32⟩
def fTopStatusBusy : FieldAt := ⟨0x30, 0, 1⟩
def fTopStatusReady : FieldAt := ⟨0x30, 1, 1⟩
def fTopStatusReplace : FieldAt := ⟨0x30, 2, 1⟩
def fTopStatusBootfail : FieldAt := ⟨0x30, 3, 1⟩
def fTopStatusQuiesced : FieldAt := ⟨0x30, 4, 1⟩
def fTopStatusIdle2 : FieldAt := ⟨0x30, 5, 1⟩
def fTopStatusFtlready : FieldAt := ⟨0x30, 6, 1⟩
def fTopStatusBootcode : FieldAt := ⟨0x30, 16, 8⟩
def fTopCtlQuiesce : FieldAt := ⟨0x38, 0, 1⟩
def fTopEvtsumPending : FieldAt := ⟨0x48, 0, 12⟩
def fTopUptime : FieldAt := ⟨0x50, 0, 64⟩
def fTopResetcauseCause : FieldAt := ⟨0x58, 0, 4⟩
def fTopResetcauseWdsrc : FieldAt := ⟨0x58, 4, 4⟩
def fTopResetcauseResets : FieldAt := ⟨0x58, 32, 32⟩
def fTopSerial : FieldAt := ⟨0x60, 0, 64⟩
def fTopHscratch : FieldAt := ⟨0x68, 0, 64⟩
def fTopSscratch : FieldAt := ⟨0x70, 0, 64⟩
def fTopSqstale : FieldAt := ⟨0x80, 0, 64⟩
def fHstLinkWidth : FieldAt := ⟨0x10000, 0, 5⟩
def fHstLinkRate : FieldAt := ⟨0x10000, 5, 2⟩
def fHstLinkLinkup : FieldAt := ⟨0x10000, 7, 1⟩
def fHstLinkHdmcommit : FieldAt := ⟨0x10000, 8, 1⟩
def fHstCfgHdmsize : FieldAt := ⟨0x10008, 0, 10⟩
def fHstCfgNumvf : FieldAt := ⟨0x10008, 10, 6⟩
def fHstEvtenBlocks : FieldAt := ⟨0x10010, 0, 12⟩
def fHstIrqsrc : FieldAt := ⟨0x10020, 0, 64⟩
def fNrgCapAllowmax : FieldAt := ⟨0x20000, 0, 16⟩
def fNrgCapFloorpct : FieldAt := ⟨0x20000, 16, 8⟩
def fNrgCapWindow : FieldAt := ⟨0x20000, 32, 16⟩
def fNrgCfgAllow : FieldAt := ⟨0x20008, 0, 16⟩
def fNrgCfgSlewup : FieldAt := ⟨0x20008, 16, 10⟩
def fNrgCfgSlewdn : FieldAt := ⟨0x20008, 26, 10⟩
def fNrgCfgVwmax : FieldAt := ⟨0x20008, 36, 16⟩
def fNrgLimitLimreg : FieldAt := ⟨0x20010, 0, 16⟩
def fNrgLimitPincode : FieldAt := ⟨0x20010, 16, 3⟩
def fNrgLimitLive : FieldAt := ⟨0x20010, 32, 16⟩
def fNrgHoldupHucap : FieldAt := ⟨0x20018, 0, 16⟩
def fNrgHoldupHuvmin : FieldAt := ⟨0x20018, 16, 16⟩
def fNrgHoldupHuvnow : FieldAt := ⟨0x20018, 32, 16⟩
def fNrgHoldupHoldupok : FieldAt := ⟨0x20018, 48, 1⟩
def fNrgHoldupHuvalid : FieldAt := ⟨0x20018, 49, 1⟩
def fNrgStatePstate : FieldAt := ⟨0x20020, 0, 3⟩
def fNrgStateVwarn : FieldAt := ⟨0x20020, 3, 1⟩
def fNrgStateAutowake : FieldAt := ⟨0x20020, 4, 1⟩
def fNrgStatePlanned : FieldAt := ⟨0x20020, 16, 16⟩
def fNrgStateMeasured : FieldAt := ⟨0x20020, 32, 16⟩
def fNrgStateBalcores : FieldAt := ⟨0x20020, 48, 8⟩
def fNrgEavail : FieldAt := ⟨0x20030, 0, 64⟩
def fNrgClkRefok : FieldAt := ⟨0x20038, 0, 1⟩
def fNrgClkCorelock : FieldAt := ⟨0x20038, 1, 1⟩
def fNrgClkHoldover : FieldAt := ⟨0x20038, 2, 1⟩
def fNrgClkHbmlock : FieldAt := ⟨0x20038, 3, 1⟩
def fNrgClkCxllock : FieldAt := ⟨0x20038, 4, 1⟩
def fNrgClkFablock : FieldAt := ⟨0x20038, 5, 6⟩
def fNrgClkCdiv : FieldAt := ⟨0x20038, 16, 8⟩
def fChkCtlQuarn : FieldAt := ⟨0x30000, 0, 4⟩
def fChkCtlQwin : FieldAt := ⟨0x30000, 4, 20⟩
def fChkCtlChkwait : FieldAt := ⟨0x30000, 24, 16⟩
def fChkCtlScrub : FieldAt := ⟨0x30000, 40, 8⟩
def fChkCtlCerow : FieldAt := ⟨0x30000, 48, 8⟩
def fChkReplaceSpares : FieldAt := ⟨0x30010, 0, 1⟩
def fChkReplaceCores : FieldAt := ⟨0x30010, 1, 1⟩
def fChkReplaceRows : FieldAt := ⟨0x30010, 2, 1⟩
def fChkReplacePort : FieldAt := ⟨0x30010, 3, 1⟩
def fChkReplaceQuarcnt : FieldAt := ⟨0x30010, 32, 8⟩
def fChkReplaceSuspcnt : FieldAt := ⟨0x30010, 40, 8⟩
def fSecStateVerified : FieldAt := ⟨0x40000, 0, 1⟩
def fSecStateRecovery : FieldAt := ⟨0x40000, 1, 1⟩
def fSecStateRootslot : FieldAt := ⟨0x40000, 2, 2⟩
def fSecStateArbimg : FieldAt := ⟨0x40000, 4, 6⟩
def fSecStateArbfuse : FieldAt := ⟨0x40000, 10, 6⟩
def fSecStateBistgrp : FieldAt := ⟨0x40000, 16, 8⟩
def fSecKeysPresent : FieldAt := ⟨0x40008, 0, 4⟩
def fSecKeysRevoked : FieldAt := ⟨0x40008, 4, 4⟩
def fSecKeysRootrev : FieldAt := ⟨0x40008, 8, 4⟩
def fMgtCfgSaddr : FieldAt := ⟨0x50000, 0, 7⟩
def fMgtCfgSmbus : FieldAt := ⟨0x50000, 7, 1⟩
def fMgtCfgHealthint : FieldAt := ⟨0x50000, 8, 8⟩
def fCasAddr : FieldAt := ⟨0x60000, 0, 64⟩
def fCasCfgRole : FieldAt := ⟨0x60008, 0, 2⟩
def fCasCfgPos : FieldAt := ⟨0x60008, 2, 3⟩
def fCasCfgNmemb : FieldAt := ⟨0x60008, 5, 4⟩
def fCasCfgTopdepth : FieldAt := ⟨0x60008, 9, 3⟩
def fCasCfgNodenum : FieldAt := ⟨0x60008, 16, 16⟩
def fCasCfgPartner : FieldAt := ⟨0x60008, 32, 16⟩
def fCasCfgPmaster : FieldAt := ⟨0x60008, 48, 16⟩
def fCasCtlSlowwin : FieldAt := ⟨0x60010, 0, 7⟩
def fCasCtlSlown : FieldAt := ⟨0x60010, 7, 7⟩
def fCasCtlStragmin : FieldAt := ⟨0x60010, 16, 16⟩
def fCasCtlBarto : FieldAt := ⟨0x60010, 32, 16⟩
def fCasCtlMembto : FieldAt := ⟨0x60010, 48, 16⟩
def fCasCtl2Rpkeep : FieldAt := ⟨0x60018, 0, 16⟩
def fCasCtl2Jointo : FieldAt := ⟨0x60018, 16, 16⟩
def fCasBarBseq : FieldAt := ⟨0x60028, 0, 32⟩
def fCasBarWaitgo : FieldAt := ⟨0x60028, 32, 1⟩
def fCasBarHoldv : FieldAt := ⟨0x60028, 33, 1⟩
def fCasEpochNew : FieldAt := ⟨0x60030, 0, 16⟩
def fCasEpochOld : FieldAt := ⟨0x60030, 16, 16⟩
def fCasEpochOldlive : FieldAt := ⟨0x60030, 32, 1⟩
def fCasEpochHeld : FieldAt := ⟨0x60030, 33, 1⟩
def fCasEpochNewlive : FieldAt := ⟨0x60030, 34, 1⟩
def fCasOldreq : FieldAt := ⟨0x60038, 0, 64⟩
def fFtlCfgFoldhi : FieldAt := ⟨0x70000, 0, 8⟩
def fFtlCfgFoldlo : FieldAt := ⟨0x70000, 8, 8⟩
def fFtlCfgGclo : FieldAt := ⟨0x70000, 16, 8⟩
def fFtlCfgGchi : FieldAt := ⟨0x70000, 24, 8⟩
def fFtlCfgWbage : FieldAt := ⟨0x70000, 32, 16⟩
def fFtlCfgWlgap : FieldAt := ⟨0x70000, 48, 16⟩
def fFtlHucostPfl : FieldAt := ⟨0x70008, 0, 16⟩
def fFtlHucostEpb : FieldAt := ⟨0x70008, 16, 16⟩
def fFtlHucostTfix : FieldAt := ⟨0x70008, 32, 16⟩
def fFtlHucostBch : FieldAt := ⟨0x70008, 48, 16⟩
def fFtlWearPerated : FieldAt := ⟨0x70010, 0, 16⟩
def fFtlWearPeslc : FieldAt := ⟨0x70010, 16, 16⟩
def fFtlWearWearpct : FieldAt := ⟨0x70010, 32, 8⟩
def fFtlWearSparepct : FieldAt := ⟨0x70010, 40, 8⟩
def fFtlStateReady : FieldAt := ⟨0x70018, 0, 1⟩
def fFtlStateWthru : FieldAt := ⟨0x70018, 1, 1⟩
def fFtlStateStagehold : FieldAt := ⟨0x70018, 2, 1⟩
def fFtlStateFolding : FieldAt := ⟨0x70018, 3, 1⟩
def fFtlStateGcrun : FieldAt := ⟨0x70018, 4, 1⟩
def fFtlStateFlusharm : FieldAt := ⟨0x70018, 5, 1⟩
def fFtlStateFlushing : FieldAt := ⟨0x70018, 6, 1⟩
def fFtlStateOrphans : FieldAt := ⟨0x70018, 7, 11⟩
def fFtlStateRdonlymask : FieldAt := ⟨0x70018, 32, 32⟩
def fFtlDirty : FieldAt := ⟨0x70028, 0, 64⟩
def fFtlDcap : FieldAt := ⟨0x70030, 0, 64⟩
def fFabPcapLanes (p : Nat) : FieldAt := ⟨portBase p + 0x0, 0, 4⟩
def fFabPcapGcln (p : Nat) : FieldAt := ⟨portBase p + 0x0, 4, 8⟩
def fFabPcapReasmctx (p : Nat) : FieldAt := ⟨portBase p + 0x0, 12, 11⟩
def fFabPcapClasses (p : Nat) : FieldAt := ⟨portBase p + 0x0, 23, 4⟩
def fFabPcfgEnable (p : Nat) : FieldAt := ⟨portBase p + 0x8, 0, 1⟩
def fFabPcfgReset (p : Nat) : FieldAt := ⟨portBase p + 0x8, 1, 1⟩
def fFabPcfgPmd (p : Nat) : FieldAt := ⟨portBase p + 0x8, 2, 2⟩
def fFabPcfgLinkup (p : Nat) : FieldAt := ⟨portBase p + 0x8, 4, 1⟩
def fFabPcfgReasmbuf (p : Nat) : FieldAt := ⟨portBase p + 0x8, 16, 32⟩
def fFabPcfgLosttime (p : Nat) : FieldAt := ⟨portBase p + 0x8, 48, 16⟩
def fFabPfcPfcmask (p : Nat) : FieldAt := ⟨portBase p + 0x18, 0, 8⟩
def fFabPfcXoff (p : Nat) : FieldAt := ⟨portBase p + 0x18, 8, 16⟩
def fFabPfcXon (p : Nat) : FieldAt := ⟨portBase p + 0x18, 24, 16⟩
def fFabPfcPfcwd (p : Nat) : FieldAt := ⟨portBase p + 0x18, 40, 16⟩
def fFabGclctlEnable (p : Nat) : FieldAt := ⟨portBase p + 0x20, 0, 1⟩
def fFabGclctlAlign (p : Nat) : FieldAt := ⟨portBase p + 0x20, 1, 1⟩
def fFabGclctlLen (p : Nat) : FieldAt := ⟨portBase p + 0x20, 2, 7⟩
def fFabGclctlRdelay (p : Nat) : FieldAt := ⟨portBase p + 0x20, 16, 16⟩
def fFabPaddrMac (p : Nat) : FieldAt := ⟨portBase p + 0x28, 0, 48⟩
def fFabPaddrVlan (p : Nat) : FieldAt := ⟨portBase p + 0x28, 48, 12⟩
def fFabPnextMac (p : Nat) : FieldAt := ⟨portBase p + 0x30, 0, 48⟩
def fFabPip (p : Nat) : FieldAt := ⟨portBase p + 0x200, 0, 128⟩
def fFabTcapConns : FieldAt := ⟨0xF0000, 0, 17⟩
def fFabTcapCached : FieldAt := ⟨0xF0000, 17, 14⟩
def fFabTcapPinmax : FieldAt := ⟨0xF0000, 31, 11⟩
def fFabTcfgReasmto : FieldAt := ⟨0xF0008, 0, 16⟩
def fFabTcfgReorderto : FieldAt := ⟨0xF0008, 16, 16⟩
def fFabTcfgReswait : FieldAt := ⟨0xF0008, 32, 16⟩
def fFabTcfgXrdyto : FieldAt := ⟨0xF0008, 48, 16⟩
def fFabTcfg2Rto : FieldAt := ⟨0xF0010, 0, 16⟩
def fFabTcfg2Retries : FieldAt := ⟨0xF0010, 16, 4⟩
def fFabTcfg2Ackint : FieldAt := ⟨0xF0010, 20, 8⟩
def fFabTcfg2Pudp : FieldAt := ⟨0xF0010, 32, 16⟩
def fFabSpillbase : FieldAt := ⟨0xF0020, 0, 64⟩
def fFceCapDiemask (c : Nat) : FieldAt := ⟨fceBase c + 0x0, 0, 8⟩
def fFceCapPlanes (c : Nat) : FieldAt := ⟨fceBase c + 0x0, 8, 4⟩
def fFceCapRetrylv (c : Nat) : FieldAt := ⟨fceBase c + 0x0, 12, 5⟩
def fFceCfgEnable (c : Nat) : FieldAt := ⟨fceBase c + 0x8, 0, 1⟩
def fFceCfgRate (c : Nat) : FieldAt := ⟨fceBase c + 0x8, 1, 2⟩
def fFceCfgCemask (c : Nat) : FieldAt := ⟨fceBase c + 0x8, 8, 8⟩
def fFceCfgRetrymax (c : Nat) : FieldAt := ⟨fceBase c + 0x8, 16, 5⟩
def fFceCfgRetrywarn (c : Nat) : FieldAt := ⟨fceBase c + 0x8, 21, 5⟩
def fFcePollFirstr (c : Nat) : FieldAt := ⟨fceBase c + 0x10, 0, 12⟩
def fFcePollFirsts (c : Nat) : FieldAt := ⟨fceBase c + 0x10, 12, 12⟩
def fFcePollFirstq (c : Nat) : FieldAt := ⟨fceBase c + 0x10, 24, 12⟩
def fFcePollFirste (c : Nat) : FieldAt := ⟨fceBase c + 0x10, 36, 12⟩
def fFcePollInterval (c : Nat) : FieldAt := ⟨fceBase c + 0x10, 48, 16⟩
def fFceSpareSparemin (c : Nat) : FieldAt := ⟨fceBase c + 0x20, 0, 16⟩
def fFceSpareSparefmt (c : Nat) : FieldAt := ⟨fceBase c + 0x20, 16, 16⟩
def fCoreCapArrays (c : Nat) : FieldAt := ⟨coreBase c + 0x0, 0, 3⟩
def fCoreCapRows (c : Nat) : FieldAt := ⟨coreBase c + 0x0, 3, 8⟩
def fCoreCapCols (c : Nat) : FieldAt := ⟨coreBase c + 0x0, 11, 8⟩
def fCoreCapStorekib (c : Nat) : FieldAt := ⟨coreBase c + 0x0, 19, 12⟩
def fCoreCapDie (c : Nat) : FieldAt := ⟨coreBase c + 0x0, 31, 1⟩
def fCoreCapScaleregs (c : Nat) : FieldAt := ⟨coreBase c + 0x0, 32, 10⟩
def fCoreCapTopk (c : Nat) : FieldAt := ⟨coreBase c + 0x0, 42, 11⟩
def fCoreCtlEnable (c : Nat) : FieldAt := ⟨coreBase c + 0x8, 0, 1⟩
def fCoreCtlBallast (c : Nat) : FieldAt := ⟨coreBase c + 0x8, 1, 1⟩
def fCoreCtlChktol (c : Nat) : FieldAt := ⟨coreBase c + 0x8, 2, 5⟩
def fCoreStateLease (c : Nat) : FieldAt := ⟨coreBase c + 0x10, 0, 16⟩
def fCoreStateFrozen (c : Nat) : FieldAt := ⟨coreBase c + 0x10, 16, 1⟩
def fCoreStateHold (c : Nat) : FieldAt := ⟨coreBase c + 0x10, 17, 1⟩
def fCoreStateBallaston (c : Nat) : FieldAt := ⟨coreBase c + 0x10, 18, 1⟩
def fCoreStateQuar (c : Nat) : FieldAt := ⟨coreBase c + 0x10, 19, 1⟩
def fCoreStateSuspect (c : Nat) : FieldAt := ⟨coreBase c + 0x10, 20, 1⟩
def fCoreStepcyc (c : Nat) : FieldAt := ⟨coreBase c + 0x20, 0, 64⟩
def fNbuCapSlots (c : Nat) : FieldAt := ⟨nbuBase c + 0x0, 0, 8⟩
def fNbuCapUstore (c : Nat) : FieldAt := ⟨nbuBase c + 0x0, 8, 10⟩
def fNbuCapMac (c : Nat) : FieldAt := ⟨nbuBase c + 0x0, 18, 1⟩
def fNbuCapLanes (c : Nat) : FieldAt := ⟨nbuBase c + 0x0, 19, 7⟩
def fNbuCapHeapn (c : Nat) : FieldAt := ⟨nbuBase c + 0x0, 26, 6⟩
def fNbuCapQbits (c : Nat) : FieldAt := ⟨nbuBase c + 0x0, 32, 11⟩
def fNbuCtlEnable (c : Nat) : FieldAt := ⟨nbuBase c + 0x8, 0, 1⟩
def fNbuCtlDrain (c : Nat) : FieldAt := ⟨nbuBase c + 0x8, 1, 1⟩
def fNbuCtlCewarn (c : Nat) : FieldAt := ⟨nbuBase c + 0x8, 8, 8⟩
def fNbuGoGo (c : Nat) : FieldAt := ⟨nbuBase c + 0x18, 0, 16⟩
def fNbuStateRunslot (c : Nat) : FieldAt := ⟨nbuBase c + 0x20, 0, 4⟩
def fNbuStateRunning (c : Nat) : FieldAt := ⟨nbuBase c + 0x20, 4, 1⟩
def fNbuStatePaused (c : Nat) : FieldAt := ⟨nbuBase c + 0x20, 5, 1⟩
def fNbuStateReadymask (c : Nat) : FieldAt := ⟨nbuBase c + 0x20, 16, 16⟩
def fNbuPattern (c : Nat) : FieldAt := ⟨nbuBase c + 0x28, 0, 64⟩

end Sys2Proof.Machine
end

