-- ==== Sys2Proof/Machine/Table.lean ====
section
/-! DEFINITION. Operations on sparse tables: lists of a key and a value whose keys rise strictly. A table with a default
lists no key at its default value, so that equal tables are equal data (`Tbl.wf`). -/

namespace Sys2Proof

/-- The value listed for a key. -/
def Tbl.find {α : Type} (t : Tbl α) (k : Nat) : Option α :=
  match t with
  | [] => none
  | (j, v) :: r => if j = k then some v else Tbl.find r k

/-- The value of a key, `d` where none is listed. -/
def Tbl.get {α : Type} (d : α) (t : Tbl α) (k : Nat) : α :=
  (Tbl.find t k).getD d

/-- Is the key listed? -/
def Tbl.has {α : Type} (t : Tbl α) (k : Nat) : Bool :=
  (Tbl.find t k).isSome

/-- Lists `v` for `k`, in its place in the order. -/
def Tbl.set {α : Type} (t : Tbl α) (k : Nat) (v : α) : Tbl α :=
  match t with
  | [] => [(k, v)]
  | (j, w) :: r =>
    if k < j then (k, v) :: (j, w) :: r
    else if j = k then (k, v) :: r
    else (j, w) :: Tbl.set r k v

/-- Removes a key. -/
def Tbl.erase {α : Type} (t : Tbl α) (k : Nat) : Tbl α :=
  t.filter (fun e => !decide (e.1 = k))

/-- Writes a table with default `d`: the default itself is not listed. -/
def Tbl.put {α : Type} [DecidableEq α] (d : α) (t : Tbl α) (k : Nat) (v : α) : Tbl α :=
  if v = d then Tbl.erase t k else Tbl.set t k v

/-- Changes the value of a listed key; a key that is not listed stays so. -/
def Tbl.modify {α : Type} (t : Tbl α) (k : Nat) (f : α → α) : Tbl α :=
  t.map (fun e => if e.1 = k then (e.1, f e.2) else e)

/-- Removes every key at which `p` holds. -/
def Tbl.drop {α : Type} (t : Tbl α) (p : Nat → Bool) : Tbl α :=
  t.filter (fun e => !p e.1)

/-- The keys of a table. -/
def Tbl.keys {α : Type} (t : Tbl α) : List Nat :=
  t.map (·.1)

/-- Does every key of the table exceed `n`? -/
def Tbl.above {α : Type} (n : Nat) (t : Tbl α) : Bool :=
  t.all (fun e => decide (n < e.1))

/-- The canonical form: keys rise strictly and no entry holds the default. -/
def Tbl.wf {α : Type} [DecidableEq α] (d : α) (t : Tbl α) : Bool :=
  match t with
  | [] => true
  | (k, v) :: r => decide (v ≠ d) && Tbl.above k r && Tbl.wf d r

/-- The lowest number from `lo`, among `n` candidates, at which no key of the table stands. -/
def Tbl.lowestFree {α : Type} (t : Tbl α) (lo n : Nat) : Option Nat :=
  match n with
  | 0 => none
  | m + 1 => if Tbl.has t lo then Tbl.lowestFree t (lo + 1) m else some lo

end Sys2Proof
end

