-- ==== Sys2Proof/Machine/Regs.lean ====
section
/-! DEFINITION. Reading and changing registers inside the node: words, fields, counters, events. Every register has one
home, `State.regs`; a word that is not listed there holds its reset value. What a requester sees and may change through the
bus stands in Machine/Register.lean. -/

namespace Sys2Proof.Machine

/-- The outcome of a command. -/
abbrev Outcome := Host.Outcome State Fault Refusal

/-- The 32-bit word at an address of a base page. -/
def State.word (s : State) (a : Nat) : W32 := Tbl.get (resetWord s.hw a) s.regs a

/-- Sets the word at an address of a base page. -/
def State.setWord (s : State) (a : Nat) (w : W32) : State :=
  { s with regs := Tbl.put (resetWord s.hw a) s.regs a w }

/-- The 64-bit value of a register of two words (R532). -/
def State.reg64 (s : State) (a : Nat) : Nat := (s.word a).toNat + 2 ^ 32 * (s.word (a + 4)).toNat

/-- Sets a register of two words. -/
def State.setReg64 (s : State) (a x : Nat) : State :=
  (s.setWord a (BitVec.ofNat 32 x)).setWord (a + 4) (BitVec.ofNat 32 (x / 2 ^ 32))

/-- The value of a field. -/
def State.fld (s : State) (f : FieldAt) : Nat :=
  if f.lo + f.n ≤ 32 then bits (s.word f.addr).toNat f.lo f.n else bits (s.reg64 f.addr) f.lo f.n

/-- Sets a field, leaving the register's other fields as they are. -/
def State.setFld (s : State) (f : FieldAt) (v : Nat) : State :=
  if f.lo + f.n ≤ 32 then s.setWord f.addr (BitVec.ofNat 32 (putBits (s.word f.addr).toNat f.lo f.n v))
  else s.setReg64 f.addr (putBits (s.reg64 f.addr) f.lo f.n v)

/-- A one-bit field as a Bool. -/
def State.flag (s : State) (f : FieldAt) : Bool := s.fld f != 0

/-- Adds to a 64-bit counter. -/
def State.count (s : State) (a k : Nat) : State := s.setReg64 a ((s.reg64 a + k) % 2 ^ 64)

/-- Is an event bit set? -/
def State.evtBit (s : State) (a b : Nat) : Bool := bitOf (s.word a).toNat b

/-- SEQ of an event status register (R538). -/
def evtSeq (w : W32) : Nat := w.toNat / 2 ^ 24

/-- An event word after the hardware records an event: its bit is set and SEQ advances modulo 256 (R538). -/
def evtRecord (w : W32) (b : Nat) : W32 :=
  BitVec.ofNat 32 ((w.toNat % 2 ^ 24 ||| 2 ^ b) + 2 ^ 24 * ((evtSeq w + 1) % 256))

/-- Records an event in an event status register (R538). -/
def State.event (s : State) (a b : Nat) : State := s.setWord a (evtRecord (s.word a) b)

/-- A write that clears bits of an event word whose SEQ it names (R539); none when the SEQ is stale. -/
def sqClear (w x : W32) : Option W32 :=
  if evtSeq w = evtSeq x then some (BitVec.ofNat 32 ((w.toNat % 2 ^ 24 &&& (0xFFFFFF - x.toNat % 2 ^ 24)) + 2 ^ 24 * evtSeq w))
  else none

/-- FAB_HWM after its mark rises to `v` (R398, R538). -/
def hwmRaise (w : W32) (v : Nat) : W32 :=
  if w.toNat % 2 ^ 24 < min v (2 ^ 24 - 1) then
    BitVec.ofNat 32 (min v (2 ^ 24 - 1) + 2 ^ 24 * ((evtSeq w + 1) % 256))
  else w

/-- The place of a block in the order TOP, CORE, NBU, FCE, FTL, FAB, NRG, CHK, SEC, MGT, HST, CAS (R529, R558), if the word
at offset `o` of it is an event status register. -/
def evtPrefix (n o : Nat) : Option Nat :=
  match blkOf n with
  | .top => if o = 0x40 then some 0 else none
  | .core _ => if o = 0x18 then some 1 else none
  | .nbu _ => if o = 0x10 then some 2 else none
  | .fce _ => if o = 0x18 then some 3 else none
  | .ftl => if o = 0x20 then some 4 else none
  | .port _ => if o = 0x10 then some 5 else none
  | .trans => if o = 0x18 then some 5 else none
  | .nrg => if o = 0x28 then some 6 else none
  | .chk => if o = 0x08 then some 7 else none
  | .sec => if o = 0x10 then some 8 else none
  | .mgt => if o = 0x08 then some 9 else none
  | .hst => if o = 0x18 then some 10 else none
  | .cas => if o = 0x20 then some 11 else none
  | _ => none

/-- TOP_EVTSUM (R558): bit b is set while an event status register of block prefix b holds a set event bit. -/
def State.evtSum (s : State) : Nat :=
  s.regs.foldl (fun m e =>
    match evtPrefix (e.1 / 0x10000) (e.1 % 0x10000) with
    | some b => if e.2.toNat % 2 ^ 24 = 0 then m else m ||| 2 ^ b
    | none => m) 0

/-- Sets every word of a block back to its reset value. -/
def State.resetBlock (s : State) (n : Nat) : State :=
  { s with regs := Tbl.drop s.regs (fun a => a / 0x10000 == n),
           stagedW := Tbl.drop s.stagedW (fun a => a % 0x4000000 / 0x10000 == n) }

/-- Adds to the model's trace of what the node drives. -/
def State.emit (s : State) (o : Out) : State := { s with out := o :: s.out }

/-- Draws the next free value (log 9). -/
def State.drawFree (s : State) : State := { s with free := s.free + 1 }

/-- The free value that the next draw brings (log 9). -/
def State.freeNow (s : State) : Nat := Config.freeValue s.free

/-- A host error, or another outcome that the spec calls unpredictable (R12, R13): the node does not check for it and goes on. The trace
names the rule and the free value drawn, which whatever the operation touches takes (log 94). -/
def State.hostErr (s : State) (rule : Nat) : State := (s.emit (.unpredictable rule s.freeNow)).drawFree

/-- Applies a change for every element of a list, in order. -/
def State.each {α : Type} (s : State) (l : List α) (f : α → State → State) : State :=
  l.foldl (fun t x => f x t) s

end Sys2Proof.Machine
end

