-- ==== Sys2Proof/Machine/IdxEnc.lean ====
section
/-! DEFINITION. The structures of the indexes as bytes: their sizes (R36, R42, R46, R49, R53, R67), their encodings (R40, R50, R58, R64), and
where the node-wide tables stand in HBM (R36; log 106). -/

namespace Sys2Proof.Machine

/-! ## Sizes of index structures -/

/-- Sketch width in bits (R42). -/
def skBits (skw : Nat) : Nat := 128 * 2 ^ skw

/-- Bytes of the coarse table, the fine table, the projection matrix and the scale vector (R36, R46, R49). -/
def coarseBytes (c : CreateFields) : Nat := c.ncoarse * (c.dim / 2)
def fineBytes (c : CreateFields) : Nat := 64 * c.ncoarse * (c.dim / 2)
def projBytes (c : CreateFields) : Nat := skBits c.skw * (c.dim / 2)
def scaleBytes (c : CreateFields) : Nat := 4 * c.dim

/-- Rows of the sketch, entry and mask regions of an extent of `cap` slots (R53). -/
def skRows (c : CreateFields) (cap : Nat) : Nat := cap * skBits c.skw / 8192
def entRows (cap : Nat) : Nat := cap / 64
def planeLines (cap : Nat) : Nat := ceilDiv cap 512
def maskRows (c : CreateFields) (cap : Nat) : Nat := ceilDiv ((1 + c.planes) * planeLines cap) 16
def extRows (c : CreateFields) (cap : Nat) : Nat := skRows c cap + entRows cap + maskRows c cap

/-- Bytes of a copy slot (R67). -/
def copySlot (c : CreateFields) : Nat := roundUp (ceilDiv (c.dim * fmtWidth c.vfmt) 8) 32

/-- Record numbers of an index (R40). -/
def recSpace (c : CreateFields) : Nat := ceilDiv (c.maxitems * 5) 4

/-! ## Encodings -/

/-- The code of an index state (R41). -/
def idxStateCode (x : IdxState) : Nat :=
  match x with | .free => 0 | .building => 1 | .active => 2 | .detached => 3 | .deleting => 4

/-- The code of a list state (R51). -/
def listStateCode (x : ListState) : Nat := match x with | .free => 0 | .active => 1 | .forward => 2 | .dead => 3

/-- The first 128 bytes of a descriptor (R40). -/
def descHead (d : Desc) : List Byte :=
  let c := d.c
  leBytes 2 c.tenant ++ leBytes 2 c.index ++ leBytes 1 (idxStateCode d.st) ++ leBytes 1 c.skw ++ leBytes 1 c.vfmt
  ++ leBytes 1 c.metric ++ leBytes 2 c.dim ++ leBytes 1 c.planes ++ leBytes 1 c.fpc ++ leBytes 4 d.coarse0
  ++ leBytes 4 c.ncoarse ++ leBytes 2 d.epoch ++ leBytes 2 c.sidecap ++ leBytes 2 c.mergeth ++ leBytes 2 c.compth
  ++ leBytes 4 c.splitth ++ leBytes 4 c.jointh ++ leBytes 4 c.vscale ++ leBytes 8 d.coarseadr ++ leBytes 8 d.fineadr
  ++ leBytes 8 d.projadr ++ leBytes 8 d.scaleadr ++ leBytes 8 d.diradr ++ leBytes 4 c.dirn ++ zeros 4
  ++ leBytes 8 c.maxitems ++ leBytes 8 d.live ++ leBytes 8 (recSpace c) ++ leBytes 1 c.cfmt ++ leBytes 1 c.store ++ zeros 2
  ++ leBytes 4 d.splan ++ leBytes 4 d.uplan ++ zeros 4

/-- The 256 bytes of a descriptor (R40). -/
def descBytes (d : Desc) : List Byte :=
  descHead d ++ leBytes 4 (b2n d.sealValid) ++ leBytes 4 d.sealSeq ++ padTo 32 d.sealDig ++ zeros 24
  ++ leBytes 4 d.skipedge ++ leBytes 4 d.mdefer ++ leBytes 4 d.sdefer ++ leBytes 4 d.sidefull ++ zeros 48

/-- Live entries of a list (R50). -/
def Hdr.livec (h : Hdr) : Nat := h.mcount + h.scount - h.tombs

/-- The 64 bytes of a list header (R50). -/
def hdrBytes (l : Nat) (h : Hdr) : List Byte :=
  leBytes 4 (l + listStateCode h.st * 2 ^ 22) ++ leBytes 1 h.home ++ leBytes 1 (b2n h.copy) ++ leBytes 2 h.gen
  ++ leBytes 4 h.mbase ++ leBytes 4 h.mcount ++ leBytes 4 h.mcap ++ leBytes 4 h.sbase ++ leBytes 2 h.scount
  ++ leBytes 2 h.scap ++ leBytes 4 h.tombs ++ leBytes 4 h.livec ++ leBytes 4 h.succ ++ leBytes 2 h.fepoch
  ++ leBytes 2 h.owner ++ zeros 4 ++ leBytes 8 h.mcopy ++ leBytes 8 h.scopy

/-- The 64 bytes of an adjacency record (R64). -/
def adjBytes (l : Nat) (a : Adj) : List Byte :=
  leBytes 4 l ++ leBytes 2 a.aepoch ++ leBytes 1 a.nbs.length ++ zeros 1
  ++ (List.range 8).flatMap (fun i => leBytes 4 (a.nbs.getD i (0, 0)).1)
  ++ (List.range 8).flatMap (fun i => leBytes 2 (a.nbs.getD i (0, 0)).2) ++ zeros 8

/-- The code of DST (R58), and the four bytes of a directory entry. -/
def dstCode (x : Dst) : Nat := match x with | .empty => 0 | .live => 1 | .deleted => 2
def dirEntCode (e : DirEnt) : Nat := e.list % 2 ^ 22 + e.fp % 2 ^ 8 * 2 ^ 22 + dstCode e.dst * 2 ^ 30

/-! ## The node-wide tables (R36) -/

/-- Interleaved offsets of the descriptor, mask, header and adjacency tables, and their end. -/
def descBase : Nat := 4096
def maskBase : Nat := descBase + 256 * 1024
def hdrBase : Nat := maskBase + 8 * 65536
def adjBase : Nat := hdrBase + 64 * 4194304
def tablesEnd : Nat := adjBase + 64 * 4194304

/-- A directory key, and the entry in a bucket that nothing has written (R58). -/
def dirKey (n bucket e : Nat) : Nat := n * 2 ^ 36 + bucket * 16 + e
def dirEmpty : DirEnt := ⟨0, 0, .empty⟩

/-- The byte that a node-wide table or an item directory holds at an interleaved offset; none where no such structure stands. -/
def Idx.tableByte (x : Idx) (a : Nat) : Option Byte :=
  let at_ := fun (bs : List Byte) (i : Nat) => some (bs.getD i 0)
  if a < descBase then none
  else if a < maskBase then
    match Tbl.find x.desc ((a - descBase) / 256) with
    | some d => at_ (descBytes d) ((a - descBase) % 256)
    | none => some 0
  else if a < hdrBase then at_ (leBytes 8 (Tbl.get 0 x.mask ((a - maskBase) / 8)).toNat) ((a - maskBase) % 8)
  else if a < adjBase then
    match Tbl.find x.hdr ((a - hdrBase) / 64) with
    | some h => at_ (hdrBytes ((a - hdrBase) / 64) h) ((a - hdrBase) % 64)
    | none => some 0
  else if a < tablesEnd then
    match Tbl.find x.adj ((a - adjBase) / 64) with
    | some r => at_ (adjBytes ((a - adjBase) / 64) r) ((a - adjBase) % 64)
    | none => some 0
  else
    match x.desc.find? (fun e => decide (e.2.diradr ≤ a) && decide (a < e.2.diradr + 64 * e.2.c.dirn)) with
    | some e =>
      let o := a - e.2.diradr
      at_ (leBytes 4 (dirEntCode (Tbl.get dirEmpty x.dir (dirKey e.1 (o / 64) (o % 64 / 4))))) (o % 4)
    | none => none

end Sys2Proof.Machine
end

