-- ==== Sys2Proof/Machine/Mem.lean ====
section
/-! DEFINITION. The memories: HBM addresses (R326 to R328), the poison bit of every 64-byte line (R453, R455), and the
allocation of channel rows and of the interleaved area (R37, R329). Byte tables list no zero byte and poison tables no clear
bit: cold power-on leaves every memory zero and clean (R580). -/

namespace Sys2Proof.Machine

/-! ## Bytes and lines -/

/-- `n` bytes of a byte table from a key. -/
def rdBytes (t : Tbl Byte) (k n : Nat) : List Byte :=
  (List.range n).map (fun i => Tbl.get 0 t (k + i))

/-- Writes bytes from a key. -/
def wrBytes (t : Tbl Byte) (k : Nat) (bs : List Byte) : Tbl Byte :=
  match bs with
  | [] => t
  | b :: r => wrBytes (Tbl.put 0 t k b) (k + 1) r

/-- The 64-byte lines that `n` bytes from a key touch. -/
def linesOf (k n : Nat) : List Nat :=
  if n = 0 then [] else (List.range ((k + n - 1) / 64 - k / 64 + 1)).map (· + k / 64)

/-- Does a write of `n` bytes from a key replace the whole line? -/
def coversLine (k n l : Nat) : Bool := k ≤ 64 * l && 64 * l + 64 ≤ k + n

/-- Poison after a write of clean bytes: a line whose 64 bytes are all replaced is clean, any other keeps its bit (R455). -/
def poisClean (p : Tbl Bool) (k n : Nat) : Tbl Bool :=
  (linesOf k n).foldl (fun q l => if coversLine k n l then Tbl.put false q l false else q) p

/-- Sets the poison bit of lines. -/
def poisSet (p : Tbl Bool) (ls : List Nat) : Tbl Bool :=
  ls.foldl (fun q l => Tbl.put false q l true) p

/-- Is any line that the bytes touch poisoned? -/
def poisAny (p : Tbl Bool) (k n : Nat) : Bool := (linesOf k n).any (fun l => Tbl.get false p l)

/-- Poison of the `n` lines from a line, first line first. -/
def poisBits (p : Tbl Bool) (l n : Nat) : List Bool := (List.range n).map (fun i => Tbl.get false p (l + i))

/-! ## HBM addresses -/

/-- NCH of R327. -/
def State.nch (s : State) : Nat := s.hw.variant.channels

/-- IROW0 (R552, R608). -/
def State.irow0 (s : State) : Nat := s.fld fTopCapMemoryIrow0

/-- Rows of a channel: 80 GB per stack of 32 channels of 1,024-byte rows (R1, R37; log 10). -/
def rowsPerChannel : Nat := 2441406

/-- The key of a byte of a channel. -/
def chKey (ch off : Nat) : Nat := ch * 2 ^ 32 + off

/-- The key of the first byte of a row. -/
def rowKey (ch row : Nat) : Nat := chKey ch (1024 * row)

/-- The key of an interleaved offset (R328). -/
def State.ilvKey (s : State) (x : Nat) : Nat :=
  chKey (x / 4096 % s.nch) (1024 * (s.irow0 + 4 * (x / 4096 / s.nch)) + x % 4096)

/-- The key of an HBM address (R327): FORM 0 or 1; none for a reserved form, a channel that does not exist or a row beyond
the channel. -/
def State.hbmKey (s : State) (a : Nat) : Option Nat :=
  let k := if bits a 44 2 = 0 then some (s.ilvKey (bits a 0 44))
    else if bits a 44 2 = 1 ∧ bits a 32 8 < s.nch then some (chKey (bits a 32 8) (bits a 0 32)) else none
  k.filter (fun x => x % 2 ^ 32 < 1024 * rowsPerChannel)

/-- The interleaved offset space in bytes (R328). -/
def State.ilvSize (s : State) : Nat := (rowsPerChannel - s.irow0) / 4 * s.nch * 4096

/-- Bytes of the HDM window, at the top of the interleaved offset space (R513). -/
def State.hdmBytes (s : State) : Nat := s.fld fHstCfgHdmsize * 2 ^ 28

/-- The interleaved offset of an HBM key, none in a local area. -/
def State.keyIlv (s : State) (k : Nat) : Option Nat :=
  let ch := k / 2 ^ 32
  let row := k % 2 ^ 32 / 1024
  if row < s.irow0 then none
  else some ((((row - s.irow0) / 4) * s.nch + ch) * 4096 + (row - s.irow0) % 4 * 1024 + k % 1024)

/-- The byte at an interleaved offset, and at an HBM key: of an index structure that the elders keep, or as last written. -/
def State.ilvByte (s : State) (x : Nat) : Byte := (s.idx.tableByte x).getD (Tbl.get 0 s.mem.hbm (s.ilvKey x))
def State.hbmByte (s : State) (k : Nat) : Byte := ((s.keyIlv k).bind s.idx.tableByte).getD (Tbl.get 0 s.mem.hbm k)

/-- The bytes of an interleaved range. -/
def State.ilvRead (s : State) (x n : Nat) : List Byte := (List.range n).map (fun i => s.ilvByte (x + i))

/-- The lines of an interleaved range, as line numbers of HBM. -/
def State.ilvLines (s : State) (x n : Nat) : List Nat := (linesOf x n).map (fun l => s.ilvKey (64 * l) / 64)

/-- Is a line of an interleaved range poisoned? -/
def State.ilvPois (s : State) (x n : Nat) : Bool := (s.ilvLines x n).any (fun l => Tbl.get false s.mem.hbmPoison l)

/-- Byte table after a write to an interleaved range. -/
def ilvWr (f : Nat → Nat) (t : Tbl Byte) (x : Nat) (bs : List Byte) : Tbl Byte :=
  match bs with
  | [] => t
  | b :: r => ilvWr f (Tbl.put 0 t (f x) b) (x + 1) r

/-- Writes clean bytes to an interleaved range (R455). -/
def State.ilvWrite (s : State) (x : Nat) (bs : List Byte) : State :=
  { s with mem := { s.mem with
      hbm := ilvWr s.ilvKey s.mem.hbm x bs,
      hbmPoison := (linesOf x bs.length).foldl (fun q l =>
        if coversLine x bs.length l then Tbl.put false q (s.ilvKey (64 * l) / 64) false else q) s.mem.hbmPoison } }

/-- Reads bytes of one channel. -/
def State.chRead (s : State) (ch off n : Nat) : List Byte := (List.range n).map (fun i => s.hbmByte (chKey ch off + i))

/-- Writes clean bytes to one channel (R455). -/
def State.chWrite (s : State) (ch off : Nat) (bs : List Byte) : State :=
  { s with mem := { s.mem with hbm := wrBytes s.mem.hbm (chKey ch off) bs,
                               hbmPoison := poisClean s.mem.hbmPoison (chKey ch off) bs.length } }

/-- Is a byte range of a channel poisoned? -/
def State.chPois (s : State) (ch off n : Nat) : Bool := poisAny s.mem.hbmPoison (chKey ch off) n

/-- Puts the poison marker on lines of HBM (R150, R450, R456). -/
def State.hbmPoisonLines (s : State) (ls : List Nat) : State :=
  { s with mem := { s.mem with hbmPoison := poisSet s.mem.hbmPoison ls } }

/-! ## Core stores and commons -/

def coreKey (core off : Nat) : Nat := core * 2 ^ 21 + off
def commonsKey (die off : Nat) : Nat := die * 2 ^ 26 + off

/-- Bytes of a core store. -/
def State.storeRead (s : State) (core off n : Nat) : List Byte := rdBytes s.mem.store (coreKey core off) n

/-- Is a byte range of a core store poisoned? -/
def State.storePois (s : State) (core off n : Nat) : Bool := poisAny s.mem.storePoison (coreKey core off) n

/-- Writes clean bytes to a core store. -/
def State.storeWrite (s : State) (core off : Nat) (bs : List Byte) : State :=
  { s with mem := { s.mem with store := wrBytes s.mem.store (coreKey core off) bs,
                               storePoison := poisClean s.mem.storePoison (coreKey core off) bs.length } }

/-- Poisons lines of the core stores. -/
def State.storePoisonLines (s : State) (ls : List Nat) : State :=
  { s with mem := { s.mem with storePoison := poisSet s.mem.storePoison ls } }

/-- Sets the fill bit of the lines of a range of a core store (R247). -/
def State.storeFill (s : State) (core off n : Nat) (filled : Bool) : State :=
  { s with mem := { s.mem with storeFilled :=
      (linesOf (coreKey core off) n).foldl (fun q l => Tbl.put false q l filled) s.mem.storeFilled } }

/-- Are all lines of a range of a core store FILLED (R247)? -/
def State.storeFull (s : State) (core off n : Nat) : Bool :=
  (linesOf (coreKey core off) n).all (fun l => Tbl.get false s.mem.storeFilled l)

/-- The copies of coarse centroid tables that each die's commons holds while their indexes are ACTIVE (R36): index and offset. They lie at
the top of the commons, above every allotment of a lease, in index order, as far as they fit (log 107). -/
def State.comCopies (s : State) : List (Nat × Nat) :=
  let low := s.work.leases.foldl (fun m e => max m ((e.2.comSpan.map (fun x => x.base + x.len)).getD 0)) 0
  (s.idx.desc.foldl (fun (z : Nat × List (Nat × Nat)) e =>
    let n := coarseBytes e.2.c
    if e.2.st = .active ∧ low + n ≤ z.1 then (z.1 - n, z.2 ++ [(e.1, z.1 - n)]) else z) (2 ^ 26, [])).2

/-- The end of the commons that leases may take. -/
def State.comEnd (s : State) : Nat := (s.comCopies.getLast?.map (·.2)).getD (2 ^ 26)

/-- The interleaved offset that a commons key copies, none for one that belongs to no copy. -/
def State.comOf (s : State) (k : Nat) : Option Nat :=
  let o := k % 2 ^ 26
  s.comCopies.findSome? (fun e =>
    (Tbl.find s.idx.desc e.1).bind (fun d => if e.2 ≤ o ∧ o < e.2 + coarseBytes d.c then some (d.coarseadr + (o - e.2)) else none))

/-- Bytes of the commons, and whether a line of it is poisoned. -/
def State.commonsRead (s : State) (k n : Nat) : List Byte :=
  (List.range n).map (fun i => match s.comOf (k + i) with
    | some x => s.ilvByte x
    | none => Tbl.get 0 s.mem.commons (k + i))
def State.commonsPois (s : State) (l : Nat) : Bool :=
  match s.comOf (64 * l) with
  | some x => s.ilvPois x 64
  | none => Tbl.get false s.mem.commonsPoison l

/-- Writes clean bytes to the commons. -/
def State.commonsWrite (s : State) (k : Nat) (bs : List Byte) : State :=
  { s with mem := { s.mem with commons := wrBytes s.mem.commons k bs,
                               commonsPoison := poisClean s.mem.commonsPoison k bs.length } }

/-! ## Allocation -/

/-- The first place of `n` units in [lo, hi) that meets no span of a list sorted by base (log 11). -/
def firstFit (used : List Span) (lo hi n : Nat) : Option Nat :=
  match used with
  | [] => if lo + n ≤ hi then some lo else none
  | u :: r => if lo + n ≤ u.base ∧ lo + n ≤ hi then some lo else firstFit r (max lo (u.base + u.len)) hi n

/-- Inserts a span in order of base. -/
def spanInsert (l : List Span) (x : Span) : List Span :=
  match l with
  | [] => [x]
  | u :: r => if x.base < u.base then x :: u :: r else u :: spanInsert r x

/-- The rows of a channel that are in use or withdrawn (R456), as spans in order. -/
def State.rowsUsed (s : State) (ch : Nat) : List Span :=
  (s.alloc.gone.filter (fun e => e.1 / 2 ^ 32 == ch)).foldl (fun l e => spanInsert l ⟨e.1 % 2 ^ 32, 1⟩)
    (Tbl.get [] s.alloc.rows ch)

/-- Takes `n` consecutive rows of a channel's local area (R37, R327); a channel whose currant failed its self-test takes no new
structure (R578). -/
def State.rowsTake (s : State) (ch n : Nat) : Option (Nat × State) :=
  if Tbl.get false s.alloc.deadCh ch then none
  else (firstFit (s.rowsUsed ch) 1 (min s.irow0 rowsPerChannel) n).map (fun b =>
    (b, { s with alloc := { s.alloc with
            rows := Tbl.put [] s.alloc.rows ch (spanInsert (Tbl.get [] s.alloc.rows ch) ⟨b, n⟩) } }))

/-- Frees a span of rows. -/
def State.rowsFree (s : State) (ch base : Nat) : State :=
  { s with alloc := { s.alloc with
      rows := Tbl.put [] s.alloc.rows ch ((Tbl.get [] s.alloc.rows ch).filter (fun u => u.base != base)) } }

/-- Cleans the poison of the lines of an interleaved range that is written whole (R455). -/
def State.ilvClean (s : State) (x n : Nat) : State :=
  { s with mem := { s.mem with hbmPoison := (s.ilvLines x n).foldl (fun q l => Tbl.put false q l false) s.mem.hbmPoison } }

/-- Takes `n` bytes of the interleaved area below the HDM window, in granules of 4,096 bytes (R329), behind the node-wide tables. The
first granule is left out, so that no structure has the address zero that means "none" (R50). -/
def State.areaTake (s : State) (n : Nat) : Option (Nat × State) :=
  let m := roundUp (max n 1) 4096
  (firstFit s.alloc.areas tablesEnd (s.ilvSize - s.hdmBytes) m).map (fun b =>
    (b, { s with alloc := { s.alloc with areas := spanInsert s.alloc.areas ⟨b, m⟩ } }))

/-- Frees an interleaved area; the check values of its granules go with it (R449). -/
def State.areaFree (s : State) (base : Nat) : State :=
  let n := ((s.alloc.areas.find? (fun u => u.base == base)).map (·.len)).getD 0
  let hit := fun (g : Nat) => decide (base ≤ 4096 * g) && decide (4096 * g < base + n)
  { s with alloc := { s.alloc with areas := s.alloc.areas.filter (fun u => u.base != base) },
           mem := { s.mem with checks := Tbl.drop s.mem.checks hit, checkLaddr := Tbl.drop s.mem.checkLaddr hit } }

end Sys2Proof.Machine
end

