-- ==== Sys2Proof/Machine/Ops.lean ====
section
/-! DEFINITION. The operations that many commands share: error records and event entries (R465, R524), completions (R519,
R520), the fetch of a submission entry (R517, R522, R523), quotas (R330 to R333) and status codes (R320). -/

namespace Sys2Proof.Machine

/-! ## Status codes -/

/-- The value of a status code (R320). -/
def statusCode (st : Status) : Nat :=
  match st with
  | .ok => 0x00 | .short => 0x01 | .caught => 0x02 | .tooLate => 0x03
  | .badArg => 0x10 | .keyFail => 0x11 | .bounds => 0x12 | .rights => 0x13 | .quota => 0x14 | .policed => 0x15
  | .notFound => 0x16 | .idExists => 0x17 | .indexFull => 0x18 | .noSpace => 0x19 | .notPresent => 0x1A | .notMine => 0x1B
  | .retryLater => 0x30 | .stale => 0x31 | .genMismatch => 0x32 | .reasmTimeout => 0x33 | .noConn => 0x34
  | .epochStale => 0x35
  | .tierTimeout => 0x40 | .poison => 0x41 | .checkFail => 0x42 | .aborted => 0x43 | .sigFail => 0x44 | .badPack => 0x45
  | .noResource => 0x46 | .planBusy => 0x47 | .rollback => 0x48 | .stepHang => 0x49
  | .nodeBusy => 0x50

/-! ## Where the node stands -/

/-- Does the node flush before it holds itself in reset (R491, R605)? -/
def State.lastFlush (s : State) : Bool :=
  match s.pwr.flushing with
  | some .holdup => true
  | some .thermal => true
  | _ => false

/-- The node has booted, and no reset is under way (R556, R584); in its last flush it serves nothing (log 42). -/
def State.serving (s : State) : Bool := s.pwr.phase == .running && !s.flag fTopStatusBusy && !s.lastFlush

/-- Does a brownout hold or its recovery wait last (R487, R490)? -/
def State.powerHeld (s : State) : Bool := s.pwr.vwarn || s.pwr.vwRecover

/-- The state after the node has acted, if it serves; a node that does not serve ignores the event (log 12). -/
def State.whenServing (s : State) (f : State → State) : Outcome := .next (if s.serving then f s else s)

/-- The state after an event, if the condition holds that the event needs; otherwise nothing has happened (log 12). -/
def State.onlyIf (s : State) (c : Bool) (f : State → State) : Outcome := .next (if c then f s else s)

/-- NODENUM (R440). -/
def State.nodeNum (s : State) : Nat := s.fld fCasCfgNodenum

/-- ROLE of R440: 0 ALONE, 1 MEMBER, 2 MASTER. -/
def State.role (s : State) : Nat := s.fld fCasCfgRole

/-- A unit address below or at this node: DEPTH, CORE and ARRAY put into CAS_ADDR (R22, R410). -/
def State.unitAddr (s : State) (depth core array : Nat) : Nat :=
  putBits (putBits (putBits (s.reg64 0x60000) 61 3 depth) 35 8 core) 33 2 array

/-! ## Completions -/

/-- Key of a queue of a function; no function has a queue of a number above 63 (R509, R511), so such a number has a key where no
queue stands. -/
def qKey (fn q : Nat) : Nat := if q < 64 then fn * 64 + q else 2 ^ 63 + fn * 2 ^ 32 + q

/-- Is the completion queue full (R520; log 13)? -/
def cqFull (c : Cq) : Bool := c.depth ≤ c.count

/-- Sets a completion queue. -/
def State.setCq (s : State) (k : Nat) (c : Cq) : State :=
  { s with host := { s.host with cqs := Tbl.set s.host.cqs k c } }

/-- Sets a submission queue. -/
def State.setSq (s : State) (k : Nat) (q : Sq) : State :=
  { s with host := { s.host with sqs := Tbl.set s.host.sqs k q } }

/-- A completion queue after one more entry (R519). -/
def cqAdvance (c : Cq) : Cq :=
  let last := c.tail + 1 == c.depth
  { c with tail := if last then 0 else c.tail + 1, phase := if last then !c.phase else c.phase, count := c.count + 1 }

/-- Writes an entry into a completion queue that has room (R519). -/
def State.cqWrite (s : State) (fn q : Nat) (c : Cq) (e : Cqe) : State :=
  ((s.setCq (qKey fn q) (cqAdvance c)).emit (.cqe fn q c.tail c.phase e)).count kHstCpls 1

/-- Posts an entry to a completion queue; it waits while the queue is full (R520). -/
def State.cqPost (s : State) (fn q : Nat) (e : Cqe) : State :=
  match Tbl.find s.host.cqs (qKey fn q) with
  | none => s
  | some c =>
    if cqFull c || !c.waiting.isEmpty || !c.enabled then
      s.setCq (qKey fn q) { c with waiting := c.waiting ++ [e] }
    else s.cqWrite fn q c e

/-- Posts an event entry to PF0's CQ 0 (R524): code and 14 bytes of data. It waits among at most 256, or is dropped. -/
def State.postEvent (s : State) (code : Nat) (data : List Byte) : State :=
  let e : Cqe := ⟨0xFFFF, .ok, 0, 0, 0, leBytes 2 code ++ padTo 14 data⟩
  match Tbl.find s.host.cqs 0 with
  | some c =>
    if s.host.evtq.isEmpty && !cqFull c && c.waiting.isEmpty then s.cqWrite 0 0 c e
    else if s.host.evtq.length < 256 then { s with host := { s.host with evtq := s.host.evtq ++ [e] } }
    else (s.event eHst 3).count kHstEvtdrops 1
  | none =>
    if s.host.evtq.length < 256 then { s with host := { s.host with evtq := s.host.evtq ++ [e] } }
    else (s.event eHst 3).count kHstEvtdrops 1

/-- Moves waiting completions and, on CQ 0, waiting event entries into a completion queue while it has room: `n` bounds the
entries moved. -/
def State.cqDrain (s : State) (fn q n : Nat) : State :=
  match n with
  | 0 => s
  | m + 1 =>
    match Tbl.find s.host.cqs (qKey fn q) with
    | none => s
    | some c =>
      if cqFull c || !c.enabled then s
      else
        match c.waiting, s.host.evtq with
        | e :: r, _ => (s.cqWrite fn q { c with waiting := r } e).cqDrain fn q m
        | [], e :: r =>
          if fn = 0 ∧ q = 0 then
            ({ s with host := { s.host with evtq := r } }.cqWrite fn q c e).cqDrain fn q m
          else s
        | [], [] => s

/-- Completes a command: its result bytes are written, then its completion entry (R519, R520). -/
def State.completeOne (s : State) (h : HostHdr) (st : Status) (result : List Byte) (inline_ : List Byte) : State :=
  match Tbl.find s.host.sqs (qKey h.fn h.q) with
  | none => s
  | some sq =>
    let head := ((sq.running.find? (fun r => r.1 == h.cid)).map (·.2)).getD sq.head
    let t := s.setSq (qKey h.fn h.q) { sq with running := sq.running.filter (fun r => r.1 != h.cid) }
    let u := if result.isEmpty then t else t.emit (.result h.fn h.q h.cid result)
    u.cqPost h.fn sq.cq ⟨h.cid, st, h.q, head, result.length, padTo 16 inline_⟩

/-- Ends a DELETE_SQ whose queue has no running command left (R521). -/
def State.settleSq (s : State) (w : HostHdr × HostWait) : State :=
  match w.2 with
  | .delSq fn q =>
    match Tbl.find s.host.sqs (qKey fn q) with
    | none => s
    | some sq =>
      if sq.running.isEmpty then
        ({ s with host := { s.host with sqs := Tbl.erase s.host.sqs (qKey fn q),
                                        waits := s.host.waits.filter (fun x => x != w) } }).completeOne w.1 .ok [] []
      else s
  | _ => s

/-- Completes a command, and a DELETE_SQ that waited for it. -/
def State.complete (s : State) (h : HostHdr) (st : Status) (result : List Byte) (inline_ : List Byte) : State :=
  let t := s.completeOne h st result inline_
  t.host.waits.foldl State.settleSq t

/-- Completes a command with a status and nothing else. -/
def State.completeSt (s : State) (h : HostHdr) (st : Status) : State := s.complete h st [] []

/-! ## Error records -/

/-- A report of an event: code and severity of R469 or R498, location, data values, and the work it affected. -/
structure Report where
  code    : Nat
  sev     : Nat
  loc     : List Byte
  dat     : List Nat
  uaddr   : Nat
  tenant  : Nat
  plan    : Nat
  steptag : Nat
  deriving DecidableEq, Repr

/-- The LOC layouts of R468. -/
def locCore (array core tag : Nat) : List Byte :=
  [1, BitVec.ofNat 8 array] ++ leBytes 2 core ++ zeros 4 ++ leBytes 8 tag
def locHbm (ch row line : Nat) : List Byte :=
  [2, BitVec.ofNat 8 (ch / 32), BitVec.ofNat 8 (ch % 32), 0] ++ leBytes 4 row ++ [BitVec.ofNat 8 line] ++ zeros 7
/-- The location of an HBM key. -/
def locKey (k : Nat) : List Byte := locHbm (k / 2 ^ 32) (k % 2 ^ 32 / 1024) (k % 1024 / 64)
def locFlash (ch ce plane block page unit : Nat) : List Byte :=
  [3, BitVec.ofNat 8 ch, BitVec.ofNat 8 ce, BitVec.ofNat 8 plane] ++ leBytes 2 block ++ leBytes 2 page ++ leBytes 8 unit
def locPort (port conn : Nat) : List Byte := [4, BitVec.ofNat 8 port] ++ leBytes 2 conn ++ zeros 12
def locPath (die link : Nat) : List Byte := [5, BitVec.ofNat 8 die] ++ leBytes 2 link ++ zeros 12
def locGroup (pos bseq : Nat) : List Byte := [6, BitVec.ofNat 8 pos, 0, 0] ++ leBytes 4 bseq ++ zeros 8
def locNode : List Byte := 7 :: zeros 15

/-- A report of the whole node, on no tenant's work. -/
def State.nodeReport (s : State) (code sev : Nat) (loc : List Byte) (dat : List Nat) : Report :=
  ⟨code, sev, loc, dat, s.unitAddr 2 0 0, 0xFFFF, 0, 0⟩

/-- The index of a record of the ring that an event is coalesced into: same CODE and LOC, written in the last second, read
by neither reader (R465). -/
def State.coalesceAt (s : State) (r : Report) : Option Nat :=
  s.chk.ring.findIdx? (fun c => c.code == r.code && c.loc == r.loc && decide (s.uptime ≤ c.uptime + 1000000)
    && decide (s.chk.hostMark ≤ c.rseq) && decide (s.chk.secMark ≤ c.rseq))

/-- The ring after a new record: the 4,096 last are kept and the read marks move past a record overwritten (R465). -/
def Chk.push (k : Chk) (c : Cper) : Chk :=
  if k.ring.length < 4096 then { k with ring := k.ring ++ [c], rseq := k.rseq + 1 }
  else
    let low := ((k.ring.drop 1).head?.map (·.rseq)).getD k.rseq
    { ring := k.ring.drop 1 ++ [c], rseq := k.rseq + 1, hostMark := max k.hostMark low, secMark := max k.secMark low }

/-- Would a new record overwrite one that the host has not read (R465)? -/
def Chk.overwrites (k : Chk) : Bool :=
  4096 ≤ k.ring.length && (k.ring.head?.any (fun c => decide (k.hostMark ≤ c.rseq)))

/-- Reports an event as a CPER record (R465, R467), and posts an event entry for a record newly written (R524). -/
def State.cper (s : State) (r : Report) : State :=
  match s.coalesceAt r with
  | some i => { s with chk := { s.chk with ring := s.chk.ring.modify i (fun c =>
      { c with count := satAdd 32 c.count 1, coal := true }) } }
  | none =>
    let c : Cper := ⟨r.code, r.sev, s.flag fTopStatusReplace, false, s.uptime, r.uaddr, s.nodeNum, r.tenant, r.plan,
      r.steptag, 1, s.chk.rseq, r.loc, r.dat, s.fld fChkReplaceQuarcnt, s.fld fChkReplaceSuspcnt,
      s.reg64 0x30010 % 2 ^ 32⟩
    let t := if s.chk.overwrites then s.event eChk 8 else s
    (({ t with chk := t.chk.push c }.count kChkCpers 1)).postEvent r.code
      (leBytes 4 c.rseq ++ [BitVec.ofNat 8 r.sev] ++ r.loc.take 9)

/-- Records an event bit and reports it. -/
def State.raise (s : State) (reg bit : Nat) (r : Report) : State := (s.event reg bit).cper r

/-- The 128 bytes of the Holtesk section of a record (R467). -/
def cperBytes (c : Cper) : List Byte :=
  leBytes 2 0x0100 ++ leBytes 2 128 ++ leBytes 2 c.code ++ leBytes 1 c.sev ++ leBytes 1 (b2n c.replace + 2 * b2n c.coal)
  ++ leBytes 8 c.uptime ++ leBytes 8 c.uaddr ++ leBytes 2 c.node ++ leBytes 2 c.tenant ++ leBytes 4 c.plan
  ++ leBytes 8 c.steptag ++ leBytes 4 c.count ++ leBytes 4 c.rseq ++ padTo 16 c.loc
  ++ padTo 32 (c.dat.flatMap (leBytes 8)) ++ leBytes 2 c.quarcnt ++ leBytes 2 c.suspcnt ++ leBytes 4 c.rcause ++ zeros 24

/-- The bytes of a GUID in the order UEFI gives them. -/
def guidBytes (a b c d e : Nat) : List Byte := leBytes 4 a ++ leBytes 2 b ++ leBytes 2 c ++ (leBytes 2 d).reverse ++ (leBytes 6 e).reverse

/-- The whole record: header and section descriptor as UEFI defines them, with the values of R466 (log 33), then the section. -/
def cperRecord (c : Cper) : List Byte :=
  let hd := guidBytes 0x9E41C7B2 0x5D08 0x4A63 0x8F1E 0x37B0D2A6C54E
  leBytes 4 0x52455043 ++ leBytes 2 0x0101 ++ leBytes 4 0xFFFFFFFF ++ leBytes 2 1 ++ leBytes 4 c.sev ++ leBytes 4 1
  ++ leBytes 4 328 ++ zeros 8 ++ leBytes 8 c.uaddr ++ zeros 8 ++ zeros 16
  ++ guidBytes 0x2F6A83D1 0xC4B9 0x4E70 0xA615 0x0B9D7E3C2A18 ++ hd ++ leBytes 8 c.rseq ++ zeros 24
  ++ leBytes 4 200 ++ leBytes 4 128 ++ leBytes 2 0x0100 ++ zeros 2 ++ zeros 4 ++ hd ++ zeros 16 ++ leBytes 4 c.sev ++ zeros 20
  ++ cperBytes c

/-- The payload of a HEALTH message (R573). -/
def State.healthBytes (s : State) : List Byte :=
  leBytes 8 (s.reg64 0x30) ++ leBytes 8 (s.reg64 0x30010) ++ leBytes 8 (s.reg64 0x20020)
  ++ leBytes 8 (s.reg64 0x58)

/-- First meeting of a REPLACE condition (R463, R464): bit of CHK_REPLACE, REPLACE of TOP_STATUS, the event, the record and
a management message, an unsolicited HEALTH (log 14). -/
def State.replace (s : State) (bit : Nat) : State :=
  if bitOf (s.reg64 0x30010) bit then s
  else
    let t := (s.setFld ⟨0x30010, bit, 1⟩ 1).setFld fTopStatusReplace 1
    (t.raise eChk 6 (t.nodeReport 0x0601 0 locNode [])).emit
      (.mgmt 0x03 0 .ok t.healthBytes)

/-- Retires a row (R456): remapped to a spare row of its bank (R118), which keeps its number in the model, or withdrawn where the bank
has no spare left. More than 1 % of a stack's rows raise REPLACE (R463). -/
def State.retireRow (s : State) (ch row : Nat) : State :=
  let k := ch * 2 ^ 32 + row
  let b := ch * 32 + row % 32
  if Tbl.get false s.alloc.gone k then s
  else
    let al := { s.alloc with ceRows := Tbl.erase s.alloc.ceRows k }
    let am := if Tbl.get 0 al.bankSpares b < Config.bankSpareRows then
        { al with bankSpares := Tbl.put 0 al.bankSpares b (Tbl.get 0 al.bankSpares b + 1) }
      else { al with gone := Tbl.put false al.gone k true }
    let t : State := { s with alloc := am }
    let u := (t.count (kChkRetrows (ch / 32)) 1).raise eChk 5 (t.nodeReport 0x0203 2 (locHbm ch row 0) [])
    if 32 * rowsPerChannel < 100 * u.reg64 (kChkRetrows (ch / 32)) then u.replace 2 else u

/-! ## Quotas -/

/-- The components of a quota record, in the order of R330. -/
def quotaList (q : QuotaRec) : List Nat :=
  [q.cores, q.leases, q.indexes, q.hbm, q.pool, q.hostmem, q.flash, q.commons, q.reslines, q.outreq, q.plans, q.tables]

/-- Componentwise sum. -/
def quotaAdd (a b : QuotaRec) : QuotaRec :=
  ⟨a.cores + b.cores, a.leases + b.leases, a.indexes + b.indexes, a.hbm + b.hbm, a.pool + b.pool, a.hostmem + b.hostmem,
   a.flash + b.flash, a.commons + b.commons, a.reslines + b.reslines, a.outreq + b.outreq, a.plans + b.plans,
   a.tables + b.tables⟩

/-- Componentwise release. -/
def quotaSub (a b : QuotaRec) : QuotaRec :=
  ⟨a.cores - b.cores, a.leases - b.leases, a.indexes - b.indexes, a.hbm - b.hbm, a.pool - b.pool, a.hostmem - b.hostmem,
   a.flash - b.flash, a.commons - b.commons, a.reslines - b.reslines, a.outreq - b.outreq, a.plans - b.plans,
   a.tables - b.tables⟩

/-- Does a charge fit: no component that it charges goes above its limit (R332, R333)? -/
def quotaFits (limit used c : QuotaRec) : Bool :=
  ((quotaList limit).zip ((quotaList used).zip (quotaList c))).all (fun x => x.2.2 == 0 || decide (x.2.1 + x.2.2 ≤ x.1))

/-- Does a charge exceed a limit outright (R332)? -/
def quotaOver (limit c : QuotaRec) : Bool :=
  ((quotaList limit).zip (quotaList c)).any (fun x => decide (x.1 < x.2))

/-- The 64 bytes of a quota record (R330). -/
def quotaBytes (tenant : Nat) (q : QuotaRec) : List Byte :=
  leBytes 2 tenant ++ leBytes 2 q.cores ++ leBytes 2 q.leases ++ leBytes 2 q.indexes ++ leBytes 8 q.hbm
  ++ leBytes 8 q.pool ++ leBytes 8 q.hostmem ++ leBytes 8 q.flash ++ leBytes 4 q.commons ++ leBytes 4 q.reslines
  ++ leBytes 4 q.outreq ++ leBytes 2 q.plans ++ leBytes 2 q.tables ++ zeros 8

/-- A tenant. -/
def State.tenant? (s : State) (t : Nat) : Option Tenant := Tbl.find s.work.tenants t

/-- Changes a tenant. -/
def State.modTenant (s : State) (t : Nat) (f : Tenant → Tenant) : State :=
  { s with work := { s.work with tenants := Tbl.modify s.work.tenants t f } }

/-- Does a charge fit a tenant's quotas? SYSTEM work (0xFFFF) is charged to the node reserve (R331). -/
def State.canCharge (s : State) (t : Nat) (c : QuotaRec) : Bool :=
  t == 0xFFFF || ((s.tenant? t).any (fun x => quotaFits x.limit x.used c))

/-- Charges a tenant. -/
def State.charge (s : State) (t : Nat) (c : QuotaRec) : State :=
  s.modTenant t (fun x => { x with used := quotaAdd x.used c })

/-- Releases a charge. -/
def State.release (s : State) (t : Nat) (c : QuotaRec) : State :=
  s.modTenant t (fun x => { x with used := quotaSub x.used c })

/-! ## The policer -/

/-- Takes `n` bytes from a tenant's policer (R391, R394): none when it holds too few. A PRATE of zero is off. -/
def policeTake (x : Tenant) (n : Nat) : Option Tenant :=
  if x.rate.prate = 0 then some x
  else if 8 * n ≤ x.ptokens then some { x with ptokens := x.ptokens - 8 * n } else none

/-! ## Fetching a submission entry -/

/-- The tenant bound to a function, none for an unbound VF (R509). -/
def State.boundTo (s : State) (fn : Nat) : Option Nat := Tbl.find s.host.binds fn

/-- Does a host command of a submission queue wait for work to end (R303, R377, R381, R426, R435, R521, R612)? -/
def State.hostWaiting (s : State) (fn q : Nat) : Bool :=
  let mine := fun (h : HostHdr) => h.fn == fn && h.q == q
  s.host.waits.any (fun w => mine w.1) || s.work.leases.any (fun e => e.2.closeReq.any mine)
  || s.cas.heldMap.any (fun m => mine m.h) || s.cas.resetWait.any mine

/-- Fetches the entry a command stands in (R517, R520): its queue exists and is enabled, holds an entry the doorbell has
rung, and its completion queue has room. A host command starts after the one before it from its queue has completed; a tenant
opcode does not wait for it (R522). -/
def State.fetch (s : State) (h : HostHdr) (hostOp : Bool) : Option State :=
  if !s.serving then none
  else
    match Tbl.find s.host.sqs (qKey h.fn h.q) with
    | none => none
    | some sq =>
      match Tbl.find s.host.cqs (qKey h.fn sq.cq) with
      | none => none
      | some cq =>
        if !sq.enabled || sq.head == sq.tail || cqFull cq || !cq.enabled || (hostOp && s.hostWaiting h.fn h.q) then none
        else
          let n := if sq.head + 1 == sq.depth then 0 else sq.head + 1
          some ((s.setSq (qKey h.fn h.q) { sq with head := n, running := sq.running ++ [(h.cid, n)] }).count
            kHstSqfetch 1)

/-- A VF's entry pays its tenant's policer first (R523); the answer is a status that ends the command, or the state to go on
with. An unbound VF answers KEY_FAIL (R509). -/
def State.vfAdmit (s : State) (h : HostHdr) : Except Status State :=
  if h.fn = 0 then .ok s
  else
    match s.boundTo h.fn with
    | none => .error .keyFail
    | some t =>
      match s.tenant? t with
      | none => .error .keyFail
      | some x =>
        match policeTake x (64 + h.dlen) with
        | none => .error .policed
        | some y => .ok (s.modTenant t (fun _ => y))

/-- Counts a POLICED answer (R391, R409). -/
def State.countPoliced (s : State) (t : Nat) : State :=
  (s.modTenant t (fun x => { x with poldrop := x.poldrop + 1 })).count kTraPoldrop 1

/-- A host command: fetched, refused with KEY_FAIL on a VF (R521), with NODE_BUSY on a port that is PCIe only (R505) and
otherwise run. -/
def State.hostRun (s : State) (h : HostHdr) (f : State → Outcome) : Outcome :=
  match s.fetch h true with
  | none => .next s
  | some t =>
    if t.host.pcieOnly then .next (t.completeSt h .nodeBusy)
    else
      match t.vfAdmit h with
      | .error st => .next ((if st = .policed then t.countPoliced ((t.boundTo h.fn).getD 0) else t).completeSt h st)
      | .ok u => if h.fn ≠ 0 then .next (u.completeSt h .keyFail) else f u

/-- A host command that has no malformed form. -/
def State.hostCmd (s : State) (h : HostHdr) (f : State → State) : Outcome := s.hostRun h (fun u => .next (f u))

/-- The status codes of R320. -/
def allStatus : List Status :=
  [.ok, .short, .caught, .tooLate, .badArg, .keyFail, .bounds, .rights, .quota, .policed, .notFound, .idExists, .indexFull, .noSpace,
   .notPresent, .notMine, .retryLater, .stale, .genMismatch, .reasmTimeout, .noConn, .epochStale, .tierTimeout, .poison, .checkFail,
   .aborted, .sigFail, .badPack, .noResource, .planBusy, .rollback, .stepHang, .nodeBusy]

/-- A host command that is a host error (R12, R13; log 94): what it names stays as it is, and its completion is free: none, or one with
any status. -/
def State.hostErrCmd (s : State) (h : HostHdr) (rule : Nat) : State :=
  let v := s.freeNow
  let t := s.hostErr rule
  if v % 2 = 0 then t else t.completeSt h (allStatus.getD (v / 2 % 33) .ok)

/-- A malformed privileged command is a host error (R13); any other goes on. -/
def State.wellFormed (s : State) (h : HostHdr) (rule : Nat) (c : Bool) (f : Outcome) : Outcome :=
  if c then f else .next (s.hostErrCmd h rule)

/-- Completes a command with result bytes; a result buffer too short for them is a host error (R517). -/
def State.answerWith (s : State) (h : HostHdr) (bs : List Byte) : Outcome :=
  s.wellFormed h 517 (decide (bs.length ≤ h.rlen)) (.next (s.complete h .ok bs []))

/-- An object a command names: NOT_FOUND if it does not exist (R609). -/
def State.need {α : Type} (s : State) (h : HostHdr) (o : Option α) (f : α → Outcome) : Outcome :=
  match o with
  | some x => f x
  | none => .next (s.completeSt h .notFound)

end Sys2Proof.Machine
end

