-- ==== Sys2Proof/Machine/FabOps.lean ====
section
/-! DEFINITION. Shared operations of the fabric: connections, messages to a peer, replies and the replay store (R358 to
R373), the chunk trailer of SYS data (R452), and the egress queues (R382, R392). -/

namespace Sys2Proof.Machine

/-! ## Ports and connections -/

/-- A port that holds nothing and whose link is down. -/
def portReset : Port :=
  { up := false, lost := false, paused := [], txPause := [], occ := [], egress := [], cdef := [], tdef := [], cturn := 0,
    tturn := [], ctokens := [], gate := 0, gateLeft := 0, armed := false, restart := false, sending := false, ctxs := [],
    refused := [], dead := [], staged := 0 }

/-- A port. -/
def State.port (s : State) (p : Nat) : Port := Tbl.get portReset s.fab.ports p

/-- Sets a port. -/
def State.setPort (s : State) (p : Nat) (x : Port) : State :=
  { s with fab := { s.fab with ports := Tbl.set s.fab.ports p x } }

/-- A connection. -/
def State.conn? (s : State) (c : Nat) : Option Conn := Tbl.find s.fab.conns c

/-- Sets a connection. -/
def State.setConn (s : State) (c : Nat) (x : Conn) : State :=
  { s with fab := { s.fab with conns := Tbl.set s.fab.conns c x } }

/-- Changes a connection. -/
def State.modConn (s : State) (c : Nat) (f : Conn → Conn) : State :=
  { s with fab := { s.fab with conns := Tbl.modify s.fab.conns c f } }

/-- Is the connection a SYS connection (R366)? -/
def Conn.sys (c : Conn) : Bool := c.rec_.ckind == 1

/-- The lowest number from `lo`, among `n` candidates, at which `p` holds. -/
def firstFrom (p : Nat → Bool) (lo n : Nat) : Option Nat :=
  match n with
  | 0 => none
  | m + 1 => if p lo then some lo else firstFrom p (lo + 1) m

/-- The buffers a connection can still take, lowest free index (R374). -/
def Conn.freeIdx (c : Conn) : Option Nat := firstFrom (fun i => !c.recv.any (fun b => b.idx == i)) 0 c.rec_.rqdepth

/-- Does DEREG_REGION of a slot wait? Its key then fails (R377). -/
def State.deregging (s : State) (slot : Nat) : Bool :=
  s.host.waits.any (fun w => match w.2 with | .dereg x => x == slot | _ => false)

/-- The region that a key names for a tenant field (R377, R378). -/
def State.keyed (s : State) (key tenant : Nat) : Option Region :=
  (Tbl.find s.fab.regions (key % 2 ^ 16)).filter (fun r => r.rec_.key == key && r.rec_.tenant == tenant && !s.deregging (key % 2 ^ 16))

/-- May a buffer be posted: it lies in a region of the connection's tenant with SEND rights (R374)? -/
def postOk (c : Conn) (r : Region) (offset len : Nat) : Bool :=
  r.rec_.tenant == c.rec_.tenant && bitOf r.rec_.rights 2 && decide (offset + len ≤ r.rec_.length)

/-- Posts a buffer under a free index; its generation adds one at every repost (R374, R375). -/
def Conn.post (c : Conn) (i key offset len : Nat) (p : Option PostedBy) : Conn :=
  let gen := match Tbl.find c.gens i with | some g => (g + 1) % 2 ^ 32 | none => 0
  { c with recv := c.recv ++ [⟨key, offset, len, gen, i, none, [], [], p⟩], gens := Tbl.set c.gens i gen }

/-- Message type codes (R360). -/
def mCmd : Nat := 0x01
def mReply : Nat := 0x02
def mAck : Nat := 0x03
def mNak : Nat := 0x04
def mSend : Nat := 0x05
def mXrdy : Nat := 0x06
def mData : Nat := 0x07
def mRead : Nat := 0x08
def mRdata : Nat := 0x09
def mWrite : Nat := 0x0A
def mFlush : Nat := 0x0B
def mFlushed : Nat := 0x0C
def mAbort : Nat := 0x0D
def mAbortrep : Nat := 0x0E
def mClose : Nat := 0x0F
def mCloseack : Nat := 0x10
def mPing : Nat := 0x11
def mPong : Nat := 0x12
def mBarrier : Nat := 0x20
def mVerdict : Nat := 0x21
def mApplied : Nat := 0x22
def mOwner : Nat := 0x23
def mJoin : Nat := 0x24

/-- Is the type a request, which takes a sequence number (R360)? -/
def isRequest (t : Nat) : Bool :=
  t == mCmd || t == mSend || t == mRead || t == mWrite || t == mFlush || t == mClose || (mBarrier ≤ t && t ≤ mJoin)

/-- Is the type known (R360)? -/
def isType (t : Nat) : Bool := (1 ≤ t && t ≤ mPong) || (mBarrier ≤ t && t ≤ mJoin)

/-! ## Sending -/

/-- The ports of a SPRAY set whose link is up, in order (R382, R399). -/
def State.sprayUp (s : State) (spray : Nat) : List Nat :=
  (maskBits s.hw.variant.ports spray).filter (fun p => (s.port p).up)

/-- Puts a frame at the end of a port's egress queues. A queue that becomes active starts with no deficit (R393). -/
def State.enqueue (s : State) (p : Nat) (e : Egress) : State :=
  let x := s.port p
  let newC := !x.egress.any (fun f => f.cls == e.cls)
  let newT := !x.egress.any (fun f => f.cls == e.cls && f.tenant == e.tenant)
  s.setPort p { x with egress := x.egress ++ [e], cdef := if newC then Tbl.put 0 x.cdef e.cls 0 else x.cdef,
                       tdef := if newT then Tbl.put 0 x.tdef (e.cls * 65536 + e.tenant) 0 else x.tdef }

/-- Sends a message on a connection under a new MSGID: packet n goes to the port and path numbered (MSGID + n) mod
(s × PATHS) among the live ports of SPRAY and their paths (R382). With no live port nothing leaves. -/
def State.sendMsg (s : State) (r : ConnRec) (m : Msg) : State :=
  let id := s.fab.msgid
  let x := { m with msgid := id, totlen := m.payload.length }
  let ups := s.sprayUp r.spray
  let t := { s with fab := { s.fab with msgid := (id + 1) % 2 ^ 32 } }
  if ups.isEmpty then t
  else
    t.each (List.range (max 1 (ceilDiv x.totlen 8192))) (fun i u =>
      let k := (id + i) % (ups.length * r.paths)
      u.enqueue (ups.getD (k / r.paths) 0)
        { cls := r.cls, tenant := if r.ckind = 1 then 0xFFFF else r.tenant, path := k % r.paths,
          len := 126 + min 8192 (x.totlen - 8192 * i), at_ := u.uptime, msg := x, offset := 8192 * i,
          dip := r.peerip })

/-- A message of this node on a connection (R358, R359). -/
def Conn.make (r : ConnRec) (mtype epoch seq tag opc : Nat) (st : Status) (payload : List Byte) : Msg :=
  { port := r.homeport, mtype := mtype, flags := if r.ckind = 1 then 2 else 0, tenant := r.tenant, epoch := epoch,
    dconn := r.pconn, sconn := r.conn, seq := seq, msgid := 0, offset := 0, totlen := payload.length, status := statusCode st,
    opc := opc, tag := tag, key := 0, aux := 0, arg := 0, payload := payload }

/-- Answers a message on its connection: type, status, extra flags, payload. A connection that is closed or has failed carries
no answer. -/
def State.answer (s : State) (m : Msg) (mtype : Nat) (st : Status) (flags : Nat) (payload : List Byte) : State :=
  match s.conn? m.dconn with
  | none => s
  | some c =>
    if c.st = .closed ∨ c.st = .failed then s
    else
    let x := Conn.make c.rec_ mtype m.epoch m.seq m.tag (if mtype = mReply then m.opc else 0) st payload
    s.sendMsg c.rec_ { x with flags := x.flags + flags }

/-- Refuses a message with NAK (R360). -/
def State.nak (s : State) (m : Msg) (st : Status) : State :=
  let t := if st = .stale then s.count kTraStales 1 else if st = .genMismatch then s.count kTraGenmis 1 else s
  t.answer m mNak st 0 []

/-- NO_CONN answers a request on a connection that is not open, at most once per connection per 100 µs (R367). It leaves for the address the
packet came from, on the port the packet came by, in class 0, for there may be no connection record to take them from (log 36). -/
def State.nakNoConn (s : State) (m : Msg) (sip : Nat) : State :=
  if (Tbl.find s.fab.noConnAt m.dconn).any (fun t => decide (s.uptime < t + 100)) then s
  else
    let id := s.fab.msgid
    let x : Msg := { m with mtype := mNak, flags := m.flags / 2 % 2 * 2, dconn := m.sconn, sconn := m.dconn, msgid := id,
                            offset := 0, totlen := 0, status := statusCode .noConn, opc := 0, key := 0, aux := 0, arg := 0,
                            payload := [] }
    ({ s with fab := { s.fab with msgid := (id + 1) % 2 ^ 32, noConnAt := Tbl.set s.fab.noConnAt m.dconn s.uptime } }).enqueue m.port
      { cls := 0, tenant := m.tenant, path := 0, len := 126, at_ := s.uptime, msg := x, offset := 0, dip := sip }

/-- Sends a request on a connection, its bulk data to follow an XRDY: it takes the next SEQ and a copy is kept until it is acknowledged (R372). -/
def State.requestBulk (s : State) (conn mtype tag epoch : Nat) (f : Msg → Msg) (payload bulk : List Byte) : State :=
  match s.conn? conn with
  | none => s
  | some c =>
    if c.st ≠ .open_ ∧ c.st ≠ .draining then s
    else
      let m := f (Conn.make c.rec_ mtype epoch c.txSeq tag 0 .ok payload)
      (s.setConn conn { c with txSeq := (c.txSeq + 1) % 2 ^ 32,
                               sent := c.sent ++ [⟨c.txSeq, mtype, tag, m, 0, false, bulk⟩] }).sendMsg c.rec_ m

/-- Sends a request without bulk data. -/
def State.request (s : State) (conn mtype tag epoch : Nat) (f : Msg → Msg) (payload : List Byte) : State :=
  s.requestBulk conn mtype tag epoch f payload []

/-! ## Completions of requests that came on a connection -/

/-- Keeps a completion for the replay window (R370, R371): the store holds the 16,384 bodies of 256 bytes or less used
last; of any other completion in the window, or ahead of it, the status alone. -/
def State.keepReplay (s : State) (r : Replay) (next : Nat) : State :=
  let live := s.fab.replay.filter (fun x => !(x.conn == r.conn && x.seq == r.seq) && (!x.nodata || x.conn != r.conn || (next + 2 ^ 32 + 64 - x.seq) % 2 ^ 32 ≤ 128))
  let x := if r.body.length ≤ 256 then r else { r with body := [], nodata := true }
  let l := live ++ [x]
  let full := 16384 < (l.filter (fun y => !y.nodata)).length
  let l2 := if full then
      match l.findIdx? (fun y => !y.nodata) with
      | some i => l.modify i (fun y => { y with body := [], nodata := true })
      | none => l
    else l
  { s with fab := { s.fab with replay := l2 } }

/-- Posts an event entry to a connection's completion queue on PF0 (R366, R524). -/
def State.connEvent (s : State) (c : Conn) (code : Nat) (data : List Byte) : State :=
  s.cqPost 0 c.rec_.cq ⟨0xFFFF, .ok, 0, 0, 0, leBytes 2 code ++ padTo 14 data⟩

/-- The connection closes: CONNCLOSED is posted (R367, R524). -/
def State.connClosed (s : State) (conn : Nat) (st : Status) : State :=
  match s.conn? conn with
  | none => s
  | some c => (s.setConn conn { c with st := .closed }).connEvent c 0x0803 (leBytes 2 conn ++ leBytes 1 (statusCode st))

/-- A draining connection with nothing outstanding: a close of the peer is answered with CLOSEACK; a close of the host
sends CLOSE, once, and waits for CLOSEACK (R367). -/
def State.drainConn (s : State) (conn : Nat) : State :=
  match s.conn? conn with
  | none => s
  | some c =>
    if c.st ≠ .draining then s
    else
      match c.infl with
      | [⟨m, .draining⟩] =>
        ((s.setConn conn { c with infl := [] }).answer m mCloseack .ok 0 []).connClosed conn .ok
      | [] => if c.closing && !c.sent.any (fun x => x.mtype == mClose) then s.request conn mClose 0 0 id [] else s
      | _ => s

/-- Releases the staging buffer that a request holds: its generation advances (R375). -/
def State.freeStaging (s : State) (conn seq : Nat) : State :=
  { s with fab := { s.fab with staging := s.fab.staging.map (fun e =>
      if e.2.owner = some (conn, seq) then (e.1, ⟨(e.2.gen + 1) % 2 ^ 32, none, [], [], false⟩) else e) } }

/-- Forgets an outstanding request of a connection. -/
def State.inflDone (s : State) (conn seq : Nat) : State :=
  (s.modConn conn (fun c => { c with infl := c.infl.filter (fun i => i.msg.seq != seq) })).drainConn conn

/-- A request that no REPLY completes has been carried out (R370, R386): its completion is kept for the replay window. -/
def State.doneMsg (s : State) (m : Msg) : State :=
  match s.conn? m.dconn with
  | none => s
  | some c => (s.keepReplay ⟨m.dconn, m.seq, m.tag, .ok, m.opc, [], false, .ack⟩ c.next).inflDone m.dconn m.seq

/-- Completes a CMD with a REPLY, which acknowledges it (R370, R371): the completion is kept for the replay window and the
staging buffer is released. -/
def State.replyTo (s : State) (m : Msg) (st : Status) (body : List Byte) : State :=
  match s.conn? m.dconn with
  | none => s
  | some c =>
    let t := (s.setConn m.dconn { c with unacked := c.unacked.filter (fun q => q != m.seq) }).answer m mReply st 0 body
    ((t.keepReplay ⟨m.dconn, m.seq, m.tag, st, m.opc, body, false, .reply⟩ c.next).freeStaging m.dconn m.seq).inflDone m.dconn m.seq

/-! ## Chunks of SYS data (R452) -/

/-- The logical address of a chunk (R448). -/
def laTransit (i : Nat) : Nat := 7 * 2 ^ 60 + i

/-- Splits bytes into pieces of at most `n`; `fuel` bounds the pieces. -/
def chunksOf (fuel n : Nat) (bs : List Byte) : List (List Byte) :=
  match fuel with
  | 0 => []
  | k + 1 => if bs.isEmpty then [] else bs.take n :: chunksOf k n (bs.drop n)

/-- Data with its trailer; `pois` are the poison bits of its lines. -/
def sysPack (bs : List Byte) (pois : List Bool) : List Byte :=
  let cs := chunksOf 256 4096 bs
  bs ++ ((List.range cs.length).flatMap (fun i =>
    leBytes 4 (checkValue (cs.getD i []) (laTransit i)) ++
    leBytes 8 ((List.range 64).foldl (fun x j => x + b2n (pois.getD (64 * i + j) false) * 2 ^ j) 0)))

/-- Number of data bytes of a SYS payload of `n` bytes: n less 12 bytes per chunk. -/
def sysDataLen (n : Nat) : Nat := n - 12 * ceilDiv n 4108

/-- The data of a SYS payload, the poison of its lines, and the count of chunks whose check value fails. -/
def sysUnpack (bs : List Byte) : List Byte × List Bool × Nat :=
  let n := sysDataLen bs.length
  let cs := chunksOf 256 4096 (bs.take n)
  let res := (List.range cs.length).map (fun i =>
    let c := cs.getD i []
    let bad := leAt bs (n + 12 * i) 4 != checkValue c (laTransit i)
    let mask := leAt bs (n + 12 * i + 4) 8
    (bad, (List.range (ceilDiv c.length 64)).map (fun j => bad || bitOf mask j)))
  (bs.take n, res.flatMap (·.2), (res.filter (·.1)).length)

/-- Counts the chunks of a message whose check value failed (R452, R472). -/
def State.cvmisAdd (s : State) (n : Nat) : State := if n = 0 then s else (s.count kChkCvmis n).event eChk 3

end Sys2Proof.Machine
end

