-- ==== Sys2Proof/Machine/CoreOps.lean ====
section
/-! DEFINITION. Shared operations of the cores: the arithmetic of a tile (R230, R231, R269 to R271), the checksum lanes (R240
to R243), requantisation with its running maxima (R277 to R280), and the top-k units (R250 to R254). -/

namespace Sys2Proof.Machine

/-- A core that holds nothing (R580, R287). -/
def coreReset : Core :=
  { acc := List.replicate 4 (List.replicate 16384 0), accPois := List.replicate 4 (List.replicate 16384 false),
    accSat := List.replicate 4 (List.replicate 16384 false), chkCells := List.replicate 4 (List.replicate 257 0),
    lastDrain := none, rm := [], curSlot := [0, 0, 0, 0], tileNo := 0, sel := none, fills := [], waiting := [],
    gated := false, feedUntil := 0 }

/-- A core. -/
def State.core (s : State) (c : Nat) : Core := Tbl.get coreReset s.comp.cores c

/-- Sets a core. -/
def State.setCore (s : State) (c : Nat) (x : Core) : State :=
  { s with comp := { s.comp with cores := Tbl.set s.comp.cores c x } }

/-! ## Cells -/

/-- Element operations of a cell step, e of R268. -/
def cellElems (fmt : Nat) : Nat := if fmt = 8 ∨ fmt = 9 then 2 else if fmt = 10 then 32 else 1

/-- Bytes of a wavefront, each feeder (R230). -/
def waveBytes (fmt : Nat) : Nat :=
  if fmt = 10 then 512 else if fmt = 3 ∨ fmt = 4 ∨ fmt = 5 then 128 else if fmt = 6 ∨ fmt = 7 then 256 else 64

/-- The exact integer P of a cell step (R270). -/
def cellInt (fmt cell : Nat) (a w : List Nat) : Int :=
  (a.zip w).foldl (fun z x =>
    if cell = 2 then z + (b2n (x.1 % 2 != x.2 % 2) : Nat)
    else
      let p := elemInt fmt x.1
      let q := elemInt fmt x.2
      if cell = 1 then z + (p - q) * (p - q) else z + p * q) 0

/-- The FP32 term that a cell step of a floating-point format adds (R231, R271). -/
def cellTerm (fmt cell a w : Nat) : Nat :=
  let p := elemF32 fmt a
  let q := elemF32 fmt w
  if cell = 1 then let t := fsub p q; fmul t t else fmul p q

/-- One cell step: the accumulator and whether it has saturated or overflowed (R270, R271). -/
def cellStep (fmt cell : Nat) (x : Int × Bool) (a w : List Nat) : Int × Bool :=
  if fmtInt fmt then
    let c := clamp32 (x.1 + cellInt fmt cell a w)
    (c.1, x.2 || c.2)
  else
    let p := a.headD 0
    let q := w.headD 0
    let r := fadd x.1.toNat (cellTerm fmt cell p q)
    (r, x.2 || (isInf r && isFinite x.1.toNat && isFinite (elemF32 fmt p) && isFinite (elemF32 fmt q)))

/-- The elements of row or column i of a wavefront (R268). -/
def waveElems (fmt : Nat) (wave : List Byte) (i : Nat) : List Nat :=
  (List.range (cellElems fmt)).map (fun x => elemAt fmt wave (cellElems fmt * i + x))

/-- The line of a wavefront that holds the first element of row or column i. -/
def waveLine (fmt i : Nat) : Nat := cellElems fmt * i * fmtWidth fmt / 512

/-! ## Checksum lanes (R240) -/

/-- The sums of the elements of a wavefront over its 128 rows or columns, by element position, as FP32 bits: ascending
RNE32 (assumption log 20). -/
def waveSumF (fmt : Nat) (wave : List Byte) : Nat :=
  (List.range 128).foldl (fun z i => fadd z (elemF32 fmt (elemAt fmt wave i))) 0

/-- What one wavefront adds to checksum cell n: cells 0 to 127 are the column cell (i, 128) of row i, 128 to 255 the row
cell (128, j) of column j, 256 the corner. Integer formats: the exact sum of the block's terms. -/
def chkInt (fmt cell n : Nat) (wa ww : List Byte) : Int :=
  let rows := if n < 128 then [n] else List.range 128
  let cols := if n < 128 ∨ n = 256 then List.range 128 else [n - 128]
  rows.foldl (fun z i => cols.foldl (fun y j => y + cellInt fmt cell (waveElems fmt wa i) (waveElems fmt ww j)) z) 0

/-- The same for floating-point formats: MAC multiplies the feeders' sums (R240); DIFFSQ adds the terms of the block
(log 20). -/
def chkFp (fmt cell n : Nat) (wa ww : List Byte) (c : Nat) : Nat :=
  if cell = 1 then
    let rows := if n < 128 then [n] else List.range 128
    let cols := if n < 128 ∨ n = 256 then List.range 128 else [n - 128]
    fadd c (rows.foldl (fun z i => cols.foldl (fun y j =>
      fadd y (cellTerm fmt cell (elemAt fmt wa i) (elemAt fmt ww j))) z) 0)
  else
    let a := if n < 128 then elemF32 fmt (elemAt fmt wa n) else waveSumF fmt wa
    let w := if n < 128 ∨ n = 256 then waveSumF fmt ww else elemF32 fmt (elemAt fmt ww (n - 128))
    fadd c (fmul a w)

/-- A checksum cell after one wavefront: modulo 2^48 for integer formats (R241), FP32 otherwise (R242). -/
def chkStep (fmt cell n : Nat) (c : Int) (wa ww : List Byte) : Int :=
  if fmtInt fmt then signed 48 (unsigned 48 (c + chkInt fmt cell n wa ww)) else (chkFp fmt cell n wa ww c.toNat : Nat)

/-- The cells of row n (below 128) or of column n − 128. -/
def lineCells {α : Type} (d : α) (l : List α) (n : Nat) : List α :=
  (List.range 128).map (fun i => l.getD (if n < 128 then 128 * n + i else 128 * i + (n - 128)) d)

/-- Does row or column n pass (R241, R242)? `tol` is CHKTOL. -/
def linePass (fmt tol n : Nat) (accs : List Int) (cells : List Int) : Bool :=
  let a := lineCells 0 accs n
  let c := cells.getD n 0
  if fmtInt fmt then unsigned 48 (a.foldl (· + ·) 0) == unsigned 48 c
  else
    let v := a.foldl (fun z x => fadd z x.toNat) 0
    let m := a.foldl (fun z x => fadd z (fabs x.toNat)) 0
    if isNan c.toNat || isNan v || isNan m then a.all (fun x => !isFinite x.toNat)
    else
      let diff := fabs (fsub c.toNat v)
      let bound := fmul (fadd (fabs c.toNat) m) ((127 - tol) * 2 ^ 23)
      decide (ford diff ≤ ford bound)

/-- The rows and columns that the check skips: they hold a saturated or poisoned accumulator (R243). -/
def lineSkip (skip : List Bool) (n : Nat) : Bool := (lineCells false skip n).any id

/-- The medlar check of one array: passes, and rows and columns skipped. -/
def medlar (fmt tol : Nat) (accs : List Int) (skip : List Bool) (cells : List Int) : Bool × Nat :=
  ((List.range 256).all (fun n => lineSkip skip n || linePass fmt tol n accs cells),
   ((List.range 256).filter (lineSkip skip)).length)

/-! ## Scale registers and requantisation -/

/-- Address of scale register r of a core (R258, R274). -/
def scaleAddr (core r : Nat) : Nat := coreBase core + 0x1000 + 4 * (r % 512)

/-- The FP32 bits of SCALE (R274). -/
def scaleBits (w : W32) : Nat := w.toNat % 2 ^ 20 * 2 ^ 11

/-- Step 2 of R277: t of an accumulator through a scale. -/
def requantT (fmt : Nat) (acc : Int) (scale : Nat) : Nat :=
  fmul (if fmtInt fmt then fOfInt acc else acc.toNat) scale

/-- H of R279 as FP32 bits. -/
def hroom (rmcfg : Nat) : Nat := rne32 (.fin false (8 + bits rmcfg 4 4) (-3))

/-- D of R279. -/
def rmDepth (rmcfg : Nat) : Nat := 4 * 2 ^ (bits rmcfg 0 2)

/-- A running-maximum slot that has never run: its seed is 1.0 (R287). -/
def rmReset : RmSlot := ⟨[], f32One, f32One, 0, false, [], 0, none⟩

/-- The slot at the start of a step (R280): `d` is the history depth. -/
def RmSlot.start (x : RmSlot) (d : Nat) : RmSlot := { x with snap := x.hist.take d, cur := 0, drained := false, kept := none }

/-- The slot when the result of a step with the maximum `m` stands (R280, R281). -/
def RmSlot.append (x : RmSlot) (m : Nat) : RmSlot := { x with hist := (m :: x.hist).take 16 }

/-- The slot as a later run of its step finds it: it keeps the gain of the original execution (R283). -/
def RmSlot.again (x : RmSlot) : RmSlot :=
  { x with cur := 0, drained := false, kept := if x.drained then some x.gain else x.kept }

/-- The step maxima of the slots that drained (R280). -/
def rmMaxima (t : Tbl RmSlot) : Tbl Nat := (t.filter (fun e => e.2.drained)).map (fun e => (e.1, e.2.cur))

/-- The slot at a drain: the first of the step fixes the gain (R280); a later run has the original one (R283). -/
def RmSlot.drain (x : RmSlot) (ofmt hr : Nat) : RmSlot :=
  if x.drained then x
  else
    let m := x.snap.foldl (fun z y => if ford z < ford y then y else z) 0
    let g := match qmax ofmt with
      | none => f32One
      | some q => if m = 0 then x.seed else fdiv (fOfInt q) (fmul hr m)
    { x with gain := x.kept.getD g, drained := true, ofmt := ofmt }

/-! ## Top-k units -/

/-- Is entry x before y in the order of R108? -/
def tkLt (maxMode : Bool) (x y : TkEntry) : Bool :=
  let a := if maxMode then fneg x.dist else x.dist
  let b := if maxMode then fneg y.dist else y.dist
  ford a < ford b || (ford a == ford b && decide (x.okey < y.okey))

/-- Do two distances compare equal? -/
def tkEq (x y : Nat) : Bool := ford x == ford y

/-- Inserts in selection order. -/
def tkInsert (mm : Bool) (l : List TkEntry) (e : TkEntry) : List TkEntry :=
  match l with
  | [] => [e]
  | y :: r => if tkLt mm e y then e :: y :: r else y :: tkInsert mm r e

/-- A unit opened with a capacity and a mode (R250). -/
def Topk.fresh (cap : Nat) (mm : Bool) : Topk := ⟨cap, mm, [], 0, 0, 0, []⟩

/-- The distance of the worst held entry. -/
def Topk.worst (t : Topk) : Nat := (t.held.getLast?.map (·.dist)).getD f32Inf

/-- An offer (R251). -/
def Topk.offer (t : Topk) (e : TkEntry) : Topk :=
  if isNan e.dist then { t with nans := t.nans + 1 }
  else
    match t.held.find? (fun h => h.vid == e.vid) with
    | some h =>
      let old := t.worst
      let held := if tkLt t.maxMode e h then tkInsert t.maxMode (t.held.filter (fun y => y.vid != e.vid)) e else t.held
      let u := { t with held := held, dups := t.dups + 1 }
      if t.held.length = t.cap ∧ !tkEq u.worst old then { u with ties := 0 } else u
    | none =>
      if t.held.length < t.cap then { t with held := tkInsert t.maxMode t.held e }
      else
        match t.held.getLast? with
        | none => t
        | some b =>
          if tkLt t.maxMode b e then
            if tkEq e.dist b.dist then { t with ties := min (t.ties + 1) 0xFFFF } else t
          else
            let u := { t with held := tkInsert t.maxMode t.held.dropLast e }
            if tkEq b.dist u.worst then { u with ties := min (t.ties + 1) 0xFFFF } else { u with ties := 0 }

/-- Takes a trailer from upstream (R254): its counts are added at once, its ties when the unit closes. -/
def Topk.take (t : Topk) (u : Trailer) : Topk :=
  { t with nans := t.nans + u.nans, dups := t.dups + u.dups, ups := t.ups ++ [u] }

/-- TIES of a unit at its CLOSE (R254). -/
def Topk.closeTies (t : Topk) : Nat :=
  min 0xFFFF (t.ups.foldl (fun z u => if u.n = u.cap ∧ tkEq u.worst t.worst then z + u.ties else z) t.ties)

/-- The trailer at CLOSE (R252). -/
def Topk.trailer (t : Topk) : Trailer := ⟨t.held.length, t.cap, t.worst, t.closeTies, t.nans, t.dups⟩

/-! ## Brambles -/

/-- Address of register `i` of a merge unit: 0 STATE, 1 OFFERS, 2 DUPS, 3 NANS (R263). -/
def unitReg (u i : Nat) : Nat := brambleBase + 0x100 + 0x20 * u + 8 * i

/-- The stage of a merge unit: 0 stack, 1 leaf, 2 die, 3 node. -/
def unitStage (u : Nat) : Nat := if u < 6 then 0 else if u < 30 then 1 else if u < 32 then 2 else 3

end Sys2Proof.Machine
end

