-- ==== Sys2Proof/Machine/NbuOps.lean ====
section
/-! DEFINITION. Shared operations of the near-bank units (R117 to R151): slots, rows with ECC and poison, the heap, the
lanes. The commands stand in Machine/Nbu.lean and Machine/MicroOps.lean. -/

namespace Sys2Proof.Machine

/-- A currant whose per-currant items are zero (R577, R580). -/
def currantReset : Currant :=
  { rs := .idle, slot := 0, pc := 0, a := List.replicate 8 0, c := List.replicate 4 0, scanpos := 0, side := false,
    limit := 0, groups := [], group := [], lastLease := 0xFFFF, refDue := false,
    buf := List.replicate 4 (zeros 1024), bufPois := List.replicate 4 (List.replicate 16 false),
    ps := 0, psPois := false, heap := [], v := zeros 4096, vPois := List.replicate 64 false,
    sf := List.replicate 256 0, sPois := List.replicate 256 false,
    sInt := List.replicate 256 false,
    of_ := List.replicate 256 0, oPois := List.replicate 256 false, m := 0, l := 0, mlPois := false, accPois := false,
    passcnt := 0, poiscnt := 0, rowops := 0, pausec := 0, qwait := 0, confw := 0, ovf := false, spois := false,
    ceCount := 0, ceWarned := false, lastRdl := none }

/-- The currant of a channel. -/
def State.cur (s : State) (ch : Nat) : Currant := Tbl.get currantReset s.nbu ch

/-- Sets the currant of a channel. -/
def State.setCur (s : State) (ch : Nat) (c : Currant) : State := { s with nbu := Tbl.set s.nbu ch c }

/-- Bytes [off + n − 1 : off] of a slot (R122), little-endian; n is at most 8 and the field does not straddle words unless it
is 8 bytes. -/
def State.slotGet (s : State) (ch slot off n : Nat) : Nat :=
  bits (s.reg64 (nbuBase ch + 0x1000 + 0x100 * slot + off / 4 * 4)) (8 * (off % 4)) (8 * n)

/-- Sets a field of a slot of at most four bytes. -/
def State.slotSet (s : State) (ch slot off n v : Nat) : State :=
  let a := nbuBase ch + 0x1000 + 0x100 * slot + off / 4 * 4
  s.setWord a (BitVec.ofNat 32 (putBits (s.word a).toNat (8 * (off % 4)) (8 * n) v))

/-- SSTATE of a slot (R123): 0 IDLE, 1 READY, 2 RUN, 3 PAUSED, 4 DONE. -/
def State.sstate (s : State) (ch slot : Nat) : Nat := s.slotGet ch slot 3 1

/-- The query sketch Q of a slot as a number of 1,024 bits. -/
def State.slotQ (s : State) (ch slot : Nat) : Nat :=
  (List.range 32).foldr (fun i x => (s.word (nbuBase ch + 0x1080 + 0x100 * slot + 4 * i)).toNat + 2 ^ 32 * x) 0

/-- The micro-op at an address of the micro-program store (R129). -/
def State.ustore (s : State) (ch a : Nat) : Nat := s.reg64 (nbuBase ch + 0x2000 + 8 * a)

/-- Is an opcode reserved on a variant (R130, R140)? -/
def uReserved (v : Variant) (op : Nat) : Bool :=
  !([0, 1, 2, 3, 4, 5, 6, 8, 9, 0xA, 0xB, 0xC, 0x10, 0x11, 0x12, 0x13, 0x14, 0x18, 0x30, 0x3F].contains op)
  && !(v.mac && 0x20 ≤ op && op ≤ 0x27)

/-- The range of the micro-program store that the slot's plan owns (R128, R301). A slot whose LEASE names no lease, as host
writes leave it, may use the whole store. -/
def State.nbuRange (s : State) (lease : Nat) : Nat × Nat :=
  match Tbl.find s.work.leases lease with
  | none => (0, 512)
  | some l =>
    match Tbl.find s.work.plans l.plan with
    | none => (0, 512)
    | some p => (l.nbuBase, l.nbuBase + p.hdr.nbuwords)

/-! ## Fields of a micro-op (R129) -/

def uOp (w : Nat) : Nat := bits w 58 6
def uY (w : Nat) : Bool := bitOf w 57
def uRa (w : Nat) : Nat := bits w 53 3
def uRb (w : Nat) : Nat := bits w 50 3
def uBd (w : Nat) : Nat := bits w 48 2
def uBs (w : Nat) : Nat := bits w 46 2
def uBt (w : Nat) : Nat := bits w 44 2
def uFn (w : Nat) : Nat := bits w 40 4
def uCnt (w : Nat) : Nat := bits w 24 16
def uImm (w : Nat) : Nat := bits w 0 24

/-- A[i] of the running slot. -/
def Currant.areg (c : Currant) (i : Nat) : Nat := c.a.getD i 0

/-- The line address A[RA] + IMM (R130). -/
def uLine (c : Currant) (w : Nat) : Nat := (c.areg (uRa w) + uImm w) % 2 ^ 28

/-- The row of a line address: bits [3:0] are ignored (R130). -/
def rowOf (line : Nat) : Nat := line / 16

/-- Head dimension h = 64 × 2^FN[1:0] (R137). -/
def headDim (w : Nat) : Nat := 64 * 2 ^ (uFn w % 4)

/-- Format code of a MAC micro-op from FN[3:2] (R135): INT8, E4M3 or E5M2. -/
def macFmt (w : Nat) : Nat := if uFn w / 4 = 0 then 3 else if uFn w / 4 = 1 then 4 else 5

/-! ## Rows -/

/-- A row operation is counted (R120, R158); COPY counts as two. -/
def State.countRowOps (s : State) (ch n : Nat) : State :=
  let c := s.cur ch
  (s.setCur ch { c with rowops := c.rowops + n, lastRdl := none }).count (kNbuRowops ch) n

/-- The ECC outcome of a row read (R148, R155, R456): a corrected error counts in the currant and on the row, and may raise
CEWARN once in the interval; an uncorrectable error counts, sets UE and is reported. -/
def State.eccNote (s : State) (ch row : Nat) (e : Ecc) : State :=
  match e with
  | .clean => s
  | .corrected =>
    let t := s.count (kNbuCecnt ch) 1
    let c := t.cur ch
    let n := c.ceCount + 1
    let th := t.fld (fNbuCtlCewarn ch)
    let hit := th != 0 && n == th && !c.ceWarned
    let u := t.setCur ch { c with ceCount := n, ceWarned := c.ceWarned || hit }
    let v := { u with alloc := { u.alloc with
        ceRows := Tbl.put 0 u.alloc.ceRows (ch * 2 ^ 32 + row) (Tbl.get 0 u.alloc.ceRows (ch * 2 ^ 32 + row) + 1) } }
    if hit then v.raise (eNbu ch) 1 (v.nodeReport 0x0202 2 (locHbm ch row 0) []) else v
  | .uncorrectable =>
    let t := s.count (kNbuUecnt ch) 1
    t.raise (eNbu ch) 0 (t.nodeReport 0x0201 0 (locHbm ch row 0) [])

/-- The data of a row as the currant receives it. -/
def State.rowData (s : State) (ch row : Nat) : List Byte := s.chRead ch (1024 * row) 1024

/-- Does a range of the micro-program store hold a MAC micro-op from `a` to its end (R140)? -/
def State.macFrom (s : State) (ch a e : Nat) : Bool :=
  (List.range (e - a)).any (fun i => let o := uOp (s.ustore ch (a + i)); 0x20 ≤ o && o ≤ 0x27)

/-- The poison of the 16 lines of a row as the currant receives them (R148, R150). -/
def State.rowPois (s : State) (ch row : Nat) (e : Ecc) : List Bool :=
  if e = .uncorrectable then List.replicate 16 true else poisBits s.mem.hbmPoison (rowKey ch row / 64) 16

/-- Writes a row, with the channel's poison marker on its poisoned lines (R149, R150). A row beyond the channel is a host error and
takes nothing (R319). -/
def State.rowWrite (s : State) (ch row : Nat) (bs : List Byte) (pois : List Bool) : State :=
  if rowsPerChannel ≤ row then s.hostErr 319
  else (s.chWrite ch (1024 * row) (padTo 1024 bs)).hbmPoisonLines
    (((List.range 16).filter (fun i => pois.getD i false)).map (· + rowKey ch row / 64))

/-! ## The heap (R134) -/

/-- Does entry x come before y in the order (d, pos)? -/
def heapLt (x y : HeapEnt) : Bool := x.d < y.d || (x.d == y.d && decide (x.pos < y.pos))

/-- Inserts in order. -/
def heapInsert (h : List HeapEnt) (x : HeapEnt) : List HeapEnt :=
  match h with
  | [] => [x]
  | y :: r => if heapLt x y then x :: y :: r else y :: heapInsert r x

/-- Offers an entry: the 32 smallest are kept. -/
def heapOffer (h : List HeapEnt) (x : HeapEnt) : List HeapEnt := (heapInsert h x).take 32

/-! ## The lanes (R136, R137) -/

/-- Sums of a lane's products: elements l, l + 64, … below n in ascending order. -/
def laneElems (l n : Nat) : List Nat := (List.range (n / 64)).map (fun k => l + 64 * k)

/-- One level of the fixed pairwise tree. -/
def pairs (f : Nat → Nat → Nat) (l : List Nat) : List Nat :=
  match l with
  | a :: b :: r => f a b :: pairs f r
  | r => r

/-- The tree of 64 lane sums down to one (R136). -/
def laneTree (f : Nat → Nat → Nat) (l : List Nat) : Nat :=
  (pairs f (pairs f (pairs f (pairs f (pairs f (pairs f l)))))).headD 0

/-- Sum of FP32 bits by RNE32 from the first on. -/
def fsum (l : List Nat) : Nat :=
  match l with
  | [] => 0
  | a :: r => r.foldl fadd a

/-- Dot product of two byte strings of n elements in INT8, exact (R136). -/
def dotInt (x y : List Byte) (n : Nat) : Int :=
  (List.range n).foldl (fun z i => z + elemInt 3 (leAt x i 1) * elemInt 3 (leAt y i 1)) 0

/-- Dot product in an FP8 format: exact products, RNE32 sums by lane and tree (R136). -/
def dotFp (fmt : Nat) (x y : List Byte) (n : Nat) : Nat :=
  laneTree fadd ((List.range 64).map (fun l =>
    fsum ((laneElems l n).map (fun i => fmul (elemF32 fmt (leAt x i 1)) (elemF32 fmt (leAt y i 1))))))

/-- Any poison among lines [i, i + n) of a list. -/
def anyPois (p : List Bool) (i n : Nat) : Bool := ((p.drop i).take n).any id

/-- The larger of two FP32 values; a NaN operand gives the canonical NaN (R267). -/
def fmax (a b : Nat) : Nat :=
  if isNan a || isNan b then fp32.qnan else if ford a < ford b then b else a

/-! ## The end of a slot -/

/-- Writes STATUS and the result fields and sets the slot to DONE, then sends the completion if ACK is set (R126). -/
def State.slotDone (s : State) (ch slot : Nat) (st : Status) : State :=
  let c := s.cur ch
  let t := ((((((((s.slotSet ch slot 4 1 (statusCode st)).slotSet ch slot 5 1 (b2n c.ovf + 2 * b2n c.spois)).slotSet
    ch slot 0x48 4 c.passcnt).slotSet ch slot 0x4C 4 c.poiscnt).slotSet ch slot 0x50 4 c.rowops).slotSet
    ch slot 0x54 4 c.pausec).slotSet ch slot 0x58 4 c.qwait).slotSet ch slot 0x5C 4 c.confw).slotSet ch slot 3 1 4
  if bitOf (s.slotGet ch slot 2 1) 2 then
    t.emit (.nbuDone ch (s.slotGet ch slot 0x40 8) st c.passcnt c.poiscnt)
  else t

/-- Ends the running slot. A refresh that is due is taken by the idle channel, without a pause (R146). A slot that ends with POISON
fails the step of the lease that issued it (R151). -/
def State.slotEnd (s : State) (ch : Nat) (st : Status) : State :=
  let k := (s.cur ch).slot
  let t := s.slotDone ch k st
  let u := t.setCur ch { (t.cur ch) with rs := .idle, refDue := false }
  if st = .poison then
    { u with work := { u.work with leases := Tbl.modify u.work.leases (s.slotGet ch k 6 2) (fun x =>
        { x with step := x.step.map (fun p => if p.status = .ok then { p with status := .poison } else p) }) } }
  else u

/-- A slot that ends without having run: its result fields are zero. -/
def State.slotSkip (s : State) (ch slot : Nat) (st : Status) : State :=
  let c := s.cur ch
  let z := { c with passcnt := 0, poiscnt := 0, rowops := 0, pausec := 0, qwait := 0, confw := 0, ovf := false,
                    spois := false }
  let t := (s.setCur ch z).slotDone ch slot st
  t.setCur ch { (t.cur ch) with passcnt := c.passcnt, poiscnt := c.poiscnt, rowops := c.rowops, pausec := c.pausec,
                                qwait := c.qwait, confw := c.confw, ovf := c.ovf, spois := c.spois }

/-- Stops every slot of a lease on one currant: the running slot and the READY slots go to DONE with ABORTED (R127). -/
def State.nbuAbort (s : State) (ch lease : Nat) : State :=
  let c := s.cur ch
  let mine := fun k => s.slotGet ch k 6 2 == lease
  let t := if c.rs != .idle && mine c.slot then s.slotEnd ch .aborted else s
  let ready := (c.group ++ c.groups.flatten).filter mine
  let u := t.each ready (fun k v => v.slotSkip ch k .aborted)
  u.setCur ch { (u.cur ch) with group := c.group.filter (fun k => !mine k),
                                groups := (c.groups.map (fun g => g.filter (fun k => !mine k))).filter (fun g => !g.isEmpty) }

/-- Does a slot hold a MAC micro-op on a variant without MAC lanes, from its ENTRY to the end of its plan's range (R140)? -/
def State.slotAbsent (s : State) (ch k : Nat) : Bool :=
  !s.hw.variant.mac && s.macFrom ch (s.slotGet ch k 0 2 % 512) (s.nbuRange (s.slotGet ch k 6 2)).2

/-- Readies the slots of a GO write on one currant (R124, R125, R140, R155). A bit that names a slot in READY, RUN or PAUSED is a host
error and readies nothing; a slot that needs absent MAC lanes completes at once with NOT_PRESENT and raises NOTPRES. -/
def State.nbuGoOn (s : State) (ch mask : Nat) : State :=
  if !s.flag (fNbuCtlEnable ch) || s.flag (fNbuCtlDrain ch) then s
  else
    let busy := fun k => let x := s.sstate ch k; x == 1 || x == 2 || x == 3
    let ks := maskBits 16 mask
    let a := if ks.any busy then s.hostErr 124 else s
    let free := ks.filter (fun k => !busy k)
    let b := a.each (free.filter (s.slotAbsent ch)) (fun k v => (v.event (eNbu ch) 3).slotSkip ch k .notPresent)
    match free.filter (fun k => !s.slotAbsent ch k) with
    | [] => b
    | g =>
      let c := b.each g (fun k v => v.slotSet ch k 3 1 1)
      c.setCur ch { (c.cur ch) with groups := (c.cur ch).groups ++ [g] }

end Sys2Proof.Machine
end

