-- ==== Sys2Proof/Machine/LeaseOps.lean ====
section
/-! DEFINITION. Shared operations on leases, requests and steps: opening, admission and closing of leases (R298 to R304,
R576), queues of requests (R298, R335), the end of a step (R313, R315, R318) and the answers of requests. -/

namespace Sys2Proof.Machine

/-! ## Accessors -/

def State.lease? (s : State) (l : Nat) : Option Lease := Tbl.find s.work.leases l
def State.plan? (s : State) (p : Nat) : Option Plan := Tbl.find s.work.plans p

/-- Sets a lease. -/
def State.setLease (s : State) (l : Nat) (x : Lease) : State :=
  { s with work := { s.work with leases := Tbl.set s.work.leases l x } }

/-- Changes a lease. -/
def State.modLease (s : State) (l : Nat) (f : Lease → Lease) : State :=
  { s with work := { s.work with leases := Tbl.modify s.work.leases l f } }

/-- Changes the running step of a lease. -/
def State.modStep (s : State) (l : Nat) (f : Step → Step) : State :=
  s.modLease l (fun x => { x with step := x.step.map f })

/-- The lease that holds a core (R260), with its number. -/
def State.leaseOf (s : State) (core : Nat) : Option (Nat × Lease) :=
  (s.lease? (s.fld (fCoreStateLease core))).map (fun l => (s.fld (fCoreStateLease core), l))

/-- An accepted request. -/
def State.req? (s : State) (id : Nat) : Option Req := s.work.reqs.find? (fun r => r.id == id)

/-- Changes a request. -/
def State.modReq (s : State) (id : Nat) (f : Req → Req) : State :=
  { s with work := { s.work with reqs := s.work.reqs.map (fun r => if r.id = id then f r else r) } }

/-- A step tag (R305). -/
def State.stepTag (s : State) (l seq : Nat) : Nat := s.nodeNum * 2 ^ 48 + l % 2 ^ 16 * 2 ^ 32 + seq % 2 ^ 32

/-- The tenant field that records carry for a lease (R318). -/
def State.leaseReport (s : State) (l code sev : Nat) (loc : List Byte) (dat : List Nat) : Report :=
  match s.lease? l with
  | none => s.nodeReport code sev loc dat
  | some x => ⟨code, sev, loc, dat, s.unitAddr 2 0 0, x.owner, x.plan,
      match x.step with | some p => s.stepTag l p.seq | none => 0⟩

/-! ## Clearing -/

/-- Writes zeros over an interleaved area. -/
def State.ilvClear (s : State) (sp : Span) : State :=
  let hit := fun k => (s.keyIlv k).any (fun x => sp.base ≤ x && x < sp.base + sp.len)
  { s with mem := { s.mem with hbm := Tbl.drop s.mem.hbm hit,
                               hbmPoison := Tbl.drop s.mem.hbmPoison (fun l => hit (64 * l)) } }

/-- Writes zeros over a core store; its lines are EMPTY (R576). -/
def State.clearStore (s : State) (c : Nat) : State :=
  { s with mem := { s.mem with store := Tbl.drop s.mem.store (fun k => k / 2 ^ 21 == c),
                               storePoison := Tbl.drop s.mem.storePoison (fun l => l / 2 ^ 15 == c),
                               storeFilled := Tbl.drop s.mem.storeFilled (fun l => l / 2 ^ 15 == c) } }

/-- Writes zeros over a commons allotment, at the same offset of each die. -/
def State.clearCommons (s : State) (sp : Span) : State :=
  let hit := fun k => sp.base ≤ k % 2 ^ 26 && k % 2 ^ 26 < sp.base + sp.len
  { s with mem := { s.mem with commons := Tbl.drop s.mem.commons hit,
                               commonsPoison := Tbl.drop s.mem.commonsPoison (fun l => hit (64 * l)) } }

/-! ## Placement (R299) -/

/-- Enabled and healthy (R260, R299). -/
def State.coreOk (s : State) (c : Nat) : Bool :=
  s.flag (fCoreCtlEnable c) && !s.flag (fCoreStateQuar c) && !s.flag (fCoreStateSuspect c)

/-- Enabled, healthy and held by no lease. -/
def State.coreFree (s : State) (c : Nat) : Bool := s.coreOk c && s.fld (fCoreStateLease c) == 0xFFFF

/-- The lowest-numbered cores among those given that DIES allows (R299). -/
def placeCores (v : Variant) (dies q : Nat) (cs : List Nat) : Option (List Nat) :=
  let d0 := cs.filter (fun c => c < v.cores / 2)
  let d1 := cs.filter (fun c => v.cores / 2 ≤ c)
  if dies = 1 then
    if q ≤ d0.length then some (d0.take q) else if q ≤ d1.length then some (d1.take q) else none
  else if dies = 2 then
    if q / 2 ≤ d0.length ∧ q / 2 ≤ d1.length then some (d0.take (q / 2) ++ d1.take (q / 2)) else none
  else if q ≤ cs.length then some (cs.take q) else none

/-- What a lease charges at its admission (R331). -/
def leaseCharge (h : PlanHdr) : QuotaRec :=
  ⟨h.cores, 1, 0, h.hbmbytes, 0, 0, 0, h.commonsb, h.reslines * h.cores, 0, 0, 0⟩

/-- Could the node never admit the plan (R299)? A SYSTEM lease is not refused for want of reserve (R331). -/
def State.neverFits (s : State) (p : Plan) : Bool :=
  (placeCores s.hw.variant p.hdr.dies p.hdr.cores ((List.range s.hw.variant.cores).filter s.coreOk)).isNone
  || decide (2 ^ 26 < p.hdr.commonsb) || decide (32768 < p.hdr.reslines)
  || (p.owner != 0xFFFF && decide (s.ilvSize - s.hdmBytes < p.hdr.hbmbytes + 4096))

/-- The leases that hold their resources. -/
def State.admitted (s : State) : List (Nat × Lease) := s.work.leases.filter (fun e => e.2.st != .waiting)

/-- The lowest base of `n` numbers below `hi` that the admitted leases leave free; `f` gives what each holds. -/
def State.freeBase (s : State) (f : Lease → PlanHdr → Span) (hi n : Nat) : Option Nat :=
  let used := s.admitted.foldl (fun l e =>
    match s.plan? e.2.plan with
    | some p => if (f e.2 p.hdr).len = 0 then l else spanInsert l (f e.2 p.hdr)
    | none => l) []
  if n = 0 then some 0 else firstFit used 0 hi n

/-- Relocates a micro-op word: the jump targets of LOOP and JMP (R301). -/
def relocWord (base : Nat) (w : Nat) : Nat :=
  if bits w 58 6 = 4 ∨ bits w 58 6 = 5 then putBits w 0 9 (bits w 0 9 + base) else w

/-- The bytes of a plan's sections of a type that serve a class: CLASS is any, resident or transient (R295). -/
def planSects (h : PlanHdr) (stype : Nat) (resident : Bool) : List Byte :=
  (h.sections.filter (fun x => x.stype == stype && (x.cls == 0 || x.cls == (if resident then 1 else 2)))).flatMap (·.bytes)

/-- The words of a plan's NBUPROG sections of a class (R295). -/
def planWords (h : PlanHdr) (resident : Bool) : List Nat :=
  let bs := planSects h 2 resident
  (List.range (bs.length / 8)).map (fun i => leAt bs (8 * i) 8)

/-- A rendezvous entry (R307). -/
structure Rdv where
  pos  : Nat
  src  : Nat
  line : Nat
  cyc  : Nat
  deriving DecidableEq, Repr

/-- The rendezvous table of a plan for a class (R295, R307). -/
def rdvTab (h : PlanHdr) (resident : Bool) : List Rdv :=
  let bs := planSects h 3 resident
  (List.range (min h.nrdv (bs.length / 16))).map (fun i =>
    ⟨leAt bs (16 * i) 2, leAt bs (16 * i + 2) 1, leAt bs (16 * i + 4) 4, leAt bs (16 * i + 8) 8⟩)

/-- Loads a plan's micro-program into every present currant (R299, R301). -/
def State.loadUprog (s : State) (h : PlanHdr) (base : Nat) (resident : Bool) : State :=
  let ws := planWords h resident
  s.each (List.range s.nch) (fun ch t =>
    t.each (List.range ws.length) (fun i u => u.setReg64 (nbuBase ch + 0x2000 + 8 * ((base + i) % 512)) (relocWord base (ws.getD i 0))))

/-- The initial contents of the resident lines (R295): lines 0 to RESLINES − 1 of each position, position after position
(log 21). -/
def State.loadResident (s : State) (h : PlanHdr) (cores : List Nat) (resident : Bool) : State :=
  let bs := planSects h 6 resident
  if bs.isEmpty then s
  else
    s.each (List.range cores.length) (fun p t =>
      let c := cores.getD p 0
      let part := (bs.drop (64 * h.reslines * p)).take (64 * h.reslines)
      (t.storeWrite c 0 part).storeFill c 0 part.length true)

/-- Does the plan write a gather table that another admitted lease writes (R340)? -/
def State.tableBusy (s : State) (l : Nat) (p : Plan) : Bool :=
  s.admitted.any (fun e => e.1 != l && (s.plan? e.2.plan).any (fun q => q.hdr.tablesWr.any (fun t => p.hdr.tablesWr.contains t)))

/-- Takes rows for keys and for values in each of the channels given, in head order: two extents a channel (R139). -/
def State.kvRows (s : State) (n : Nat) (chs : List Nat) : Option (List (Nat × Span) × State) :=
  match chs with
  | [] => some ([], s)
  | ch :: r =>
    match s.rowsTake ch n with
    | none => none
    | some (k, t) =>
      match t.rowsTake ch n with
      | none => none
      | some (v, u) => (u.kvRows n r).map (fun z => ((ch, ⟨k, n⟩) :: (ch, ⟨v, n⟩) :: z.1, z.2))

/-- Pins the KV cache of a resident-class sequence in one stack (R31, R139): the lowest stack with room, with c0 = 0, head g in channel
g mod 32 of it, in keys and values of equal size (log 97). -/
def State.kvPin (s : State) (bytes : Nat) : Option (List (Nat × Span) × State) :=
  let n := ceilDiv bytes 65536
  ((List.range s.hw.variant.stacks).filterMap (fun k => s.kvRows n ((List.range 32).map (32 * k + ·)))).head?

/-- Does a lease of a plan hold a pinned KV cache (R31, R293)? -/
def pinsKv (h : PlanHdr) (resident : Bool) : Bool := resident && h.kind == 4 && bitOf h.classmask 0 && h.hbmbytes != 0

/-- The HBM of a lease at admission: its pinned rows, its interleaved span, and the state (R139, R299). -/
def State.leaseHbm (s : State) (h : PlanHdr) (resident : Bool) : Option (List (Nat × Span) × Option Span × State) :=
  if h.hbmbytes = 0 then some ([], none, s)
  else if pinsKv h resident then (s.kvPin h.hbmbytes).map (fun z => (z.1, none, z.2))
  else (s.areaTake h.hbmbytes).map (fun z => ([], some ⟨z.1, h.hbmbytes⟩, z.2))

/-- Frees the pinned rows of a lease, with zeros over them (R32, R576). -/
def State.kvFree (s : State) (kv : List (Nat × Span)) : State :=
  kv.foldl (fun (t : State) e =>
    let hit := fun (k : Nat) => decide (rowKey e.1 e.2.base ≤ k) && decide (k < rowKey e.1 (e.2.base + e.2.len))
    ({ t with mem := { t.mem with hbm := Tbl.drop t.mem.hbm hit,
                                  hbmPoison := Tbl.drop t.mem.hbmPoison (fun l => hit (64 * l)) } }).rowsFree e.1 e.2.base) s

/-- Cores that may run ballast: BALLAST set and no lease (R256, R481). -/
def State.ballastCores (s : State) : List Nat :=
  (List.range s.hw.variant.cores).filter (fun c => s.fld (fCoreStateLease c) == 0xFFFF && s.flag (fCoreCtlBallast c))

/-- Ballast yields the cores that a lease needs, and runs on other idle cores in its place, as far as they reach (R256, R481). -/
def State.ballastYield (s : State) (cs : List Nat) : State :=
  let n := (cs.filter (fun c => s.flag (fCoreStateBallaston c))).length
  let off := s.each cs (fun c t => t.setFld (fCoreStateBallaston c) 0)
  if n = 0 then off
  else
    let new := (off.ballastCores.filter (fun c => !off.flag (fCoreStateBallaston c) && !cs.contains c)).take n
    (off.each new (fun c t => (t.setFld (fCoreStateBallaston c) 1).setCore c { (t.core c) with gated := false })).setFld fNrgStateBalcores
      (s.fld fNrgStateBalcores - n + new.length)

/-- Admits a waiting lease if every resource is free at once (R299, R340). -/
def State.tryAdmit (s : State) (l : Nat) : Option State :=
  match s.lease? l with
  | none => none
  | some x =>
    match s.plan? x.plan with
    | none => none
    | some p =>
      let h := p.hdr
      let ctx := fun (i : Nat) => s.freeBase (fun y g => ⟨y.ctxBase.getD i 0, bits g.brmctx (4 * i) 4⟩) 4 (bits h.brmctx (4 * i) 4)
      match placeCores s.hw.variant h.dies h.cores ((List.range s.hw.variant.cores).filter s.coreFree),
            s.freeBase (fun y g => ⟨y.nbuBase, g.nbuwords⟩) 512 h.nbuwords,
            s.freeBase (fun y g => ⟨y.qBase, g.sloeq⟩) 8 h.sloeq,
            s.freeBase (fun y _ => y.comSpan.getD ⟨0, 0⟩) s.comEnd h.commonsb with
      | some cs, some nb, some qb, some cb =>
        match ctx 0, ctx 1, ctx 2, ctx 3 with
        | some c0, some c1, some c2, some c3 =>
          if !s.canCharge x.owner (leaseCharge h) || s.tableBusy l p then none
          else
            let res := (s.tenant? x.owner).any (·.resident)
            match s.leaseHbm h res with
            | none => none
            | some (kv, span, t) =>
              let y : Lease := { x with st := .open_, cores := cs, nbuBase := nb, ctxBase := [c0, c1, c2, c3], qBase := qb,
                                        kv := kv, hbmSpan := span,
                                        comSpan := if h.commonsb = 0 then none else some ⟨cb, h.commonsb⟩,
                                        resident := res, overdue := false }
              let u := (t.setLease l y).charge x.owner (leaseCharge h)
              let v := (u.ballastYield cs).each cs (fun c w =>
                (w.setFld (fCoreStateLease c) l).setCore c
                  { coreReset with rm := (w.core c).rm.map (fun e => (e.1, { e.2 with hist := [], drained := false })) })
              some ((v.loadUprog h nb y.resident).loadResident h cs y.resident)
        | _, _, _, _ => none
      | _, _, _, _ => none

/-! ## Opening and queueing -/

/-- PRIO of a plan's leases (R293, R300). -/
def planPrio (h : PlanHdr) : Nat := if h.kind = 6 then 0 else h.prio % 8

/-- The open leases of a plan that take requests. -/
def State.planLeases (s : State) (plan : Nat) : List (Nat × Lease) :=
  s.work.leases.filter (fun e => e.2.plan == plan && e.2.st != .closing)

/-- All open leases of a plan count against its limit of 16 (R298). -/
def State.planOpen (s : State) (plan : Nat) : Nat := (s.work.leases.filter (fun e => e.2.plan == plan)).length

/-- Opens a lease for a loaded plan (R298, R299, R332): its number, or the status that refuses it. -/
def State.openLease (s : State) (plan : Nat) : Except Status (Nat × State) :=
  match s.plan? plan with
  | none => .error .notFound
  | some p =>
    if s.neverFits p then .error .noResource
    else if (s.tenant? p.owner).any (fun t => quotaOver t.limit (leaseCharge p.hdr)) then .error .quota
    else if 16 ≤ s.planOpen plan ∨ 256 ≤ s.work.leases.length then .error .retryLater
    else
      match Tbl.lowestFree s.work.leases 0 0xFFFF with
      | none => .error .retryLater
      | some n =>
        let x : Lease :=
          { plan := plan, owner := p.owner, prio := planPrio p.hdr, maint := p.hdr.kind == 6, st := .waiting,
            arrival := s.work.arrivals, overdue := false, cores := [], nbuBase := 0, ctxBase := [0, 0, 0, 0], qBase := 0,
            queue := [], batchOk := false, nextSeq := 0, step := none, past := [],
            totals := [0, 0, 0, 0, 0, 0, 0, 0, 0], held := false, frozen := false, nextGroup := false, resident := false, kv := [],
            hbmSpan := none, comSpan := none, closeReq := none }
        .ok (n, { s with work := { s.work with leases := Tbl.set s.work.leases n x, arrivals := s.work.arrivals + 1 } })

/-- Queues a request on a lease. -/
def State.queueOn (s : State) (l id : Nat) : State :=
  (s.modLease l (fun x => { x with queue := x.queue ++ [id], batchOk := x.batchOk && !x.queue.isEmpty })).modReq id (fun r =>
    { r with lease := l, qAt := s.uptime })

/-- The lease with the fewest queued requests, the lowest number winning a tie (R298). -/
def fewest (ls : List (Nat × Lease)) : Option Nat :=
  match ls with
  | [] => none
  | e :: r => some (r.foldl (fun b x => if x.2.queue.length < b.2.queue.length then x else b) e).1

/-- Finds or opens the lease on which a request for a plan queues (R298). -/
def State.leaseFor (s : State) (plan : Nat) : Except Status (Nat × State) :=
  let q := ((s.plan? plan).map (·.hdr.qbatch)).getD 1
  let ls := s.planLeases plan
  match ls.find? (fun e => decide (e.2.queue.length < q)) with
  | some e => .ok (e.1, s)
  | none =>
    if 16 ≤ s.planOpen plan ∨ 256 ≤ s.work.leases.length then
      match fewest ls with
      | some l => .ok (l, s)
      | none => .error .retryLater
    else s.openLease plan

/-! ## Records -/

/-- A search record that only carries a failure (R115). -/
def SearchRec.fail (st : Status) (k index tenant epoch tag qtag : Nat) : SearchRec :=
  { status := st, tieAtK := false, widened := false, reranked := false, partial_ := false, k := k, ties := 0,
    index := index, tenant := tenant, epoch := epoch, wlevel := 0, failed := 0, lists := 0, poisoned := 0, nans := 0,
    skipped := 0, passed := 0, cands := 0, steptag := tag, qtag := qtag, entries := [] }

/-- The empty entry (R114). -/
def emptyEntry : TkEntry := ⟨f32Inf, 2 ^ 64 - 1, 2 ^ 64 - 1, 0, 0⟩

/-- An entry of a result record (R114). -/
def entryBytes (e : TkEntry) : List Byte := leBytes 8 e.vid ++ leBytes 8 e.okey ++ leBytes 4 e.dist ++ leBytes 4 e.loc

/-- A search result record (R112, R113). -/
def SearchRec.bytes (r : SearchRec) (pending : Bool) : List Byte :=
  leBytes 1 (statusCode r.status)
  ++ leBytes 1 (b2n r.tieAtK + 2 * b2n pending + 4 * b2n r.widened + 8 * b2n r.reranked + 16 * b2n r.partial_)
  ++ leBytes 2 r.entries.length ++ leBytes 2 r.k ++ leBytes 2 (min r.ties 0xFFFF) ++ leBytes 2 r.index ++ leBytes 2 r.tenant
  ++ leBytes 2 r.epoch ++ leBytes 1 r.wlevel ++ leBytes 1 (min r.failed 0xFF) ++ leBytes 4 r.lists
  ++ leBytes 4 (min r.poisoned 0xFFFFFFFF) ++ leBytes 4 (min r.nans 0xFFFFFFFF) ++ leBytes 4 (min r.skipped 0xFFFFFFFF)
  ++ leBytes 4 (min r.passed 0xFFFFFFFF) ++ leBytes 2 (min r.cands 0xFFFF) ++ zeros 2 ++ leBytes 8 r.steptag
  ++ leBytes 8 r.qtag ++ zeros 8
  ++ (r.entries ++ List.replicate (r.k - r.entries.length) emptyEntry).flatMap entryBytes

/-- A step record (R318). -/
def StepRec.bytes (r : StepRec) : List Byte :=
  leBytes 8 r.steptag ++ leBytes 4 r.plan ++ leBytes 1 (statusCode r.status)
  ++ leBytes 1 (b2n r.exceed + 2 * b2n r.reexec + 4 * b2n r.replay + 8 * b2n r.prov) ++ leBytes 2 r.tenant
  ++ leBytes 8 r.adv ++ leBytes 8 r.wall
  ++ (List.range 9).flatMap (fun i => leBytes 4 (min (r.stall.getD i 0) 0xFFFFFFFF))
  ++ leBytes 4 r.emeas ++ leBytes 4 r.edecl ++ leBytes 4 r.nrdvl ++ leBytes 4 (min r.admitwait 0xFFFFFFFF)
  ++ leBytes 2 r.nreq ++ zeros 2 ++ leBytes 4 r.tordv ++ zeros 4

/-! ## Answers -/

/-- The tag that a record echoes: the CMD's tag, or the CID of the entry. -/
def srcTag (x : ReqSrc) : Nat := match x with | .queue h => h.cid | .conn m => m.tag

/-- The route-map epoch of a request. -/
def srcEpoch (x : ReqSrc) : Nat := match x with | .queue h => h.epoch | .conn m => m.epoch

/-- Sends a request's completion to where it came from. -/
def State.answerReq (s : State) (src : ReqSrc) (st : Status) (body : List Byte) : State :=
  match src with
  | .queue h => s.complete h st body []
  | .conn m => s.replyTo m st body

/-- Completes an accepted request: it leaves the node's list and its OUTREQ charge is released (R331). -/
def State.finishReq (s : State) (r : Req) (st : Status) (body : List Byte) : State :=
  (({ s with work := { s.work with reqs := s.work.reqs.filter (fun x => x.id != r.id) } }).release r.tenant
    ⟨0, 0, 0, 0, 0, 0, 0, 0, 0, 1, 0, 0⟩).answerReq r.src st body

/-- Changes a member's part of a group request the master keeps (R415). -/
def State.setPart (s : State) (req pos : Nat) (f : Part → Part) : State :=
  { s with cas := { s.cas with groupReqs := s.cas.groupReqs.map (fun g =>
      if g.req = req then { g with parts := g.parts.map (fun p => if p.pos = pos then f p else p) } else g) } }

/-- The request that the master holds for a source, of which a forwarded one is its own part (R414). -/
def State.holderOf (s : State) (src : ReqSrc) : Nat :=
  ((s.work.reqs.find? (fun q => !q.forwarded && q.src == src)).map (·.id)).getD s.work.nextReq

/-- Delivers the outcome of a request that ran in a step. The master's own part of a group request goes to the merge. -/
def State.deliver (s : State) (r : Req) (st : Status) (rec_ : Option SearchRec) (out : List Byte) : State :=
  if r.forwarded then
    ({ s with work := { s.work with reqs := s.work.reqs.filter (fun x => x.id != r.id) } }).setPart (s.holderOf r.src)
      (s.fld fCasCfgPos) (fun p => { p with rec_ := rec_, out := out, failed := if rec_.isSome && (st == Status.ok || st == Status.short) then none else some st })
  else
    match rec_ with
    | some x => s.finishReq r st (x.bytes false)
    | none => s.finishReq r st out

/-- Fails a request that had queued or run, with no output (R313, R115). -/
def State.failReq (s : State) (id : Nat) (st : Status) (tag : Nat) : State :=
  match s.req? id with
  | none => s
  | some r =>
    if r.op = .search then
      s.deliver r st (some (SearchRec.fail st (leAt r.body 4 2) r.index r.tenant r.epoch tag (srcTag r.src))) []
    else s.deliver r st none []

/-! ## Closing -/

/-- The HOLD bits of a lease's cores (R260). -/
def State.setHold (s : State) (cores : List Nat) (v : Nat) : State := s.each cores (fun c t => t.setFld (fCoreStateHold c) v)

/-- Is a lease frozen under a hold? Its figure has left eplan, and its watchdog stands (R479). -/
def holdTaken (x : Lease) : Bool := x.held && x.frozen

/-- Holds a lease: the hold takes effect at its next rendezvous, at once when it is frozen at one (R310, R314). -/
def State.holdLease (s : State) (l : Nat) : State :=
  match s.lease? l with
  | none => s
  | some x =>
    let t := s.modLease l (fun y => { y with held := true })
    if x.frozen then (t.modStep l (fun p => { p with wasHeld := true })).setHold x.cores 1 else t

/-- Freezes a lease at a rendezvous: every position stops at the step cycle it has reached (R308). `hold` says that an energy hold takes
effect there (R310). -/
def State.freezeLease (s : State) (l : Nat) (rdvs : List Nat) (hold : Bool) : State :=
  match s.lease? l with
  | none => s
  | some x =>
    let t := (s.modLease l (fun y => { y with frozen := true })).modStep l (fun p =>
      { p with rdvFroze := p.rdvFroze ++ rdvs.filter (fun i => !p.rdvFroze.contains i), wasHeld := p.wasHeld || hold })
    let u := t.each x.cores (fun c v => v.setFld (fCoreStateFrozen c) 1)
    if hold then u.setHold x.cores 1 else u

/-- A lease runs on after a freeze (R308). -/
def State.thawLease (s : State) (l : Nat) : State :=
  match s.lease? l with
  | none => s
  | some x =>
    ((s.modLease l (fun y => { y with frozen := false })).each x.cores (fun c v => v.setFld (fCoreStateFrozen c) 0)).setHold x.cores 0

/-- Releases a held lease (R479, R490). -/
def State.unhold (s : State) (l : Nat) : State :=
  let t := s.modLease l (fun x => { x with held := false })
  let u := { t with nrg := { t.nrg with heldOrder := t.nrg.heldOrder.filter (fun k => k != l),
                                        vwHeld := t.nrg.vwHeld.filter (fun k => k != l) } }
  u.setHold (((s.lease? l).map (·.cores)).getD []) 0

/-- Closes a lease that runs no step (R303, R576): its queued requests complete with ABORTED, its memories are zeroed, its
charges released and its cores freed. -/
def State.closeNow (s : State) (l : Nat) : State :=
  match s.lease? l with
  | none => s
  | some x =>
    let a := (s.unhold l).each x.queue (fun id t => t.failReq id .aborted 0)
    let b := a.each x.cores (fun c t => ((t.clearStore c).setFld (fCoreStateLease c) 0xFFFF).setCore c
      { (t.core c) with sel := none, fills := [], waiting := [], lastDrain := none })
    let c := (x.hbmSpan.elim b (fun sp => (b.ilvClear sp).areaFree sp.base)).kvFree x.kv
    let d := x.comSpan.elim c c.clearCommons
    let h := ((s.plan? x.plan).map (·.hdr))
    let e := h.elim d (fun h =>
      { d with flash := { d.flash with qslots := Tbl.drop d.flash.qslots (fun k => x.qBase ≤ k && k < x.qBase + h.sloeq) } })
    let f := if x.st = .waiting then e else h.elim e (fun h => e.release x.owner (leaseCharge h))
    let g := { f with work := { f.work with leases := Tbl.erase f.work.leases l } }
    x.closeReq.elim g (fun r => g.completeSt r .ok)

/-- Closes a lease (R303): at once, or when its running step ends. -/
def State.closeLease (s : State) (l : Nat) (req : Option HostHdr) : State :=
  match s.lease? l with
  | none => s
  | some x =>
    let a := s.each x.queue (fun id t => t.failReq id .aborted 0)
    let b := a.modLease l (fun y => { y with queue := [], closeReq := match y.closeReq with | some r => some r | none => req })
    if x.step.isSome || !x.past.isEmpty then b.modLease l (fun y => { y with st := .closing }) else b.closeNow l

/-- A closing lease whose last step has ended closes now. -/
def State.closeIfDone (s : State) (l : Nat) : State :=
  match s.lease? l with
  | none => s
  | some x => if x.st = .closing ∧ x.step.isNone ∧ x.past.isEmpty then s.closeNow l else s

/-! ## Progress and step records -/

/-- Adds to the node's and the owner's progress totals (R461, R462). -/
def State.progress (s : State) (owner commit replay lost stall : Nat) : State :=
  (((((s.count kChkCommit commit).count kChkReplay replay).count kChkLost lost).count kChkStall stall)).modTenant owner
    (fun x => { x with prog := { x.prog with commit := x.prog.commit + commit, replay := x.prog.replay + replay,
                                             lost := x.prog.lost + lost, stall := x.prog.stall + stall } })

/-- Frozen core cycles of all positions in a measurement. -/
def measFrozen (m : Meas) : Nat := (m.frz.map (fun l => l.foldl (· + ·) 0)).foldl (· + ·) 0

/-- Core cycles advanced by all positions in a measurement. -/
def measAdv (m : Meas) : Nat := m.cyc.foldl (· + ·) 0

/-- The stall cause, 1 to 9, of a rendezvous that was late (R147, R307, R309). A peer's lateness has the cause of what it waited for;
a reserved source kind is charged to a free cause. -/
def State.stallCause (s : State) (src : Nat) (w : Late) (v : Nat) : Nat :=
  let k := if src = 6 then w.src else src
  if w.replay then 8
  else
    match k with
    | 1 => if w.refresh then 2 else 1
    | 2 =>
      let p := s.slotGet w.ch w.slot 0x54 4
      let q := s.slotGet w.ch w.slot 0x58 4
      let c := s.slotGet w.ch w.slot 0x5C 4
      if q ≤ p ∧ c ≤ p then 2 else if c ≤ q then 3 else 1
    | 3 => 4
    | 4 => 5
    | 5 => 6
    | 7 => 9
    | _ => v % 9 + 1

/-- The freezes of a step that are charged: each rendezvous that froze the lease, once, with its position and cause. -/
def State.chargedRdvs (s : State) (h : PlanHdr) (p : Step) (rs : List RdvMeas) : List (Nat × Nat × RdvMeas) :=
  let tab := rdvTab h p.resident
  (p.rdvFroze.zipIdx).filterMap (fun f =>
    match rs.find? (fun r => r.idx == f.1), tab[f.1]? with
    | some r, some e => some (e.pos, s.stallCause e.src r.late (Config.freeValue (s.free + f.2)), r)
    | _, _ => none)

/-- What was measured of the present run of a step (R236, R308 to R310, R317, R318): the cycles of each freeze are charged once to the
cause of its entry, and count in FRZFILL of its position and in FRZLEASE of the others; those under a hold that took effect are charged
to ENERGY_HOLD and count in FRZHOLD. The step cycles are those of the cores. -/
def State.measOf (s : State) (l : Nat) (m : StepMeas) : Meas × State :=
  match s.lease? l with
  | none => (⟨0, 0, [], 0, 0, 0, [], []⟩, s)
  | some x =>
    match x.step, s.plan? x.plan with
    | some p, some pl =>
      let rs := s.chargedRdvs pl.hdr p m.rdvs
      let held := fun (r : RdvMeas) => if p.wasHeld then min r.held r.cyc else 0
      let sum := fun (f : Nat × Nat × RdvMeas → Nat) => (rs.map f).foldl (· + ·) 0
      let loc := fun (k : Nat) (f : LocalFrz → Nat) => ((m.locals.filter (fun z => z.pos == k)).map f).foldl (· + ·) 0
      let stall := (List.range 9).map (fun i =>
        sum (fun e => if e.2.1 = i + 1 then e.2.2.cyc - held e.2.2 else 0) + (if i = 6 then sum (fun e => held e.2.2) else 0)
          + (if i = 8 ∧ pl.usesRm then m.predWait else 0))
      let frz := (List.range x.cores.length).map (fun k =>
        [sum (fun e => if e.1 = k then e.2.2.cyc - held e.2.2 else 0) + loc k (·.bank), loc k (·.drain),
         sum (fun e => held e.2.2), sum (fun e => if e.1 ≠ k then e.2.2.cyc - held e.2.2 else 0)])
      let cyc := x.cores.map (fun c => s.reg64 (coreBase c + 0x20))
      let adv := cyc.foldl max 0
      (⟨adv, adv + stall.foldl (· + ·) 0 + m.extra, stall, p.rdvFroze.length, m.emeas, m.peak, cyc, frz⟩,
        { s with free := s.free + p.rdvFroze.length })
    | _, _ => (⟨0, 0, [], 0, 0, 0, [], []⟩, s)

/-- Sums of stall totals, saturating (R318). -/
def addStall (t m : List Nat) : List Nat := (List.range 9).map (fun i => satAdd 64 (t.getD i 0) (m.getD i 0))

/-- The figure that the planner admits for a plan's step (R317). -/
def Plan.admitFigure (p : Plan) : Nat := max p.hdr.epeak (p.window.foldl max 0)

/-- Writes the step record and adds the totals (R317, R318, R483). -/
def State.recordStep (s : State) (l : Nat) (st : Status) (m : Meas) (tordv : Nat) : State :=
  match s.lease? l with
  | none => s
  | some x =>
    match x.step, s.plan? x.plan with
    | some p, some pl =>
      let exceed := decide (16 * pl.hdr.estep + pl.hdr.estep < 16 * m.emeas)
      let r : StepRec := ⟨s.stepTag l p.seq, x.plan, st, exceed, decide (1 < p.run), p.replayed, p.provSent, x.owner, m.adv,
        m.wall, m.stall, m.emeas, pl.hdr.estep, m.nrdvl, p.admitwait, p.reqs.length, tordv⟩
      let log := s.work.stepLog ++ [r]
      let t := { s with work := { s.work with
        stepLog := log.drop (log.length - 4096), stepUnread := min 4096 (s.work.stepUnread + 1),
        nodeTotals := addStall s.work.nodeTotals m.stall,
        plans := Tbl.set s.work.plans x.plan { pl with window := (m.peak :: pl.window).take 64 } } }
      let u := (t.modLease l (fun y => { y with totals := addStall y.totals m.stall })).count kNrgStepe m.emeas
      if x.owner = 0xFFFF then u else u.modTenant x.owner (fun y => { y with energy := satAdd 64 y.energy m.emeas })
    | _, _ => s

/-- Adds a run's cycles to the counters of the lease's cores (R262). -/
def State.coreCycles (s : State) (cores : List Nat) (m : Meas) : State :=
  s.each (List.range cores.length) (fun i t =>
    let c := cores.getD i 0
    let f := m.frz.getD i []
    (((((t.count (kCoreRuncyc c) (m.cyc.getD i 0)).count (kCoreFrzfill c) (f.getD 0 0)).count (kCoreFrzdrain c) (f.getD 1 0)).count
      (kCoreFrzhold c) (f.getD 2 0)).count (kCoreFrzlease c) (f.getD 3 0)))

/-- The outstanding reads of cores are gone. -/
def State.dropReads (s : State) (cores : List Nat) : State :=
  { s with work := { s.work with reads := s.work.reads.filter (fun r => !cores.contains r.1) } }

/-- The sequencers of the lease's cores stop: selectors, fills and waiting instructions are gone (R313). -/
def State.haltCores (s : State) (cores : List Nat) : State :=
  (s.dropReads cores).each cores (fun c t => (t.setCore c { (t.core c) with sel := none, fills := [], waiting := [] }).setFld (fCoreStateFrozen c) 0)

/-- The 40 bytes of a sloe result (R177). -/
def sloeBytes (d : SloeDesc) (vid okey dist st flags count : Nat) : List Byte :=
  leBytes 8 vid ++ leBytes 8 okey ++ leBytes 4 dist ++ leBytes 4 (if d.op = 3 then 0 else d.aux) ++ leBytes 8 d.tag
  ++ leBytes 1 st ++ leBytes 1 flags ++ zeros 2 ++ leBytes 4 count

/-- The descriptors whose array reads have begun (R179). -/
def State.begun (s : State) : List SloeDesc :=
  (s.flash.fetches.filter (fun f => !f.dead && f.parts.any (fun p => p.st != .waiting))).map (·.d)

/-- A FETCH whose step is aborted (R179): its array reads in flight complete, and their results are discarded. -/
def Fetch.abort (f : Fetch) : Option Fetch :=
  match f.parts.filter (fun p => p.st == .reading) with
  | [] => none
  | ps => some { f with dead := true, parts := ps }

/-- The descriptors of a lease leave the dispatcher; those not yet started return ABORTED (R179). -/
def State.sloeAbort (s : State) (l : Nat) : State :=
  let t := s.each (s.begun.foldl List.erase (s.flash.disp.filter (fun d => d.lease == l && d.op != 1))) (fun d t =>
    t.emit (.sloe d.dest (sloeBytes d 0 d.okey f32Inf 3 0 0) []))
  { t with flash := { t.flash with disp := t.flash.disp.filter (fun d => d.lease != l),
                                   fetches := t.flash.fetches.filterMap (fun f => if f.d.lease = l then f.abort else some f) } }

/-- The status of a request whose step ends with `st` (R115): a failure of stage 1 or 2 stands before it, and a poisoned query before a
failed check. -/
def stepFailure (st : Status) (z : Option SearchRec) : Status :=
  match z with
  | none => st
  | some r =>
    if r.status = .ok ∨ r.status = .short then st
    else if r.status = .poison then (if st = .checkFail then .poison else st)
    else r.status

/-- Ends a step that does not complete (R313, R315, R316, R454, R457): its currant slots and sloe descriptors stop, its
record is written, and every request completes with the status and no output. `acc` says that the cycles of `m` have not been
accounted yet. -/
def State.endStep (s : State) (l : Nat) (st : Status) (tordv : Nat) (m : Meas) (acc : Bool) : State :=
  match s.lease? l with
  | none => s
  | some x =>
    match x.step with
    | none => s
    | some p =>
      let tag := s.stepTag l p.seq
      let rep := fun (code : Nat) => s.leaseReport l code 0 locNode []
      let a := s.each (List.range s.nch) (fun ch t => t.nbuAbort ch l)
      let b := a.sloeAbort l
      let c := (if acc then b.coreCycles x.cores m else b).haltCores x.cores
      let d := c.progress x.owner 0 0 (p.runsAdv + (if acc then measAdv m else 0))
        (p.frz + (if acc then measFrozen m else 0))
      let e := d.recordStep l st m tordv
      let f := if st = .poison then (e.count kChkPoisonuse 1).cper (rep 0x0109)
        else if st = .checkFail then (e.count kChkCheckfail 1).raise eChk 2 (rep 0x0104) else e
      let g := f.each p.reqs (fun id t => t.failReq id (stepFailure st ((t.req? id).bind (·.result))) tag)
      ((g.unhold l).modLease l (fun y => { y with step := none, frozen := false })).closeIfDone l

/-- A measurement that no command brings (R315): the step cycles are those of the cores, the rest is free (log 9). -/
def State.drawMeas (s : State) (l : Nat) : Meas × State :=
  let cores := ((s.lease? l).map (·.cores)).getD []
  let v := fun (i w : Nat) => Config.freeValue (s.free + i) % 2 ^ w
  let cyc := cores.map (fun c => s.reg64 (coreBase c + 0x20))
  let stall := (List.range 9).map (fun i => v i 64)
  let adv := cyc.foldl max 0
  ({ adv := adv, wall := adv + stall.foldl (· + ·) 0 + v 9 64, stall := stall,
     nrdvl := (((s.lease? l).bind (·.step)).map (·.rdvFroze.length)).getD 0, emeas := v 10 32, peak := v 11 32, cyc := cyc,
     frz := (List.range cores.length).map (fun k => (List.range 4).map (fun i => v (12 + 4 * k + i) 64)) },
   { s with free := s.free + 12 + 4 * cores.length })

/-! ## What a step owes its master (R431 to R434) -/

/-- Does a request's record leave as provisional: a SEARCH that a MEMBER took from its master? -/
def State.provReq (s : State) (r : Req) : Bool :=
  s.role == 1 && r.op == .search && (match r.src with | .conn m => (s.conn? m.dconn).any Conn.sys | .queue _ => false)

/-- The body of a VERDICT (R432). -/
def verdictBody (kind tag : Nat) : List Byte := leBytes 1 kind ++ zeros 7 ++ leBytes 8 tag ++ zeros 8

/-- Sends the verdict of a provisional step, once (R433). -/
def State.sendVerdict (s : State) (tag : Nat) (keep : Bool) : State :=
  match s.cas.provs.find? (fun p => p.steptag == tag) with
  | none => s
  | some p =>
    if p.verdict.isSome then s
    else
      let t := { s with cas := { s.cas with provs := s.cas.provs.map (fun (q : Prov) =>
                   if q.steptag = tag then { q with verdict := some keep } else q) } }
      let u := t.request p.conn mVerdict tag p.step.epoch id (verdictBody (if keep then 1 else 2) tag)
      if keep then u.count kCasConfirms 1
      else (u.count kCasRetracts 1).raise eCas 4 (u.leaseReport p.lease 0x0505 2 (locGroup (u.fld fCasCfgPos) 0) [])

/-- The running maxima of a lease's cores and those that a replay of a step put aside change places: the replay is over (R283). -/
def State.swapRm (s : State) (l tag : Nat) : State :=
  match s.lease? l, s.cas.provs.find? (fun q => q.steptag == tag) with
  | some x, some q => s.each (x.cores.zip q.rm) (fun e t => t.setCore e.1 { (t.core e.1) with rm := e.2 })
  | _, _ => s

/-- Takes requests out of the node's list without an answer, and releases their OUTREQ charge. -/
def State.dropReqs (s : State) (f : Req → Bool) : State :=
  (s.work.reqs.filter f).foldl (fun (t : State) r =>
    ({ t with work := { t.work with reqs := t.work.reqs.filter (fun q => q.id != r.id) } }).release r.tenant
      ⟨0, 0, 0, 0, 0, 0, 0, 0, 0, 1, 0, 0⟩) s

/-- What a step that is about to end without a result owes its master: RETRACT for records that left (R433), GONE for a replay
(R434). Their requests have been answered before, so they leave without a second answer. -/
def State.retractStep (s : State) (l : Nat) : State :=
  match (s.lease? l).bind (·.step) with
  | none => s
  | some p =>
    let tag := s.stepTag l p.seq
    if p.replayed then
      let u := s.swapRm l tag
      let t := { u with work := { u.work with reqs := u.work.reqs.filter (fun r => !p.reqs.contains r.id) } }
      match s.cas.provs.find? (fun q => q.steptag == tag) with
      | some q => t.request q.conn mVerdict tag p.epoch id (verdictBody 4 tag)
      | none => t
    else if p.provSent then (s.dropReqs (fun r => p.reqs.contains r.id && s.provReq r)).sendVerdict tag false
    else s

/-- Ends a step that does not complete, with what it owes its master. -/
def State.abortStep (s : State) (l : Nat) (st : Status) (tordv : Nat) (m : Meas) : State :=
  (s.retractStep l).endStep l st tordv m true

/-- Ends a step by an abort, which brings no measurement of it (R315). -/
def State.abortFree (s : State) (l : Nat) (st : Status) : State :=
  let d := s.drawMeas l
  d.2.abortStep l st 0xFFFFFFFF d.1

/-- Ends a step with a measurement that a command brings. -/
def State.abortMeas (s : State) (l : Nat) (st : Status) (tordv : Nat) (m : StepMeas) : State :=
  let d := s.measOf l m
  d.2.abortStep l st tordv d.1

end Sys2Proof.Machine
end

