-- ==== Sys2Proof/Machine/Tier.lean ====
section
/-! DEFINITION. Node addresses and the stream engine: the windows of a lease (R337), regions of the route map (R336), check
values of tensor blocks (R447 to R451), gather tables (R338 to R348). -/

namespace Sys2Proof.Machine

/-! ## Logical addresses and the check table -/

/-- Key of the check value of an interleaved granule, and of a commons granule. -/
def checkKey (g : Nat) : Nat := g
def checkKeyCom (g : Nat) : Nat := 2 ^ 44 + g

/-- Makes the check value of an interleaved 4 KiB granule under a logical address (R447, R449). -/
def State.checkMake (s : State) (g laddr : Nat) : State :=
  { s with mem := { s.mem with checks := Tbl.set s.mem.checks (checkKey g) (checkValue (s.ilvRead (4096 * g) 4096) laddr),
                               checkLaddr := Tbl.set s.mem.checkLaddr (checkKey g) laddr } }

/-- The same for a commons granule. -/
def State.checkMakeCom (s : State) (g laddr : Nat) : State :=
  { s with mem := { s.mem with
      checks := Tbl.set s.mem.checks (checkKeyCom g) (checkValue (s.commonsRead (4096 * g) 4096) laddr),
      checkLaddr := Tbl.set s.mem.checkLaddr (checkKeyCom g) laddr } }

/-- The logical address of an interleaved granule of an index's tensor blocks: centroid tables, projection matrix, scale vector, adjacency
records of its coarse clusters, copy areas of its lists (R68, R448). -/
def State.idxLaddr (s : State) (g : Nat) : Option Nat :=
  let inside := fun (adr len : Nat) => decide (adr ≤ 4096 * g) && decide (4096 * g < adr + len) && adr != 0
  let index := fun (n st b : Nat) => 2 ^ 60 + n * 2 ^ 50 + st * 2 ^ 46 + b
  if inside adjBase (64 * 4194304) then
    let k := g - adjBase / 4096
    s.idx.desc.findSome? (fun e =>
      if e.2.coarse0 ≤ k ∧ k < e.2.coarse0 + e.2.c.ncoarse then some (index e.1 4 (k - e.2.coarse0)) else none)
  else
    match s.idx.desc.findSome? (fun e =>
      [(0, e.2.coarseadr, coarseBytes e.2.c), (1, e.2.fineadr, fineBytes e.2.c), (2, e.2.projadr, projBytes e.2.c),
       (3, e.2.scaleadr, scaleBytes e.2.c)].findSome? (fun x =>
        if inside x.2.1 x.2.2 then some (index e.1 x.1 (g - x.2.1 / 4096)) else none)) with
    | some la => some la
    | none =>
      s.idx.hdr.findSome? (fun e =>
        let len := fun (cap : Nat) => ((Tbl.find s.idx.desc e.2.owner).map (fun d => copySlot d.c * cap)).getD 0
        if !e.2.copy then none
        else if inside e.2.mcopy (len e.2.mcap) then some (2 * 2 ^ 60 + e.1 * 2 ^ 38 + (g - e.2.mcopy / 4096))
        else if inside e.2.scopy (len e.2.scap) then some (2 * 2 ^ 60 + e.1 * 2 ^ 38 + 2 ^ 37 + (g - e.2.scopy / 4096))
        else none)

/-- The check value of an interleaved granule with its logical address: as made at its last write, and for an index's tensor blocks, which
the node writes itself, over what they hold (R68, R449). -/
def State.checkAt (s : State) (g : Nat) : Option (Nat × Nat) :=
  match Tbl.find s.mem.checks (checkKey g), Tbl.find s.mem.checkLaddr (checkKey g) with
  | some v, some la => some (v, la)
  | _, _ => (s.idxLaddr g).map (fun la => (checkValue (s.ilvRead (4096 * g) 4096) la, la))

/-- The same of a commons granule. -/
def State.checkAtCom (s : State) (g : Nat) : Option (Nat × Nat) :=
  match Tbl.find s.mem.checks (checkKeyCom g), Tbl.find s.mem.checkLaddr (checkKeyCom g) with
  | some v, some la => some (v, la)
  | _, _ => (s.comOf (4096 * g)).bind (fun x => if x % 4096 = 0 then s.checkAt (x / 4096) else none)

/-- After a write to part of an interleaved range, the check values of its granules that have one are made again (R449). -/
def State.recheck (s : State) (x n : Nat) : State :=
  if n = 0 then s
  else
    s.each ((List.range ((x + n - 1) / 4096 - x / 4096 + 1)).map (· + x / 4096)) (fun g t =>
      match Tbl.find t.mem.checkLaddr (checkKey g) with
      | some la => t.checkMake g la
      | none => t)

/-- The same for a range of the commons. -/
def State.recheckCom (s : State) (k n : Nat) : State :=
  if n = 0 then s
  else
    s.each ((List.range ((k + n - 1) / 4096 - k / 4096 + 1)).map (· + k / 4096)) (fun g t =>
      match Tbl.find t.mem.checkLaddr (checkKeyCom g) with
      | some la => t.checkMakeCom g la
      | none => t)

/-- Writes bytes with poison to an interleaved range: poisoned lines take the marker, and check values follow (R449, R455). -/
def State.ilvStore (s : State) (x : Nat) (bs : List Byte) (pois : List Bool) : State :=
  ((s.ilvWrite x bs).hbmPoisonLines (((List.range pois.length).filter (fun i => pois.getD i false)).map
    (fun i => s.ilvKey (x / 64 * 64 + 64 * i) / 64))).recheck x bs.length

/-! ## Node addresses (R326, R327) -/

/-- Where a node address points. -/
inductive Place where
  | ilv (x : Nat)
  | chan (ch off : Nat)
  | commons (k : Nat)
  | core (pos off : Nat)
  | region (r off : Nat)
  | none_
  deriving DecidableEq, Repr

/-- Splits a node address (R326, R327). -/
def State.place (s : State) (a : Nat) : Place :=
  match bits a 60 4 with
  | 0 =>
    if bits a 46 14 ≠ 0 then .none_
    else if bits a 44 2 = 0 then .ilv (bits a 0 44)
    else if bits a 44 2 = 1 ∧ bits a 40 4 = 0 ∧ bits a 32 8 < s.nch then .chan (bits a 32 8) (bits a 0 32) else .none_
  | 1 => if bits a 27 33 = 0 then .commons (bits a 0 27) else .none_
  | 2 => if bits a 32 28 = 0 ∧ bits a 21 3 = 0 then .core (bits a 24 8) (bits a 0 21) else .none_
  | 3 => .region (bits a 48 12) (bits a 0 48)
  | _ => .none_

/-! ## Windows (R337) -/

/-- An interleaved window with its write right. -/
structure Window where
  base  : Nat
  len   : Nat
  write : Bool
  deriving DecidableEq, Repr

/-- The indexes whose structures a plan may read: for SEARCH and UPDATE those that name it, for MAINT all, otherwise those
of its owner (R337; log 22). -/
def State.planIndexes (s : State) (l : Lease) (h : PlanHdr) : List (Nat × Desc) :=
  s.idx.desc.filter (fun e =>
    if h.kind = 6 then true
    else if h.kind = 1 then e.2.splan == l.plan
    else if h.kind = 5 then e.2.uplan == l.plan
    else e.2.c.tenant == l.owner)

/-- The interleaved windows of a lease. -/
def State.windows (s : State) (l : Lease) (p : Plan) : List Window :=
  let wr := p.hdr.kind == 5 || p.hdr.kind == 6
  (l.hbmSpan.toList.map (fun sp => ⟨sp.base, sp.len, true⟩))
  ++ (s.planIndexes l p.hdr).flatMap (fun e =>
      let d := e.2
      [⟨d.coarseadr, coarseBytes d.c, wr⟩, ⟨d.fineadr, fineBytes d.c, wr⟩, ⟨d.projadr, projBytes d.c, wr⟩,
       ⟨d.scaleadr, scaleBytes d.c, wr⟩, ⟨d.diradr, 64 * d.c.dirn, wr⟩, ⟨descBase + 256 * e.1, 256, wr⟩,
       ⟨maskBase + 8 * d.coarse0, 8 * d.c.ncoarse, wr⟩, ⟨hdrBase + 4096 * d.coarse0, 4096 * d.c.ncoarse, wr⟩,
       ⟨adjBase + 4096 * d.coarse0, 4096 * d.c.ncoarse, wr⟩]
      ++ s.idx.hdr.flatMap (fun h => if h.2.owner = e.1 ∧ h.2.copy then
          [⟨h.2.mcopy, h.2.mcap * copySlot d.c, wr⟩, ⟨h.2.scopy, h.2.scap * copySlot d.c, wr⟩] else []))
  ++ (p.hdr.tablesRd ++ p.hdr.tablesWr).flatMap (fun t =>
      match Tbl.find s.tables.descs t with
      | some d => if d.tenant = l.owner then [⟨bits d.base 0 44, d.rows * d.rowbytes, p.hdr.tablesWr.contains t⟩] else []
      | none => [])
  ++ (List.range p.areas.length).map (fun i =>
      ⟨p.areas.getD i 0, ((p.hdr.sections.getD i ⟨0, 0, false, false, []⟩).bytes).length, false⟩)

/-- Is a transfer inside the window list of the lease (R337)? -/
def State.inWindow (s : State) (l : Lease) (p : Plan) (a n : Nat) (write : Bool) : Bool :=
  match s.place a with
  | .ilv x => (s.windows l p).any (fun w => decide (w.base ≤ x) && decide (x + n ≤ w.base + w.len) && (w.write || !write))
  | .chan ch off =>
    l.kv.any (fun e => e.1 == ch && decide (1024 * e.2.base ≤ off) && decide (off + n ≤ 1024 * (e.2.base + e.2.len)))
    || (s.planIndexes l p.hdr).any (fun e => s.idx.hdr.any (fun h =>
      h.2.owner == e.1 && h.2.home == ch && (p.hdr.kind == 5 || p.hdr.kind == 6 || !write)
      && ((decide (1024 * h.2.mbase ≤ off) && decide (off + n ≤ 1024 * (h.2.mbase + extRows e.2.c h.2.mcap)))
        || (decide (1024 * h.2.sbase ≤ off) && decide (off + n ≤ 1024 * (h.2.sbase + extRows e.2.c h.2.scap))))))
  | .commons k => l.comSpan.any (fun sp => decide (sp.base ≤ k % 2 ^ 26) && decide (k % 2 ^ 26 + n ≤ sp.base + sp.len))
  | .core pos off => decide (pos < l.cores.length) && decide (off + n ≤ 2 ^ 21)
  | .region _ _ => true
  | .none_ => false

/-! ## Regions (R334 to R336) -/

/-- The map of an epoch, if it is live (R426). -/
def State.mapOf (s : State) (epoch : Nat) : Option RMap :=
  match s.cas.newMap with
  | some m => if m.epoch = epoch then some m else s.cas.oldMap.filter (fun o => o.epoch == epoch)
  | none => none

/-- Outcome of the checks of R336. -/
inductive RegOut where
  | noRoute
  | fail (st : Status)
  | ok (e : RegionEnt)
  deriving DecidableEq, Repr

/-- The checks of R336, in table order. -/
def State.regionCheck (s : State) (epoch owner r off n : Nat) (write : Bool) : RegOut :=
  match (s.mapOf epoch).bind (fun m => m.entries.find? (fun e => e.region == r)) with
  | none => .noRoute
  | some e =>
    if e.kind = 0 then .noRoute
    else if e.owner ≠ owner then .fail .rights
    else if !bitOf e.rights (if write then 1 else 0) then .fail .rights
    else if e.length < off + n then .fail .bounds
    else .ok e

/-- Adds to a tier counter of R352, saturating. -/
def State.tier (s : State) (i k : Nat) : State :=
  { s with tables := { s.tables with counters := s.tables.counters.modify i (fun x => satAdd 64 x k) } }

def tNoroute : Nat := 0
def tPoolerr : Nat := 1
def tPooltmo : Nat := 2
def tHbmue : Nat := 3
def tGathers : Nat := 4
def tGidx : Nat := 5
def tGdist : Nat := 6
def tScatters : Nat := 7
def tTblclip : Nat := 8
def tHotrows : Nat := 9
def tRepskip : Nat := 10

/-- The pinned SYS connection to a node: the member table, or the parent's (R413). -/
def State.sysConn (s : State) (node : Nat) : Option Nat :=
  match s.boot.image.bind (·.group) with
  | none => none
  | some g =>
    match (g.members ++ g.children).find? (fun m => m.node == node) with
    | some m => some m.conn
    | none => if g.pmaster = node ∧ g.pmaster ≠ 0 then some g.pconn else none

/-! ## Gather tables -/

/-- The home node of a row and its local row there (R339). -/
def rowHome (d : TableDesc) (self r : Nat) : Nat × Nat :=
  if bitOf d.tflags 0 then
    (d.nodes.getD (r / d.chunk % d.nnodes) 0, r / (d.chunk * d.nnodes) * d.chunk + r % d.chunk)
  else (self, r)

/-- The interleaved offset of a row whose home is this node (R339). -/
def State.rowOff (s : State) (d : TableDesc) (r : Nat) : Nat := bits d.base 0 44 + (rowHome d s.nodeNum r).2 * d.rowbytes

/-- A row whose home is this node, as it lies in HBM. -/
def State.rowAt (s : State) (d : TableDesc) (r : Nat) : Staged :=
  let x := s.rowOff d r
  ⟨d.table, r, s.ilvRead x d.rowbytes, (s.ilvLines x d.rowbytes).map (fun l => Tbl.get false s.mem.hbmPoison l)⟩

/-- The stack in which a row starts, its home stack (R345; log 55). -/
def State.rowStack (s : State) (d : TableDesc) (r : Nat) : Nat := s.ilvKey (s.rowOff d r) / 2 ^ 37

/-- The key of a replicated row. -/
def repKey (d : TableDesc) (r : Nat) : Nat := d.table * 2 ^ 40 + r

/-- Writes the copies of a row, one for each present stack but its home stack, one after the other from `b` on (R345, R346; log 55). -/
def State.copiesPut (s : State) (d : TableDesc) (b : Nat) (x : Staged) : State :=
  s.each (List.range (s.hw.variant.stacks - 1)) (fun i t => t.ilvStore (b + i * d.rowbytes) x.bytes x.pois)

/-- The row that a core of a die reads: the copy of the lowest-numbered stack beside the die, or the home row where that is its home stack
or the row has no copies (R20, R346). -/
def State.rowNear (s : State) (d : TableDesc) (r core : Nat) : Staged :=
  let k := if core < s.hw.variant.cores / 2 then 0 else s.hw.variant.stacks / 2
  match Tbl.find s.tables.replicas (repKey d r) with
  | none => s.rowAt d r
  | some b =>
    let h := s.rowStack d r
    if k = h then s.rowAt d r
    else
      let x := b + (if k < h then k else k - 1) * d.rowbytes
      ⟨d.table, r, s.ilvRead x d.rowbytes, (s.ilvLines x d.rowbytes).map (fun l => Tbl.get false s.mem.hbmPoison l)⟩

/-- Writes a row whose home is this node, and its copies (R346, R348); running steps keep the row as it stood (R341). -/
def State.rowPut (s : State) (d : TableDesc) (st : Staged) : State :=
  let old := s.rowAt d st.row
  let keep := fun (p : Step) =>
    if p.before.any (fun b => b.table == d.table && b.row == st.row) then p else { p with before := old :: p.before }
  let t := { s with work := { s.work with leases := s.work.leases.map (fun (e : Nat × Lease) => (e.1, { e.2 with step := e.2.step.map keep })) } }
  let u := t.ilvStore (s.rowOff d st.row) st.bytes st.pois
  match Tbl.find s.tables.replicas (repKey d st.row) with
  | some b => u.copiesPut d b st
  | none => u

/-- The hot-table entry with the smallest count, ties to the lower table and row (R344). -/
def coldest (l : List HotEnt) : Option HotEnt :=
  match l with
  | [] => none
  | e :: r => some (r.foldl (fun b x =>
      if x.count < b.count ∨ (x.count = b.count ∧ (x.table < b.table ∨ (x.table = b.table ∧ x.row < b.row))) then x else b) e)

/-- One access of multiplicity `m` to a row (R344). -/
def hotTouch (l : List HotEnt) (table row m : Nat) : List HotEnt :=
  if l.any (fun e => e.table == table && e.row == row) then
    l.map (fun e => if e.table = table ∧ e.row = row then { e with count := satAdd 32 e.count m } else e)
  else if l.length < 4096 then l ++ [⟨table, row, satAdd 32 0 m, 0⟩]
  else
    match coldest l with
    | none => l
    | some c => l.map (fun e => if e = c then ⟨table, row, satAdd 32 c.count m, c.count⟩ else e)

/-- Distinct sorted values of a list, with their multiplicities (R343). -/
def distinctOf (l : List Nat) : List (Nat × Nat) :=
  l.foldl (fun (t : Tbl Nat) r => Tbl.set t r (Tbl.get 0 t r + 1)) []

/-! ## Combining scatter inputs (R347) -/

/-- An element while inputs are combined: its INT32 value, or FP32 bits. -/
def combElem (fmt : Nat) (c : Nat) : Int := if fmtInt fmt then elemInt fmt c else (elemF32 fmt c : Nat)

/-- Adds one element. -/
def combAdd (fmt : Nat) (x y : Int) : Int :=
  if fmtInt fmt then (clamp32 (x + y)).1 else (fadd x.toNat y.toNat : Nat)

/-- Back to the table's format, with a clip. -/
def combOut (fmt : Nat) (x : Int) : Nat × Bool := convert fmt (if fmtInt fmt then fOfInt x else x.toNat)

/-- Elements of a row. -/
def rowElems (d : TableDesc) : Nat := d.rowbytes * 8 / fmtWidth d.tfmt

/-- Combines the inputs of one row in order: the row, and its clips. Without an ADD the last input stands as it is. -/
def combineRow (d : TableDesc) (stored : Staged) (ins : List ScatIn) : Staged × Nat :=
  if ins.all (fun i => !i.add) then
    match ins.getLast? with
    | none => (stored, 0)
    | some i => ({ stored with bytes := i.bytes, pois := i.pois }, 0)
  else
    let n := rowElems d
    let get := fun (bs : List Byte) => (List.range n).map (fun k => combElem d.tfmt (elemAt d.tfmt bs k))
    let r := ins.foldl (fun (z : List Int × List Bool) i =>
      if i.add then ((z.1.zip (get i.bytes)).map (fun x => combAdd d.tfmt x.1 x.2), (z.2.zip i.pois).map (fun x => x.1 || x.2))
      else (get i.bytes, i.pois)) (get stored.bytes, stored.pois)
    let out := r.1.map (combOut d.tfmt)
    ({ stored with bytes := packElems (fmtWidth d.tfmt) n (out.map (·.1)), pois := r.2 }, (out.filter (·.2)).length)

/-- The rows that a step's inputs name, in ascending table and row. -/
def stagedRows (l : List ScatIn) : List (Nat × Nat) :=
  ((distinctOf (l.map (fun i => i.table * 2 ^ 48 + i.row))).map (fun e => (e.1 / 2 ^ 48, e.1 % 2 ^ 48)))

/-- The inputs of a row in the order of R347: ascending position, then issue order. -/
def inputsOf (l : List ScatIn) (t r : Nat) : List ScatIn :=
  let mine := l.filter (fun i => i.table == t && i.row == r)
  (List.range 192).flatMap (fun p => mine.filter (fun i => i.pos == p))

end Sys2Proof.Machine
end

