-- ==== Sys2Proof/Machine/Cores.lean ====
section
/-! DEFINITION. The sequencer instructions of a core (R296) and the landing of its fills. Each instruction advances
CORE_STEPCYC by the core cycles of R296 (R235). -/

namespace Sys2Proof.Machine

/-! ## Issue -/

/-- A core of a lease whose step runs and is not frozen (R234, R235, R308): the instruction issues. Anything else is an event that
cannot happen (log 12). -/
def State.onCore (s : State) (core : Nat) (f : Nat → Lease → Step → State → Outcome) : Outcome :=
  if s.hw.variant.cores ≤ core || !s.serving then .next s
  else
    match s.leaseOf core with
    | none => .next s
    | some (l, x) =>
      match x.step with
      | none => .next s
      | some p =>
        if p.ended || x.frozen || !p.waitB.isEmpty || !(s.core core).waiting.isEmpty then .next s else f l x p s

/-- The instruction occupies the sequencer for `n` core cycles (R296). -/
def State.cyc (s : State) (core n : Nat) : State :=
  s.setReg64 (coreBase core + 0x20) ((s.reg64 (coreBase core + 0x20) + n) % 2 ^ 64)

/-- The position of a core in its lease. -/
def posOf (x : Lease) (core : Nat) : Nat := (x.cores.findIdx? (· == core)).getD 0

/-- Poison consumed by a plan other than a SEARCH plan fails its step (R454). -/
def State.usePoison (s : State) (l : Nat) (x : Lease) (c : Bool) : State :=
  if c && !(s.plan? x.plan).any (fun p => p.hdr.kind == 1) then
    s.modStep l (fun p => if p.status = .ok then { p with status := .poison } else p)
  else s

/-- Poison in an address, a count or a branch word fails the step of any plan (R454). -/
def State.usePoisonAddr (s : State) (l : Nat) (c : Bool) : State :=
  if c then s.modStep l (fun p => if p.status = .ok then { p with status := .poison } else p) else s

/-- Ends a step with a status of its own accord, with what it owes its master (R336, R337, R343, R433). -/
def State.stopStep (s : State) (l : Nat) (st : Status) : State := s.abortFree l st

/-! ## Rendezvous (R307 to R310) -/

/-- The rendezvous of a position that the present run has not passed and whose line `hit` says is read. -/
def State.rdvsMet (s : State) (x : Lease) (p : Step) (pos : Nat) (hit : Nat → Bool) : List Nat :=
  match s.plan? x.plan with
  | none => []
  | some pl => ((rdvTab pl.hdr p.resident).zipIdx.filter (fun e => e.1.pos == pos && hit e.1.line && !p.rdvDone.contains e.2)).map (·.2)

/-- A feeder or the stream engine reads lines of the core store. On an EMPTY line the lease freezes there with the instruction, and so it
does at a rendezvous while it is held, whether or not the data have come (R234, R308, R310; log 98). `full` says that the lines are FILLED. -/
def State.readAt (s : State) (core l : Nat) (x : Lease) (p : Step) (i : Instr) (hit : Nat → Bool) (full : Bool)
    (go : State → State) : State :=
  let met := s.rdvsMet x p (posOf x core) hit
  if !full || (x.held && !met.isEmpty) then
    (s.freezeLease l met x.held).setCore core { (s.core core) with waiting := [i] }
  else go (s.modStep l (fun q => { q with rdvDone := q.rdvDone ++ met }))

/-- Lets a frozen lease go on with the instruction that waits, if it can now (R308). -/
def State.wakeLease (s : State) (l : Nat) (go : Instr → State → State) : State :=
  match s.lease? l with
  | none => s
  | some x =>
    match x.cores.find? (fun c => !(s.core c).waiting.isEmpty) with
    | none => s
    | some c =>
      match (s.core c).waiting with
      | [i] => go i ((s.setCore c { (s.core c) with waiting := [] }).thawLease l)
      | _ => s

/-- Does line `n` of a core store hold a byte of a range? -/
def inLines (a len n : Nat) : Bool := decide (0 < len) && decide (a / 64 ≤ n) && decide (n ≤ (a + len - 1) / 64)

/-- Is a core-store range inside the store and line-aligned (R228, R246)? -/
def storeOk (a n : Nat) : Bool := a % 64 == 0 && decide (a + n ≤ 2 ^ 21)

/-! ## TILE -/

/-- Wavefront k of a feeder. -/
def State.wave (s : State) (core fmt base stride k : Nat) : List Byte := s.storeRead core (base + k * stride) (waveBytes fmt)

/-- The accumulators of an array before the tile (R238): values, poison, saturation, checksum cells. -/
def State.tileInit (s : State) (core a : Nat) (d : TileDesc) : List Int × List Bool × List Bool × List Int :=
  let x := s.core core
  if d.acc = 2 then (x.acc.getD a [], x.accPois.getD a [], x.accSat.getD a [], x.chkCells.getD a [])
  else if d.acc = 1 then
    let base := d.pbase + 65536 * a
    let v := (List.range 16384).map (fun i =>
      let w := leAt (s.storeRead core (base + 4 * i) 4) 0 4
      if fmtInt d.fmt then signed 32 w else (w : Int))
    let p := (List.range 16384).map (fun i => s.storePois core (base + 4 * i) 4)
    let sum := fun (l : List Int) => if fmtInt d.fmt then l.foldl (· + ·) 0 else ((l.foldl (fun z y => fadd z y.toNat) 0 : Nat) : Int)
    (v, p, List.replicate 16384 false, ((List.range 256).map (fun n => sum (lineCells 0 v n))) ++ [sum v])
  else (List.replicate 16384 0, List.replicate 16384 false, List.replicate 16384 false, List.replicate 257 0)

/-- An array after the tile's wavefronts (R227, R233, R240, R245). An array outside AMASK takes zero activations. `dead` are lines that
parity has made poison. -/
def State.tileRun (s : State) (core a : Nat) (d : TileDesc) (dead : List Nat) : List Int × List Bool × List Bool × List Int :=
  let z := s.tileInit core a d
  let used := bitOf d.amask a
  let wa := fun k => if used then s.wave core d.fmt (d.abase.getD a 0) d.astride k else zeros (waveBytes d.fmt)
  let ww := fun k => s.wave core d.fmt d.wbase d.wstride k
  let cells := (List.range 16384).map (fun n =>
    (List.range d.k).foldl (fun x k => cellStep d.fmt d.cell x (waveElems d.fmt (wa k) (n / 128)) (waveElems d.fmt (ww k) (n % 128)))
      (z.1.getD n 0, z.2.2.1.getD n false))
  let bad := fun (x : Nat) => s.storePois core x 1 || dead.contains (x / 64)
  let pois := (List.range 16384).map (fun n =>
    z.2.1.getD n false || (List.range d.k).any (fun k =>
      bad (d.wbase + k * d.wstride + 64 * waveLine d.fmt (n % 128))
      || (used && bad (d.abase.getD a 0 + k * d.astride + 64 * waveLine d.fmt (n / 128)))))
  let chk := if d.chk then
      (List.range 257).map (fun n => (List.range d.k).foldl (fun c k => chkStep d.fmt d.cell n c (wa k) (ww k)) (z.2.2.2.getD n 0))
    else z.2.2.2
  (cells.map (·.1), pois, cells.map (·.2), chk)

/-- Adds an arithmetic fault to accumulators and checksum cells. -/
def cellErr (fmt : Nat) (a : Nat) (x : List Int × List Bool × List Bool × List Int) (e : CellErr) :
    List Int × List Bool × List Bool × List Int :=
  if e.array ≠ a then x
  else
    let bump := fun (v : Int) => if fmtInt fmt then signed 32 (unsigned 32 (v + e.delta)) else (unsigned 32 (v + e.delta) : Int)
    if e.row < 128 ∧ e.col < 128 then (x.1.modify (128 * e.row + e.col) bump, x.2)
    else
      let i := if e.row < 128 then e.row else if e.col < 128 then 128 + e.col else 256
      (x.1, x.2.1, x.2.2.1, x.2.2.2.modify i bump)

/-- Does a feeder of the tile read line `n` of the core store? -/
def tileReads (d : TileDesc) (n : Nat) : Bool :=
  let b := waveBytes d.fmt
  (List.range d.k).any (fun k =>
    inLines (d.wbase + k * d.wstride) b n || (maskBits 4 d.amask).any (fun a => inLines (d.abase.getD a 0 + k * d.astride) b n))

/-- Does a feeder of the tile read an EMPTY line (R234, R247)? -/
def State.tileEmpty (s : State) (core : Nat) (d : TileDesc) : Bool :=
  let n := waveBytes d.fmt
  (List.range d.k).any (fun k =>
    !s.storeFull core (d.wbase + k * d.wstride) n
    || (maskBits 4 d.amask).any (fun a => !s.storeFull core (d.abase.getD a 0 + k * d.astride) n))

/-- Does a tile descriptor break a rule of R228, R229, R231, R272 or R280? The number of the rule broken. -/
def State.tileBad (s : State) (core : Nat) (d : TileDesc) : Option Nat :=
  let x := s.core core
  let n := waveBytes d.fmt
  let last := d.k - 1
  let ob := if d.drain = 2 then 16384 * fmtWidth d.ofmt / 8 else 65536
  if d.acc = 2 ∧ x.lastDrain ≠ some 0 then some 229
  else if d.acc < 2 ∧ x.lastDrain = some 0 then some 229
  else if 2 < d.acc ∨ 2 < d.drain ∨ d.k = 0 ∨ 65535 < d.k ∨ 15 < d.amask then some 228
  else if 2 < d.cell then some 231
  else if d.fmt = 0 ∨ 10 < d.fmt ∨ d.ofmt = 0 ∨ 10 < d.ofmt then some 272
  else if (d.cell = 2) != (d.fmt = 10) then some 272
  else if d.scbase % 128 ≠ 0 then some 228
  else if !(storeOk d.wbase (last * d.wstride + n) && d.wstride % 64 == 0 && d.astride % 64 == 0
      && (maskBits 4 d.amask).all (fun a => storeOk (d.abase.getD a 0) (last * d.astride + n))
      && (d.acc != 1 || storeOk d.pbase 262144)
      && (d.drain == 0 || (maskBits 4 d.amask).all (fun a => storeOk (d.dbase + a * d.dstride) ob))) then some 228
  else if d.drain = 2 ∧ (maskBits 4 d.amask).any (fun a =>
      match Tbl.find x.rm (16 * a + x.curSlot.getD a 0) with
      | some r => r.drained && r.ofmt != d.ofmt
      | none => false) then some 280
  else none

/-- OVF of the columns of an array in which an accumulator saturated or overflowed (R275). -/
def State.setOvf (s : State) (core a : Nat) (sat : List Bool) : State :=
  s.each ((List.range 128).filter (fun j => (List.range 128).any (fun i => sat.getD (128 * i + j) false))) (fun j t =>
    t.setWord (scaleAddr core (128 * a + j)) (t.word (scaleAddr core (128 * a + j)) ||| 0x200000#32))

/-- Writes a drained array into the core store (R239, R245): poisoned accumulators poison their lines; the lines are FILLED. -/
def State.drainWrite (s : State) (core base perLine : Nat) (bs : List Byte) (pois : List Bool) : State :=
  let k := coreKey core base
  let bad := (List.range (bs.length / 64)).filter (fun l => ((pois.drop (l * perLine)).take perLine).any id)
  ((s.storeWrite core base bs).storePoisonLines (bad.map (· + k / 64))).storeFill core base bs.length true

/-- A REQUANT drain of one array (R275, R277, R280). -/
def State.requant (s : State) (core a : Nat) (d : TileDesc) (rmcfg : Nat) (acc : List Int) (pois : List Bool) : State :=
  let x := s.core core
  let key := 16 * a + x.curSlot.getD a 0
  let slot := (Tbl.get rmReset x.rm key).drain d.ofmt (hroom rmcfg)
  let reg := fun j => scaleAddr core (d.scbase + 128 * a + j)
  let rmax := fun j => bitOf (s.word (reg j)).toNat 20
  let t := (List.range 16384).map (fun n => requantT d.fmt (acc.getD n 0) (scaleBits (s.word (reg (n % 128)))))
  let out := (List.range 16384).map (fun n =>
    convert d.ofmt (if rmax (n % 128) then fmul (t.getD n 0) slot.gain else t.getD n 0))
  let cur := (List.range 16384).foldl (fun z n =>
    let v := t.getD n 0
    if rmax (n % 128) && !pois.getD n false && isFinite v && decide (ford z < ford (fabs v)) then fabs v else z) slot.cur
  let w := fmtWidth d.ofmt
  let u := s.drainWrite core (d.dbase + a * d.dstride) (512 / w) (packElems w 16384 (out.map (·.1))) pois
  let v := u.setCore core { (u.core core) with rm := Tbl.set x.rm key { slot with cur := cur } }
  v.each (List.range 128) (fun j y =>
    let n := ((List.range 128).filter (fun i => (out.getD (128 * i + j) (0, false)).2 && !pois.getD (128 * i + j) false)).length
    let r := (y.word (reg j)).toNat
    y.setWord (reg j) (BitVec.ofNat 32 (putBits r 24 8 (min 255 (bits r 24 8 + n)))))

/-- The drain of one array: RAW32 or REQUANT (R239). -/
def State.drainArray (s : State) (core a : Nat) (d : TileDesc) (rmcfg : Nat) (acc : List Int) (pois : List Bool) : State :=
  if d.drain = 1 then
    s.drainWrite core (d.dbase + a * d.dstride) 16
      (acc.flatMap (fun v => leBytes 4 (if fmtInt d.fmt then unsigned 32 v else v.toNat))) pois
  else s.requant core a d rmcfg acc pois

/-- The medlar check of the arrays in use, at a drain (R243, R244), with what the step controller keeps (R457). -/
def State.tileCheck (s : State) (core l : Nat) (x : Lease) (p : Step) (d : TileDesc) : State :=
  let c := s.core core
  let as := maskBits 4 d.amask
  let tol := s.fld (fCoreCtlChktol core)
  let skip := fun a => if fmtInt d.fmt then (c.accPois.getD a []).zipWith (· || ·) (c.accSat.getD a []) else c.accPois.getD a []
  let res := as.map (fun a => (a, medlar d.fmt tol (c.acc.getD a []) (skip a) (c.chkCells.getD a [])))
  let ok := res.all (fun r => r.2.1)
  let keep := fun (r : Nat × Bool × Nat) => (⟨posOf x core, core, r.1, c.tileNo, d.tag, d.fmt, r.2.1, c.acc.getD r.1 [],
    skip r.1, c.chkCells.getD r.1 []⟩ : TileFail)
  let t := (s.count (kCoreChkskip core) ((res.map (·.2.2)).foldl (· + ·) 0)).count
    (if ok then kCoreChkpass core else kCoreChkmis core) 1
  let u := if ok then t else t.event (eCore core) 0
  u.modStep l (fun q => { q with
    fails := q.fails ++ (res.filter (fun r => !r.2.1)).map keep,
    third := if p.run = 3 then q.third ++ res.map keep else q.third })

/-- Core cycles of a wavefront, p (R230). -/
def waveCyc (fmt : Nat) : Nat := if fmt = 3 ∨ fmt = 4 ∨ fmt = 5 then 4 else if fmt = 6 ∨ fmt = 7 then 16 else 1

/-- The step cycles of a TILE (R232, R237, R296): it waits for the feeders, which take the next tile K × p cycles after its first
wavefront, and 128 later when it drains. -/
def State.tileTime (s : State) (core : Nat) (d : TileDesc) : State :=
  let t0 := max (s.reg64 (coreBase core + 0x20)) (s.core core).feedUntil
  (s.setReg64 (coreBase core + 0x20) ((t0 + 1) % 2 ^ 64)).setCore core { (s.core core) with
    feedUntil := t0 + d.k * waveCyc d.fmt + (if d.drain = 0 then 0 else 128) }

/-- Parity replays of feed words of a tile (R245): up to four reads of 6 core cycles each, in which the core alone is frozen. -/
def State.feedReplays (s : State) (core l : Nat) (par : List FeedPar) : State :=
  let n := (par.map (fun f => 6 * min f.fails 4)).foldl (· + ·) 0
  if n = 0 then s
  else ((s.count (kCoreFrzreplay core) n).event (eCore core) 1).modStep l (fun q => { q with frz := q.frz + n })

/-- A plan that drains by REQUANT or sets a slot or its seeds uses the running-maximum slots (R282; log 99). -/
def State.markRm (s : State) (x : Lease) : State :=
  { s with work := { s.work with plans := Tbl.modify s.work.plans x.plan (fun p => { p with usesRm := true }) } }

/-- A tile whose feeders find every line FILLED (R227 to R245). -/
def State.tileGo (s : State) (core : Nat) (l : Nat) (x : Lease) (p : Step) (d : TileDesc) (errs : List CellErr)
    (par : List FeedPar) : State :=
  let read := par.filter (fun f => tileReads d f.line)
  let dead := (read.filter (fun f => decide (4 < f.fails))).map (·.line)
  let res := (List.range 4).map (fun a => errs.foldl (cellErr d.fmt a) (s.tileRun core a d dead))
  let s0 := (s.feedReplays core l read).tileTime core d
  let c := s0.core core
  let s1 := s0.setCore core { c with acc := res.map (·.1), accPois := res.map (·.2.1), accSat := res.map (·.2.2.1),
                                     chkCells := res.map (·.2.2.2), lastDrain := some d.drain, tileNo := c.tileNo + 1 }
  let took := (maskBits 4 d.amask).any (fun a => ((res.getD a ([], [], [], [])).2.1).any id)
  let s2 := if took then (s1.event (eCore core) 2).usePoison l x true else s1
  let s3 := s2.each (List.range 4) (fun a t => t.setOvf core a (res.getD a ([], [], [], [])).2.2.1)
  let s4 := s3.count (kCoreTiles core) 1
  if d.drain = 0 then s4
  else
    let rmcfg := ((s.plan? x.plan).map (·.hdr.rmcfg)).getD 0
    let s5 := s4.count (kCoreSwaps core) 1
    let s6 := if d.chk then s5.tileCheck core l x p d else s5
    let s7 := if d.drain = 2 then s6.markRm x else s6
    s7.each (maskBits 4 d.amask) (fun a t =>
      t.drainArray core a d rmcfg (res.getD a ([], [], [], [])).1 (res.getD a ([], [], [], [])).2.1)

/-- A tile that breaks a rule (R13): its accumulators take free values, and nothing drains (log 94). -/
def State.tileWrong (s : State) (core rule : Nat) (d : TileDesc) : State :=
  let c := s.core core
  let v := fun (i : Nat) => Config.freeValue (s.free + i) % 2 ^ 32
  let acc := (List.range 4).map (fun a => (List.range 16384).map (fun n =>
    if fmtInt d.fmt then signed 32 (v (16384 * a + n)) else (v (16384 * a + n) : Int)))
  ((({ s with free := s.free + 65536 }).setCore core { c with acc := acc, lastDrain := some d.drain, tileNo := c.tileNo + 1 }).hostErr
    rule).cyc core 1

/-- A tile as its feeders find the core store. -/
def State.tileTry (s : State) (core l : Nat) (x : Lease) (p : Step) (d : TileDesc) (e : TileEnv) : State :=
  s.readAt core l x p (.tile core d e) (tileReads d) (!s.tileEmpty core d) (fun t => t.tileGo core l x p d e.errs e.par)

/-- TILE (R232): the tile runs whole; on an EMPTY line the lease freezes until a fill brings it (R234, R235, R308). -/
def execTile (core : Nat) (d : TileDesc) (e : TileEnv) (s : State) : Outcome :=
  s.onCore core (fun l x p s =>
    match s.tileBad core d with
    | some r => .next (s.tileWrong core r d)
    | none => .next (s.tileTry core l x p d e))

/-! ## Stream engine -/

/-- Lines of `n` bytes. -/
def linesIn (n : Nat) : Nat := ceilDiv n 64

/-- The fill of a core-store range with data whose poison is known: written, poisoned, FILLED (R245, R247). -/
def State.land (s : State) (core a : Nat) (bs : List Byte) (pois : List Bool) : State :=
  let k := coreKey core a / 64
  ((s.storeWrite core a bs).storePoisonLines (((List.range pois.length).filter (fun i => pois.getD i false)).map (· + k))).storeFill
    core a bs.length true

/-- A transfer's bounds: core-store range inside the store and line-aligned, its node address inside the windows or its region
open (R336, R337). -/
inductive Bound where
  | ok
  | noRoute
  | fail (st : Status)
  deriving DecidableEq, Repr

/-- The checks of a transfer of a step. -/
def State.bound (s : State) (x : Lease) (p : Step) (a n : Nat) (write : Bool) : Bound :=
  match s.plan? x.plan with
  | none => .fail .bounds
  | some pl =>
    match s.place a with
    | .region r off =>
      match s.regionCheck p.epoch x.owner r off n write with
      | .noRoute => .noRoute
      | .fail st => .fail st
      | .ok _ => .ok
    | _ => if s.inWindow x pl a n write then .ok else .fail .bounds

/-- The region entry of a transfer that passed its checks. -/
def State.regionOf (s : State) (epoch a : Nat) : Option (RegionEnt × Nat) :=
  match s.place a with
  | .region r off => ((s.mapOf epoch).bind (fun m => m.entries.find? (fun e => e.region == r))).map (fun e => (e, off))
  | _ => none

/-- FILL (R296, R336, R337): the transfer starts; a region that is missing fills the lines with poison; a transfer outside the
lease's bounds ends the step. A read of peer memory is sent as a READ of the peer's exported area (R379). -/
def execFill (core : Nat) (f : Xfer) (s : State) : Outcome :=
  s.onCore core (fun l x p s =>
    if !storeOk f.local_ f.len || f.addr % 64 != 0 then .next ((s.hostErr 296).cyc core 1)
    else
      let t := s.cyc core 1
      match t.bound x p f.addr f.len false with
      | .fail st => .next (t.stopStep l st)
      | .noRoute =>
        .next ((t.land core f.local_ (zeros f.len) (List.replicate (linesIn f.len) true)).tier tNoroute (linesIn f.len))
      | .ok =>
        let u := t.setCore core { (t.core core) with fills := (t.core core).fills ++ [f] }
        match u.regionOf p.epoch f.addr with
        | none => .next u
        | some (e, off) =>
          let v := { u with work := { u.work with reads := u.work.reads ++ [(core, f.id)] } }
          if e.kind = 3 then
            match v.sysConn (e.target % 2 ^ 16) with
            | none => .next v
            | some c => .next (v.request c mRead (core * 2 ^ 32 + f.id) p.epoch
                (fun m => { m with aux := f.len, arg := e.target / 2 ^ 16 + off }) [])
          else .next (v.emit (.hostRead (e.target + off) f.len)))

/-- The bytes and poison that a fill finds at its source; none for a source outside the package. -/
def State.source (s : State) (x : Lease) (a n : Nat) : Option (List Byte × List Bool) :=
  match s.place a with
  | .ilv y => some (s.ilvRead y n, (s.ilvLines y n).map (fun l => Tbl.get false s.mem.hbmPoison l))
  | .chan ch off => some (s.chRead ch off n, (linesOf (chKey ch off) n).map (fun l => Tbl.get false s.mem.hbmPoison l))
  | .commons k => some (s.commonsRead k n, (linesOf k n).map s.commonsPois)
  | .core pos off =>
    let k := coreKey (x.cores.getD pos 0) off
    some (rdBytes s.mem.store k n, (linesOf k n).map (fun l => Tbl.get false s.mem.storePoison l))
  | _ => none

/-- The check values of the blocks of a source (R448, R449): the first line of the block within the transfer, value, logical address.
In HBM and the commons they are the stored values of the whole 4 KiB granules; a block from another position's core store takes its value
as it leaves. -/
def State.sourceChecks (s : State) (x : Lease) (f : Xfer) : List (Nat × Nat × Nat) :=
  let go := fun (at_ : Nat → Option (Nat × Nat)) (a : Nat) =>
    (List.range (f.len / 4096 + 1)).filterMap (fun i =>
      let g := ceilDiv a 4096 + i
      if a + f.len < 4096 * (g + 1) then none
      else (at_ g).map (fun c => ((4096 * g - a) / 64, c.1, c.2)))
  match s.place f.addr with
  | .ilv y => go s.checkAt y
  | .commons k => go s.checkAtCom k
  | .core pos off =>
    (List.range (f.len / 4096)).map (fun i =>
      (64 * i, checkValue (s.storeRead (x.cores.getD pos 0) (off + 4096 * i) 4096) (f.laddr + i), f.laddr + i))
  | _ => []

/-- Puts the poison marker on a source block in HBM or commons (R450). -/
def State.poisonSource (s : State) (a n : Nat) : State :=
  match s.place a with
  | .ilv x => s.hbmPoisonLines (s.ilvLines x n)
  | .chan ch off => s.hbmPoisonLines (linesOf (chKey ch off) n)
  | .commons k => { s with mem := { s.mem with commonsPoison := poisSet s.mem.commonsPoison (linesOf k n) } }
  | _ => s

/-- Verification of the blocks of a fill (R449 to R451): the poison of the copy, and the node's counts. `e` says whether the first and
the second copy arrive as they left. -/
def State.verifyFill (s : State) (l : Nat) (f : Xfer) (cs : List (Nat × Nat × Nat)) (bs : List Byte) (pois : List Bool) (e : PathEnv) :
    State × List Bool :=
  cs.foldl (fun (z : State × List Bool) g =>
    let lines := (List.range 64).map (· + g.1)
    if lines.any (fun i => z.2.getD i false) then (z.1.count kChkCvskip 1, z.2)
    else
      let good := checkValue ((bs.drop (64 * g.1)).take 4096) g.2.2 == g.2.1
      if good && e.cv1 then z
      else if good && e.cv2 then (z.1.count kChkCvretry 1, z.2)
      else
        let t := ((z.1.count kChkCvmis 1).raise eChk 3 (z.1.leaseReport l 0x0108 0 locNode [])).poisonSource (f.addr + 64 * g.1) 4096
        (t, z.2.zipIdx.map (fun b => b.1 || lines.contains b.2))) (s, pois)

/-- Parity on the way of a transfer (R445): replays counted, and lines that failed four of them taken as poisoned. -/
def State.pathParity (s : State) (l : Nat) (e : PathEnv) : State :=
  let a := s.count kChkParreplay e.replays
  if e.dead.isEmpty then a
  else (a.count kChkParpoison e.dead.length).raise eChk 4 (a.leaseReport l 0x0107 0 locNode [])

/-- Poison of the lines of a transfer with those that parity took. -/
def withDead (pois : List Bool) (dead : List Nat) : List Bool := pois.zipIdx.map (fun b => b.1 || dead.contains b.2)

/-! ## SEND -/

/-- Writes data with poison at a node address of the lease (R448, R449, R454). -/
def State.sinkData (s : State) (x : Lease) (p : Step) (f : Xfer) (bs : List Byte) (pois : List Bool) : State :=
  let bad := fun (base : Nat) => ((List.range pois.length).filter (fun i => pois.getD i false)).map (· + base)
  match s.place f.addr with
  | .ilv y =>
    let t := s.ilvStore y bs pois
    if y % 4096 = 0 then t.each (List.range (f.len / 4096)) (fun i u => u.checkMake (y / 4096 + i) (f.laddr + i)) else t
  | .chan ch off => (s.chWrite ch off bs).hbmPoisonLines (bad (chKey ch off / 64))
  | .commons k =>
    let t := s.commonsWrite k bs
    let u := { t with mem := { t.mem with commonsPoison := poisSet t.mem.commonsPoison (bad (k / 64)) } }.recheckCom k bs.length
    if k % 4096 = 0 then u.each (List.range (f.len / 4096)) (fun i v => v.checkMakeCom (k / 4096 + i) (f.laddr + i)) else u
  | .core pos off => s.land (x.cores.getD pos 0) off bs pois
  | .region _ _ =>
    match s.regionOf p.epoch f.addr with
    | none => s
    | some (e, off) =>
      if e.kind = 3 then
        match s.sysConn (e.target % 2 ^ 16) with
        | none => s
        | some c => s.request c mWrite f.id p.epoch (fun m => { m with arg := e.target / 2 ^ 16 + off }) (sysPack bs pois)
      else s.emit (.hostWrite (e.target + off) bs (bad 0))
  | .none_ => s

/-- A SEND whose lines are FILLED (R445, R449): into another position's core store it is verified as it fills. -/
def State.sendGo (s : State) (core l : Nat) (x : Lease) (p : Step) (f : Xfer) (e : PathEnv) : State :=
  let bs := s.storeRead core f.local_ f.len
  let pois := (linesOf (coreKey core f.local_) f.len).map (fun n => Tbl.get false s.mem.storePoison n)
  match s.bound x p f.addr f.len true with
  | .fail st => s.stopStep l st
  | .noRoute => s.tier tNoroute (linesIn f.len)
  | .ok =>
    let cs := match s.place f.addr with
      | .core _ _ => (List.range (f.len / 4096)).map (fun i =>
          (64 * i, checkValue ((bs.drop (4096 * i)).take 4096) (f.laddr + i), f.laddr + i))
      | _ => []
    let v := (s.pathParity l e).verifyFill l f cs bs (withDead pois e.dead) e
    v.1.sinkData x p f bs v.2

/-- A SEND as the stream engine finds its lines. -/
def State.sendTry (s : State) (core l : Nat) (x : Lease) (p : Step) (f : SendOp) : State :=
  s.readAt core l x p (.streamSend core f) (inLines f.x.local_ f.x.len) (s.storeFull core f.x.local_ f.x.len)
    (fun t => t.sendGo core l x p f.x f.e)

/-- A plan posts a receive buffer on a connection of its own (R374); a buffer that the host could not post is a host error (log 135). -/
def State.planPost (s : State) (core l : Nat) (x : Lease) (b : PlanPost) : State :=
  match s.conn? b.conn, s.keyed b.key x.owner with
  | some c, some r =>
    match c.freeIdx with
    | some i =>
      if c.st != .closed && c.rec_.tenant == x.owner && postOk c r b.offset b.len && decide (b.line < 2 ^ 15) then
        s.setConn b.conn (c.post i b.key b.offset b.len (some ⟨l, x.arrival, posOf x core, b.line⟩))
      else s.hostErr 374
    | none => s.hostErr 374
  | _, _ => s.hostErr 374

/-- STREAM_SEND (R247, R296, R336, R337, R374): a transfer out of the core store, with its poison, or the posting of a receive buffer. -/
def execStreamSend (core : Nat) (f : SendOp) (s : State) : Outcome :=
  s.onCore core (fun l x p s =>
    match f.post with
    | some b => .next ((s.cyc core 1).planPost core l x b)
    | none =>
    if !storeOk f.x.local_ f.x.len || f.x.addr % 64 != 0 then .next ((s.hostErr 296).cyc core 1)
    else .next ((s.cyc core 1).sendTry core l x p f))

/-! ## Gather and scatter -/

/-- The indices of a gather or scatter command (R342). -/
def State.gsIndices (s : State) (core : Nat) (g : GsCmd) : List Nat :=
  (List.range g.nidx).map (fun i => leAt (s.storeRead core (g.idxaddr + 8 * i) 8) 0 8)

/-- The value of a row for this step: as it stood when the step started (R341), read from the nearest copy (R343, R346), or what its home on
another member gave. -/
def State.rowFor (s : State) (core : Nat) (p : Step) (d : TableDesc) (remote : List RowData) (r : Nat) : Option Staged :=
  if (rowHome d s.nodeNum r).1 = s.nodeNum then
    some ((p.before.find? (fun b => b.table == d.table && b.row == r)).getD (s.rowNear d r core))
  else (remote.find? (fun x => x.row == r)).map (fun x => ⟨d.table, r, x.bytes, x.pois⟩)

/-- Accesses of a command in the hot table (R344). -/
def State.touchAll (s : State) (table : Nat) (ds : List (Nat × Nat)) : State :=
  { s with tables := { s.tables with hot := ds.foldl (fun h e => hotTouch h table e.1 e.2) s.tables.hot } }

/-- Does a field of a command break R342? `n` is the size of its data area; a COMPACT gather has its multiplicities and map too. -/
def gsBad (g : GsCmd) (n : Nat) (compact : Bool) : Bool :=
  g.nidx == 0 || decide (65536 < g.nidx) || decide (1 < g.gmode) || !storeOk g.idxaddr (8 * g.nidx) || !storeOk g.dataddr n
  || !storeOk g.cntaddr 4 || decide (2 ^ 15 ≤ g.line)
  || (compact && (!storeOk g.multaddr (4 * g.nidx) || !storeOk g.mapaddr (4 * g.nidx)))

/-- GATHER (R343, R344): each distinct row is fetched once, and the rows, multiplicities and map are written. A DIST table in a plan that is
no GROUPSTEP plan is a host error (R349). -/
def execGather (core : Nat) (g : GsCmd) (remote : List RowData) (s : State) : Outcome :=
  s.onCore core (fun l x p s =>
    let t := (s.cyc core 1).tier tGathers 1
    match Tbl.find s.tables.descs g.table, s.plan? x.plan with
    | some d, some pl =>
      if !(pl.hdr.tablesRd.contains g.table) || d.tenant != x.owner then .next (t.stopStep l .bounds)
      else if bitOf d.tflags 0 && !p.group then .next (t.hostErr 349)
      else if gsBad g ((if g.gmode = 0 then g.nidx else 1) * d.rowbytes) (g.gmode == 1) then .next (t.hostErr 342)
      else if s.storePois core g.idxaddr (8 * g.nidx) then .next (t.usePoisonAddr l true)
      else
        let idx := s.gsIndices core g
        if idx.any (fun i => decide (d.rows ≤ i)) then .next (t.stopStep l .bounds)
        else
          let ds := distinctOf idx
          let rows := ds.map (fun e => s.rowFor core p d remote e.1)
          if rows.any (·.isNone) then .next s
          else
            let val := fun r => ((rows.filterMap id).find? (fun y => y.row == r)).getD ⟨g.table, r, [], []⟩
            let u := ((t.tier tGidx g.nidx).tier tGdist ds.length).touchAll g.table ds
            let put := fun (v : State) (i r : Nat) => let y := val r; v.land core (g.dataddr + i * d.rowbytes) y.bytes y.pois
            let v := if g.gmode = 0 then (idx.zipIdx).foldl (fun v e => put v e.2 e.1) u
              else
                let w := (ds.zipIdx).foldl (fun v e => (put v e.2 e.1.1).storeWrite core (g.multaddr + 4 * e.2) (leBytes 4 e.1.2)) u
                (idx.zipIdx).foldl (fun v e => v.storeWrite core (g.mapaddr + 4 * e.2)
                  (leBytes 4 ((ds.findIdx? (fun y => y.1 == e.1)).getD 0))) w
            .next ((v.storeWrite core g.cntaddr (leBytes 4 ds.length)).storeFill core (64 * g.line) 64 true)
    | _, _ => .next (t.stopStep l .bounds))

/-- The staging of a scatter whose lines are FILLED (R347). -/
def State.scatterGo (s : State) (core l : Nat) (x : Lease) (p : Step) (g : GsCmd) (d : TableDesc) (remote : List RowData) : State :=
  let t := s.tier tScatters 1
  if s.storePois core g.idxaddr (8 * g.nidx) then t.usePoisonAddr l true
  else
    let idx := s.gsIndices core g
    if idx.any (fun i => decide (d.rows ≤ i)) then t.stopStep l .bounds
    else
      let ins := (idx.zipIdx).map (fun e =>
        let a := g.dataddr + e.2 * d.rowbytes
        (⟨posOf x core, g.table, e.1, g.gmode == 1, s.storeRead core a d.rowbytes,
          (linesOf (coreKey core a) d.rowbytes).map (fun n => Tbl.get false s.mem.storePoison n),
          if (rowHome d s.nodeNum e.1).1 = s.nodeNum then none else s.rowFor core p d remote e.1⟩ : ScatIn))
      let u := (t.touchAll g.table (distinctOf idx)).modStep l (fun q => { q with staged := q.staged ++ ins })
      (u.storeWrite core g.cntaddr (leBytes 4 (distinctOf idx).length)).storeFill core (64 * g.line) 64 true

/-- A scatter as the stream engine finds its lines. -/
def State.scatterTry (s : State) (core l : Nat) (x : Lease) (p : Step) (g : GsCmd) (d : TableDesc) (remote : List RowData) : State :=
  s.readAt core l x p (.scatter core g remote) (inLines g.dataddr (g.nidx * d.rowbytes))
    (s.storeFull core g.dataddr (g.nidx * d.rowbytes)) (fun t => t.scatterGo core l x p g d remote)

/-- SCATTER (R341, R347): its inputs are staged until the step's result stands. A DIST table in a plan that is no GROUPSTEP plan is a host
error (R349). -/
def execScatter (core : Nat) (g : GsCmd) (remote : List RowData) (s : State) : Outcome :=
  s.onCore core (fun l x p s =>
    let t := s.cyc core 1
    match Tbl.find s.tables.descs g.table, s.plan? x.plan with
    | some d, some pl =>
      if !(pl.hdr.tablesWr.contains g.table) || d.tenant != x.owner then .next (t.stopStep l .bounds)
      else if bitOf d.tflags 0 && !p.group then .next (t.hostErr 349)
      else if gsBad g (g.nidx * d.rowbytes) false then .next (t.hostErr 342)
      else if g.gmode = 1 ∧ d.tfmt = 10 then .next (t.hostErr 347)
      else .next (t.scatterTry core l x p g d remote)
    | _, _ => .next (t.stopStep l .bounds))

/-! ## BRANCH -/

/-- A branch whose deciding word has arrived (R311): its arm, or POISON. -/
def State.branchGo (s : State) (core l addr : Nat) : State :=
  if s.storePois core addr 4 then s.usePoisonAddr l true
  else s.modStep l (fun p => { p with arms := p.arms ++ [bitOf (leAt (s.storeRead core addr 4) 0 4) 0] })

/-- A branch as its deciding word stands: on an EMPTY line it is a rendezvous (R311). -/
def State.branchTry (s : State) (core l : Nat) (x : Lease) (p : Step) (pos addr : Nat) : State :=
  s.readAt core l x p (.branch l pos addr) (inLines (addr / 64 * 64) 64) (s.storeFull core (addr / 64 * 64) 64)
    (fun t => t.branchGo core l addr)

/-- BRANCH (R296, R311): the word of one position selects the arm of every position; 64 core cycles on each. A branch at no word of a
core store of the lease takes a free arm (log 94). -/
def execBranch (l pos addr : Nat) (s : State) : Outcome :=
  if !s.serving then .next s
  else
    match s.lease? l with
    | none => .next s
    | some x =>
      match x.step with
      | none => .next s
      | some p =>
        let core := x.cores.getD pos 0
        if p.ended || x.frozen || !p.waitB.isEmpty then .next s
        else
          let t := s.each x.cores (fun c u => u.cyc c 64)
          if x.cores.length ≤ pos ∨ addr % 4 ≠ 0 ∨ 2 ^ 21 ≤ addr + 3 then
            .next ((t.modStep l (fun q => { q with arms := q.arms ++ [s.freeNow % 2 == 1] })).hostErr 311)
          else .next (t.branchTry core l x p pos addr)

/-! ## Fills that land -/

/-- Puts a descriptor into the dispatcher (R171). -/
def State.putDesc (s : State) (e : SloeDesc) : State := { s with flash := { s.flash with disp := s.flash.disp ++ [e] } }

/-- Runs an instruction that a core had to wait with, if it can go on now; otherwise the lease freezes again (R235, R308). -/
def State.resume (s : State) (i : Instr) : State :=
  let on := fun (core : Nat) (f : Nat → Lease → Step → State) =>
    match s.leaseOf core with
    | some (l, x) => x.step.elim s (f l x)
    | none => s
  match i with
  | .tile core d e => on core (fun l x p => s.tileTry core l x p d e)
  | .streamSend core f => on core (fun l x p => s.sendTry core l x p f)
  | .scatter core g remote =>
    match Tbl.find s.tables.descs g.table with
    | some d => on core (fun l x p => s.scatterTry core l x p g d remote)
    | none => s
  | .branch l pos addr =>
    match s.lease? l with
    | some x => x.step.elim s (fun p => s.branchTry (x.cores.getD pos 0) l x p pos addr)
    | none => s
  | _ => s

/-- A lease that waits goes on if it can (R308). -/
def State.goOn (s : State) (l : Nat) : State := s.wakeLease l (fun i t => t.resume i)

/-- A fill's data reach the core store (R445, R449, R450): parity replays, verification, poison, FILLED, and the lease that
waited goes on. -/
def State.landFill (s : State) (core l : Nat) (x : Lease) (f : Xfer) (bs : List Byte) (pois : List Bool) (e : PathEnv) : State :=
  let v := (s.pathParity l e).verifyFill l f (s.sourceChecks x f) bs (withDead pois e.dead) e
  let c := v.1.land core f.local_ (padTo f.len bs) v.2
  let d := c.setCore core { (c.core core) with fills := (c.core core).fills.filter (fun y => y.id != f.id) }
  let g := { d with work := { d.work with reads := d.work.reads.filter (fun r => r != (core, f.id)) } }
  g.goOn l

/-- The fill of a core that is outstanding under an identifier, with its lease and step. -/
def State.fillOf (s : State) (core id : Nat) : Option (Nat × Lease × Step × Xfer) :=
  match s.leaseOf core with
  | none => none
  | some (l, x) =>
    match x.step, (s.core core).fills.find? (fun f => f.id == id) with
    | some p, some f => some (l, x, p, f)
    | _, _ => none

/-- The reads of pool, host and peer memory that have started, in issue order: at most 256 of a lease and 4,096 of the node; the
others wait (R325). -/
def State.startedReads (s : State) : List (Nat × Nat) :=
  s.work.reads.foldl (fun l r =>
    if l.length < 4096 ∧ (l.filter (fun q => s.fld (fCoreStateLease q.1) == s.fld (fCoreStateLease r.1))).length < 256
    then l ++ [r] else l) []

/-- Has a read started? A fill from memory of the package needs no such start. -/
def State.readStarted (s : State) (core id : Nat) : Bool :=
  !s.work.reads.contains (core, id) || s.startedReads.contains (core, id)

/-- The HBM key at which a node address points, if it points into a stack. -/
def State.hbmPlace (s : State) (a : Nat) : Option Nat :=
  match s.place a with
  | .ilv x => some (s.ilvKey x)
  | .chan ch off => some (chKey ch off)
  | _ => none

/-- FILL_COMPLETE (R247, R248, R450, R351): a fill lands. A stack error poisons the lines read (HBMUE); a pool or host
completion with an error poisons them and counts POOLERR. Peer data comes by RDATA instead. -/
def execFillComplete (core id : Nat) (e : FillEnv) (s : State) : Outcome :=
  if s.hw.variant.cores ≤ core || !s.serving then .next s
  else
    match s.fillOf core id with
    | none => .next s
    | some (l, x, p, f) =>
      if !s.readStarted core id then .next s
      else
        match s.source x f.addr f.len with
        | some (bs, pois) =>
          let hbm := s.hbmPlace f.addr
          let bad := hbm.isSome && e.err
          let pois2 := if bad then pois.map (fun _ => true) else pois
          let t := if hbm.isSome then s.tier tHbmue (pois2.filter (fun b => b)).length else s
          let u := if bad then t.cper (t.leaseReport l 0x0201 0 (locKey (hbm.getD 0)) []) else t
          .next (u.landFill core l x f bs pois2 e.path)
        | none =>
          match s.regionOf p.epoch f.addr with
          | some (r, _) =>
            if r.kind = 3 then .next s
            else
              let t := if e.err then s.tier tPoolerr 1 else s
              .next (t.landFill core l x f e.data (List.replicate (linesIn f.len) e.err) e.path)
          | none => .next s

/-- POOL_READ_TIMEOUT (R351): a pool or host read has not returned within 50 µs; its lines are poisoned. -/
def execPoolReadTimeout (core id : Nat) (s : State) : Outcome :=
  if s.hw.variant.cores ≤ core || !s.serving then .next s
  else
    match s.fillOf core id with
    | none => .next s
    | some (l, x, p, f) =>
      match s.regionOf p.epoch f.addr with
      | some (r, _) =>
        if r.kind = 3 ∨ !s.readStarted core id then .next s
        else .next ((s.tier tPooltmo 1).landFill core l x f (zeros f.len) (List.replicate (linesIn f.len) true) ⟨true, true, 0, []⟩)
      | none => .next s

/-! ## Scale registers, running maxima, flags -/

/-- RELEASE (R247): a range of lines becomes EMPTY. -/
def execRelease (core first count : Nat) (s : State) : Outcome :=
  s.onCore core (fun _ _ _ s =>
    if 2 ^ 15 < first + count then .next ((s.hostErr 247).cyc core 1)
    else .next ((s.storeFill core (64 * first) (64 * count) false).cyc core 1))

/-- SCALE and RMAX of 128 consecutive registers. -/
def State.putScales (s : State) (core base : Nat) (v : Nat → Nat) : State :=
  s.each (List.range 128) (fun i u =>
    let a := scaleAddr core (base + i)
    u.setWord a (BitVec.ofNat 32 (putBits (u.word a).toNat 0 21 (v i))))

/-- SCALELD (R276): SCALE and RMAX of 128 consecutive registers from 512 bytes; OVF and SATCNT stay. An address or base out of range, and
a SCALE of R274 that is a host error, leave free values in SCALE and RMAX (log 94). -/
def execScaleld (core base addr : Nat) (s : State) : Outcome :=
  s.onCore core (fun l x _ s =>
    let v := fun i => leAt (s.storeRead core (addr + 4 * i) 4) 0 4
    let free := fun (i : Nat) => Config.freeValue (s.free + i)
    let wrong := fun (r : Nat) => ({ (s.putScales core base free) with free := s.free + 128 }.hostErr r).cyc core 8
    if !storeOk addr 512 ∨ 384 < base then .next (wrong 276)
    else if (List.range 128).any (fun i => bits (v i) 12 8 == 0xFF) then .next (wrong 274)
    else .next (((s.putScales core base v).cyc core 8).usePoison l x (s.storePois core addr 512)))

/-- RMSLOT (R278): the current slot of an array. -/
def execRmslot (core array slot : Nat) (s : State) : Outcome :=
  s.onCore core (fun _ x _ s =>
    if 3 < array ∨ 15 < slot then .next ((s.hostErr 278).cyc core 1)
    else .next (((s.setCore core { (s.core core) with curSlot := setAt (s.core core).curSlot array slot }).cyc core 1).markRm x))

/-- Sets the 16 seeds of an array. -/
def Core.setSeeds (c : Core) (array : Nat) (v : Nat → Nat) : Core :=
  { c with rm := (List.range 16).foldl (fun t i =>
      Tbl.set t (16 * array + i) { (Tbl.get rmReset t (16 * array + i)) with seed := v i }) c.rm }

/-- RMSEED (R278): the 16 seeds of an array from 64 bytes; from an address out of range they are free (log 94). -/
def execRmseed (core array addr : Nat) (s : State) : Outcome :=
  s.onCore core (fun l x _ s =>
    if 3 < array then .next ((s.hostErr 278).cyc core 2)
    else if !storeOk addr 64 then
      .next (({ (s.setCore core ((s.core core).setSeeds array (fun i => Config.freeValue (s.free + i) % 2 ^ 32))) with
        free := s.free + 16 }.hostErr 278).cyc core 2)
    else
      .next ((((s.setCore core ((s.core core).setSeeds array (fun i => leAt (s.storeRead core (addr + 4 * i) 4) 0 4))).cyc core 2).markRm
        x).usePoison l x (s.storePois core addr 64)))

/-- FLAGRD (R296): OVF and SATCNT of 128 registers to 512 bytes of the core store, each in its place of R274 (log 23). -/
def execFlagrd (core base addr : Nat) (s : State) : Outcome :=
  s.onCore core (fun _ _ _ s =>
    if !storeOk addr 512 ∨ 384 < base then .next ((s.hostErr 296).cyc core 4)
    else
      let bs := (List.range 128).flatMap (fun i => leBytes 4 ((s.word (scaleAddr core (base + i))).toNat &&& 0xFF200000))
      .next ((s.storeWrite core addr bs).cyc core 4))

/-! ## Top-k -/

/-- TKOPEN (R250): the selector opens with a capacity and a mode; a capacity out of range opens it with a free one (log 94). -/
def execTkopen (core k : Nat) (maxMode : Bool) (s : State) : Outcome :=
  s.onCore core (fun _ _ _ s =>
    if k = 0 ∨ 1024 < k then
      .next (((s.setCore core { (s.core core) with sel := some (Topk.fresh (s.freeNow % 1024 + 1) maxMode) }).hostErr 250).cyc core 1)
    else .next ((s.setCore core { (s.core core) with sel := some (Topk.fresh k maxMode) }).cyc core 1))

/-- TKOFFER (R251). -/
def execTkoffer (core : Nat) (e : TkEntry) (s : State) : Outcome :=
  s.onCore core (fun _ _ _ s =>
    match (s.core core).sel with
    | none => .next ((s.hostErr 250).cyc core 1)
    | some t => .next (((s.setCore core { (s.core core) with sel := some (t.offer e) }).count (kCoreTopkoff core) 1).cyc core 1))

/-- A bramble context takes entries in order, then a trailer (R253, R254), counting in the unit's registers (R263). A context
that is not open opens with the capacity given. -/
def State.merge (s : State) (unit ctx cap : Nat) (maxMode : Bool) (es : List TkEntry) (up : Trailer) : State :=
  let t := (Tbl.find s.comp.brm (4 * unit + ctx)).getD (Topk.fresh cap maxMode)
  let u := es.foldl Topk.offer t
  let v := u.take up
  let a := { s with comp := { s.comp with brm := Tbl.set s.comp.brm (4 * unit + ctx) v } }
  ((a.count (unitReg unit 1) es.length).count (unitReg unit 2) (u.dups - t.dups)).count (unitReg unit 3) (u.nans - t.nans)

/-- TKCLOSE (R252, R254): the held entries go to the leaf stage in selection order, then the trailer; the selector is free. -/
def execTkclose (core ctx : Nat) (s : State) : Outcome :=
  s.onCore core (fun _ x _ s =>
    match (s.core core).sel with
    | none => .next ((s.hostErr 250).cyc core 1)
    | some t =>
      let c := x.ctxBase.getD 1 0 + ctx
      let u := (s.setCore core { (s.core core) with sel := none }).cyc core 1
      if 3 < c then .next (u.hostErr 253)
      else .next (u.merge (6 + core / 8) c t.cap t.maxMode t.held t.trailer))

/-- A context delivers its result and trailer, and is free for the next (R252, R253). -/
def State.closeCtx (s : State) (unit ctx cap : Nat) (maxMode : Bool) : State :=
  let k := (Tbl.find s.comp.brm (4 * unit + ctx)).getD (Topk.fresh cap maxMode)
  ({ s with comp := { s.comp with brm := Tbl.erase s.comp.brm (4 * unit + ctx) } }).emit (.topk unit ctx k.held k.trailer)

/-- BRAMBLE_MERGE (R253, R254): a context takes upstream results and a trailer; with the last of them it delivers. -/
def execBrambleMerge (unit ctx : Nat) (o : CtxOpen) (es : List TkEntry) (e : CtxEnd) (s : State) : Outcome :=
  if !unitPresent s.hw.variant unit || !s.serving then .next s
  else if 3 < ctx ∨ o.cap = 0 ∨ 16384 < o.cap then .next (s.hostErr 253)
  else
    let t := s.merge unit ctx o.cap o.maxMode es e.up
    .next (if e.close then t.closeCtx unit ctx o.cap o.maxMode else t)

/-! ## Commands to other units -/

/-- The bytes of a slot as the sequencer writes it: ENTRY relocated and LEASE set (R301). SSTATE is the currant's. -/
def State.slotWrite (s : State) (ch slot : Nat) (bs : List Byte) (base lease : Nat) : State :=
  let a := nbuBase ch + 0x1000 + 0x100 * slot
  let st := s.sstate ch slot
  let t := s.each (List.range 64) (fun i u => u.setWord (a + 4 * i) (BitVec.ofNat 32 (leAt bs (4 * i) 4)))
  ((t.slotSet ch slot 0 2 ((leAt bs 0 2 + base) % 512)).slotSet ch slot 6 2 lease).slotSet ch slot 3 1 st

/-- NBUCMD (R124, R125, R296, R301): writes a currant slot and its GO bit. -/
def execNbucmd (core ch slot : Nat) (bytes : List Byte) (s : State) : Outcome :=
  s.onCore core (fun l x _ s =>
    let st := s.sstate ch slot
    if s.nch ≤ ch ∨ 15 < slot ∨ st = 1 ∨ st = 2 ∨ st = 3 then .next ((s.hostErr 124).cyc core 8)
    else .next (((s.slotWrite ch slot bytes x.nbuBase l).nbuGoOn ch (2 ^ slot)).cyc core 8))

/-- Does a descriptor hold stated values: an operation of R173, a record length, and a record count for a SCAN (R172)? -/
def sloeStated (d : SloeDesc) : Bool := d.op == 1 || (d.rlen != 0 && (d.op == 2 || (d.op == 3 && d.aux != 0 && decide (d.aux ≤ 65536))))

/-- SLOEDESC (R6, R171, R301): a descriptor goes to the dispatcher with its slot relocated. The SN48-M has no sloes: the descriptor
completes with NOT_PRESENT and nothing else changes. A reserved operation or count is a host error. -/
def execSloedesc (core : Nat) (d : SloeDesc) (s : State) : Outcome :=
  s.onCore core (fun l x _ s =>
    if !s.hw.variant.flash then .next (s.emit (.descDone core d.tag .notPresent))
    else if !sloeStated d then .next ((s.hostErr 173).cyc core 2)
    else .next ((s.cyc core 2).putDesc { d with qslot := x.qBase + d.qslot, lease := l }))

/-- FABSEND (R296, R382): queues a message of a template on a connection: SEND, or a CMD with an opcode. -/
def execFabsend (core conn opc : Nat) (payload : List Byte) (s : State) : Outcome :=
  s.onCore core (fun _ x p s =>
    match s.conn? conn with
    | none => .next (s.cyc core 2)
    | some c =>
      if c.rec_.tenant ≠ x.owner then .next ((s.hostErr 296).cyc core 2)
      else .next ((s.request conn (if opc = 0 then mSend else mCmd) (s.stepTag (s.fld (fCoreStateLease core)) p.seq) p.epoch
        (fun m => { m with opc := opc }) payload).cyc core 2))

/-- WAIT (R296): idles for a count of core cycles. -/
def execWait (core cycles : Nat) (s : State) : Outcome :=
  s.onCore core (fun _ _ _ s => .next (s.cyc core cycles))

end Sys2Proof.Machine
end

