-- ==== Sys2Proof/Machine/FlashOps.lean ====
section
/-! DEFINITION. Shared operations of the flash side: physical pages and stripes (R162, R182 to R189), the commands of a die (R164), the map
and its place in HBM (R183 to R186), the write buffer as a reader sees it (R190, R194), the journal, the checkpoint and the superblock
(R200 to R202), and the spares (R187, R212). -/

namespace Sys2Proof.Machine

/-! ## Pages, units and stripes -/

/-- Bytes of a unit and of a sector (R180, R183). -/
def unitSize : Nat := 65536
def sectorSize : Nat := 4096

/-- The number of the multi-plane page `page` of block `block` of a die. -/
def pageNo (ch ce block page : Nat) : Nat := ((ch * 8 + ce) * 16384 + block) * 4096 + page

def pageCh (p : Nat) : Nat := p / (4096 * 16384 * 8)
def pageCe (p : Nat) : Nat := p / (4096 * 16384) % 8
def pageBlock (p : Nat) : Nat := p / 4096 % 16384

/-- The physical address of sector `sect` of a multi-plane page (R182, R183). -/
def physAddr (p : Nat) (slc : Bool) (sect : Nat) : Nat :=
  sect % 4 + p % 4096 * 2 ^ 2 + pageBlock p * 2 ^ 14 + sect / 4 * 2 ^ 28 + pageCe p * 2 ^ 30 + pageCh p * 2 ^ 33
  + b2n slc * 2 ^ 38 + 2 ^ 63

/-- The multi-plane page of a physical address (R182). -/
def paPage (a : Nat) : Nat := pageNo (bits a 33 5) (bits a 30 3) (bits a 14 14) (bits a 2 12)

/-- Blocks of a plane and pages of a block in QLC mode, as the dies of the node report them (R162). -/
def State.blocks (s : State) : Nat := (s.flash.geom.map (·.blocks)).getD 0
def State.pagesPB (s : State) : Nat := (s.flash.geom.map (·.pages)).getD 0

/-- The dies that serve in a channel: in use, populated, and through bring-up (R161, R163, R217). -/
def State.dies (s : State) (ch : Nat) : List Nat :=
  if s.flag (fFceCfgEnable ch) then maskBits 8 (s.fld (fFceCapDiemask ch) &&& s.fld (fFceCfgCemask ch)) else []

/-- The programmed page of a number; a die that does not serve holds no data (R161, R163). -/
def State.page (s : State) (p : Nat) : Option FPage :=
  if (s.dies (pageCh p)).contains (pageCe p) then Tbl.find s.flash.pages p else none

/-- Is a page in SLC mode? -/
def State.pageSlc (s : State) (p : Nat) : Bool := (Tbl.find s.flash.pages p).any (·.slc)

/-- Stripes of a channel: the blocks of a plane less the spares (R187). -/
def State.nStripes (s : State) : Nat := s.blocks - s.flash.sparesFmt

/-- The stripes of the SLC region, 4 % of them (R188): the lowest-numbered ones (log 24). -/
def State.slcStripes (s : State) : Nat := s.nStripes * 4 / 100

def stripeKey (ch k : Nat) : Nat := ch * 16384 + k

/-- A stripe. Stripe 0 of a channel is set aside for the superblock, the journal and the checkpoint (R200, R202; log 100). -/
def State.stripe (s : State) (ch k : Nat) : Stripe :=
  Tbl.get ⟨if k = 0 then .system else .free, decide (k < s.slcStripes), 0, 0⟩ s.flash.stripes (stripeKey ch k)

/-- Sets a stripe. -/
def State.setStripe (s : State) (ch k : Nat) (x : Stripe) : State :=
  { s with flash := { s.flash with stripes := Tbl.set s.flash.stripes (stripeKey ch k) x } }

/-- Multi-plane pages of a stripe; SLC mode holds a quarter (R188). -/
def State.stripePages (s : State) (ch : Nat) (slc : Bool) : Nat :=
  (s.dies ch).length * (if slc then s.pagesPB / 4 else s.pagesPB)

/-- Page `n` of a stripe in the order it is filled: the dies in turn (log 24). -/
def State.stripePage (s : State) (ch k n : Nat) : Nat :=
  let d := s.dies ch
  pageNo ch (d.getD (n % d.length) 0) k (n / d.length)

/-- Is a page one of a stripe? -/
def inStripe (ch k p : Nat) : Bool := pageCh p == ch && pageBlock p == k

/-- The channels that are present, in use, and hold a die. -/
def State.flashChans (s : State) : List Nat :=
  if s.hw.variant.flash then (List.range 32).filter (fun c => !(s.dies c).isEmpty) else []

/-- Is a channel read-only (R213)? -/
def State.readOnly (s : State) (ch : Nat) : Bool := bitOf (s.fld fFtlStateRdonlymask) ch

/-- The writable channels. -/
def State.writable (s : State) : List Nat := s.flashChans.filter (fun c => !s.readOnly c)

/-- The pages that a map entry names. -/
def MapEnt.pages (e : MapEnt) : List Nat :=
  if !e.mapped then [] else if e.split then e.sect.map (·.2) else [e.page]

/-- Units with valid data in a stripe (R197): namespace × 2^32 + unit. -/
def State.validUnits (s : State) (ch k : Nat) : List Nat :=
  (s.flash.map.filter (fun e => e.2.pages.any (inStripe ch k))).map (·.1)

/-- Pages of the SLC region of a channel that are free, in open or erased stripes (R193). -/
def State.slcFree (s : State) (ch : Nat) : Nat :=
  (List.range s.slcStripes).foldl (fun n k =>
    let x := s.stripe ch k
    if x.st = .free then n + s.stripePages ch true
    else if x.st = .opened then n + (s.stripePages ch true - x.next) else n) 0

/-- Staged dirty units of a channel. -/
def State.stagedUnits (s : State) (ch : Nat) : Nat := (s.flash.wbuf.filter (fun u => u.ch == ch)).length

/-- The open stripe of a region of a channel, or the lowest free one. -/
def State.openStripe (s : State) (ch : Nat) (slc : Bool) : Option Nat :=
  let ks := if slc then List.range s.slcStripes else (List.range (s.nStripes - s.slcStripes)).map (· + s.slcStripes)
  match ks.find? (fun k => (s.stripe ch k).st == .opened) with
  | some k => some k
  | none => ks.find? (fun k => (s.stripe ch k).st == .free)

/-- Takes the next page of the open stripe of a region; the stripe closes when it is full. -/
def State.takePage (s : State) (ch : Nat) (slc : Bool) : Option (Nat × State) :=
  match s.openStripe ch slc with
  | none => none
  | some k =>
    let x := s.stripe ch k
    let full := s.stripePages ch slc ≤ x.next + 1
    some (s.stripePage ch k x.next, s.setStripe ch k { x with st := if full then .closed else .opened, slc := slc, next := x.next + 1 })

/-! ## The commands of a die (R164) -/

def dieKey (ch ce : Nat) : Nat := ch * 8 + ce

/-- Command cycles on some planes of a die: `first` then `more` for every plane but the last, `first` then `last` for that one. -/
def planeOps (planes : List Nat) (first more last : Nat) : List Nat :=
  match planes with
  | [] => []
  | [_] => [first, last]
  | _ :: r => first :: more :: planeOps r first more last

/-- The planes of sectors of a multi-plane page. -/
def sectPlanes (is : List Nat) : List Nat := (List.range 4).filter (fun q => is.any (fun i => i / 4 == q))

/-- READ or MULTI-PLANE READ. -/
def readOps (is : List Nat) : List Nat := planeOps (sectPlanes is) 0x00 0x32 0x30

/-- CHANGE READ COLUMN, or its ENHANCED form after a multi-plane read. -/
def columnOps (is : List Nat) : List Nat :=
  match sectPlanes is with
  | [_] => [0x05, 0xE0]
  | ps => planeOps ps 0x06 0xE0 0xE0

/-- The SLC prefix of the boot image (R165) before a program or an erase in SLC mode. -/
def State.slcOps (s : State) (slc : Bool) (ops : List Nat) : List Nat :=
  if slc then (s.boot.image.map (fun i => i.slcPrefix)).getD 0 :: ops else ops

/-- PAGE PROGRAM or MULTI-PLANE PROGRAM. -/
def State.programOps (s : State) (slc : Bool) (is : List Nat) : List Nat := s.slcOps slc (planeOps (sectPlanes is) 0x80 0x11 0x10)

/-- BLOCK ERASE or MULTI-PLANE ERASE. -/
def State.eraseOps (s : State) (slc : Bool) (planes : List Nat) : List Nat := s.slcOps slc (planeOps planes 0x60 0xD1 0xD0)

/-- SET FEATURES to a read-retry level (R165, R170). Level 0 has no values of its own in the boot image: zeros (log 101). -/
def State.levelOps (s : State) (l : Nat) : List Nat :=
  let vals := if l = 0 then zeros 4 else (s.boot.image.bind (fun i => i.retryVals[l - 1]?)).getD (zeros 4)
  0xEF :: (s.boot.image.map (fun i => i.retryFeat)).getD 0 :: vals.map (·.toNat)

/-! ## Sectors as they lie in flash (R167, R168) -/

/-- The data bytes of a sector of a unit, and its poisoned lines as the POIS bits. -/
def UnitData.sector (d : UnitData) (i : Nat) : List Byte := rdBytes d.bytes (sectorSize * i) sectorSize
def UnitData.poisBits (d : UnitData) (i : Nat) : Nat :=
  (List.range 64).foldl (fun n l => n + b2n (Tbl.get false d.pois (64 * i + l)) * 2 ^ l) 0

/-- The metadata of a sector (R168). -/
def sectorMeta (ns flags lsn wseq pois : Nat) (data : List Byte) : List Byte :=
  leBytes 2 ns ++ leBytes 2 flags ++ leBytes 4 (crc32c data) ++ leBytes 8 lsn ++ leBytes 8 wseq ++ leBytes 8 pois

/-- The spare share of a sector (R167): its metadata, and parity over the data and the metadata. -/
def spareOf (data md : List Byte) : List Byte := md ++ padTo 480 (Config.ldpcParity (data ++ md))

/-- The spare share of a sector of a programmed page. -/
def FPage.spare (g : FPage) (i : Nat) : List Byte :=
  let d := g.dat.sector i
  spareOf d (sectorMeta g.ns (b2n g.slc + 2 * b2n g.hot + 4 * b2n g.moved) (16 * g.unit + i) g.wseq (g.dat.poisBits i) d)

/-- The spare share of a sector of the journal, of a checkpoint or of a superblock. Its LSN is its number there (log 100). -/
def systemSpare (lsn wseq : Nat) (data : List Byte) : List Byte :=
  spareOf (padTo sectorSize data) (sectorMeta 0xFFFF 1 lsn wseq 0 (padTo sectorSize data))

/-! ## The map (R183 to R186) -/

def mapKey (ns unit : Nat) : Nat := ns * 2 ^ 32 + unit

/-- A unit that nothing maps (R183). -/
def mapNone : MapEnt := ⟨0, false, false, false, false, []⟩

/-- The map entry of a unit. -/
def State.mapEnt (s : State) (ns unit : Nat) : MapEnt := Tbl.get mapNone s.flash.map (mapKey ns unit)

/-- Gives a split unit a second-level table (R184), in an interleaved granule of the translation layer (log 102). -/
def State.subTake (s : State) (key : Nat) : State :=
  if Tbl.has s.flash.subs key then s
  else
    match s.flash.subFree with
    | a :: r => { s with flash := { s.flash with subs := Tbl.set s.flash.subs key a, subFree := r } }
    | [] =>
      match s.areaTake 4096 with
      | none => s
      | some (b, t) => { t with flash := { t.flash with subs := Tbl.set t.flash.subs key b,
                                                        subFree := (List.range 31).map (fun i => b + 128 * (i + 1)) } }

/-- Takes the second-level table of a unit back. -/
def State.subGive (s : State) (key : Nat) : State :=
  match Tbl.find s.flash.subs key with
  | none => s
  | some a => { s with flash := { s.flash with subs := Tbl.erase s.flash.subs key, subFree := s.flash.subFree ++ [a] } }

/-- Sets a map entry. -/
def State.setMap (s : State) (ns unit : Nat) (e : MapEnt) : State :=
  let t := { s with flash := { s.flash with map := Tbl.put mapNone s.flash.map (mapKey ns unit) e } }
  if e.split then t.subTake (mapKey ns unit) else t.subGive (mapKey ns unit)

/-- Gives a namespace its first-level entries in HBM (R186), 8 bytes for each unit (log 102). -/
def State.mapTake (s : State) (ns : Nat) : State :=
  match s.areaTake (8 * Tbl.get 0 s.flash.nsLen ns) with
  | none => s
  | some (b, t) => { t with flash := { t.flash with mapArea := Tbl.set t.flash.mapArea ns b } }

/-- Takes back what `mapTake` and `subTake` gave a namespace. -/
def State.mapGive (s : State) (ns : Nat) : State :=
  let t := (Tbl.find s.flash.mapArea ns).elim s (fun b => s.areaFree b)
  let mine := t.flash.subs.filter (fun e => e.1 / 2 ^ 32 == ns)
  { t with flash := { t.flash with mapArea := Tbl.erase t.flash.mapArea ns, subs := Tbl.drop t.flash.subs (fun k => k / 2 ^ 32 == ns),
                                   subFree := t.flash.subFree ++ mine.map (·.2) } }

/-- Does the map entry of a unit, or its second-level table, read poisoned (R186)? -/
def State.entPois (s : State) (ns unit : Nat) : Bool :=
  (Tbl.find s.flash.mapArea ns).any (fun b => s.ilvPois (b + 8 * unit) 8)
  || (Tbl.find s.flash.subs (mapKey ns unit)).any (fun a => s.ilvPois a 128)

/-- The page that holds a sector of a unit, none if the sector is not mapped. -/
def MapEnt.sectorPage (e : MapEnt) (i : Nat) : Option Nat :=
  if !e.mapped then none else if e.split then Tbl.find e.sect i else some e.page

/-- The pages of a unit with the sectors that lie in each, of those that `ok` names. -/
def MapEnt.pageSects (e : MapEnt) (ok : Nat → Bool) : Tbl (List Nat) :=
  ((List.range 16).filter ok).foldl (fun (t : Tbl (List Nat)) i =>
    match e.sectorPage i with
    | some p => Tbl.set t p (Tbl.get [] t p ++ [i])
    | none => t) []

/-- The physical address of a sector as the map has it; zero when it is not mapped. -/
def State.sectorPa (s : State) (e : MapEnt) (i : Nat) : Nat :=
  match e.sectorPage i with
  | some p => physAddr p (s.pageSlc p) i
  | none => 0

/-- Physical address of a map entry's page as the journal and the map name it; zero when unmapped. -/
def State.entPa (s : State) (e : MapEnt) : Nat := if !e.mapped || e.split then 0 else physAddr e.page (s.pageSlc e.page) 0

/-- Does a map entry lead to a poisoned line (R183)? -/
def State.entPsn (s : State) (e : MapEnt) : Bool :=
  (List.range 16).any (fun i => ((e.sectorPage i).bind (Tbl.find s.flash.pages ·)).any (fun p => p.dat.pois.any (fun b => b.1 / 64 == i)))

/-! ## The write buffer as a reader sees it (R190, R194) -/

/-- A unit in the write buffer. -/
def State.buffered (s : State) (ns unit : Nat) : Option WUnit :=
  s.flash.wbuf.find? (fun u => u.ns == ns && u.unit == unit)

/-- Changes a unit in the write buffer. -/
def State.modBuf (s : State) (ns unit : Nat) (f : WUnit → WUnit) : State :=
  { s with flash := { s.flash with wbuf := s.flash.wbuf.map (fun u => if u.ns = ns ∧ u.unit = unit then f u else u) } }

/-- Removes a unit from the write buffer. -/
def State.dropBuf (s : State) (ns unit : Nat) : State :=
  { s with flash := { s.flash with wbuf := s.flash.wbuf.filter (fun u => !(u.ns == ns && u.unit == unit)) } }

/-- The map entry of a unit as its 8 bytes (R183). -/
def State.mapWord (s : State) (ns unit : Nat) : Nat :=
  let e := s.mapEnt ns unit
  let addr := if e.split then Tbl.get 0 s.flash.subs (mapKey ns unit) / 128 else s.entPa e % 2 ^ 39
  let psn := match s.buffered ns unit with
    | some u => !u.dat.pois.isEmpty
    | none => e.psn
  addr + b2n psn * 2 ^ 59 + b2n (s.buffered ns unit).isSome * 2 ^ 60 + b2n e.hot * 2 ^ 61 + b2n e.split * 2 ^ 62 + b2n e.mapped * 2 ^ 63

/-- The second-level table of a split unit as its 128 bytes (R184). -/
def State.subTable (s : State) (ns unit : Nat) : List Byte :=
  (List.range 16).flatMap (fun i => leBytes 8 (s.sectorPa (s.mapEnt ns unit) i))

/-- Is PSN of a unit clear, in the map and in its buffered copy (R169, R183)? -/
def State.psnClear (s : State) (ns unit : Nat) : Bool := !bitOf (s.mapWord ns unit) 59

/-- Are the sectors of a buffered unit valid: every sector of a unit read in, or those written (R191)? -/
def State.sectorMapped (s : State) (ns unit i : Nat) : Bool :=
  (s.buffered ns unit).isSome || ((s.mapEnt ns unit).sectorPage i).isSome

/-- Bytes of a namespace and whether any of them is poisoned, not mapped or of a unit whose map entry is poisoned (R179,
R186). -/
def State.nsRead (s : State) (ns off n : Nat) : List Byte × Bool :=
  let at_ := fun (x : Nat) => (x / unitSize, x % unitSize / sectorSize)
  let bs := (List.range n).map (fun i =>
    let x := off + i
    match s.buffered ns (at_ x).1 with
    | some u => Tbl.get 0 u.dat.bytes (x % unitSize)
    | none =>
      match ((s.mapEnt ns (at_ x).1).sectorPage (at_ x).2).bind s.page with
      | some p => Tbl.get 0 p.dat.bytes (x % unitSize)
      | none => 0)
  let bad := (linesOf off n).any (fun l =>
    let x := 64 * l
    let u := (at_ x).1
    match s.buffered ns u with
    | some b => Tbl.get false b.dat.pois (x % unitSize / 64)
    | none =>
      s.entPois ns u || (match ((s.mapEnt ns u).sectorPage (at_ x).2).bind s.page with
        | some p => Tbl.get false p.dat.pois (x % unitSize / 64)
        | none => true))
  (bs, bad)

/-- The units that bytes of a namespace lie in. -/
def unitsOf (off n : Nat) : List Nat := (List.range ((off + n - 1) / unitSize - off / unitSize + 1)).map (· + off / unitSize)

/-- Does a read of a range of a namespace meet a poisoned map entry (R186)? -/
def State.mapBad (s : State) (ns off n : Nat) : Bool := (unitsOf off n).any (fun u => (s.buffered ns u).isNone && s.entPois ns u)

/-- Length of a full-vector record (R65). -/
def recLen (c : CreateFields) : Nat := roundUp (24 + ceilDiv (c.dim * fmtWidth c.vfmt) 8) 32

/-- Units of an index's namespace (R180). -/
def nsUnits (c : CreateFields) : Nat := ceilDiv (recSpace c * recLen c) unitSize

/-- Does CHECK of record `rec_` verify (R66, R447)? -/
def recordOk (bs : List Byte) (rec_ : Nat) : Bool :=
  leAt bs 0x14 4 == checkValue (bs.take 0x14 ++ zeros 4 ++ bs.drop 0x18) rec_

/-- The checks of R102 on a record: CHECK, VID, DIM, FMT. -/
def recordGood (bs : List Byte) (rec_ vid dim vfmt : Nat) : Bool :=
  recordOk bs rec_ && leAt bs 0 8 == vid && leAt bs 8 2 == dim && leAt bs 0x0A 1 == vfmt

/-! ## Journal, checkpoint and superblock (R200 to R202) -/

/-- TYPE of a journal record (R201). -/
def JType.code : JType → Nat
  | .map => 1
  | .gcmap => 2
  | .gccommit => 3
  | .erased => 4
  | .discard => 5
  | .retire => 6
  | .ckpt => 7
  | .flushend => 8

/-- A journal record as its 32 bytes (R200). -/
def JRec.bytes (r : JRec) : List Byte :=
  leBytes 1 r.jtype.code ++ leBytes 1 (b2n r.sector) ++ leBytes 2 r.ns ++ leBytes 4 r.jseq ++ leBytes 8 r.logical ++ leBytes 8 r.newpa
  ++ leBytes 8 r.oldpa

/-- Does the `i`-th channel of the journal serve? -/
def State.jUp (s : State) (i : Nat) : Bool := (s.flash.jchs[i]?).any (fun c => !(s.dies c).isEmpty)

/-- Writes a journal record (R200): a program of a sector in each channel of the journal (log 100). -/
def State.journal (s : State) (t : JType) (sector : Bool) (ns logical newpa oldpa : Nat) : State :=
  let r : JRec := ⟨t, sector, ns, s.flash.jseq, logical, newpa, oldpa⟩
  let put := fun (i : Nat) (l : List JRec) => if s.jUp i then l ++ [r] else l
  let n := b2n (s.jUp 0) + b2n (s.jUp 1)
  ({ s with flash := { s.flash with journal := (put 0 s.flash.journal.1, put 1 s.flash.journal.2), jseq := s.flash.jseq + 1,
                                    wseq := s.flash.wseq + n, sinceCkpt := s.flash.sinceCkpt + 1 } }).count kFtlNandbytes (sectorSize * n)

/-- The copy of the superblock with the highest WSEQ, of the channels that serve and are not in `bad` (R202). -/
def State.superNow (s : State) (bad : List Nat) : Option Super :=
  (s.flash.supers.filter (fun e => !bad.contains e.1 && s.flashChans.contains e.1)).foldl (fun (z : Option Super) e =>
    if z.all (fun x => decide (x.wseq < e.2.wseq)) then some e.2 else z) none

/-- Writes the superblock in every channel (R202), with the checkpoint that it names. -/
def State.putSupers (s : State) (ckpt : Nat) : State :=
  s.each s.flashChans (fun c t =>
    { t with flash := { t.flash with supers := Tbl.set t.flash.supers c ⟨t.flash.wseq, ckpt, t.flash.jchs, t.flash.subst⟩,
                                     wseq := t.flash.wseq + 1 } }.count kFtlNandbytes sectorSize)

/-! ## Health reports -/

/-- Health reports of the flash side (R214, R469): the event bit, the record and the management message. -/
def State.flashEvent (s : State) (reg bit code sev : Nat) (loc : List Byte) : State :=
  (s.raise reg bit (s.nodeReport code sev loc [])).emit (.mgmt 0x03 0 .ok s.healthBytes)

/-- The event of a flash health report on a page (R214). -/
def State.pageEvent (s : State) (bit code sev p plane unit : Nat) : State :=
  s.flashEvent (eFce (pageCh p)) bit code sev (locFlash (pageCh p) (pageCe p) plane (pageBlock p) (p % 4096) unit)

/-- MAPPOISON (R186, R214). -/
def State.mapPoison (s : State) : State := s.flashEvent eFtl 5 0x030F 0 locNode

/-! ## Spares (R187, R212) -/

/-- The planes of the dies of a channel, each as ce × 4 + plane. -/
def State.planes (s : State) (ch : Nat) : List Nat := (s.dies ch).flatMap (fun c => (List.range 4).map (4 * c + ·))

def planeKey (ch plane : Nat) : Nat := ch * 32 + plane

/-- Spares left in a plane of a channel (R187, R212). -/
def State.spareLeft (s : State) (ch plane : Nat) : Nat := Tbl.get s.flash.sparesFmt s.flash.spares (planeKey ch plane)

/-- The block that a plane uses for a block of a stripe (R187). -/
def State.blockUsed (s : State) (ch plane k : Nat) : Nat := Tbl.get k s.flash.subst (planeKey ch plane * 16384 + k)

/-- The lowest spare block of a plane that is neither bad nor in use. -/
def State.nextSpare (s : State) (ch plane : Nat) : Option Nat :=
  let mine := s.flash.subst.filter (fun e => e.1 / 16384 == planeKey ch plane)
  ((List.range s.flash.sparesFmt).map (· + s.nStripes)).find? (fun b =>
    !(Tbl.get [] s.flash.badBlocks (planeKey ch plane)).contains b && !mine.any (fun e => e.2 == b))

end Sys2Proof.Machine
end

