-- ==== Sys2Proof/Machine/FlashRead.lean ====
section
/-! DEFINITION. Reading the dies: decoding sectors with read-retry, and what errors leave behind (R169, R170, R220), the pages that bytes of a
namespace lie in, and the read of one record as FETCH and stage 6 of a search make it (R102, R169, R175). -/

namespace Sys2Proof.Machine

/-- The level at which a sector decodes under a list of sectors that do not decode at level 0; none if no level does. -/
def levelOf (es : List (Nat × Option Nat)) (i : Nat) : Option Nat :=
  match es.find? (fun e => e.1 == i) with
  | some e => e.2
  | none => some 0

/-- The re-reads that a sector of a channel's page takes: up to the level at which it decodes, else up to RETRYMAX (R170). -/
def State.retryTries (s : State) (ch : Nat) (es : List (Nat × Option Nat)) (i : Nat) : Nat :=
  let top := s.fld (fFceCfgRetrymax ch)
  ((levelOf es i).filter (fun l => decide (l ≤ top))).getD top

/-- The errors that a list gives for one page. -/
def pageErrs (es : List ReadErr) (p : Nat) : List (Nat × Option Nat) :=
  (es.filter (fun e => e.page == p)).flatMap (fun e => e.sects.map (fun i => (i, e.level)))

/-- Makes the block of a page a victim of priority (R170, R211); `planes` are the blocks that are retired without erase. An open stripe
closes. -/
def State.relocate (s : State) (p : Nat) (planes : List Nat) : State :=
  let k := stripeKey (pageCh p) (pageBlock p)
  let x := s.stripe (pageCh p) (pageBlock p)
  let old := Tbl.get [] s.flash.urgent k
  let t := { s with flash := { s.flash with urgent := Tbl.set s.flash.urgent k (old ++ planes.filter (fun n => !old.contains n)) } }
  if x.st = .opened then t.setStripe (pageCh p) (pageBlock p) { x with st := .closed } else t

/-- Poisons the lines of sectors of a page, and the entries that lead there (R170, R183). -/
def State.poisonSectors (s : State) (p : Nat) (is : List Nat) : State :=
  let t := { s with flash := { s.flash with pages := Tbl.modify s.flash.pages p (fun g =>
    { g with dat := { g.dat with pois := is.foldl (fun q i => poisSet q ((List.range 64).map (64 * i + ·))) g.dat.pois } }) } }
  match Tbl.find t.flash.pages p with
  | none => t
  | some g =>
    let e := t.mapEnt g.ns g.unit
    if e.pages.contains p then t.setMap g.ns g.unit { e with psn := t.entPsn e } else t

/-- Re-reads of a page at levels 1 to `n`, and the return to level 0 (R170). -/
def State.retryCmds (s : State) (p n : Nat) (is : List Nat) : State :=
  let die := fun (ops : List Nat) (t : State) => t.emit (.nand (pageCh p) (pageCe p) ops)
  if n = 0 then s
  else die (s.levelOps 0) (s.each (List.range n) (fun l t => die (readOps is) (die (t.levelOps (l + 1)) t)))

/-- Transfers sectors of a page in full and decodes them (R169, R170, R220): sectors that do not decode are read again at the levels from 1
to RETRYMAX until each decodes. Gives the sectors that no level decodes, and whether read-retry was used. -/
def State.decodeAt (s : State) (p unit : Nat) (is : List Nat) (es : List (Nat × Option Nat)) : State × List Nat × Bool :=
  let c := pageCh p
  let top := s.fld (fFceCfgRetrymax c)
  let lv := fun (i : Nat) => (levelOf es i).filter (fun l => decide (l ≤ top))
  let tries := s.retryTries c es
  let deep := (is.map tries).foldl max 0
  let reads := is.foldl (fun n i => n + 1 + tries i) 0
  let bad := is.filter (fun i => (lv i).isNone)
  let high := is.filter (fun i => (lv i).any (fun l => decide (0 < l) && decide (s.fld (fFceCfgRetrywarn c) ≤ l)))
  let a := ((s.count (kFceDecodes c) reads).count (kFceBytesrd c) (4608 * reads)).count (kFceRetries c) deep
  let b := a.retryCmds p deep is
  let d := match high with
    | [] => b
    | i :: _ => (b.pageEvent 2 0x0302 2 p (i / 4) unit).relocate p []
  let e := match bad with
    | [] => d
    | i :: _ => (((d.count (kFceUncorrs c) bad.length).pageEvent 1 0x0303 0 p (i / 4) unit).poisonSectors p bad).relocate p []
  (e, bad, deep != 0)

/-- Reads the sectors of a unit that lie in each of some pages by the full path (R169, R191, R198); the count of array reads is with it. -/
def State.readFull (s : State) (unit : Nat) (ps : Tbl (List Nat)) (errs : List ReadErr) : State :=
  s.each ps (fun e t =>
    let die := fun (ops : List Nat) (u : State) => u.emit (.nand (pageCh e.1) (pageCe e.1) ops)
    ((die (columnOps e.2) (die (readOps e.2) (t.count (kFceReads (pageCh e.1)) 1))).decodeAt e.1 unit e.2 (pageErrs errs e.1)).1)

/-! ## Records -/

/-- Adds `k` bytes of a record in sector `i` of page `p` to its parts. -/
def partAdd (ps : List FPart) (p i k : Nat) : List FPart :=
  match ps with
  | [] => [⟨p, [i], k, .waiting⟩]
  | x :: r => if x.page = p then { x with sects := x.sects ++ [i], bytes := x.bytes + k } :: r else x :: partAdd r p i k

/-- The pages that an array read of bytes of a namespace needs: those of its sectors that are not in the write buffer; none if one of
them is not mapped, or is not there. -/
def State.recParts (s : State) (ns off n : Nat) : Option (List FPart) :=
  ((List.range ((off + n - 1) / sectorSize - off / sectorSize + 1)).map (· + off / sectorSize)).foldl (fun (z : Option (List FPart)) g =>
    z.bind (fun ps =>
      if (s.buffered ns (g / 16)).isSome then some ps
      else
        match (s.mapEnt ns (g / 16)).sectorPage (g % 16) with
        | none => none
        | some p =>
          if (s.page p).isNone then none
          else some (partAdd ps p (g % 16) (min (off + n) (sectorSize * (g + 1)) - max off (sectorSize * g))))) (some [])

/-- What a record read from its pages costs, leaves and gives (R169, R170): the fast path where it serves, else the sectors in full, read
again from the page registers. `raw` says that the bytes of the fast path have an error. Gives RFLAGS, and whether every sector
decoded. -/
def State.readDone (s : State) (fast raw : Bool) (bytes : List Byte) (rec_ unit : Nat) (ps : List (FPart × List (Nat × Option Nat))) :
    State × Nat × Bool :=
  let a := if fast then s.each ps (fun x t =>
      (t.count (kFceBytesrd (pageCh x.1.page)) x.1.bytes).emit (.nand (pageCh x.1.page) (pageCe x.1.page) (columnOps x.1.sects)))
    else s
  if fast && !raw && recordOk bytes rec_ then (a, 0, true)
  else
    let b := match ps with
      | x :: _ => if fast then a.count (kFceFastfail (pageCh x.1.page)) 1 else a
      | [] => a
    let z := ps.foldl (fun (z : State × Bool × Bool) x =>
      let t := z.1.emit (.nand (pageCh x.1.page) (pageCe x.1.page) (columnOps x.1.sects))
      let r := t.decodeAt x.1.page unit x.1.sects x.2
      (r.1, z.2.1 || r.2.2, z.2.2 && r.2.1.isEmpty)) (b, false, true)
    (z.1, 1 + 2 * b2n z.2.1, z.2.2)

/-- The channel whose sloe a record's descriptor goes to (R171): of the channel that its first unit is staged for or lies in; the lowest
that serves for a unit that has none (log 103). -/
def State.sloeAt (s : State) (ns off : Nat) : Nat :=
  let u := off / unitSize
  match s.buffered ns u with
  | some b => b.ch
  | none =>
    match (s.mapEnt ns u).sectorPage (off % unitSize / sectorSize) with
    | some p => pageCh p
    | none => (s.flashChans.head?).getD 0

/-- The read of a record by stage 6 of a search (R101, R102, R169): its counts, its bytes, whether it is poisoned. -/
def State.recRead (s : State) (ns off n rec_ : Nat) (errs : List ReadErr) : State × List Byte × Bool :=
  let r := s.nsRead ns off n
  let t := s.count (kFceDescs (s.sloeAt ns off)) 1
  if s.mapBad ns off n then (t.mapPoison, r.1, true)
  else
    match s.recParts ns off n with
    | none => (t, r.1, true)
    | some ps =>
      let xs := ps.map (fun x => (x, pageErrs errs x.page))
      let a := t.each ps (fun x u => (u.count (kFceReads (pageCh x.page)) 1).emit (.nand (pageCh x.page) (pageCe x.page) (readOps x.sects)))
      if ps.isEmpty then (t, r.1, r.2)
      else
        let raw := xs.any (fun x => x.1.sects.any (fun i => x.2.any (fun e => e.1 == i)))
        let z := a.readDone ((unitsOf off n).all (s.psnClear ns)) raw r.1 rec_ (off / unitSize) xs
        (z.1, r.1, r.2 || !z.2.2)

end Sys2Proof.Machine
end

