-- ==== Sys2Proof/Machine/FlashWrite.lean ====
section
/-! DEFINITION. Writing: the hold-up cap (R205, R206), staging in the write buffer (R190 to R193), the start of programs (R192, R193, R207),
discards (R180, R181, R195), and the exported capacity (R189, R212, R213). -/

namespace Sys2Proof.Machine

/-! ## The hold-up cap (R205, R206) -/

/-- WBSIZE, which the boot image sets, 4 GiB at most (R190). -/
def State.wbSize (s : State) : Nat := min ((s.boot.image.map (fun i => i.wbSize)).getD 0) (2 ^ 32)

/-- Flush energy times BCH, in pJ·MB/s, of dirty units per channel `dmax` at most and `dtot` in all, in bytes. -/
def State.flushEnergy (s : State) (dmax dtot : Nat) : Nat :=
  let pfl := s.fld fFtlHucostPfl
  let bch := s.fld fFtlHucostBch
  pfl * 1000000 * (s.fld fFtlHucostTfix * bch + dmax) + s.fld fFtlHucostEpb * dtot * bch

/-- Half of E_avail times BCH, in the same unit: NRG_EAVAIL is in mJ. -/
def State.halfAvail (s : State) : Nat := s.fld fNrgEavail * 500000000 * s.fld fFtlHucostBch

/-- Is a dirty set of units staged for these channels within the cap? -/
def State.dirtyOk (s : State) (chs : List Nat) : Bool :=
  let most := (List.range 32).foldl (fun m c => max m (chs.filter (· == c)).length) 0
  decide (s.flushEnergy (unitSize * most) (unitSize * chs.length) ≤ s.halfAvail)

/-- May a unit more be staged for a channel: within the buffer, and within the cap unless writes go through (R190, R206; log 104)? -/
def State.capOk (s : State) (ch : Nat) : Bool :=
  decide (unitSize * (s.flash.wbuf.length + 1) ≤ s.wbSize)
  && (s.flag fFtlStateWthru || s.dirtyOk (ch :: s.flash.wbuf.map (·.ch)))

/-- Are the units that are not being programmed over the cap (R206)? -/
def State.restOver (s : State) : Bool := !s.dirtyOk ((s.flash.wbuf.filter (fun u => u.prog.isNone)).map (·.ch))

/-- The most units within the cap when staging is balanced over `w` channels; found bit by bit. -/
def State.capUnits (s : State) (w k n : Nat) : Nat :=
  match k with
  | 0 => n
  | j + 1 =>
    let m := n + 2 ^ j
    if w ≠ 0 ∧ unitSize * m ≤ s.wbSize ∧ s.flushEnergy (unitSize * ceilDiv m w) (unitSize * m) ≤ s.halfAvail then s.capUnits w j m
    else s.capUnits w j n

/-- Recomputes the cap (R206): FTL_DCAP, WTHRU and STAGEHOLD. -/
def State.capRecompute (s : State) : State :=
  if !s.hw.variant.flash then s
  else
    let t := s.setReg64 0x70030 (unitSize * s.capUnits s.writable.length 17 0)
    let wthru := decide (s.halfAvail < s.fld fFtlHucostPfl * 1000000 * s.fld fFtlHucostTfix * s.fld fFtlHucostBch)
    (t.setFld fFtlStateWthru (b2n wthru)).setFld fFtlStateStagehold (b2n (!s.flash.wbuf.isEmpty && !s.dirtyOk (s.flash.wbuf.map (·.ch))))

/-! ## Staging (R190 to R193) -/

/-- Can the channel's SLC region hold the reserve for one more staged unit (R193)? -/
def State.canStage (s : State) (ch : Nat) : Bool :=
  decide (s.stagedUnits ch + 1 + s.stripePages ch true ≤ s.slcFree ch)

/-- The writable channel for a newly dirty unit: fewest dirty units among those that can take it, lowest number (R190, R193). -/
def State.stageChan (s : State) : Option Nat :=
  match s.writable.filter s.canStage with
  | [] => none
  | c :: r => some (r.foldl (fun b x => if s.stagedUnits x < s.stagedUnits b then x else b) c)

/-- How a write to the buffer can end (R206, R213). -/
inductive Admit where
  | ok (s : State)
  | wait
  | noSpace

/-- Poisons the sectors of a unit that `p` names. -/
def UnitData.poisonOf (d : UnitData) (p : Nat → Bool) : UnitData :=
  { d with pois := ((List.range 16).filter p).foldl (fun q i => poisSet q ((List.range 64).map (64 * i + ·))) d.pois }

/-- The data of a mapped unit as its pages hold them; a sector that is not mapped holds no data, so its lines are poisoned (R179). -/
def State.unitIn (s : State) (ns unit : Nat) : UnitData :=
  let e := s.mapEnt ns unit
  let pg := fun (i : Nat) => (e.sectorPage i).bind s.page
  let d := (List.range 16).foldl (fun (d : UnitData) i =>
    match pg i with
    | none => d
    | some p =>
      ⟨p.dat.bytes.foldl (fun (t : Tbl Byte) b => if b.1 / sectorSize = i then Tbl.put 0 t b.1 b.2 else t) d.bytes,
       p.dat.pois.foldl (fun (t : Tbl Bool) b => if b.1 / 64 = i then Tbl.put false t b.1 b.2 else t) d.pois⟩) ⟨[], []⟩
  d.poisonOf (fun i => (pg i).isNone)

/-- A unit as it enters the write buffer (R191): a mapped one is read in from its pages, one that is not mapped starts as zeros, and one
whose map entry is poisoned reads as poison (R186). -/
def State.readIn (s : State) (ns unit : Nat) (errs : List ReadErr) : State × UnitData :=
  let e := s.mapEnt ns unit
  if s.entPois ns unit then (s.mapPoison, (⟨[], []⟩ : UnitData).poisonOf (fun _ => true))
  else if !e.mapped then (s, ⟨[], []⟩)
  else
    let t := s.readFull unit (e.pageSects (fun i => ((e.sectorPage i).bind s.page).isSome)) errs
    (t, t.unitIn ns unit)

/-- The lowest place of the buffer's region that no unit has. -/
def State.wbSlot (s : State) : Nat :=
  ((List.range (s.flash.wbuf.length + 1)).find? (fun k => !s.flash.wbuf.any (fun u => u.slot == k))).getD 0

/-- Makes sure that a unit is in the write buffer (R190, R191, R206). -/
def State.stageUnit (s : State) (ns unit : Nat) (errs : List ReadErr) : Admit :=
  if (s.buffered ns unit).isSome then .ok s
  else if s.writable.isEmpty then .noSpace
  else
    match s.stageChan with
    | none => .wait
    | some ch =>
      if !s.capOk ch then .wait
      else
        let r := s.readIn ns unit errs
        let sects := if (s.mapEnt ns unit).mapped then [] else (List.range 16).map (fun i => (i, true))
        .ok { r.1 with flash := { r.1.flash with
          wbuf := r.1.flash.wbuf ++ [{ slot := s.wbSlot, ns := ns, unit := unit, ch := ch, prog := none, dirtyAgain := false,
                                       sects := sects, gone := [], dat := r.2 }] } }

/-- Writes bytes into a buffered unit at an offset of it; a unit under program becomes dirty again (R192). -/
def WUnit.write (u : WUnit) (off : Nat) (bs : List Byte) : WUnit :=
  let is := if bs.isEmpty then []
    else (List.range ((off + bs.length - 1) / sectorSize - off / sectorSize + 1)).map (· + off / sectorSize)
  { u with dat := ⟨wrBytes u.dat.bytes off bs, poisClean u.dat.pois off bs.length⟩,
           sects := is.foldl (fun t i => Tbl.set t i true) u.sects, gone := u.gone.filter (fun i => !is.contains i),
           dirtyAgain := u.prog.isSome || u.dirtyAgain }

/-- Writes bytes of a namespace into the write buffer: one unit, or two that they straddle. -/
def State.nsWrite (s : State) (ns off : Nat) (bs : List Byte) (errs : List ReadErr) : Admit :=
  let u := off / unitSize
  let n := unitSize - off % unitSize
  match s.stageUnit ns u errs with
  | .wait => .wait
  | .noSpace => .noSpace
  | .ok t =>
    if bs.length ≤ n then
      .ok ((t.modBuf ns u (fun x => x.write (off % unitSize) bs)).count kFtlHostbytes bs.length)
    else
      match t.stageUnit ns (u + 1) errs with
      | .wait => .wait
      | .noSpace => .noSpace
      | .ok v =>
        .ok (((v.modBuf ns u (fun x => x.write (off % unitSize) (bs.take n))).modBuf ns (u + 1)
          (fun x => x.write 0 (bs.drop n))).count kFtlHostbytes bs.length)

/-- Is a buffered unit full: is every record number whose record lies in it in use (R191, R192; log 105)? -/
def State.unitFull (s : State) (ns unit : Nat) : Bool :=
  match Tbl.find s.idx.desc ns with
  | none => false
  | some d =>
    let len := recLen d.c
    let lo := unit * unitSize / len
    let hi := min ((unit * unitSize + unitSize - 1) / len) (recSpace d.c - 1)
    ((List.range (hi + 1 - lo)).map (· + lo)).all (fun r => Tbl.has s.idx.recs (ns * 2 ^ 48 + r))

/-! ## Programs -/

/-- May a program of the write buffer start? None does while the flush is armed and does not run (R487). -/
def State.progMay (s : State) : Bool := s.pwr.flushing.isSome || !s.flag fFtlStateFlusharm

/-- The sectors that a program of a buffered unit maps: those that changed of a hot unit, all of any other, without the discarded ones
(R185, R195). -/
def State.progSects (s : State) (u : WUnit) : List Nat :=
  (if (s.mapEnt u.ns u.unit).hot then Tbl.keys u.sects else List.range 16).filter (fun i => !u.gone.contains i)

/-- Starts the program of a buffered unit, if a page and its die are free: SLC, or QLC when the SLC region is full outside the
flush reserve (R192, R193). A flush programs in SLC mode into the reserve (R207). What the unit holds goes to the page (R168). -/
def State.progStart (s : State) (ns unit : Nat) : State :=
  match s.buffered ns unit with
  | none => s
  | some u =>
    if u.prog.isSome || !s.progMay then s
    else
      let slc := s.pwr.flushing.isSome || decide (s.stagedUnits u.ch + s.stripePages u.ch true < s.slcFree u.ch)
      match s.takePage u.ch slc with
      | none => s
      | some (p, t) =>
        let k := dieKey u.ch (pageCe p)
        if Tbl.has s.flash.dies k then s
        else
          let is := s.progSects u
          let v := t.modBuf ns unit (fun x => { x with prog := some p, sects := [] })
          let pg : FPage := { ns := ns, unit := unit, wseq := s.flash.wseq, slc := slc, hot := (s.mapEnt ns unit).hot, moved := false,
                              dat := u.dat }
          let w := { v with flash := { v.flash with
            pages := Tbl.set v.flash.pages p pg, wseq := v.flash.wseq + 1, dies := Tbl.set v.flash.dies k ⟨.prog p ns unit is, false, []⟩ } }
          let x := w.emit (.nand u.ch (pageCe p) (s.programOps slc is))
          if slc then x else x.flashEvent eFtl 4 0x030D 2 (locFlash u.ch (pageCe p) 0 (pageBlock p) (p % 4096) unit)

/-- Starts the programs of the units that are full, of all while writes go through, and while the buffer is over its cap of the oldest
until it is within (R192, R206); in a flush, of every unit, in staging order (R207). -/
def State.progPending (s : State) : State :=
  s.flash.wbuf.foldl (fun t u =>
    if u.prog.isNone && (t.unitFull u.ns u.unit || t.pwr.flushing.isSome || t.flag fFtlStateWthru
        || (t.flag fFtlStateStagehold && t.restOver)) then t.progStart u.ns u.unit else t) s

/-! ## Discards -/

/-- Unmaps a sector of a unit in flash and journals it (R195). -/
def State.unmapSector (s : State) (ns unit i : Nat) : State :=
  let e := s.mapEnt ns unit
  match e.sectorPage i with
  | none => s
  | some p =>
    let whole := if e.split then e.sect else (List.range 16).map (fun k => (k, e.page))
    let rest := whole.filter (fun x => x.1 != i)
    let t := s.setMap ns unit (if rest.isEmpty then { mapNone with hot := e.hot } else { e with page := 0, split := true, sect := rest })
    t.journal .discard true ns (16 * unit + i) 0 (physAddr p (s.pageSlc p) i)

/-- Takes a sector of a buffered unit out: its lines are poisoned and no program maps it; a unit with no sector left leaves the buffer. -/
def State.unbufSector (s : State) (ns unit i : Nat) : State :=
  match s.buffered ns unit with
  | none => s
  | some u =>
    if (List.range 16).all (fun k => k == i || u.gone.contains k) then s.dropBuf ns unit
    else s.modBuf ns unit (fun x => { x with gone := if x.gone.contains i then x.gone else x.gone ++ [i], dat := x.dat.poisonOf (· == i) })

/-- Discards a sector of a unit, in the write buffer and in flash (R195). -/
def State.discardSector (s : State) (ns unit i : Nat) : State :=
  let was := match s.buffered ns unit with
    | some u => !u.gone.contains i
    | none => ((s.mapEnt ns unit).sectorPage i).isSome
  let t := (s.unmapSector ns unit i).unbufSector ns unit i
  if was then t.count kFtlDiscards 1 else t

/-- Discards every unit of a namespace (R180, R181). -/
def State.discardNs (s : State) (ns : Nat) : State :=
  let es := s.flash.map.filter (fun e => e.1 / 2 ^ 32 == ns && e.2.mapped)
  let t := s.each es (fun e v =>
    (v.journal .discard false ns (e.1 % 2 ^ 32) 0 (v.entPa e.2)).count kFtlDiscards (if e.2.split then e.2.sect.length else 16))
  ({ t with flash := { t.flash with map := Tbl.drop t.flash.map (fun k => k / 2 ^ 32 == ns),
                                    wbuf := t.flash.wbuf.filter (fun u => u.ns != ns),
                                    nsLen := Tbl.erase t.flash.nsLen ns } }).mapGive ns

/-- Orphan namespaces: those whose descriptor is FREE (R181). -/
def State.orphans (s : State) : List Nat :=
  (Tbl.keys s.flash.nsLen).filter (fun n => !Tbl.has s.idx.desc n)

/-- Sets ORPHANS of FTL_STATE. -/
def State.countOrphans (s : State) : State :=
  if s.hw.variant.flash then s.setFld fFtlStateOrphans s.orphans.length else s

/-- Creates the namespace of an index (R180), with its map entries in HBM. -/
def State.newNs (s : State) (ns units : Nat) : State :=
  ({ s with flash := { s.flash with nsLen := Tbl.set s.flash.nsLen ns units } }).mapTake ns

/-! ## Capacity (R189, R212, R213) -/

/-- The stripes of a region of a channel that the translation layer allocates. -/
def State.stripesOf (s : State) (slc : Bool) : List Nat :=
  (if slc then List.range s.slcStripes else (List.range (s.nStripes - s.slcStripes)).map (· + s.slcStripes)).filter (fun k => k != 0)

/-- Exported capacity of a channel in units: one stripe less for each that has been retired (R189, R212). -/
def State.exported (s : State) (ch : Nat) : Nat :=
  let lost := ((List.range s.nStripes).filter (fun k => (s.stripe ch k).st == .retired)).length
  (s.nStripes - s.slcStripes - s.fld fFtlCfgGchi - lost) * s.stripePages ch false

/-- Units with valid data in a channel. -/
def State.chUnits (s : State) (ch : Nat) : Nat := (s.flash.map.filter (fun e => e.2.pages.any (fun p => pageCh p == ch))).length

/-- Does a channel hold more than it exports (R213)? -/
def State.excess (s : State) (ch : Nat) : Bool := decide (s.exported ch < s.chUnits ch)

/-- The channels with room for the excess of one. -/
def State.roomFor (s : State) (ch : Nat) : List Nat :=
  s.writable.filter (fun c => c != ch && decide (s.chUnits c < s.exported c) && (s.openStripe c false).isSome)

/-- A channel whose excess fits nowhere turns read-only (R213). -/
def State.roCheck (s : State) (ch : Nat) : State :=
  if s.excess ch && (s.roomFor ch).isEmpty && !s.readOnly ch then
    (s.setFld fFtlStateRdonlymask (s.fld fFtlStateRdonlymask + 2 ^ ch)).flashEvent (eFce ch) 8 0x0309 0 (locFlash ch 0 0 0 0 0)
  else s

end Sys2Proof.Machine
end

