-- ==== Sys2Proof/Machine/Keccak.lean ====
section
/-! DEFINITION. SHAKE256 (R79, R288, R562, R571): the extendable-output function of FIPS 202, with its permutation Keccak-f[1600] on five
planes of five 64-bit lanes: lane (x, y) is bits 64x to 64x + 63 of plane y. -/

namespace Sys2Proof

/-- Lane `x` of a plane, and a lane rotated to the left. -/
def laneOf (p x : Nat) : Nat := (p >>> (64 * x)) % 2 ^ 64
def rotl64 (x k : Nat) : Nat := (x <<< k) % 2 ^ 64 ||| x >>> (64 - k)

/-- A plane with the lane `k` places on in the place of each lane. -/
def planeTurn (p k : Nat) : Nat := p >>> (64 * k) ||| (p <<< (64 * (5 - k))) % (2 ^ 160 * 2 ^ 160)

/-- The lowest bit of each lane; a plane with each lane rotated to the left by one. -/
def laneOnes : Nat := 1 + 2 ^ 64 + 2 ^ 128 + 2 ^ 192 + 2 ^ 256
def planeRot1 (p : Nat) : Nat := ((p &&& ((2 ^ 63 - 1) * laneOnes)) <<< 1) ||| ((p >>> 63) &&& laneOnes)

/-- The constants of the step iota. -/
def iotaConsts : List Nat :=
  [0x0000000000000001, 0x0000000000008082, 0x800000000000808A, 0x8000000080008000, 0x000000000000808B, 0x0000000080000001,
   0x8000000080008081, 0x8000000000008009, 0x000000000000008A, 0x0000000000000088, 0x0000000080008009, 0x000000008000000A]
  ++ [0x000000008000808B, 0x800000000000008B, 0x8000000000008089, 0x8000000000008003, 0x8000000000008002, 0x8000000000000080,
   0x000000000000800A, 0x800000008000000A, 0x8000000080008081, 0x8000000000008080, 0x0000000080000001, 0x8000000080008008]

/-- Theta: each lane with the parity of two columns. -/
def keccakTheta (a : List Nat) : List Nat :=
  let c := a.foldl (· ^^^ ·) 0
  let d := planeTurn c 4 ^^^ planeRot1 (planeTurn c 1)
  a.map (· ^^^ d)

/-- Rho and pi: lane `x` of a plane, rotated by `k`, in the place of lane `u`. -/
def lanePut (p x k u : Nat) : Nat := rotl64 (laneOf p x) k <<< (64 * u)

/-- Rho and pi on the planes: lane (u, v) comes, rotated, from (u + 3v, u). -/
def keccakRhoPi (a : List Nat) : List Nat :=
  match a with
  | [p, q, r, s, t] =>
    [lanePut p 0 0 0 ||| lanePut q 1 44 1 ||| lanePut r 2 43 2 ||| lanePut s 3 21 3 ||| lanePut t 4 14 4,
     lanePut p 3 28 0 ||| lanePut q 4 20 1 ||| lanePut r 0 3 2 ||| lanePut s 1 45 3 ||| lanePut t 2 61 4,
     lanePut p 1 1 0 ||| lanePut q 2 6 1 ||| lanePut r 3 25 2 ||| lanePut s 4 8 3 ||| lanePut t 0 18 4,
     lanePut p 4 27 0 ||| lanePut q 0 36 1 ||| lanePut r 1 10 2 ||| lanePut s 2 15 3 ||| lanePut t 3 56 4,
     lanePut p 2 62 0 ||| lanePut q 3 55 1 ||| lanePut r 4 39 2 ||| lanePut s 0 41 3 ||| lanePut t 1 2 4]
  | _ => []

/-- Chi: each lane with those one and two places on. -/
def keccakChi (a : List Nat) : List Nat := a.map (fun p => p ^^^ (((2 ^ 160 * 2 ^ 160 - 1) ^^^ planeTurn p 1) &&& planeTurn p 2))

/-- One round; iota is a constant in lane (0, 0). -/
def keccakRound (a : List Nat) (rc : Nat) : List Nat :=
  match keccakChi (keccakRhoPi (keccakTheta a)) with
  | p :: r => (p ^^^ rc) :: r
  | [] => []

/-- Keccak-f[1600]. -/
def keccakF (a : List Nat) : List Nat := iotaConsts.foldl keccakRound a

/-- Absorbs one block of 136 bytes: 17 lanes. -/
def absorb (a : List Nat) (block : List Byte) : List Nat :=
  keccakF (a.zipIdx.map (fun e => e.1 ^^^ leAt block (40 * e.2) (min 40 (136 - 40 * e.2))))

/-- `f` of a number that is evaluated first: a long computation in the kernel stays shallow. -/
def evalNat (x : Nat) (f : Nat → List Nat) : List Nat :=
  match x with
  | 0 => f 0
  | k + 1 => f (k + 1)

/-- `f` of numbers that are evaluated first. -/
def evalAll (l : List Nat) (f : List Nat → List Nat) : List Nat :=
  match l with
  | [] => f []
  | x :: r => evalNat x (fun y => evalAll r (fun z => f (y :: z)))

/-- Absorbs `n` blocks of a padded message. -/
def absorbAll (n : Nat) (a : List Nat) (bs : List Byte) : List Nat :=
  match n with
  | 0 => a
  | m + 1 => evalAll (absorb a (bs.take 136)) (fun b => absorbAll m b (bs.drop 136))

/-- The message with SHAKE's suffix and padding. -/
def shakePad (bs : List Byte) : List Byte :=
  let k := 136 - bs.length % 136
  if k = 1 then bs ++ [0x9F] else bs ++ [0x1F] ++ zeros (k - 2) ++ [0x80]

/-- The first `n` bytes of SHAKE256's output, 136 at most. -/
def shake256 (n : Nat) (bs : List Byte) : List Byte :=
  let p := shakePad bs
  ((absorbAll (p.length / 136) [0, 0, 0, 0, 0] p).flatMap (leBytes 40)).take n

end Sys2Proof
end

