-- ==== Sys2Proof/Machine/IdxOps.lean ====
section
/-! DEFINITION. Shared operations on indexes: encodings of the structures that the elders keep (R40, R50, R58, R64), list
extents (R53 to R55), the item directory (R58 to R62), the conversion of vectors and their distances (R46, R49, R85 to R92,
R606), full-vector records (R65, R66) and the seal (R79). -/

namespace Sys2Proof.Machine

/-! ## Accessors -/

def State.desc? (s : State) (n : Nat) : Option Desc := Tbl.find s.idx.desc n
def State.hdr? (s : State) (l : Nat) : Option Hdr := Tbl.find s.idx.hdr l

/-- Changes a descriptor. -/
def State.modDesc (s : State) (n : Nat) (f : Desc → Desc) : State :=
  { s with idx := { s.idx with desc := Tbl.modify s.idx.desc n f } }

/-- Do the lines of a descriptor, of a list header, of a cluster's mask entry, of an adjacency record, of a directory bucket read poisoned
(R48, R68, R96, R99, R610)? -/
def State.descBad (s : State) (n : Nat) : Bool := s.ilvPois (descBase + 256 * n) 256
def State.hdrBad (s : State) (l : Nat) : Bool := s.ilvPois (hdrBase + 64 * l) 64
def State.maskBad (s : State) (k : Nat) : Bool := s.ilvPois (maskBase + 8 * k) 8
def State.adjBad (s : State) (l : Nat) : Bool := s.ilvPois (adjBase + 64 * l) 64
def State.bucketBad (s : State) (d : Desc) (b : Nat) : Bool := s.ilvPois (d.diradr + 64 * b) 64

/-- Writes a list header (R52), its whole line, which is clean then; VALID of the index's seal clears at the first one after the seal
(R79). -/
def State.setHdr (s : State) (l : Nat) (h : Hdr) : State :=
  ({ s with idx := { s.idx with hdr := Tbl.set s.idx.hdr l h,
                                desc := Tbl.modify s.idx.desc h.owner (fun d => { d with sealValid := false }) } }).ilvClean (hdrBase + 64 * l) 64

/-- Writes an adjacency record (R64), its whole line. -/
def State.setAdj (s : State) (l : Nat) (a : Adj) : State :=
  ({ s with idx := { s.idx with adj := Tbl.set s.idx.adj l a } }).ilvClean (adjBase + 64 * l) 64

/-- The coarse cluster and the fine number of a list (R45). -/
def listCoarse (l : Nat) : Nat := l / 64
def listFine (l : Nat) : Nat := l % 64

/-- Sets or clears the active-mask bit of a list (R48). -/
def State.setMask (s : State) (l : Nat) (on : Bool) : State :=
  let m := (Tbl.get 0 s.idx.mask (listCoarse l)).toNat
  { s with idx := { s.idx with mask := Tbl.put 0 s.idx.mask (listCoarse l) (BitVec.ofNat 64 (putBits m (listFine l) 1 (b2n on))) } }

/-- Is a list's bit set in the active mask? -/
def State.maskBit (s : State) (l : Nat) : Bool := bitOf (Tbl.get 0 s.idx.mask (listCoarse l)).toNat (listFine l)

/-- The coarse numbers of an index (R44), and its lists that have a header, in list-ID order. -/
def coarseOf (d : Desc) : List Nat := (List.range d.c.ncoarse).map (· + d.coarse0)
def State.listsOf (s : State) (n : Nat) : List (Nat × Hdr) := s.idx.hdr.filter (fun e => e.2.owner == n)

/-! ## Extents (R53) -/

/-- Base row and capacity of an extent of a list. -/
def Hdr.ext (h : Hdr) (side : Bool) : Nat × Nat := if side then (h.sbase, h.scap) else (h.mbase, h.mcap)

/-- Channel offsets of a slot's sketch and entry, and of the byte of plane `q` that holds its bit. -/
def skOff (c : CreateFields) (e : Nat × Nat) (i : Nat) : Nat := 1024 * e.1 + i * (skBits c.skw / 8)
def entOff (c : CreateFields) (e : Nat × Nat) (i : Nat) : Nat := 1024 * (e.1 + skRows c e.2) + 16 * i
def planeOff (c : CreateFields) (e : Nat × Nat) (q i : Nat) : Nat :=
  1024 * (e.1 + skRows c e.2 + entRows e.2) + q * planeLines e.2 * 64 + i / 8

/-- The sketch of a slot, its vector ID and record number, and its bit in a plane. -/
def State.slotSketch (s : State) (c : CreateFields) (h : Hdr) (x : SlotAt) : Nat :=
  fromLe (s.chRead h.home (skOff c (h.ext x.side) x.slot) (skBits c.skw / 8))
def State.slotVid (s : State) (c : CreateFields) (h : Hdr) (x : SlotAt) : Nat :=
  fromLe (s.chRead h.home (entOff c (h.ext x.side) x.slot) 8)
def State.slotRec (s : State) (c : CreateFields) (h : Hdr) (x : SlotAt) : Nat :=
  fromLe (s.chRead h.home (entOff c (h.ext x.side) x.slot + 8) 8) % 2 ^ 40
def State.slotBit (s : State) (c : CreateFields) (h : Hdr) (q : Nat) (x : SlotAt) : Bool :=
  bitOf (fromLe (s.chRead h.home (planeOff c (h.ext x.side) q x.slot) 1)) (x.slot % 8)

/-- Poison of the lines that hold them. -/
def State.sketchPois (s : State) (c : CreateFields) (h : Hdr) (x : SlotAt) : Bool :=
  s.chPois h.home (skOff c (h.ext x.side) x.slot) (skBits c.skw / 8)
def State.entryPois (s : State) (c : CreateFields) (h : Hdr) (x : SlotAt) : Bool :=
  s.chPois h.home (entOff c (h.ext x.side) x.slot) 16
def State.planePois (s : State) (c : CreateFields) (h : Hdr) (q : Nat) (x : SlotAt) : Bool :=
  s.chPois h.home (planeOff c (h.ext x.side) q x.slot) 1

/-- The published slots of a list: main, then side. -/
def Hdr.slots (h : Hdr) : List SlotAt :=
  (List.range h.mcount).map (fun i => ⟨false, i⟩) ++ (List.range h.scount).map (fun i => ⟨true, i⟩)

/-- Writes bytes into a channel and keeps a poisoned line poisoned (R455). -/
def State.setPlaneBit (s : State) (c : CreateFields) (h : Hdr) (q : Nat) (x : SlotAt) (on : Bool) : State :=
  let o := planeOff c (h.ext x.side) q x.slot
  s.chWrite h.home o [BitVec.ofNat 8 (putBits (fromLe (s.chRead h.home o 1)) (x.slot % 8) 1 (b2n on))]

/-- Writes a slot: sketch, entry, and the bits of every plane (R53 to R55). -/
def State.writeSlot (s : State) (c : CreateFields) (h : Hdr) (x : SlotAt) (sk vid rec_ : Nat) (tomb : Bool) (filter : Nat) : State :=
  let e := h.ext x.side
  let t := (s.chWrite h.home (skOff c e x.slot) (leBytes (skBits c.skw / 8) sk)).chWrite h.home (entOff c e x.slot)
    (leBytes 8 vid ++ leBytes 8 rec_)
  (t.setPlaneBit c h 0 x tomb).each (List.range c.planes) (fun p u => u.setPlaneBit c h (p + 1) x (bitOf filter p))

/-- The filter word of a slot. -/
def State.slotFilter (s : State) (c : CreateFields) (h : Hdr) (x : SlotAt) : Nat :=
  (List.range c.planes).foldl (fun w p => w + b2n (s.slotBit c h (p + 1) x) * 2 ^ p) 0

/-- Address of a slot in the copy areas (R67). -/
def Hdr.copyAt (h : Hdr) (c : CreateFields) (x : SlotAt) : Nat :=
  (if x.side then h.scopy else h.mcopy) + x.slot * copySlot c

/-! ## The item directory (R58 to R61) -/

/-- Hash of a vector ID (R59). -/
def vidHash (v : Nat) : Nat := crc32c (leBytes 8 v)

/-- The buckets of a probe, in order, with where the probe ends (R59): after the first bucket that holds an EMPTY entry, or 64. A poisoned
bucket does not end it (R610). -/
def State.probe (s : State) (n : Nat) (d : Desc) (v : Nat) : List Nat :=
  let home := vidHash v * d.c.dirn / 2 ^ 32
  let all := (List.range (min 64 d.c.dirn)).map (fun i => (home + i) % d.c.dirn)
  let ends := fun b => !s.bucketBad d b && (List.range 16).any (fun e => (Tbl.get dirEmpty s.idx.dir (dirKey n b e)).dst == .empty)
  match all.findIdx? ends with
  | some i => all.take (i + 1)
  | none => all

/-- The entries of buckets, in order: key and entry. A poisoned bucket gives none (R610). -/
def State.bucketEnts (s : State) (n : Nat) (d : Desc) (bs : List Nat) : List (Nat × DirEnt) :=
  (bs.filter (fun b => !s.bucketBad d b)).flatMap (fun b => (List.range 16).map (fun e =>
    (dirKey n b e, Tbl.get dirEmpty s.idx.dir (dirKey n b e))))

/-- The entries of a probe. -/
def State.probeEnts (s : State) (n : Nat) (d : Desc) (v : Nat) : List (Nat × DirEnt) := s.bucketEnts n d (s.probe n d v)

/-- Outcome of a lookup (R60, R610). -/
inductive Lookup where
  | pois
  | none_
  | found (key list : Nat) (x : SlotAt)
  deriving DecidableEq, Repr

/-- The first untombstoned slot of a list whose VID is `v`, or poison met on the way (R60, R610). -/
def State.scanFor (s : State) (c : CreateFields) (h : Hdr) (v : Nat) (xs : List SlotAt) : Option (Option SlotAt) :=
  match xs with
  | [] => some none
  | x :: r =>
    if s.entryPois c h x || s.planePois c h 0 x then none
    else if !s.slotBit c h 0 x && s.slotVid c h x == v then some (some x)
    else s.scanFor c h v r

/-- Looks an ID up among directory entries. -/
def State.lookupIn (s : State) (d : Desc) (v : Nat) (es : List (Nat × DirEnt)) : Lookup :=
  match es with
  | [] => .none_
  | e :: r =>
    if e.2.dst = .live ∧ e.2.fp = vidHash v % 256 then
      match s.hdr? e.2.list with
      | none => s.lookupIn d v r
      | some h =>
        match s.scanFor d.c h v h.slots with
        | none => .pois
        | some (some x) => .found e.1 e.2.list x
        | some none => s.lookupIn d v r
    else s.lookupIn d v r

/-- The lookup of an ID (R60): found before the first poisoned bucket that the probe visits, or decided by that bucket (R610). -/
def State.lookup (s : State) (n : Nat) (d : Desc) (v : Nat) : Lookup :=
  let bs := s.probe n d v
  if bs.any (s.bucketBad d) then
    match s.lookupIn d v (s.bucketEnts n d (bs.takeWhile (fun b => !s.bucketBad d b))) with
    | .found k l x => .found k l x
    | _ => .pois
  else s.lookupIn d v (s.bucketEnts n d bs)

/-- The first EMPTY or DELETED entry that the probe met (R61). -/
def State.dirFree (s : State) (n : Nat) (d : Desc) (v : Nat) : Option Nat :=
  ((s.probeEnts n d v).find? (fun e => e.2.dst != .live)).map (·.1)

/-- Sets a directory entry. -/
def State.setDir (s : State) (k : Nat) (e : DirEnt) : State :=
  { s with idx := { s.idx with dir := Tbl.put dirEmpty s.idx.dir k e } }

/-- Sets LIST in the directory entry of an item that moves between lists (R76, R77). -/
def State.moveDir (s : State) (n : Nat) (d : Desc) (v old new : Nat) : State :=
  match (s.probeEnts n d v).find? (fun e => e.2.dst == .live && e.2.fp == vidHash v % 256 && e.2.list == old) with
  | some e => s.setDir e.1 { e.2 with list := new }
  | none => s

/-! ## Vectors (R43, R85 to R91, R606) -/

/-- The element codes of a vector in a format. -/
def vecCodes (fmt d : Nat) (bs : List Byte) : List Nat := (List.range d).map (elemAt fmt bs)

/-- The FP32 values of FP32 data. -/
def vecF32 (d : Nat) (bs : List Byte) : List Nat := (List.range d).map (fun i => leAt bs (4 * i) 4)

/-- Bytes of a vector in a format (R43). -/
def vecBytes (fmt : Nat) (es : List Nat) : List Byte := packElems (fmtWidth fmt) es.length es

/-- The value of an element in FP32 (R91, R606). -/
def elemVal (fmt vscale e : Nat) : Nat := if fmtInt fmt then fmul (fOfInt (elemInt fmt e)) vscale else elemF32 fmt e

/-- The Euclidean norm (R606). -/
def vecNorm (vs : List Nat) : Nat := fsqrt (vs.foldl (fun z v => fadd z (fmul v v)) 0)

/-- A vector scaled to unit norm (R606). -/
def unitScale (vs : List Nat) : List Nat := let n := vecNorm vs; vs.map (fun v => fdiv v n)

/-- FP32 values on the index's grid (R90). -/
def quantise (fmt vscale : Nat) (vs : List Nat) : List Nat :=
  vs.map (fun v => (convert fmt (if fmtInt fmt then fdiv v vscale else v)).1)

/-- Distance of two vectors of an index (R86, R87), as FP32 bits. -/
def vecDist (metric fmt vscale : Nat) (q x : List Nat) : Nat :=
  let f := if fmtInt fmt then
      let z := (q.zip x).foldl (fun z e =>
        let a := elemInt fmt e.1
        let b := elemInt fmt e.2
        if metric = 2 then z + (a - b) * (a - b) else z + a * b) (0 : Int)
      fmul (fmul (fOfInt z) vscale) vscale
    else
      (q.zip x).foldl (fun z e =>
        let a := elemF32 fmt e.1
        let b := elemF32 fmt e.2
        fadd z (if metric = 2 then (let t := fsub a b; fmul t t) else fmul a b)) 0
  if metric = 0 then fneg f else if metric = 1 then fsub f32One f else f

/-- A 4-bit copy of converted elements under a row of the centroid scale vector: 0 coarse, 1 fine (R91). -/
def State.copy4 (s : State) (d : Desc) (row : Nat) (es : List Nat) : List Nat :=
  es.zipIdx.map (fun e =>
    let c := elemF32 7 (leAt (s.ilvRead (d.scaleadr + 2 * (row * d.c.dim + e.2)) 2) 0 2)
    (convert d.c.cfmt (fdiv (elemVal d.c.vfmt d.c.vscale e.1) c)).1)

/-- The 4-bit dot product and squared distance (R49, R92), as a number that orders as the distance does. -/
def dot4 (cfmt : Nat) (a b : List Nat) : Int :=
  if fmtInt cfmt then (a.zip b).foldl (fun z e => (clamp32 (z + elemInt cfmt e.1 * elemInt cfmt e.2)).1) 0
  else ((a.zip b).foldl (fun z e => fadd z (fmul (elemF32 cfmt e.1) (elemF32 cfmt e.2))) 0 : Nat)

def sq4 (cfmt : Nat) (a b : List Nat) : Int :=
  if fmtInt cfmt then (a.zip b).foldl (fun z e =>
    let t := elemInt cfmt e.1 - elemInt cfmt e.2
    (clamp32 (z + t * t)).1) 0
  else ((a.zip b).foldl (fun z e => let t := fsub (elemF32 cfmt e.1) (elemF32 cfmt e.2); fadd z (fmul t t)) 0 : Nat)

/-- The 4-bit distance of stage 3 as a number in its order (R92). -/
def dist4 (metric cfmt : Nat) (a b : List Nat) : Int :=
  if metric = 2 then (if fmtInt cfmt then sq4 cfmt a b else ford (sq4 cfmt a b).toNat)
  else if fmtInt cfmt then -(dot4 cfmt a b) else -(ford (dot4 cfmt a b).toNat)

/-- The 4-bit elements of a centroid or of a row of the projection matrix. -/
def State.row4 (s : State) (d : Desc) (adr i : Nat) : List Nat :=
  vecCodes d.c.cfmt d.c.dim (s.ilvRead (adr + i * (d.c.dim / 2)) (d.c.dim / 2))

/-- The sketch of a coarse 4-bit copy (R49). -/
def State.sketchOf (s : State) (d : Desc) (u : List Nat) : Nat :=
  (List.range (skBits d.c.skw)).foldl (fun z j =>
    let x := dot4 d.c.cfmt (s.row4 d d.projadr j) u
    let ge := if fmtInt d.c.cfmt then decide (0 ≤ x) else decide (0 ≤ ford x.toNat)
    z + b2n ge * 2 ^ j) 0

/-- Insertion sort under a strict order. -/
def insBy {α : Type} (lt : α → α → Bool) (l : List α) (x : α) : List α :=
  match l with
  | [] => [x]
  | y :: r => if lt x y then x :: y :: r else y :: insBy lt r x

def sortBy {α : Type} (lt : α → α → Bool) (l : List α) : List α := l.foldl (insBy lt) []

/-- Numbers ranked by a distance, ties to the lower number (R92, R93). -/
def rankBy (f : Nat → Int) (l : List Nat) : List Nat :=
  (sortBy (fun a b => decide (a.1 < b.1) || (a.1 == b.1 && decide (a.2 < b.2))) (l.map (fun x => (f x, x)))).map (·.2)

/-- Stage 3, coarse: the first `g` clusters (R92). -/
def State.nearCoarse (s : State) (d : Desc) (u : List Nat) (g : Nat) : List Nat :=
  (rankBy (fun k => dist4 d.c.metric d.c.cfmt u (s.row4 d d.coarseadr (k - d.coarse0))) (coarseOf d)).take g

/-- Stage 3, fine: the active lists of the open clusters by distance (R93). -/
def State.nearFine (s : State) (d : Desc) (u : List Nat) (cs : List Nat) : List Nat :=
  rankBy (fun l => dist4 d.c.metric d.c.cfmt u (s.row4 d d.fineadr (l - 64 * d.coarse0)))
    (cs.flatMap (fun k => ((List.range 64).map (· + 64 * k)).filter s.maskBit))

/-- Does stage 3 or the sketch consume a poisoned line (R26, R103)? -/
def State.stage3Pois (s : State) (d : Desc) (cs : List Nat) : Bool :=
  s.ilvPois d.scaleadr (scaleBytes d.c) || s.ilvPois d.projadr (projBytes d.c) || s.ilvPois d.coarseadr (coarseBytes d.c)
  || cs.any (fun k => s.maskBad k
      || ((List.range 64).map (· + 64 * k)).any (fun l => s.maskBit l
          && s.ilvPois (d.fineadr + (l - 64 * d.coarse0) * (d.c.dim / 2)) (d.c.dim / 2)))

/-! ## Full-vector records (R65, R66) -/

/-- A record with its CHECK. -/
def recordBytes (c : CreateFields) (vid rec_ : Nat) (normalised : Bool) (es : List Nat) : List Byte :=
  let norm := vecNorm (es.map (elemVal c.vfmt c.vscale))
  let body := padTo (recLen c - 24) (vecBytes c.vfmt es)
  let mk := fun (chk : Nat) => leBytes 8 vid ++ leBytes 2 c.dim ++ leBytes 1 c.vfmt ++ leBytes 1 (b2n normalised) ++ leBytes 4 norm
    ++ zeros 4 ++ leBytes 4 chk ++ body
  mk (checkValue (mk 0) rec_)

/-- The key of a record number in use. -/
def recKey (n r : Nat) : Nat := n * 2 ^ 48 + r

/-- A free record number: the lowest whose record lies in a unit already in the buffer, else the lowest free (R67, R191). `k`
bounds the search from `r`. -/
def State.recFrom (s : State) (n len : Nat) (inBuf : Bool) (r k : Nat) : Option Nat :=
  match k with
  | 0 => none
  | m + 1 =>
    let ok := !Tbl.has s.idx.recs (recKey n r) && (!inBuf
      || ((s.buffered n (r * len / unitSize)).isSome && (s.buffered n ((r * len + len - 1) / unitSize)).isSome))
    if ok then some r else s.recFrom n len inBuf (r + 1) m

/-- Takes a record number of an index. A free number below the count of numbers in use plus one always exists unless all are
used; the numbers in the buffer's units come first. -/
def State.recTake (s : State) (n : Nat) (c : CreateFields) : Option Nat :=
  let len := recLen c
  let used := (s.idx.recs.filter (fun e => e.1 / 2 ^ 48 == n)).length
  let inUnits := (s.flash.wbuf.filter (fun u => u.ns == n)).filterMap (fun u =>
    let r0 := u.unit * unitSize / len
    s.recFrom n len true r0 (min (unitSize / len + 2) (recSpace c - r0)))
  match inUnits with
  | r :: rs => some (rs.foldl min r)
  | [] => s.recFrom n len false 0 (min (used + 1) (recSpace c))

/-- The per-item charge of R331. -/
def itemCharge (c : CreateFields) (copy : Bool) : QuotaRec :=
  { QuotaRec.none with
    hbm := skBits c.skw / 8 + 16 + ceilDiv (1 + c.planes) 8 + (if copy then copySlot c else 0)
    flash := if c.store = 0 then recLen c else 0 }

/-- What an index charges at its creation (R331). -/
def indexCharge (c : CreateFields) : QuotaRec :=
  { QuotaRec.none with
    indexes := 1
    hbm := coarseBytes c + fineBytes c + projBytes c + scaleBytes c + 128 * 64 * c.ncoarse + 64 * c.dirn }

/-! ## The seal (R79) -/

/-- The bytes that the seal covers. The index's list headers and adjacency records are the lines of the node-wide tables for every list ID of
its clusters, the FREE ones among them (log 87). -/
def State.sealInput (s : State) (d : Desc) : List Byte :=
  descHead { d with st := .active }
  ++ (coarseOf d).flatMap (fun k => leBytes 8 (Tbl.get 0 s.idx.mask k).toNat)
  ++ ((coarseOf d).flatMap (fun k => (List.range 64).map (· + 64 * k))).flatMap (fun l =>
      s.ilvRead (hdrBase + 64 * l) 64 ++ s.ilvRead (adjBase + 64 * l) 64)
  ++ s.ilvRead d.coarseadr (coarseBytes d.c) ++ s.ilvRead d.fineadr (fineBytes d.c)

/-- The seal of an index as it stands. -/
def State.sealOf (s : State) (d : Desc) : List Byte := shake256 32 (s.sealInput d)

end Sys2Proof.Machine
end

