-- ==== Sys2Proof/Machine/Search.lean ====
section
/-! DEFINITION. What a SEARCH computes (R24). Stages 2 and 3 run as its step starts; each probed list is read, once, when the slot that scans it
starts in its home channel, or at the end of the step (R25, R69; log 26); the other stages run at the end of the step's first run. The
result is a record (R112) with the list generations that its scans read (R73). -/

namespace Sys2Proof.Machine

/-! ## The body (R80) -/

def bTenant (b : List Byte) : Nat := leAt b 0 2
def bIndex (b : List Byte) : Nat := leAt b 2 2
def bK (b : List Byte) : Nat := leAt b 4 2
def bNprobe (b : List Byte) : Nat := leAt b 6 2
def bCand (b : List Byte) : Nat := leAt b 8 2
def bCprobe (b : List Byte) : Nat := leAt b 0x0A 1
def bWiden (b : List Byte) : Nat := leAt b 0x0B 1
def bQfmt (b : List Byte) : Nat := leAt b 0x0C 1
def bFmode (b : List Byte) : Nat := leAt b 0x0D 1
def bSflags (b : List Byte) : Nat := leAt b 0x0E 1
def bFmask (b : List Byte) : Nat := leAt b 0x10 8
def bRrn (b : List Byte) : Nat := leAt b 0x18 2
def bEplan (b : List Byte) : Nat := leAt b 0x20 4
def bRplan (b : List Byte) : Nat := leAt b 0x24 4
def bQlen (b : List Byte) : Nat := leAt b 0x28 4
def bQdata (b : List Byte) : List Byte := (b.drop 0x30).take (bQlen b)

/-! ## Stage 2 -/

/-- The query on the index's grid (R90), or a failure of an ENCODE plan's output. -/
def queryCodes (d : Desc) (b : List Byte) : Option (List Nat) :=
  let c := d.c
  let grid := fun (vs : List Nat) => quantise c.vfmt c.vscale (if c.metric = 1 then unitScale vs else vs)
  if bQfmt b = 1 then some (vecCodes c.vfmt c.dim (bQdata b))
  else if bQfmt b = 0 then some (grid (vecF32 c.dim (bQdata b)))
  else
    let vs := Config.encodeOutput (bEplan b) (bQdata b) c.dim
    let ws := (List.range c.dim).map (fun i => vs.getD i 0 % 2 ^ 32)
    if ws.all isFinite then some (grid ws) else none

/-! ## Stage 4 -/

/-- The order of R108 on Hamming distance and order key. -/
def candLt (a b : Cand) : Bool := decide (a.ham < b.ham) || (a.ham == b.ham && decide (a.okey < b.okey))

/-- POS of an order key (R107). -/
def posKey (x : SlotAt) : Nat := if x.side then 0x100000 + x.slot else x.slot

/-- Does a slot pass the filter of R82? -/
def State.passes (s : State) (c : CreateFields) (h : Hdr) (fmode fmask : Nat) (x : SlotAt) : Bool :=
  !s.slotBit c h 0 x
  && (if fmode = 0 then true
      else
        let bs := (maskBits 64 fmask).map (fun p => s.slotBit c h (p + 1) x)
        if fmode = 1 then bs.all id else bs.any id)

/-- Is the pass word of a slot poisoned: by the tombstone line, or by a filter line that the scan reads (R96, R150; log 27)? -/
def State.passPois (s : State) (c : CreateFields) (h : Hdr) (fmode fmask : Nat) (x : SlotAt) : Bool :=
  s.planePois c h 0 x || (fmode != 0 && (maskBits 64 fmask).any (fun p => s.planePois c h (p + 1) x))

/-- The scan of one list under a rank (R94 to R96): `q` is the number of positions of the lease. A slot is dropped and counted where its pass
word is poisoned, where it passes and its sketch is (R150), and where it is among the 32 held and its entry is (R134). A list whose header
is poisoned adds nothing; it stays in the frontier of a widening (log 108). -/
def State.scanList (s : State) (d : Desc) (b : List Byte) (sk q : Nat) (z : Scan) (rank list : Nat) : Scan :=
  match s.hdr? list with
  | none => { z with lists := z.lists ++ [(list, rank)] }
  | some h =>
    let c := d.c
    if s.hdrBad list then { z with lists := z.lists ++ [(list, rank)] }
    else
      let fm := bFmode b
      let fk := bFmask b
      let bad1 := h.slots.filter (s.passPois c h fm fk)
      let pass := h.slots.filter (fun x => !s.passPois c h fm fk x && s.passes c h fm fk x)
      let bad2 := pass.filter (s.sketchPois c h)
      let ok := pass.filter (fun x => !s.sketchPois c h x)
      let cs := ok.map (fun x =>
        (⟨popcount (skBits c.skw) (sk ^^^ s.slotSketch c h x),
          s.nodeNum * 2 ^ 48 + rank % q * 2 ^ 40 + rank * 2 ^ 24 + posKey x,
          s.slotVid c h x, s.slotRec c h x, list, h, x⟩ : Cand))
      let held := (sortBy candLt cs).take 32
      let good := held.filter (fun e => !s.entryPois c h e.at_)
      { z with lists := z.lists ++ [(list, rank)], gens := z.gens ++ [(list, h.gen)],
               cands := z.cands ++ good, poisoned := z.poisoned + bad1.length + bad2.length + (held.length - good.length),
               passed := z.passed + ok.length }

/-- How a list resolves (R71): the list to scan, nothing, or a skipped edge. -/
inductive Resolved where
  | list (n : Nat)
  | nothing
  | skip
  deriving DecidableEq, Repr

/-- The resolution of list `n` for a query that has scanned `seen` (R70, R71). A poisoned header is met when it is scanned
(R96). -/
def State.resolveList (s : State) (d : Desc) (seen : List Nat) (n : Nat) : Resolved :=
  if s.hdrBad n then .list n
  else
    match s.hdr? n with
    | none => .skip
    | some h =>
      if h.st = .active then .list n
      else if h.st = .forward ∧ (d.epoch + 65536 - h.fepoch) % 65536 ≤ 1 then
        if (s.hdr? h.succ).any (fun g => g.st == .active) && !seen.contains h.succ then .list h.succ else .nothing
      else .skip

/-- The scan of a probed list as it resolves then (R71, R94): its rank is its place in the ranking, and a list that gives nothing keeps its
rank. -/
def State.scanOne (s : State) (d : Desc) (b : List Byte) (sk q : Nat) (z : Scan) (e : Nat × Nat) : Scan :=
  match s.resolveList d (z.lists.map (·.1)) e.1 with
  | .list n => s.scanList d b sk q z e.2 n
  | .nothing => z
  | .skip => { z with skipped := z.skipped + 1 }

/-- Does the slot of a lease whose first address register names `row` of channel `ch` scan a list: is it the first row of its main or side
extent, in its home channel? -/
def State.scansAt (s : State) (d : Desc) (z : Scan) (ch row : Nat) (e : Nat × Nat) : Bool :=
  match s.resolveList d (z.lists.map (·.1)) e.1 with
  | .list n => (s.hdr? n).any (fun h => h.home == ch && (h.mbase == row || h.sbase == row))
  | _ => false

/-! ## Stage 5 (R97 to R100) -/

/-- Keeps the first of entries with equal vector ID in a sorted list (R109). -/
def dedupCands (l : List Cand) : List Cand :=
  l.foldl (fun out c => if out.any (fun x => x.vid == c.vid) then out else out ++ [c]) []

/-- The candidate set (R97). -/
def candSet (z : Scan) (c : Nat) : List Cand := (dedupCands (sortBy candLt z.cands)).take c

/-- The place of FP16 bits in the order of R99: a NaN after every number, −0 equal to +0. -/
def ndOrd (x : Nat) : Int := let f := elemF32 7 x; if isNan f then 2 ^ 40 else ford f

/-- The new lists of a widening level (R99) with the counts of skipped edges and poisoned adjacency records. -/
def State.widenLists (s : State) (d : Desc) (z : Scan) (frontier : List (Nat × Nat)) (nprobe : Nat) : List Nat × Nat × Nat :=
  let seen := z.lists.map (·.1)
  let r := frontier.foldl (fun (y : List (Int × Nat × Nat × Nat) × Nat × Nat) a =>
    if s.adjBad a.1 then (y.1, y.2.1, y.2.2 + 1)
    else
      match Tbl.find s.idx.adj a.1 with
      | none => y
      | some adj =>
        adj.nbs.zipIdx.foldl (fun (w : List (Int × Nat × Nat × Nat) × Nat × Nat) e =>
          match s.resolveList d seen e.1.1 with
          | .skip => (w.1, w.2.1 + 1, w.2.2)
          | .nothing => w
          | .list n =>
            if seen.contains n || w.1.any (fun x => x.2.2.2 == n) then w
            else (w.1 ++ [(ndOrd e.1.2, a.2, e.2, n)], w.2.1, w.2.2)) y) ([], 0, 0)
  let lt := fun (p q : Int × Nat × Nat × Nat) =>
    decide (p.1 < q.1) || (p.1 == q.1 && (decide (p.2.1 < q.2.1) || (p.2.1 == q.2.1 && decide (p.2.2.1 < q.2.2.1))))
  (((sortBy lt r.1).take nprobe).map (fun x => x.2.2.2), r.2.1, r.2.2)

/-- Widens up to `n` levels while the set is smaller than k (R98, R99): the scan, and levels run. `next` is the first rank not
in use. -/
def State.widen (s : State) (d : Desc) (b : List Byte) (sk q : Nat) (n next : Nat) (z : Scan) (frontier : List (Nat × Nat))
    (level : Nat) : Scan × Nat :=
  match n with
  | 0 => (z, level)
  | m + 1 =>
    if bK b ≤ (candSet z (bCand b)).length then (z, level)
    else
      let w := s.widenLists d z frontier (bNprobe b)
      let z1 := { z with skipped := z.skipped + w.2.1, poisoned := z.poisoned + w.2.2 }
      let z2 := w.1.zipIdx.foldl (fun (y : Scan) e => s.scanList d b sk q y (next + e.2) e.1) z1
      s.widen d b sk q m (next + w.1.length) z2 (z2.lists.drop z1.lists.length) (level + 1)

/-! ## Stage 6 (R101 to R104) -/

/-- The elements of a candidate's full vector, from its copy slot or from its record (R67, R101, R102); none for a poisoned candidate. -/
def State.candVector (s : State) (c : CreateFields) (errs : List ReadErr) (x : Cand) : State × Option (List Byte) :=
  let n := ceilDiv (c.dim * fmtWidth c.vfmt) 8
  if x.hdr.copy then
    let a := x.hdr.copyAt c x.at_
    (s, if s.ilvPois a n then none else some (s.ilvRead a n))
  else
    let r := s.recRead c.index (x.rec_ * recLen c) (recLen c) x.rec_ errs
    (r.1, if r.2.2 || !recordGood r.2.1 x.rec_ x.vid c.dim c.vfmt then none else some ((r.2.1.drop 24).take n))

/-- Reads the full vectors of candidates in order. -/
def State.candVectors (s : State) (c : CreateFields) (errs : List ReadErr) (xs : List Cand) : State × List (Cand × Option (List Byte)) :=
  xs.foldl (fun z x => let r := z.1.candVector c errs x; (r.1, z.2 ++ [(x, r.2)])) (s, [])

/-- A candidate as a result entry under a distance; `rec_` is its record number. -/
def candEntry (x : Cand) (dist : Nat) : TkEntry := ⟨dist, x.okey, x.vid, x.list + b2n x.at_.side * 2 ^ 31, x.rec_⟩

/-! ## Stages 7 and 8 (R106 to R110) -/

/-- Entries with numbers for distances in selection order, one of each vector ID (R108, R109). -/
def selectOrder (es : List TkEntry) : List TkEntry :=
  (sortBy (tkLt false) (es.filter (fun e => !isNan e.dist))).foldl
    (fun out e => if out.any (fun x => x.vid == e.vid) then out else out ++ [e]) []

/-- The selection of R110: entries, whether the status is SHORT, TIE_AT_K, TIES. -/
def select (k : Nat) (es : List TkEntry) : List TkEntry × Bool × Nat :=
  let v := selectOrder es
  let out := v.take k
  let ties := match out.getLast? with
    | some w => ((v.drop k).filter (fun e => tkEq e.dist w.dist)).length
    | none => 0
  (out, decide (v.length < k), min ties 0xFFFF)

/-- Does the search consume a poisoned line in its own arithmetic (R103)? -/
def State.queryPois (s : State) (d : Desc) (u : List Nat) (g : Nat) : Bool := s.stage3Pois d (s.nearCoarse d u g)

/-- Clusters to open (R92). -/
def openClusters (d : Desc) (cprobe nprobe : Nat) : Nat :=
  if cprobe = 0 then min d.c.ncoarse (min 255 (max 1 (ceilDiv nprobe 4))) else min cprobe d.c.ncoarse

/-- The query of a SEARCH as stages 2 and 3 make it: its codes, its sketch, and the lists it probes, or the status that fails it (R90 to R93,
R103). -/
def State.searchStart (s : State) (d : Desc) (b : List Byte) : Except Status (List Nat × Nat × List Nat) :=
  match queryCodes d b with
  | none => .error .badArg
  | some qc =>
    let cc := s.copy4 d 0 qc
    let g := openClusters d (bCprobe b) (bNprobe b)
    if s.descBad d.c.index || s.queryPois d cc g then .error .poison
    else .ok (qc, s.sketchOf d cc, (s.nearFine d (s.copy4 d 1 qc) (s.nearCoarse d cc g)).take (bNprobe b))

/-- Stages 4 to 8 at the end of a step: the lists not scanned yet, widening, exact distances, re-ranking, selection. `wl` is the plan's
widening limit. -/
def State.searchEnd (s : State) (d : Desc) (r : Req) (k : Look) (tag q wl : Nat) (errs : List ReadErr) : State × SearchRec × Scan :=
  let b := r.body
  let qc := (queryCodes d b).getD []
  let sk := s.sketchOf d (s.copy4 d 0 qc)
  let z0 := k.todo.foldl (s.scanOne d b sk q) k.scan
  let w := s.widen d b sk q (min (bWiden b) wl) k.next z0 (sortBy (fun x y => decide (x.2 < y.2)) z0.lists) 0
  let z := w.1
  let cs := candSet z (bCand b)
  let ham := d.c.metric == 3
  let rer := bitOf (bSflags b) 0
  let v := if ham && !rer then (s, cs.map (fun x => (x, some []))) else
    s.candVectors d.c errs (if ham then cs.take (bRrn b) else cs)
  let dist := fun (x : Cand) (bs : List Byte) =>
    if ham then fOfInt x.ham else vecDist d.c.metric d.c.vfmt d.c.vscale qc (vecCodes d.c.vfmt d.c.dim bs)
  let lost := (v.2.filter (fun e => e.2.isNone)).length
  let live := v.2.filterMap (fun e => e.2.map (fun bs => (candEntry e.1 (dist e.1 bs), bs)))
  let nan6 := (live.filter (fun e => isNan e.1.dist)).length
  let ents := if rer then
      let top := (sortBy (fun a c => tkLt false a.1 c.1) (live.filter (fun e => !isNan e.1.dist))).take (bRrn b)
      top.map (fun e => { e.1 with dist := Config.rerankScore (bRplan b) (bQdata b) e.1.vid e.1.dist e.2 % 2 ^ 32 })
    else live.map (·.1)
  let nans := if rer then nan6 + (ents.filter (fun e => isNan e.dist)).length else nan6
  let sel := select (bK b) ents
  (v.1, { status := if sel.2.1 then .short else .ok, tieAtK := decide (0 < sel.2.2), widened := decide (0 < w.2),
          reranked := rer, partial_ := false, k := bK b, ties := sel.2.2, index := r.index, tenant := r.tenant,
          epoch := r.epoch, wlevel := w.2, failed := 0, lists := z.lists.length, poisoned := z.poisoned + lost, nans := nans,
          skipped := z.skipped, passed := z.passed, cands := cs.length, steptag := tag, qtag := srcTag r.src,
          entries := sel.1 }, z)

/-! ## Over a step -/

/-- A failed SEARCH's record. -/
def Req.failRec (r : Req) (st : Status) (tag : Nat) : SearchRec := SearchRec.fail st (bK r.body) r.index r.tenant r.epoch tag (srcTag r.src)

/-- Has the query of a SEARCH a poisoned line, in the staging buffer that its bulk came into (R103)? -/
def State.bulkPois (s : State) (src : ReqSrc) : Bool :=
  match src with
  | .conn m => s.fab.staging.any (fun e => e.2.owner == some (m.dconn, m.seq) && e.2.pois)
  | .queue _ => false

/-- Stages 2 and 3 of a request as its step starts; one that fails has its record then (R103, R115). -/
def State.runSearch (s : State) (l tag id : Nat) : State :=
  match s.req? id with
  | none => s
  | some r =>
    if r.op ≠ .search then s.modReq id (fun r => { r with st := .running })
    else
      match s.desc? r.index with
      | none => s.modReq id (fun r => { r with st := .running, result := some (r.failRec .notFound tag) })
      | some d =>
        match (if s.bulkPois r.src then (queryCodes d r.body).elim (.error .badArg) (fun _ => .error .poison) else s.searchStart d r.body) with
        | .ok z => s.modReq id (fun r => { r with st := .running, look := some ⟨z.2.2.zipIdx, z.2.2.length, ⟨[], [], [], 0, 0, 0⟩⟩ })
        | .error st =>
          let t := s.modReq id (fun r => { r with st := .running, result := some (r.failRec st tag) })
          if st = .poison then (t.count kChkPoisonuse 1).cper { t.leaseReport l 0x0109 0 locNode [] with steptag := tag } else t

/-- A slot of a lease starts in a channel: the lists that it scans are read for the queries of the lease's step (R25, R69). -/
def State.scanSlot (s : State) (l ch row : Nat) : State :=
  match s.lease? l with
  | none => s
  | some x =>
    s.each ((x.step.map (·.reqs)).getD []) (fun id t =>
      match t.req? id with
      | none => t
      | some r =>
        match r.look, t.desc? r.index with
        | some k, some d =>
          let sk := t.sketchOf d (t.copy4 d 0 ((queryCodes d r.body).getD []))
          let now := k.todo.filter (t.scansAt d k.scan ch row)
          let z := now.foldl (t.scanOne d r.body sk x.cores.length) k.scan
          t.modReq id (fun r => { r with look := some { k with todo := k.todo.filter (fun e => !now.contains e), scan := z }, gens := z.gens })
        | _, _ => t)

/-- The searches of a step end with its first run: records, generations read, skipped edges (R71, R73). -/
def State.endSearches (s : State) (l tag q wl : Nat) : State :=
  match (s.lease? l).bind (·.step) with
  | none => s
  | some p =>
    s.each p.reqs (fun id t =>
      match t.req? id with
      | none => t
      | some r =>
        match r.look, t.desc? r.index with
        | some k, some d =>
          let z := t.searchEnd d r k tag q wl p.errs
          (z.1.modReq id (fun r => { r with look := none, result := some z.2.1, gens := z.2.2.gens })).modDesc r.index
            (fun d => { d with skipedge := satAdd 32 d.skipedge z.2.2.skipped })
        | some _, none => t.modReq id (fun r => { r with look := none, result := some (r.failRec .notFound tag) })
        | none, _ => t)

end Sys2Proof.Machine
end

