-- ==== Sys2Proof/Machine/StepOps.lean ====
section
/-! DEFINITION. Shared operations on steps: moving a position (R304), starting a run (R280, R283, R302), the medlar decision
(R457 to R459), the standing of a result (R281, R348, R431 to R433). -/

namespace Sys2Proof.Machine

/-! ## Marks of a core (R459) -/

/-- A report on a core with the work it affected (R468, R469). -/
def State.coreReport (s : State) (l code sev array core tag : Nat) : Report :=
  { s.leaseReport l code sev (locCore array core tag) [] with uaddr := s.unitAddr 0 core array }

/-- Quarantines a core. More than 8 of them raise REPLACE (R463). -/
def State.quarantine (s : State) (l core : Nat) : State :=
  if s.flag (fCoreStateQuar core) then s
  else
    let n := s.fld fChkReplaceQuarcnt + 1
    let t := (((s.setFld (fCoreStateQuar core) 1).setFld fChkReplaceQuarcnt (min n 255)).event (eCore core) 3).raise eChk 0
      (s.coreReport l 0x0105 0 0 core 0)
    if 8 < n then t.replace 1 else t

/-- Marks a core SUSPECT. -/
def State.suspect (s : State) (l core : Nat) : State :=
  if s.flag (fCoreStateSuspect core) then s
  else
    (((s.setFld (fCoreStateSuspect core) 1).setFld fChkReplaceSuspcnt (min (s.fld fChkReplaceSuspcnt + 1) 255)).event
      (eCore core) 4).raise eChk 1 (s.coreReport l 0x0106 0 0 core 0)

/-- Records a compute fault on a core, and quarantines it at QUARN within QWIN of its steps. -/
def State.compFault (s : State) (l core array tag : Nat) : State :=
  let w := 0 :: (Tbl.get [] s.comp.compWin core).filter (fun a => decide (a < s.fld fChkCtlQwin))
  let t := (({ s with comp := { s.comp with compWin := Tbl.put [] s.comp.compWin core w } }).count kChkCompfault 1).cper
    (s.coreReport l 0x0103 2 array core tag)
  if s.fld fChkCtlQuarn ≤ w.length then t.quarantine l core else t

/-- Records a checker fault on a core, and marks it SUSPECT at QUARN within QWIN of its steps. -/
def State.checkerFault (s : State) (l core array tag : Nat) : State :=
  let w := 0 :: (Tbl.get [] s.comp.chkWin core).filter (fun a => decide (a < s.fld fChkCtlQwin))
  let t := (({ s with comp := { s.comp with chkWin := Tbl.put [] s.comp.chkWin core w } }).count kChkChkfault 1).cper
    (s.coreReport l 0x0102 2 array core tag)
  if s.fld fChkCtlQuarn ≤ w.length then t.suspect l core else t

/-- One more step runs on a core: the ages of its faults advance. -/
def State.ageCore (s : State) (core : Nat) : State :=
  { s with comp := { s.comp with compWin := Tbl.modify s.comp.compWin core (·.map (· + 1)),
                                 chkWin := Tbl.modify s.comp.chkWin core (·.map (· + 1)) } }

/-! ## Moving a position (R304) -/

/-- The lowest healthy free core to which a position may move under DIES: the die of its lease for ONE, its own die for HALVES. -/
def State.spareCore (s : State) (dies a : Nat) : Option Nat :=
  let half := s.hw.variant.cores / 2
  (List.range s.hw.variant.cores).find? (fun c => s.coreFree c && (dies == 0 || decide (c < half) == decide (a < half)))

/-- Moves a position to another core with its resident lines and its running maxima (R283, R304). The old core is cleared. -/
def State.movePos (s : State) (l : Nat) (x : Lease) (reslines pos b : Nat) : State :=
  let a := x.cores.getD pos 0
  let ka := coreKey a 0 / 64
  let kb := coreKey b 0 / 64
  let lines := List.range reslines
  let t := s.storeWrite b 0 (s.storeRead a 0 (64 * reslines))
  let u := t.storePoisonLines ((lines.filter (fun i => Tbl.get false s.mem.storePoison (ka + i))).map (· + kb))
  let v := u.each lines (fun i w => w.storeFill b (64 * i) 64 (Tbl.get false s.mem.storeFilled (ka + i)))
  let w := ((v.ballastYield [b]).setFld (fCoreStateLease b) l).setCore b
    { coreReset with rm := (s.core a).rm, curSlot := (s.core a).curSlot }
  ((((w.clearStore a).setFld (fCoreStateLease a) 0xFFFF).setFld (fCoreStateHold a) 0).setFld (fCoreStateFrozen a) 0).setCore a
      { (w.core a) with sel := none, fills := [], waiting := [], lastDrain := none } |>.modLease l (fun y =>
        { y with cores := setAt y.cores pos b })

/-! ## Runs -/

/-- Resident lines keep their fill bits; every other line of a position is EMPTY as a run starts (R247). -/
def State.emptyLines (s : State) (reslines : Nat) (cores : List Nat) : State :=
  { s with mem := { s.mem with storeFilled := Tbl.drop s.mem.storeFilled (fun k =>
      cores.contains (k / 2 ^ 15) && decide (reslines ≤ k % 2 ^ 15)) } }

/-- Has every home of the DIST tables that a plan declares applied the rows of the step before (R349)? A plan that declares none waits for
no home; outside a group the node's own rows have been applied. -/
def State.homesApplied (s : State) (h : PlanHdr) : Bool :=
  (h.tablesRd ++ h.tablesWr).all (fun t =>
    match Tbl.find s.tables.descs t with
    | some d => !bitOf d.tflags 0 || (d.nodes.take d.nnodes).all (fun n => s.cas.appliedFrom.contains n || (s.role == 0 && n == s.nodeNum))
    | none => true)

/-- The lines of a running step's barrier rendezvous are FILLED once every home has applied (R307, R349). -/
def State.fillBarrier (s : State) (l : Nat) : State :=
  match s.lease? l with
  | none => s
  | some x =>
    match x.step, s.plan? x.plan with
    | some p, some pl =>
      let rs := (rdvTab pl.hdr p.resident).filter (fun e => e.src == 7 && decide (e.pos < x.cores.length) && decide (e.line < 2 ^ 15))
      if s.homesApplied pl.hdr then s.each rs (fun e t => t.storeFill (x.cores.getD e.pos 0) (64 * e.line) 64 true) else s
    | _, _ => s

/-- A core as a run begins: nothing outstanding, the tile count at zero. -/
def Core.begin (c : Core) (f : RmSlot → RmSlot) : Core :=
  { c with rm := c.rm.map (fun e => (e.1, f e.2)), lastDrain := none, tileNo := 0, sel := none, fills := [], waiting := [],
           feedUntil := 0 }

/-- Removes a lease's bramble contexts (R301). -/
def State.clearContexts (s : State) (x : Lease) (h : PlanHdr) : State :=
  let mine := fun (k : Nat) =>
    let i := unitStage (k / 4)
    let b := x.ctxBase.getD i 0
    decide (b ≤ k % 4) && decide (k % 4 < b + bits h.brmctx (4 * i) 4)
  { s with comp := { s.comp with brm := Tbl.drop s.comp.brm mine } }

/-- Starts a later run of the running step (R457): staged rows, checks, branches, selectors and contexts of the run before are gone
(R252, R253), and the maxima of the second run are put aside (R281). -/
def State.rerun (s : State) (l : Nat) (h : PlanHdr) (run : Nat) : State :=
  match s.lease? l with
  | none => s
  | some x =>
    let t := (((s.dropReads x.cores).emptyLines h.reslines x.cores).clearContexts x h).each x.cores (fun c u =>
      (u.setCore c ((u.core c).begin RmSlot.again)).setReg64 (coreBase c + 0x20) 0)
    (t.modStep l (fun p => { p with run := run, prevFails := p.fails, fails := [], third := [], staged := [], arms := [], waitB := [],
                                    rdvDone := [], rdvFroze := [], wasHeld := false,
                                    rm2 := if run = 3 then x.cores.map (fun c => rmMaxima (s.core c).rm) else p.rm2 })).fillBarrier l

/-! ## Energy admission (R478, R487, R497) -/

/-- Does the planner admit a figure now? Energies are in µJ per window. -/
def State.admits (s : State) (figure : Nat) : Bool :=
  s.fld fNrgStatePstate == 0 && !s.pwr.vwarn && s.pwr.refclk
  && decide (16 * (s.nrg.eplan + figure) ≤ 15 * s.nrg.pcap)

/-- Leases whose cores run a step. -/
def State.runningLeases (s : State) : List (Nat × Lease) := s.work.leases.filter (fun e => e.2.step.isSome)

/-! ## Provisional records (R431 to R433) -/

/-- Sends the provisional records of a step and keeps its replay state. -/
def State.sendProv (s : State) (l : Nat) (x : Lease) (p : Step) : State :=
  let rs := (p.reqs.filterMap s.req?).filter s.provReq
  match rs with
  | [] => s
  | r0 :: _ =>
    let conn := match r0.src with | .conn m => m.dconn | .queue _ => 0
    let t := rs.foldl (fun (u : State) r =>
      match r.src, r.result with
      | .conn m, some z => (u.replyTo m z.status (z.bytes true)).count kCasProvsent 1
      | _, _ => u) s
    let pr : Prov := { steptag := s.stepTag l p.seq, lease := l, conn := conn, step := p, reqs := rs,
                       rm := x.cores.map (fun c => (s.core c).rm), verdict := none, replay := false }
    ({ t with cas := { t.cas with provs := t.cas.provs ++ [pr] } }).modStep l (fun q => { q with provSent := true })

/-! ## Replays at a member (R283, R431, R434) -/

/-- Starts the replay of a step on its lease (R283, R312, R434): its requests are there again, and the cores find the running maxima
that the step found. -/
def State.startReplay (s : State) (q : Prov) : State :=
  match s.lease? q.lease with
  | none => s
  | some x =>
    let h := (s.plan? x.plan).map (·.hdr.reslines)
    let a : State := { s with work := { s.work with reqs := s.work.reqs ++ q.reqs },
                              cas := { s.cas with provs := s.cas.provs.map (fun (r : Prov) => if r.steptag = q.steptag then
                                { r with replay := false, rm := x.cores.map (fun c => (s.core c).rm) } else r) } }
    let b := (a.emptyLines (h.getD 0) x.cores).each (x.cores.zip q.rm) (fun e t =>
      (t.setCore e.1 { ((t.core e.1).begin RmSlot.again) with rm := e.2.map (fun k => (k.1, k.2.again)) }).setReg64 (coreBase e.1 + 0x20) 0)
    ((b.modLease q.lease (fun y => { y with step := some { q.step with
      run := 1, reqs := q.reqs.map (·.id), ended := false, status := .ok, fails := [], prevFails := [], third := [], waitB := [],
      runsAdv := 0, advRun2 := 0, frz := 0, meas := none, staged := [], before := [], arms := [], rdvDone := [], rdvFroze := [],
      wasHeld := false, rm2 := [], rmax := [], replayed := true } })).fillBarrier q.lease).count kCasReplays 1

/-- Starts a replay that waits for its lease. -/
def State.replayWaiting (s : State) (l : Nat) : State :=
  match s.cas.provs.find? (fun q => q.lease == l && q.replay), s.lease? l with
  | some q, some x => if x.step.isNone && x.past.isEmpty then s.startReplay q else s
  | _, _ => s

/-! ## The end of a step whose result stands -/

/-- Writes the step record and the progress of a step whose decision is final; the step waits for RESULT_STANDS (R281, R457,
R461). `second` says that the second run's result stands though a third ran; `keep` that the first run's result stands. -/
def State.stepFinal (s : State) (l : Nat) (m : Meas) (second keep : Bool) : State :=
  match s.lease? l with
  | none => s
  | some x =>
    match x.step with
    | none => s
    | some p =>
      let commit := if second then p.advRun2 else measAdv m
      let replay := if second then p.runsAdv + measAdv m - p.advRun2 else p.runsAdv
      let rmax := if second then p.rm2 else x.cores.map (fun c => rmMaxima (s.core c).rm)
      let a := (s.coreCycles x.cores m).haltCores x.cores
      let b := a.progress x.owner commit replay 0 (p.frz + measFrozen m)
      let c := b.recordStep l .ok m 0xFFFFFFFF
      let tag := s.stepTag l p.seq
      let d := if p.provSent && !p.replayed then c.sendVerdict tag keep else c
      (d.unhold l).modLease l (fun y =>
        { y with step := none, frozen := false, past := y.past ++ [{ p with ended := true, rmax := rmax }] })

/-- The failing tiles of a run, by position and tile (R457). -/
def tileKeys (l : List TileFail) : List (Nat × Nat) :=
  (distinctOf (l.map (fun f => f.pos * 2 ^ 40 + f.tile))).map (fun e => (e.1 / 2 ^ 40, e.1 % 2 ^ 40))

/-- Verdict of a tile after the third run (R457). -/
inductive TileVerdict where
  | checker (onB : Bool)
  | compute
  | unresolved
  deriving DecidableEq, Repr

/-- Compares the arrays of a tile that failed in the second run with the third run (R457). -/
def tileVerdict (tol : Nat) (as third : List TileFail) : TileVerdict :=
  let rs := as.map (fun f => (f, third.find? (fun g => g.pos == f.pos && g.tile == f.tile && g.array == f.array)))
  if rs.any (fun r => r.2.isNone) then .unresolved
  else if rs.all (fun r => r.2.any (fun g => g.accs == r.1.accs)) then .checker (rs.any (fun r => r.2.any (fun g => !g.pass)))
  else if rs.all (fun r => r.2.any (fun g => (medlar r.1.fmt tol g.accs g.skip r.1.cells).1)) then .compute
  else .unresolved

/-- The decision after the third run: verdicts of every tile, and failures of the third run elsewhere, which nothing resolves
(log 28). -/
def State.thirdRun (s : State) (l : Nat) (x : Lease) (p : Step) (m : Meas) : State :=
  let tol := fun (f : TileFail) => s.fld (fCoreCtlChktol f.core)
  let vs := (tileKeys p.prevFails).map (fun k =>
    let as := p.prevFails.filter (fun f => f.pos == k.1 && f.tile == k.2)
    (as.headD ⟨0, 0, 0, 0, 0, 0, false, [], [], []⟩, tileVerdict (as.head?.elim 0 tol) as p.third))
  let stray := p.fails.filter (fun f => !p.prevFails.any (fun g => g.pos == f.pos && g.tile == f.tile))
  if !stray.isEmpty || vs.any (fun v => v.2 == .unresolved) then
    let t := vs.foldl (fun (u : State) v =>
      if v.2 = .unresolved then (u.suspect l v.1.core).suspect l (x.cores.getD v.1.pos 0) else u) s
    let u := stray.foldl (fun (u : State) f => u.suspect l f.core) t
    u.abortStep l .checkFail 0xFFFFFFFF m
  else
    let t := vs.foldl (fun (u : State) v =>
      match v.2 with
      | .checker onB =>
        let w := u.checkerFault l v.1.core v.1.array v.1.tag
        if onB then w.checkerFault l (x.cores.getD v.1.pos 0) v.1.array v.1.tag else w
      | _ => u.compFault l v.1.core v.1.array v.1.tag) s
    let keep := vs.all (fun v => v.2 != .compute)
    t.stepFinal l m keep keep

/-- Moves the positions that wait for a core B, as far as healthy free cores reach, and starts the third run when none waits
(R457, R458). -/
def State.tryThird (s : State) (l : Nat) : State :=
  match s.lease? l with
  | none => s
  | some x =>
    match x.step, s.plan? x.plan with
    | some p, some pl =>
      if p.waitB.isEmpty then s
      else
        let t := p.waitB.foldl (fun (u : State) pos =>
          match u.lease? l with
          | none => u
          | some y =>
            match u.spareCore pl.hdr.dies (y.cores.getD pos 0) with
            | none => u
            | some b =>
              (u.movePos l y pl.hdr.reslines pos b).modStep l (fun q => { q with waitB := q.waitB.filter (fun w => w != pos) })) s
        if (t.lease? l).any (fun y => y.step.any (fun q => q.waitB.isEmpty)) then t.rerun l pl.hdr 3 else t
    | _, _ => s

/-- The end of a run (R457). The searches of the step end with its first run. -/
def State.runEnd (s0 : State) (l : Nat) (x : Lease) (p : Step) (m : Meas) (h : PlanHdr) : State :=
  let s := if p.run = 1 && p.status == .ok then s0.endSearches l (s0.stepTag l p.seq) x.cores.length h.widenmax else s0
  let more := fun (u : State) => u.modStep l (fun y =>
    { y with runsAdv := y.runsAdv + measAdv m, frz := y.frz + measFrozen m, meas := some m,
             advRun2 := if y.run = 2 then measAdv m else y.advRun2 })
  if p.status ≠ .ok then
    s.abortStep l p.status 0xFFFFFFFF m
  else if p.run = 3 then s.thirdRun l x p m
  else if p.fails.isEmpty then
    if p.run = 1 then (s.sendProv l x p).stepFinal l m false true
    else
      let cores := distinctOf (p.prevFails.map (·.core))
      let t := cores.foldl (fun (u : State) c =>
        let f := (p.prevFails.find? (fun f => f.core == c.1)).getD ⟨0, 0, 0, 0, 0, 0, false, [], [], []⟩
        (u.count kChkTransient 1).cper (u.coreReport l 0x0101 2 f.array c.1 f.tag)) s
      t.stepFinal l m false false
  else if p.run = 1 then ((more ((s.sendProv l x p).coreCycles x.cores m))).rerun l h 2
  else
    let pos := (distinctOf (p.fails.map (·.pos))).map (·.1)
    ((more (s.coreCycles x.cores m)).modStep l (fun y => { y with waitB := pos })).tryThird l

/-! ## A result stands (R281) -/

/-- Writes the staged rows of a step whose home is this node, and forwards the others with a FLUSH each (R347, R348). Rows of a
DIST table at a group member wait for the barrier (log 29). -/
def State.applyScatters (s : State) (l : Nat) (p : Step) : State :=
  let tag := s.stepTag l p.seq
  (stagedRows p.staged).foldl (fun (t : State) tr =>
    match Tbl.find t.tables.descs tr.1 with
    | none => t
    | some d =>
      let ins := inputsOf p.staged tr.1 tr.2
      let home := (rowHome d t.nodeNum tr.2).1
      let base := if home = t.nodeNum then t.rowAt d tr.2
        else ((ins.head?.bind (·.base)).getD ⟨tr.1, tr.2, zeros d.rowbytes, []⟩)
      let c := combineRow d base ins
      let u := t.tier tTblclip c.2
      if home = t.nodeNum then
        if bitOf d.tflags 0 && t.role != 0 then
          { u with cas := { u.cas with remoteRows := u.cas.remoteRows ++ [(t.nodeNum, c.1)] } }
        else u.rowPut d c.1
      else
        match t.sysConn home with
        | none => u
        | some conn =>
          (u.request conn mWrite tag p.epoch (fun m => { m with key := tr.1 + 1, arg := tr.2 }) (sysPack c.1.bytes c.1.pois)).request
            conn mFlush tag p.epoch id []) s

/-- The answers of a step's requests when its result stands. Records that left as provisional are not sent again; a replay sends
them with PENDING clear (R434). -/
def State.deliverStep (s : State) (p : Step) : State :=
  p.reqs.foldl (fun (t : State) id =>
    match t.req? id with
    | none => t
    | some r =>
      match r.op, r.result with
      | .search, some z =>
        if p.replayed then
          match r.src with
          | .conn m => { t with work := { t.work with reqs := t.work.reqs.filter (fun q => q.id != id) } }.answer m mReply z.status 0
              (z.bytes false)
          | .queue _ => t
        else if p.provSent && t.provReq r then
          ({ t with work := { t.work with reqs := t.work.reqs.filter (fun q => q.id != id) } }).release r.tenant
            ⟨0, 0, 0, 0, 0, 0, 0, 0, 0, 1, 0, 0⟩
        else t.deliver r z.status (some z) []
      | _, _ =>
        let out := match s.plan? r.plan with
          | some pl => (Config.runOutput t.free r.plan ((r.body.drop 16).take (leAt r.body 8 4))).take pl.hdr.outlen
          | none => []
        t.drawFree.deliver r .ok none out) s

/-! ## The start of a step (R302) -/

/-- The batch of the next step: requests of the first one's epoch, up to QBATCH (R302, R335). -/
def State.batch (s : State) (x : Lease) (qbatch : Nat) : List Nat :=
  let ep := ((x.queue.head?.bind s.req?).map (·.epoch)).getD 0
  (x.queue.filter (fun id => (s.req? id).any (fun r => r.epoch == ep))).take qbatch

/-- Is a batch ready (R302)? A maintenance lease needs none. -/
def batchReady (x : Lease) (h : PlanHdr) (b : List Nat) : Bool :=
  x.maint || decide (h.qbatch ≤ b.length) || (!b.isEmpty && (x.batchOk || h.batchwait == 0))

/-- Does the next step wait for the result of the one before: a plan with running-maximum slots (R282)? -/
def State.rmBusy (s : State) (x : Lease) : Bool := !x.past.isEmpty && (s.plan? x.plan).any (·.usesRm)

/-- Moves every position whose core is quarantined or suspect (R304); none while no core is free for one of them. -/
def State.healPositions (s : State) (l : Nat) (h : PlanHdr) (ps : List Nat) : Option State :=
  match ps with
  | [] => some s
  | pos :: r =>
    match s.lease? l with
    | none => none
    | some x =>
      let c := x.cores.getD pos 0
      if !s.flag (fCoreStateQuar c) && !s.flag (fCoreStateSuspect c) then s.healPositions l h r
      else
        match s.spareCore h.dies c with
        | none => none
        | some b => (s.movePos l x h.reslines pos b).healPositions l h r

/-- Decisions on replicas take effect at a step boundary: copies are made from the home row, or dropped (R345). -/
def State.applyDecisions (s : State) : State :=
  let t := s.tables.decisions.foldl (fun (u : State) d =>
    let k := d.1 * 2 ^ 40 + d.2.1
    if !d.2.2 then
      let v : State := { u with tables := { u.tables with replicas := Tbl.erase u.tables.replicas k } }
      match Tbl.find u.tables.replicas k with
      | some b => v.areaFree b
      | none => v
    else
      match Tbl.find u.tables.descs d.1 with
      | none => u
      | some e =>
        match u.areaTake (e.rowbytes * (u.hw.variant.stacks - 1)) with
        | none => u.tier tRepskip 1
        | some (b, v) => ({ v with tables := { v.tables with replicas := Tbl.set v.tables.replicas k b } }).copiesPut e b (u.rowAt e d.2.1)) s
  { t with tables := { t.tables with decisions := [] } }

/-- The step begins on the lease's cores. -/
def State.beginStep (s : State) (l : Nat) (x : Lease) (pl : Plan) (b : List Nat) (depth : Nat) (errs : List ReadErr) : State :=
  let h := pl.hdr
  let a := (s.applyDecisions.emptyLines h.reslines x.cores).clearContexts x h
  let c := a.each x.cores (fun c t => ((t.setCore c ((t.core c).begin (·.start depth))).setReg64 (coreBase c + 0x20) 0).ageCore c)
  let ep := ((b.head?.bind s.req?).map (·.epoch)).getD ((s.cas.newMap.map (·.epoch)).getD 0)
  let p : Step := { seq := x.nextSeq, epoch := ep, run := 1, reqs := b, status := .ok, ended := false, fails := [],
                    prevFails := [], third := [], waitB := [], admitwait := (((b.head?.bind s.req?).map (fun r => s.uptime - r.qAt)).getD 0),
                    runsAdv := 0, advRun2 := 0, frz := 0, meas := none, staged := [], before := [], arms := [], errs := errs,
                    rdvDone := [], rdvFroze := [], wasHeld := false, rm2 := [], rmax := [], provSent := false, replayed := false, resident := x.resident, group := bitOf h.pflags 3 }
  let rest := x.queue.filter (fun id => !b.contains id)
  let d := c.modLease l (fun y => { y with step := some p, queue := rest, batchOk := false,
                                           nextSeq := (y.nextSeq + 1) % 2 ^ 32, nextGroup := false })
  let e := { d with nrg := { d.nrg with eplan := d.nrg.eplan + pl.admitFigure, admittedNow := d.nrg.admittedNow + pl.admitFigure } }
  b.foldl (fun t id => t.runSearch l (s.stepTag l x.nextSeq) id) (e.fillBarrier l)

end Sys2Proof.Machine
end

