-- ==== Sys2Proof/Machine/UpdateOps.lean ====
section
/-! DEFINITION. Shared operations on tenant requests: where they come from and how they are refused (R14, R369, R509, R523), the
stage-1 checks (R83, R363, R364), and what an update does (R26 to R30, R57, R61, R190 to R194). -/

namespace Sys2Proof.Machine

/-! ## Taking a request -/

/-- The bulk bytes staged for a request of a connection (R373). -/
def State.bulkOf (s : State) (m : Msg) : List Byte :=
  match s.fab.staging.find? (fun e => e.2.owner == some (m.dconn, m.seq)) with
  | some e => rdBytes e.2.filled 0 m.arg
  | none => []

/-- Does a message stand ready on an open connection (R369)? -/
def State.isReady (s : State) (m : Msg) (t : Nat) : Bool := s.serving && m.mtype == t && s.fab.ready.contains m

/-- Takes a message off the ready list. -/
def State.unready (s : State) (m : Msg) : State := { s with fab := { s.fab with ready := s.fab.ready.erase m } }

/-- Is a connection a SYS connection? -/
def State.sysMsg (s : State) (m : Msg) : Bool := (s.conn? m.dconn).any Conn.sys

/-- A tenant opcode from a queue or a connection (R509, R521, R523, R369): what refuses it before its body, or `f` on the body,
the tenant it must name, and whether the checks of the master stand for that (R414). A quiescing node refuses it (R557). In Idle-2 a request completes with NODE_BUSY
or, with AUTOWAKE, wakes the node (R494). -/
def State.tenantCmd (s : State) (src : ReqSrc) (opc : Nat) (body : List Byte) (f : List Byte → Nat → State → State) : Outcome :=
  let power := fun (u : State) (go : State → State) =>
    if u.flag fTopCtlQuiesce then u.answerReq src .nodeBusy []
    else if u.fld fNrgStatePstate = 4 then
      if u.flag fNrgStateAutowake then go (u.setFld fNrgStatePstate 5) else u.answerReq src .nodeBusy []
    else go u
  match src with
  | .queue h =>
    .next (match s.fetch h false with
      | none => s
      | some t =>
        if t.host.pcieOnly then t.completeSt h .nodeBusy
        else
          match t.vfAdmit h with
          | .error st => (if st = .policed then t.countPoliced ((t.boundTo h.fn).getD 0) else t).completeSt h st
          | .ok u =>
            if h.fn ≠ 0 ∧ t.boundTo h.fn ≠ some h.tenant then u.completeSt h .keyFail
            else if (u.mapOf h.epoch).isNone then (u.count kCasEpstale 1).completeSt h .epochStale
            else power u (f body h.tenant))
  | .conn m =>
    .next (if !s.isReady m mCmd || m.opc != opc then s
      else
        let t := s.unready m
        let b := m.payload ++ t.bulkOf m
        power t (f b (if t.sysMsg m then leAt b 0 2 else m.tenant)))

/-- A request that a failed check completes (R83, R115): a SEARCH gets a record that carries the status. -/
def State.refuse (s : State) (src : ReqSrc) (op : ReqOp) (body : List Byte) (st : Status) : State :=
  if op = .search then
    s.answerReq src st ((SearchRec.fail st (bK body) (bIndex body) (bTenant body) (srcEpoch src) 0 (srcTag src)).bytes false)
  else s.answerReq src st []

/-- The first failed check decides (R83). -/
def firstFail (cs : List (Bool × Status)) : Option Status := (cs.find? (fun c => !c.1)).map (·.2)

/-- One outstanding request (R331). -/
def outreqCharge : QuotaRec := { QuotaRec.none with outreq := 1 }

/-- Enters an accepted request with its OUTREQ charge (R331). -/
def State.addReq (s : State) (src : ReqSrc) (op : ReqOp) (tenant plan index : Nat) (body : List Byte) (st : ReqState)
    (forwarded : Bool) (errs : List ReadErr) : State :=
  let r : Req := { id := s.work.nextReq, src := src, op := op, tenant := tenant, epoch := srcEpoch src, plan := plan,
                   index := index, body := body, st := st, lease := 0xFFFF, result := none, gens := [],
                   qAt := 0, forwarded := forwarded, errs := errs, capWait := false, look := none }
  ({ s with work := { s.work with reqs := s.work.reqs ++ [r], nextReq := s.work.nextReq + 1 } }).charge tenant outreqCharge

/-! ## Vector data (R81, R83, R85, R363) -/

/-- Bytes of a vector in a query form. -/
def formLen (c : CreateFields) (form : Nat) : Nat := if form = 0 then 4 * c.dim else ceilDiv (c.dim * fmtWidth c.vfmt) 8

/-- Are the elements of FP32 or NATIVE data numbers, and for a COSINE index is the norm finite and not zero (R83)? -/
def dataOk (c : CreateFields) (form : Nat) (bs : List Byte) : Bool :=
  let vs := if form = 0 then vecF32 c.dim bs else (vecCodes c.vfmt c.dim bs).map (elemVal c.vfmt c.vscale)
  vs.all isFinite && (c.metric != 1 || (let n := vecNorm vs; isFinite n && fabs n != 0))

/-! ## SEARCH (R83) -/

/-- A loaded plan of a kind that a tenant owns, for an index's shape where that matters. -/
def State.planIs (s : State) (p tenant kind : Nat) (f : PlanHdr → Bool) : Bool :=
  (s.plan? p).any (fun x => x.owner == tenant && x.hdr.kind == kind && f x.hdr)

/-- The checks of stage 1 on a SEARCH body, in the order of R83. `want` is the tenant that the request must name. -/
def State.searchChecks (s : State) (b : List Byte) (want : Nat) : Except Status Desc :=
  if bTenant b ≠ want ∨ 4096 ≤ bTenant b then .error .keyFail
  else
    match s.desc? (bIndex b) with
    | none => .error .keyFail
    | some d =>
      let c := d.c
      if d.st = .free ∨ c.tenant ≠ bTenant b then .error .keyFail
      else
        let k := bK b
        let fm := bFmode b
        let qf := bQfmt b
        let rer := bitOf (bSflags b) 0
        match firstFail [
          (d.st == .active, .notFound),
          (leAt b 0x0F 1 == 0 && leAt b 0x1A 6 == 0 && leAt b 0x2C 4 == 0 && decide (bSflags b < 2), .badArg),
          (decide (0x30 + bQlen b ≤ b.length) && decide (0x30 ≤ b.length), .badArg),
          ((s.plan? d.splan).isSome, .notFound),
          (decide (1 ≤ k) && decide (k ≤ 4096), .badArg),
          (decide (1 ≤ bNprobe b) && decide (bNprobe b ≤ 1024), .badArg),
          (decide (k ≤ bCand b) && decide (bCand b ≤ 16384), .badArg),
          (decide (bWiden b ≤ 3), .badArg),
          (decide (fm ≤ 2) && (fm == 0) == (bFmask b == 0) && decide (bFmask b < 2 ^ c.planes), .badArg),
          (decide (qf ≤ 2) && (if qf = 2 then decide (1 ≤ bQlen b) && decide (bQlen b ≤ 65536) else bQlen b == formLen c qf)
            && !(qf == 1 && c.vfmt == 1 && c.dim * 4 % 8 != 0), .badArg),
          (qf == 2 || dataOk c qf (bQdata b), .badArg),
          (qf != 2 || s.planIs (bEplan b) c.tenant 2 (fun h => h.dim == c.dim && h.vfmt == c.vfmt), .notFound),
          (qf == 2 || bEplan b == 0, .badArg),
          (!rer || (decide (k ≤ bRrn b) && decide (bRrn b ≤ min (bCand b) 1024)), .badArg),
          (!rer || s.planIs (bRplan b) c.tenant 3 (fun _ => true), .notFound),
          (rer || bRplan b == 0, .badArg),
          (s.canCharge c.tenant outreqCharge, .quota)] with
        | some st => .error st
        | none => .ok d

/-! ## Updates -/

def uVid (b : List Byte) : Nat := leAt b 8 8
def uForm (b : List Byte) : Nat := leAt b 4 1
def uFilter (b : List Byte) : Nat := leAt b 0x10 8
def uVlen (b : List Byte) : Nat := leAt b 0x18 4
def uData (b : List Byte) : List Byte := (b.drop 0x20).take (uVlen b)

/-- The checks of stage 1 on an update body (R39, R363). -/
def State.updateChecks (s : State) (op : ReqOp) (b : List Byte) (want : Nat) : Except Status Desc :=
  if bTenant b ≠ want ∨ 4096 ≤ bTenant b then .error .keyFail
  else
    match s.desc? (bIndex b) with
    | none => .error .keyFail
    | some d =>
      let c := d.c
      if d.st = .free ∨ c.tenant ≠ bTenant b then .error .keyFail
      else
        let del := op == .delete
        match firstFail [
          (d.st == .active, .notFound),
          (uVid b / 2 ^ 48 == c.tenant, .keyFail),
          (leAt b 5 3 == 0 && leAt b 0x1C 4 == 0, .badArg),
          (if del then uForm b == 0 && uFilter b == 0 && uVlen b == 0 && decide (0x20 ≤ b.length)
           else decide (uForm b ≤ 1) && uVlen b == formLen c (uForm b) && decide (0x20 + uVlen b ≤ b.length), .badArg),
          (del || !(uForm b == 1 && c.vfmt == 1 && c.dim * 4 % 8 != 0), .badArg),
          (del || dataOk c (uForm b) (uData b), .badArg),
          (s.canCharge c.tenant outreqCharge, .quota)] with
        | some st => .error st
        | none => .ok d

/-- What an update came to. -/
inductive Upd where
  | done (s : State) (st : Status)
  | side
  | bufWait
  | wthru (s : State) (units : List (Nat × Nat))

/-- Sets a slot's tombstone and counts it in the header (R29, R55). -/
def State.tombstone (s : State) (d : Desc) (l : Nat) (x : SlotAt) : State :=
  match s.hdr? l with
  | none => s
  | some h => (s.setPlaneBit d.c h 0 x true).setHdr l { h with tombs := h.tombs + 1 }

/-- The vector of an update on the index's grid, and whether the node scaled it (R85, R90). -/
def updateCodes (c : CreateFields) (b : List Byte) : List Nat × Bool :=
  if uForm b = 1 then (vecCodes c.vfmt c.dim (uData b), false)
  else
    let vs := vecF32 c.dim (uData b)
    (quantise c.vfmt c.vscale (if c.metric = 1 then unitScale vs else vs), c.metric == 1)

/-- Writes the full vector: the record through the write buffer, and the copy slot where the list has one (R26 step 5, R65,
R67). -/
def State.storeVector (s : State) (c : CreateFields) (h : Hdr) (x : SlotAt) (vid rec_ : Nat) (norm : Bool) (es : List Nat)
    (errs : List ReadErr) : Admit :=
  let copy := fun (t : State) =>
    if h.copy then t.ilvStore (h.copyAt c x) (padTo (copySlot c) (vecBytes c.vfmt es)) [] else t
  if c.store = 1 then .ok (copy s)
  else
    match s.nsWrite c.index (rec_ * recLen c) (recordBytes c vid rec_ norm es) errs with
    | .ok t => .ok (copy t)
    | r => r

/-- Publication of an INSERT or UPSERT in the next side slot of a list (R26 steps 4 to 7). `old` is where a live ID stands. An UPSERT that
moves its item to another list sets the old directory entry DELETED and takes the first EMPTY or DELETED entry of the probe, as an INSERT
does, or the old entry itself where the probe met none: the model's choice, log 109. -/
def State.publish (s : State) (n : Nat) (d : Desc) (l : Nat) (vid rec_ sk filter : Nat) (old : Option (Nat × Nat × SlotAt)) : State :=
  match s.hdr? l with
  | none => s
  | some h =>
    let x : SlotAt := ⟨true, h.scount⟩
    let a := s.writeSlot d.c h x sk vid rec_ false filter
    let b := match old with | some o => a.tombstone d o.2.1 o.2.2 | none => a
    let ent : DirEnt := ⟨l, vidHash vid % 256, .live⟩
    let e := match old with
      | none => match b.dirFree n d vid with | some k => b.setDir k ent | none => b
      | some o =>
        if o.2.1 = l then b
        else
          match b.dirFree n d vid with
          | some k => (b.setDir o.1 { (Tbl.get dirEmpty b.idx.dir o.1) with dst := .deleted }).setDir k ent
          | none => b.setDir o.1 ent
    let f := { e with idx := { e.idx with recs := Tbl.set e.idx.recs (recKey n rec_) true } }
    match f.hdr? l with
    | none => f
    | some g => (f.setHdr l { g with scount := g.scount + 1 }).modDesc n (fun d => { d with live := d.live + (if old.isNone then 1 else 0) })

/-- INSERT and UPSERT after stage 1 (R26, R28, R57, R61, R191, R206, R213, R331, R610). -/
def State.runPut (s : State) (n : Nat) (d : Desc) (op : ReqOp) (b : List Byte) (errs : List ReadErr) : Upd :=
  let c := d.c
  let vid := uVid b
  match s.lookup n d vid with
  | .pois => .done s .poison
  | look =>
    let old := match look with | .found k l x => some (k, l, x) | _ => none
    if op = .insert ∧ old.isSome then .done s .idExists
    else
      let v := updateCodes c b
      let cc := s.copy4 d 0 v.1
      let cs := s.nearCoarse d cc (openClusters d 0 1)
      if s.stage3Pois d cs then .done s .poison
      else if old.isNone ∧ ((s.dirFree n d vid).isNone ∨ c.maxitems ≤ d.live) then .done s .indexFull
      else
        match (s.nearFine d (s.copy4 d 1 v.1) cs).head? with
        | none => .done s .notFound
        | some l =>
          match s.hdr? l with
          | none => .done s .notFound
          | some h =>
            if s.hdrBad l then .done s .poison
            else if old.isNone ∧ !s.canCharge c.tenant (itemCharge c h.copy) then .done s .quota
            else if h.scap ≤ h.scount then .side
            else
              match s.recTake n c with
              | none => .bufWait
              | some r =>
                match s.storeVector c h ⟨true, h.scount⟩ vid r v.2 v.1 errs with
                | .wait => .bufWait
                | .noSpace => .done (s.flashEvent eFtl 0 0x030A 0 locNode) .noSpace
                | .ok t =>
                  let u := (t.publish n d l vid r (s.sketchOf d cc) (uFilter b) old)
                  let w := if old.isNone then u.charge c.tenant (itemCharge c h.copy) else u
                  if c.store = 0 ∧ w.flag fFtlStateWthru then
                    .wthru w.progPending [(n, r * recLen c / unitSize), (n, (r * recLen c + recLen c - 1) / unitSize)]
                  else .done w.progPending .ok

/-- DELETE after stage 1 (R28, R29, R331, R610). -/
def State.runDel (s : State) (n : Nat) (d : Desc) (b : List Byte) : Upd :=
  match s.lookup n d (uVid b) with
  | .pois => .done s .poison
  | .none_ => .done s .notFound
  | .found k l x =>
    let copy := (s.hdr? l).any (·.copy)
    let t := s.tombstone d l x
    let u := (t.setDir k { (Tbl.get dirEmpty t.idx.dir k) with dst := .deleted }).modDesc n (fun d => { d with live := d.live - 1 })
    .done (u.release d.c.tenant (itemCharge d.c copy)) .ok

/-- Sends a CMD of the group on a SYS connection (R414). A body above 8,192 bytes goes in part as bulk data (R363). -/
def State.sendCmd (s : State) (conn opc tag epoch : Nat) (body : List Byte) : State :=
  let n := if body.length ≤ 8192 then body.length else if opc = 1 then 0x30 else if opc = 5 then 0x10 else 0x20
  s.requestBulk conn mCmd tag epoch (fun x => { x with opc := opc, tenant := 0xFFFF, arg := body.length - n }) (body.take n)
    (body.drop n)

/-- The partner of a joiner forwards every update it applies, in its apply order (R438). -/
def State.forwardJoin (s : State) (r : Req) (st : Status) : State :=
  match s.cas.join.joiner.bind s.sysConn with
  | none => s
  | some c =>
    if st ≠ .ok then s
    else
      s.sendCmd c (match r.op with | .insert => 2 | .upsert => 3 | _ => 4) (srcTag r.src) r.epoch r.body

/-- Does an update that came earlier, and has not completed, concern the same ID (R30)? -/
def State.idAhead (s : State) (r : Req) : Bool :=
  (s.work.reqs.takeWhile (fun q => q.id != r.id)).any (fun q =>
    (q.op == .insert || q.op == .upsert || q.op == .delete) && q.index == r.index && uVid q.body == uVid r.body)

/-- Does a write that came earlier wait for the cap (R206)? -/
def State.capAhead (s : State) (r : Req) : Bool := (s.work.reqs.takeWhile (fun q => q.id != r.id)).any (fun q => q.st == .admitWait && q.capWait)

/-- An accepted update as it runs (R26 to R29). One that reads a poisoned descriptor completes with POISON. -/
def State.updateNow (s : State) (r : Req) (d : Desc) : Upd :=
  if s.descBad r.index then .done s .poison
  else if r.op = .delete then s.runDel r.index d r.body
  else s.runPut r.index d r.op r.body r.errs

/-- Leaves an update waiting for the write buffer (R206): it counts in STAGEWAIT once. -/
def State.waitCap (s : State) (r : Req) : State :=
  let t := s.modReq r.id (fun q => { q with st := .admitWait, capWait := true })
  if r.capWait then t else t.count kFtlStagewait 1

/-- Runs an accepted update, or leaves it waiting for a side extent (R57) or for the write buffer (R206). An update waits in the
order of R30 behind an earlier one to the same ID; one that needs a unit of the dirty set waits behind an earlier one that does. -/
def State.runUpdate (s : State) (id : Nat) : State :=
  match s.req? id with
  | none => s
  | some r =>
    if s.idAhead r || s.fld fNrgStatePstate != 0 && (s.fld fNrgStatePstate == 4 || s.fld fNrgStatePstate == 5) then
      s.modReq id (fun q => { q with st := .admitWait })
    else
      match s.desc? r.index with
      | none => s.finishReq r .notFound []
      | some d =>
        let late := fun (t : State) => s.capAhead r && decide (s.flash.wbuf.length < t.flash.wbuf.length)
        match s.updateNow r d with
        | .done t st => if late t then s.waitCap r else (t.forwardJoin r st).finishReq r st []
        | .side => s.modReq id (fun q => { q with st := .sideWait })
        | .bufWait => s.waitCap r
        | .wthru t us =>
          if late t then s.waitCap r else (t.forwardJoin r .ok).modReq id (fun q => { q with st := .dataWait, gens := us })

/-- Tries the updates that wait, in arrival order (R57, R72, R206). -/
def State.retryUpdates (s : State) : State :=
  (s.work.reqs.filter (fun r => r.st == .sideWait || r.st == .admitWait)).foldl (fun t r => t.runUpdate r.id) s

/-- Completes the writes whose units are programmed and journaled (R206). -/
def State.finishWthru (s : State) : State :=
  (s.work.reqs.filter (fun r => r.st == .dataWait)).foldl (fun (t : State) r =>
    if r.gens.any (fun u => (t.buffered u.1 u.2).isSome) then t else t.finishReq r .ok []) s

/-! ## Forwarding by a group master (R414) -/

/-- The mask of a group index at a master. -/
def State.groupOf (s : State) (index : Nat) : Nat := if s.role = 2 then Tbl.get 0 s.idx.groupMask index else 0

/-- Positions of a mask. -/
def State.maskPos (mask : Nat) : List Nat := maskBits 8 mask

/-- The member table (R413). -/
def State.memberTable (s : State) : List MemberEnt := ((s.boot.image.bind (·.group)).map (·.members)).getD []

/-- The masters of the child groups (R420). -/
def State.childTable (s : State) : List MemberEnt := ((s.boot.image.bind (·.group)).map (·.children)).getD []

/-- A CMD forwarded on the SYS connection of a member (R414). -/
def State.forward (s : State) (req pos opc tag epoch : Nat) (body : List Byte) : State :=
  match s.memberTable[pos]? with
  | none => s
  | some m =>
    let q := (s.conn? m.conn).map (·.txSeq)
    let t := s.setPart req pos (fun p => { p with seq := q })
    t.sendCmd m.conn opc tag epoch body

/-- Enters a group request at the master with a part for each member of `ps`; an ABSENT member counts as NO_CONN at once (R415). -/
def State.openGroup (s : State) (tag req : Nat) (op : ReqOp) (index : Nat) (ps : List Nat) : State :=
  let part := fun (p : Nat) =>
    let ok := p == s.fld fCasCfgPos || ((Tbl.find s.cas.members p).any (fun m => m.st == .active)
      && ((s.memberTable[p]?).bind (fun m => s.conn? m.conn)).any (fun c => c.st == .open_))
    ({ pos := p, seq := none, rec_ := none, failed := if ok then none else some .noConn, out := [], prov := false, discard := none } : Part)
  { s with cas := { s.cas with groupReqs := s.cas.groupReqs ++ [{ tag := tag, req := req, op := op, index := index, parts := ps.map part }] } }

end Sys2Proof.Machine
end

