-- ==== Sys2Proof/Machine/Sloe.lean ====
section
/-! DEFINITION. The sloes: the dispatcher's limits (R171), the descriptors LOADQ, FETCH and SCAN (R172 to R179), polling of the dies (R166) and
the end of an array read (R169, R170, R175). -/

namespace Sys2Proof.Machine

/-! ## The dispatcher (R171) -/

/-- Do the sloes take descriptors (R207, R489)? -/
def State.sloesRun (s : State) : Bool :=
  s.hw.variant.flash && s.pwr.phase == .running && s.pwr.flushing.isNone && !s.flag fFtlStateFlusharm

/-- The sloes that queue a descriptor: every one for LOADQ (R174), the one of the record's unit for any other. -/
def State.sloesOf (s : State) (d : SloeDesc) : List Nat := if d.op = 1 then s.flashChans else [s.sloeAt d.ns (d.rec_ * d.rlen)]

/-- The descriptors that the dispatcher has taken, in the order written: at most 32,768 FETCH, and 1,024 in each sloe. The writes of the
others wait for space (log 110). -/
def State.inDisp (s : State) : List SloeDesc :=
  (s.flash.disp.foldl (fun (z : List SloeDesc × Nat × Tbl Nat) d =>
    let cs := s.sloesOf d
    if (d.op = 2 ∧ 32768 ≤ z.2.1) ∨ cs.any (fun c => decide (1024 ≤ Tbl.get 0 z.2.2 c)) then z
    else (z.1 ++ [d], z.2.1 + b2n (d.op == 2), cs.foldl (fun t c => Tbl.set t c (Tbl.get 0 t c + 1)) z.2.2)) ([], 0, [])).1

/-- The descriptors taken whose FETCH has not begun. -/
def State.waitDisp (s : State) : List SloeDesc := ((s.flash.fetches.filter (fun f => !f.dead)).map (·.d)).foldl List.erase s.inDisp

/-- A descriptor leaves the dispatcher. -/
def State.leaveDisp (s : State) (d : SloeDesc) : State := { s with flash := { s.flash with disp := s.flash.disp.erase d } }

/-! ## Queries and results (R174 to R178) -/

/-- Bytes of a full vector of a descriptor (R172, R174). -/
def sloeElems (d : SloeDesc) : Nat := ceilDiv (d.dim * fmtWidth d.vfmt) 8

/-- The query of a slot, zeros in one that nothing has loaded, and whether a line of it is poisoned. -/
def State.querySlot (s : State) (d : SloeDesc) : List Byte × Bool :=
  let q := Tbl.get ([], false) s.flash.qslots d.qslot
  (padTo (sloeElems d) q.1, q.2)

/-- The elements of a record. -/
def sloeRec (d : SloeDesc) (bytes : List Byte) : List Byte := (bytes.drop 24).take (sloeElems d)

/-- Distance of a record's elements to a query (R175). -/
def sloeDist (d : SloeDesc) (query bytes : List Byte) : Nat :=
  vecDist d.metric d.vfmt d.vscale (vecCodes d.vfmt d.dim query) (vecCodes d.vfmt d.dim (sloeRec d bytes))

/-- Is a result KEPT: is its distance not greater than DMAX (R175, R178)? A NaN, on either side, is greater than nothing. -/
def sloeKeeps (d : SloeDesc) (dist : Nat) : Bool := isNan dist || isNan d.dmax || decide (ford dist ≤ ford d.dmax)

/-- Sends the result of a record read by a FETCH (R175, R177). -/
def State.fetchResult (s : State) (d : SloeDesc) (query bytes : List Byte) (bad : Bool) (flags : Nat) : State :=
  if bad || !recordGood bytes d.rec_ d.addr d.dim d.vfmt then
    s.emit (.sloe d.dest (sloeBytes d (if bad then 0 else leAt bytes 0 8) d.okey f32Inf 2 flags 0) [])
  else
    let dist := sloeDist d query bytes
    if sloeKeeps d dist then
      let elems := if bitOf d.dflags 0 then sloeRec d bytes else []
      s.emit (.sloe d.dest (sloeBytes d (leAt bytes 0 8) d.okey dist 0 flags elems.length) elems)
    else s.emit (.sloe d.dest (sloeBytes d (leAt bytes 0 8) d.okey dist 1 flags 0) [])

/-- LOADQ (R174): copies a query into a slot of every sloe. A query longer than a slot, or an address that does not exist, is a host error,
which leaves a free value in the slot (log 94). -/
def execLoadq (d : SloeDesc) (s : State) : Outcome :=
  if !(s.sloesRun && s.waitDisp.contains d && d.op == 1) then .next s
  else
    let n := sloeElems d
    let put := fun (q : List Byte × Bool) =>
      (({ s with flash := { s.flash with qslots := Tbl.set s.flash.qslots d.qslot q } }.each s.flashChans (fun c u =>
        u.count (kFceDescs c) 1)).leaveDisp d)
    match (List.range n).mapM (fun i => s.hbmKey (d.addr + i)) with
    | some ks =>
      if n ≤ 8192 then .next (put (ks.map s.hbmByte, ks.any (fun k => Tbl.get false s.mem.hbmPoison (k / 64))))
      else .next ((put (leBytes 8192 s.freeNow, false)).hostErr 174)
    | none => .next ((put (leBytes (min n 8192) s.freeNow, false)).hostErr 174)

/-! ## Array reads of the FETCHes (R166, R169, R175) -/

/-- Starts the array read of a page of a FETCH. -/
def State.startPart (s : State) (d : SloeDesc) (x : FPart) : State :=
  let t := { s with flash := { s.flash with dies := Tbl.set s.flash.dies (dieKey (pageCh x.page) (pageCe x.page)) ⟨.read d x.page, false, []⟩ } }
  (t.count (kFceReads (pageCh x.page)) 1).emit (.nand (pageCh x.page) (pageCe x.page) (readOps x.sects))

/-- Starts the array reads of a FETCH whose dies are free. -/
def State.startParts (s : State) (f : Fetch) : State × Fetch :=
  let z := f.parts.foldl (fun (z : State × List FPart) x =>
    if x.st = .waiting ∧ !Tbl.has z.1.flash.dies (dieKey (pageCh x.page) (pageCe x.page)) then
      (z.1.startPart f.d x, z.2 ++ [{ x with st := .reading }])
    else (z.1, z.2 ++ [x])) (s, [])
  (z.1, { f with parts := z.2 })

/-- Starts what array reads of the FETCHes under way can start, oldest first. -/
def State.sloeNext (s : State) : State :=
  if !s.sloesRun then s
  else
    let z := s.flash.fetches.foldl (fun (z : State × List Fetch) f =>
      let r := z.1.startParts f
      (r.1, z.2 ++ [r.2])) (s, [])
    { z.1 with flash := { z.1.flash with fetches := z.2 } }

/-- FETCH (R171, R175, R186): reads a record of a unit in the write buffer at once, any other by array reads of its pages. A record with a
sector that is not mapped, or of a unit whose map entry is poisoned, is POISONED. -/
def execFetch (d : SloeDesc) (s : State) : Outcome :=
  if !(s.sloesRun && s.waitDisp.contains d && d.op == 2) then .next s
  else
    let off := d.rec_ * d.rlen
    let r := s.nsRead d.ns off d.rlen
    let q := s.querySlot d
    let ch := s.sloeAt d.ns off
    let now := fun (t : State) (bad : Bool) (flags : Nat) => ((t.count (kFceDescs ch) 1).fetchResult d q.1 r.1 bad flags).leaveDisp d
    if s.mapBad d.ns off d.rlen then .next (now s.mapPoison true 0)
    else
      match s.recParts d.ns off d.rlen with
      | none => .next (now s true 0)
      | some [] => .next (now s (r.2 || q.2) 4)
      | some ps =>
        let us := unitsOf off d.rlen
        let z := s.startParts ⟨d, ch, q.1, r.1, r.2 || q.2, us.all (s.psnClear d.ns), us.any (fun u => (s.buffered d.ns u).isSome), false, ps⟩
        .next { z.1 with flash := { z.1.flash with fetches := z.1.flash.fetches ++ [z.2] } }

/-- FLASH_STATUS_POLL (R166): READ STATUS ENHANCED to a die with an array command; what it reports when it is ready is kept. -/
def execFlashStatusPoll (ch ce : Nat) (ready : Bool) (fails : List Nat) (s : State) : Outcome :=
  match Tbl.find s.flash.dies (dieKey ch ce) with
  | none => .next s
  | some d =>
    if d.ready then .next s
    else
      let t := s.emit (.nand ch ce [0x78])
      .next (if ready then { t with flash := { t.flash with dies := Tbl.set t.flash.dies (dieKey ch ce) { d with ready := true, fails := fails } } }
        else t)

/-- Frees a die. -/
def State.dieFree (s : State) (ch ce : Nat) : State :=
  { s with flash := { s.flash with dies := Tbl.erase s.flash.dies (dieKey ch ce) } }

/-- A FETCH whose array reads have all completed: its result (R169, R170, R175, R177). -/
def State.fetchDone (s : State) (f : Fetch) : State :=
  let xs := f.parts.filterMap (fun x => match x.st with
    | .done e => some (x, e)
    | _ => none)
  let z := s.readDone f.fast (xs.any (fun x => x.2.rawErr)) f.bytes f.d.rec_ (f.d.rec_ * f.d.rlen / unitSize)
    (xs.map (fun x => (x.1, x.2.errs)))
  ((z.1.count (kFceDescs f.ch) 1).fetchResult f.d f.query f.bytes (f.bad || !z.2.2) (z.2.1 + 4 * b2n f.buf)).leaveDisp f.d

/-- The array read of a page of a FETCH has completed; with the last of them the FETCH is done, or discarded (R175, R179). -/
def State.partDone (s : State) (p : Nat) (e : NandEnv) : State :=
  match s.flash.fetches.find? (fun f => f.parts.any (fun x => x.page == p && x.st == .reading)) with
  | none => s
  | some f =>
    let g := { f with parts := f.parts.map (fun x => if x.page = p ∧ x.st = .reading then { x with st := .done e } else x) }
    if g.parts.any (fun x => x.st == .waiting || x.st == .reading) then
      { s with flash := { s.flash with fetches := s.flash.fetches.map (fun x => if x = f then g else x) } }
    else
      let t : State := { s with flash := { s.flash with fetches := s.flash.fetches.erase f } }
      if f.dead then t else t.fetchDone g

/-- NAND_READ_COMPLETE (R169, R170, R175, R179): the die is free for the next read, or for a program that waited. -/
def execNandReadComplete (ch ce : Nat) (e : NandEnv) (s : State) : Outcome :=
  match Tbl.find s.flash.dies (dieKey ch ce) with
  | some ⟨.read _ p, true, _⟩ => .next (((s.dieFree ch ce).partDone p e).sloeNext.progPending)
  | _ => .next s

/-! ## SCAN (R176) -/

/-- A bit of the filter bitmap, none where it lies in a poisoned line; free where its address does not exist (log 94). -/
def State.scanBit (s : State) (d : SloeDesc) (i : Nat) : Option Bool :=
  match s.hbmKey (d.addr + i / 8) with
  | none => some (bitOf s.freeNow i)
  | some k => if Tbl.get false s.mem.hbmPoison (k / 64) then none else some (bitOf (s.hbmByte k).toNat (i % 8))

/-- RFLAGS of a record of a SCAN: the full-sector path, read-retry, the write buffer (R177). -/
def State.scanFlags (s : State) (d : SloeDesc) (errs : List ReadErr) : Nat :=
  let off := d.rec_ * d.rlen
  let ps := (s.recParts d.ns off d.rlen).getD []
  b2n (!ps.isEmpty)
  + 2 * b2n (ps.any (fun x => x.sects.any (fun i => s.retryTries (pageCh x.page) (pageErrs errs x.page) i != 0)))
  + 4 * b2n ((unitsOf off d.rlen).any (fun u => (s.buffered d.ns u).isSome))

/-- One record of a SCAN: records kept and poisoned so far. -/
def State.sloeScanOne (s : State) (d : SloeDesc) (q : List Byte × Bool) (errs : List ReadErr) (i kept bad : Nat) : State × Nat × Nat :=
  let x := { d with rec_ := d.rec_ + i, okey := (d.okey + i) % 2 ^ 64 }
  let off := x.rec_ * x.rlen
  let r := s.nsRead x.ns off x.rlen
  let vid := leAt r.1 0 8
  let b := s.scanBit d i
  if r.2 || q.2 || b.isNone || !recordGood r.1 x.rec_ vid x.dim x.vfmt then (s, kept, bad + 1)
  else
    let dist := sloeDist x q.1 r.1
    if b != some true || !sloeKeeps x dist then (s, kept, bad)
    else
      let elems := if bitOf d.dflags 0 then sloeRec d r.1 else []
      (s.emit (.sloe d.dest (sloeBytes x vid x.okey dist 0 (s.scanFlags x errs) elems.length) elems), kept + 1, bad)

/-- The pages a SCAN reads with the sectors of each (R176). -/
def State.scanPages (s : State) (d : SloeDesc) : Tbl (List Nat) :=
  let lo := d.rec_ * d.rlen / sectorSize
  let hi := ((d.rec_ + d.aux) * d.rlen - 1) / sectorSize
  ((List.range (hi - lo + 1)).map (· + lo)).foldl (fun (t : Tbl (List Nat)) g =>
    if (s.buffered d.ns (g / 16)).isSome || s.entPois d.ns (g / 16) then t
    else
      match (s.mapEnt d.ns (g / 16)).sectorPage (g % 16) with
      | some p => if (s.page p).isSome then Tbl.set t p (Tbl.get [] t p ++ [g % 16]) else t
      | none => t) []

/-- The commands of cache reads of pages (R164): a READ opens the sequence on each die, a last CACHE READ ends it. -/
def State.cacheReads (s : State) (ps : Tbl (List Nat)) : State :=
  let ds := (ps.map (fun e => (pageCh e.1, pageCe e.1))).eraseDups
  s.each ds (fun c t =>
    let mine := ps.filter (fun e => pageCh e.1 == c.1 && pageCe e.1 == c.2)
    let u := t.each mine.zipIdx (fun e u => u.emit (.nand c.1 c.2 (if e.2 = 0 then readOps e.1.2 else [0x00, 0x31])))
    if 1 < mine.length then u.emit (.nand c.1 c.2 [0x3F]) else u)

/-- Array reads of pages by cache reads, each sector transferred and decoded in full (R169, R176, R198). -/
def State.readCached (s : State) (ps : Tbl (List Nat)) (errs : List ReadErr) : State :=
  (s.cacheReads ps).each ps (fun e t =>
    ((t.count (kFceReads (pageCh e.1)) 1).decodeAt e.1 (((Tbl.find t.flash.pages e.1).map (·.unit)).getD 0) e.2 (pageErrs errs e.1)).1)

/-- SCAN (R176): every record of the range by the full-sector path, in record order, then SCANEND; run whole once its dies are free
(log 52). VID, OKEY and RFLAGS of SCANEND are zeros (log 111). -/
def execScan (d : SloeDesc) (errs : List ReadErr) (s : State) : Outcome :=
  if !(s.sloesRun && s.waitDisp.contains d && d.op == 3) then .next s
  else
    let ps := s.scanPages d
    if ps.any (fun e => Tbl.has s.flash.dies (dieKey (pageCh e.1) (pageCe e.1))) then .next s
    else
      let q := s.querySlot d
      let off := d.rec_ * d.rlen
      let badU := (unitsOf off (d.aux * d.rlen)).filter (fun u => (s.buffered d.ns u).isNone && s.entPois d.ns u)
      let a := (s.each badU (fun _ t => t.mapPoison)).readCached ps errs
      let z := (List.range d.aux).foldl (fun (z : State × Nat × Nat) i => z.1.sloeScanOne d q errs i z.2.1 z.2.2) (a, 0, 0)
      let b := z.1.count (kFceDescs (s.sloeAt d.ns off)) 1
      let c := (b.emit (.sloe d.dest (sloeBytes d 0 0 z.2.2 4 0 z.2.1) [])).leaveDisp d
      .next (if ((s.hbmKey (d.addr + (d.aux - 1) / 8)).isNone) then c.hostErr 176 else c)

end Sys2Proof.Machine
end

