-- ==== Sys2Proof/Machine/Flash.lean ====
section
/-! DEFINITION. The translation layer: the end of programs and erases (R192, R198, R210 to R212), the write-buffer timers (R192,
R206), fold and garbage collection (R196 to R199, R213), checkpoint (R202) and ZQ calibration (R164); scrubbing of the stacks (R456)
and the hot-row window (R345). -/

namespace Sys2Proof.Machine

/-! ## The end of a program -/

/-- The map entry of a unit whose buffered copy has been programmed into page `p`: the sectors written there, with the other sectors of a
hot unit where they were; a unit that is not hot and was written whole maps the page (R185, R192, R195). -/
def progEntry (e : MapEnt) (p : Nat) (sects : List Nat) : MapEnt :=
  if e.hot || sects.length < 16 then
    let old := if !e.hot || !e.mapped then [] else if e.split then e.sect else (List.range 16).map (fun k => (k, e.page))
    { e with page := 0, mapped := true, split := true, sect := sects.foldl (fun t i => Tbl.set t i p) old }
  else { e with page := p, mapped := true, split := false, sect := [] }

/-- Writes the MAP records of a program, by sector for a split unit (R184, R192, R201), and updates the map. -/
def State.mapProgram (s : State) (ns unit p : Nat) (sects : List Nat) : State :=
  let e := s.mapEnt ns unit
  let f := progEntry e p sects
  let slc := s.pageSlc p
  let t := if f.split then s.each sects (fun i u => u.journal .map true ns (16 * unit + i) (physAddr p slc i) (s.sectorPa e i))
    else s.journal .map false ns unit (physAddr p slc 0) (s.entPa e)
  t.setMap ns unit { f with psn := t.entPsn f }

/-- The buffer copy is freed, or stays because writes reached the unit meanwhile (R192). -/
def State.bufDone (s : State) (ns unit : Nat) : State :=
  match s.buffered ns unit with
  | none => s
  | some u =>
    if u.dirtyAgain then s.modBuf ns unit (fun x => { x with prog := none, dirtyAgain := false }) else s.dropBuf ns unit

/-- Is a program that of the buffered copy of a unit? It is not once the unit was discarded, and perhaps made anew (R180, R195). -/
def State.progOf (s : State) (ns unit p : Nat) : Bool := (s.buffered ns unit).any (fun u => u.prog == some p)

/-- PROGFAIL on a page (R211): the page is lost, and its stripe becomes a victim of priority whose failed blocks are retired without
erase. -/
def State.pageLost (s : State) (p unit : Nat) (fails : List Nat) : State :=
  let a := (s.pageEvent 3 0x0304 2 p ((fails.head?).getD 0) unit).relocate p (fails.map (4 * pageCe p + ·))
  { a with flash := { a.flash with pages := Tbl.erase a.flash.pages p } }

/-- A failed program (R211): the unit is programmed again from the buffer copy. -/
def State.progFail (s : State) (p ns unit : Nat) (sects fails : List Nat) : State :=
  let mine := s.progOf ns unit p
  let b := s.pageLost p unit fails
  if mine then
    (b.modBuf ns unit (fun x =>
      { x with prog := none, dirtyAgain := false, sects := sects.foldl (fun t i => Tbl.set t i true) x.sects })).progStart ns unit
  else b

/-- NAND_PROGRAM_COMPLETE (R192, R206, R207, R211). -/
def execNandProgramComplete (ch ce : Nat) (s : State) : Outcome :=
  match Tbl.find s.flash.dies (dieKey ch ce) with
  | some ⟨.prog p ns unit sects, true, fails⟩ =>
    let t := s.dieFree ch ce
    let b := if !fails.isEmpty then t.progFail p ns unit sects fails
      else
        let a := (t.count (kFceProgs ch) 1).count kFtlNandbytes (sectorSize * sects.length)
        (if a.progOf ns unit p then (a.mapProgram ns unit p sects).bufDone ns unit else a).roCheck ch
    .next (b.finishWthru.capRecompute.retryUpdates.sloeNext.progPending)
  | _ => .next s

/-- WBAGE_EXPIRY (R192): a unit that has been dirty for WBAGE. -/
def execWbageExpiry (ns unit : Nat) (s : State) : Outcome :=
  s.onlyIf (s.hw.variant.flash && s.pwr.phase == .running) (fun s => s.progStart ns unit)

/-- WRITE_ADMIT_TIMEOUT (R206): a write not admitted within 1 ms. -/
def execWriteAdmitTimeout (req : Nat) (s : State) : Outcome :=
  match s.req? req with
  | none => .next s
  | some r => s.onlyIf (r.st == .admitWait) (fun s => (s.finishReq r .retryLater []).count kFtlRetrylater 1)

/-! ## Fold and garbage collection -/

/-- The closed stripes of a region that can be victims: one with a unit whose map entry reads poisoned waits for the recovery that
rebuilds the entry (R186; log 112). -/
def State.closed (s : State) (ch : Nat) (slc : Bool) : List Nat :=
  (s.stripesOf slc).filter (fun k => (s.stripe ch k).st == .closed
    && !(s.validUnits ch k).any (fun u => s.entPois (u / 2 ^ 32) (u % 2 ^ 32)))

/-- The free QLC stripes of a channel (R197). -/
def State.freeQlc (s : State) (ch : Nat) : Nat := ((s.stripesOf false).filter (fun k => (s.stripe ch k).st == .free)).length

/-- Pages of the SLC region in use and in all; the flush reserve counts as full (R193, R196). -/
def State.slcUsed (s : State) (ch : Nat) : Nat × Nat :=
  let live := ((s.stripesOf true).filter (fun k => (s.stripe ch k).st != .retired)).length
  let total := live * s.stripePages ch true
  (total - (s.slcFree ch - (s.stagedUnits ch + s.stripePages ch true)), total)

/-- Is the SLC region more than `n` per cent full, or less (R196)? -/
def State.slcOver (s : State) (ch n : Nat) : Bool := decide (n * (s.slcUsed ch).2 < 100 * (s.slcUsed ch).1)
def State.slcUnder (s : State) (ch n : Nat) : Bool := decide (100 * (s.slcUsed ch).1 < n * (s.slcUsed ch).2)

/-- Lexicographic order of two lists of one length. -/
def lexLt (a b : List Nat) : Bool :=
  match a, b with
  | x :: xs, y :: ys => decide (x < y) || (x == y && lexLt xs ys)
  | _, _ => false

/-- The least element of a list under a measure, the first on a tie. -/
def leastBy (f : Nat → List Nat) (l : List Nat) : Option Nat :=
  match l with
  | [] => none
  | a :: r => some (r.foldl (fun b x => if lexLt (f x) (f b) then x else b) a)

/-- The lowest write sequence number of a stripe (R196). -/
def State.stripeWseq (s : State) (ch k : Nat) : Nat :=
  let ws := (s.flash.pages.filter (fun e => inStripe ch k e.1)).map (·.2.wseq)
  match ws with
  | [] => 0
  | w :: r => r.foldl min w

/-- The spread of the erase counts of a channel's stripes (R197). -/
def State.eraseSpread (s : State) (ch : Nat) : Nat :=
  let es := ((s.stripesOf true ++ s.stripesOf false).filter (fun k => (s.stripe ch k).st != .retired)).map (fun k => (s.stripe ch k).erases)
  match es with
  | [] => 0
  | e :: r => r.foldl max e - r.foldl min e

/-- The victim of a collection (R170, R197, R211, R213): a victim of priority, the least-worn closed stripe when the wear spread passes
WLGAP, or the closed stripe with the fewest valid units while free stripes are short or the channel holds more than it exports. -/
def State.gcVictim (s : State) (ch : Nat) : Option Nat :=
  let cl := s.closed ch true ++ s.closed ch false
  let er := fun (k : Nat) => (s.stripe ch k).erases
  let first := cl.find? (fun k => Tbl.has s.flash.urgent (stripeKey ch k))
  if first.isSome then first
  else if s.fld fFtlCfgWlgap < s.eraseSpread ch then leastBy (fun k => [er k, k]) cl
  else if Tbl.get false s.flash.gcOn ch || s.excess ch then leastBy (fun k => [(s.validUnits ch k).length, er k, k]) cl
  else none

/-- FOLDING and GCRUN (R224) as the channels stand, and the lower marks at which fold and collection stop (R196, R197). -/
def State.gcMarks (s : State) : State :=
  let f := { s.flash with
    foldOn := s.flash.foldOn.filter (fun e => !s.slcUnder e.1 (s.fld fFtlCfgFoldlo)),
    gcOn := s.flash.gcOn.filter (fun e => decide (s.freeQlc e.1 < s.fld fFtlCfgGchi)) }
  let t : State := { s with flash := f }
  (t.setFld fFtlStateFolding (b2n (!f.foldOn.isEmpty || f.gc.any (fun e => e.2.fold)))).setFld fFtlStateGcrun
    (b2n (!f.gcOn.isEmpty || f.gc.any (fun e => !e.2.fold)))

/-- The copies of a collection so far: the node, the programs tried, and each unit copied with its page. -/
structure Copies where
  st    : State
  tries : Nat
  done  : List (Nat × Nat)

/-- The channel that takes the next copy: the victim's own, or while it would hold more than it exports the lowest other writable one
with room (R213). -/
def Copies.dest (z : Copies) (ch : Nat) : Nat :=
  let into := fun (c : Nat) => (z.done.filter (fun e => pageCh e.2 == c)).length
  let out := (z.done.filter (fun e => pageCh e.2 != ch)).length
  if z.st.chUnits ch ≤ z.st.exported ch + out then ch
  else (((z.st.roomFor ch).filter (fun c => decide (z.st.chUnits c + into c < z.st.exported c))).head?).getD ch

/-- Does a unit stay split when it moves (R185)? -/
def MapEnt.stays (e : MapEnt) : Bool := e.split && e.hot

/-- The sectors that the move of a unit out of a victim copies: those that lie there of one that stays split, else all (R185). -/
def MapEnt.moving (e : MapEnt) (ch k : Nat) : List Nat :=
  (List.range 16).filter (fun i => !e.stays || (e.sectorPage i).any (inStripe ch k))

/-- Copies a unit out of a victim (R198): one multi-plane program with MOVED and POIS; one that fails is made again in the next page of
another stripe (R211). None when no page is left. -/
def Copies.unit (z : Copies) (ch k : Nat) (fails : List (Nat × List Nat)) (fuel key : Nat) : Option Copies :=
  match fuel with
  | 0 => none
  | n + 1 =>
    let s := z.st
    let ns := key / 2 ^ 32
    let unit := key % 2 ^ 32
    let e := s.mapEnt ns unit
    let is := e.moving ch k
    match s.takePage (z.dest ch) false with
    | none => none
    | some (q, t) =>
      let u := t.emit (.nand (pageCh q) (pageCe q) (s.programOps false is))
      match (fails.find? (fun f => f.1 == z.tries)).map (·.2) with
      | some (p :: ps) => Copies.unit { z with st := u.pageLost q unit (p :: ps), tries := z.tries + 1 } ch k fails n key
      | _ =>
        let pg : FPage := { ns := ns, unit := unit, wseq := s.flash.wseq, slc := false, hot := e.hot, moved := true, dat := s.unitIn ns unit }
        let v := { u with flash := { u.flash with pages := Tbl.set u.flash.pages q pg, wseq := u.flash.wseq + 1 } }
        some ⟨(v.count (kFceProgs (pageCh q)) 1).count kFtlNandbytes (sectorSize * is.length), z.tries + 1, z.done ++ [(key, q)]⟩

/-- Copies units, in order; none when pages run out. -/
def Copies.units (z : Copies) (ch k : Nat) (fails : List (Nat × List Nat)) (keys : List Nat) : Option Copies :=
  match keys with
  | [] => some z
  | x :: r => (z.unit ch k fails (fails.length + 1) x).bind (fun y => y.units ch k fails r)

/-- GCMAP and the map of a unit copied out of a victim into page `q` (R185, R198). -/
def State.mapMoved (s : State) (ch k key q : Nat) : State :=
  let ns := key / 2 ^ 32
  let unit := key % 2 ^ 32
  let e := s.mapEnt ns unit
  let is := e.moving ch k
  let f : MapEnt := if e.stays then { e with sect := is.foldl (fun z i => Tbl.set z i q) e.sect }
    else { e with page := q, split := false, sect := [] }
  let v := if e.stays then s.each is (fun i w => w.journal .gcmap true ns (16 * unit + i) (physAddr q false i) (s.sectorPa e i))
    else s.journal .gcmap false ns unit (physAddr q false 0) (s.entPa e)
  v.setMap ns unit { f with psn := v.entPsn f }

/-- The pages that the copies of a victim's units read, with the sectors of each (R198). -/
def State.victimPages (s : State) (ch k : Nat) (keys : List Nat) : Tbl (List Nat) :=
  keys.flatMap (fun key =>
    let e := s.mapEnt (key / 2 ^ 32) (key % 2 ^ 32)
    e.pageSects (fun i => (e.moving ch k).contains i && ((e.sectorPage i).bind s.page).isSome))

/-- What follows the copies of a victim (R198): the GCMAP records and the map, then GCCOMMIT. -/
def State.collected (s : State) (ch k : Nat) (fold : Bool) (n : Nat) (done : List (Nat × Nat)) : State :=
  let b := (s.each done (fun e t => t.mapMoved ch k e.1 e.2)).count (if fold then kFtlFoldunits else kFtlGcmoves) n
  let d := (b.setStripe ch k { (b.stripe ch k) with st := .victim }).journal .gccommit false 0 (stripeKey ch k) 0 0
  { d with flash := { d.flash with gc := Tbl.set d.flash.gc ch ⟨k, true, fold⟩ } }.gcMarks

/-- Collects a victim up to its GCCOMMIT (R198), the copies at once (log 54): reads, with the errors they meet (R170), then the copies, then
the GCMAP records. A channel whose data fit nowhere turns read-only (R213). -/
def State.collect (s : State) (ch k : Nat) (fold : Bool) (env : CopyEnv) : State :=
  let us := s.validUnits ch k
  let a := s.roCheck ch
  match (Copies.mk (a.readCached (a.victimPages ch k us) env.reads) 0 []).units ch k env.fails us with
  | none => a
  | some z => z.st.collected ch k fold us.length z.done

/-- Are all dies of a channel free of array commands? -/
def State.diesFree (s : State) (ch : Nat) : Bool := !(s.dies ch).any (fun c => Tbl.has s.flash.dies (dieKey ch c))

/-- May a collection start in a channel (R207, R487)? One runs at a time. -/
def State.gcMay (s : State) (ch : Nat) : Bool :=
  s.hw.variant.flash && s.pwr.phase == .running && s.flashChans.contains ch && s.pwr.flushing.isNone
  && !s.flag fFtlStateFlusharm && !Tbl.has s.flash.gc ch && s.diesFree ch

/-- FOLD_START (R196): folding runs from above FOLDHI until below FOLDLO, the SLC stripe with the lowest WSEQ first. -/
def execFoldStart (ch : Nat) (e : CopyEnv) (s : State) : Outcome :=
  s.onlyIf (s.gcMay ch) (fun s =>
    let t : State := if s.slcOver ch (s.fld fFtlCfgFoldhi) then
        { s with flash := { s.flash with foldOn := Tbl.set s.flash.foldOn ch true } } else s
    let u := t.gcMarks
    if Tbl.get false u.flash.foldOn ch then
      match leastBy (fun k => [u.stripeWseq ch k, k]) (u.closed ch true) with
      | some k => u.collect ch k true e
      | none => u
    else u)

/-- GC_START (R197, R211, R213). -/
def execGcStart (ch : Nat) (e : CopyEnv) (s : State) : Outcome :=
  s.onlyIf (s.gcMay ch) (fun s =>
    let t : State := if s.freeQlc ch < s.fld fFtlCfgGclo then { s with flash := { s.flash with gcOn := Tbl.set s.flash.gcOn ch true } } else s
    let u := t.gcMarks
    match u.gcVictim ch with
    | some k => u.collect ch k false e
    | none => u.roCheck ch)

/-! ## The erase of a victim -/

/-- The planes of each die whose block of a stripe is erased: all but those that are retired without erase (R211). -/
def State.erasePlanes (s : State) (ch k : Nat) : List (Nat × List Nat) :=
  let worn := Tbl.get [] s.flash.urgent (stripeKey ch k)
  ((s.dies ch).map (fun c => (c, (List.range 4).filter (fun n => !worn.contains (4 * c + n))))).filter (fun e => !e.2.isEmpty)

/-- The location of a block in a report (R214). -/
def locBlock (ch plane k : Nat) : List Byte := locFlash ch (plane / 4) (plane % 4) k 0 0

/-- Marks the block of a stripe in a plane bad: RETIRE, RETIRED and the list of bad blocks (R187, R201, R220). -/
def State.markBadBlock (s : State) (ch k plane : Nat) : State :=
  let key := planeKey ch plane
  let l := Tbl.get [] s.flash.badBlocks key ++ [s.blockUsed ch plane k]
  let pa := physAddr (pageNo ch (plane / 4) k 0) (decide (k < s.slcStripes)) (plane % 4 * 4)
  ({ s with flash := { s.flash with badBlocks := Tbl.set s.flash.badBlocks key l } }.journal .retire false 0 (stripeKey ch k) 0 pa).count
    (kFceRetired ch) 1

/-- A spare block `n` of the plane takes the place (R187, R202, R212): the substitution tables of the superblocks follow, and the plane's
last spares raise SPARELOW and SPAREOUT. -/
def State.spareIn (s : State) (ch k plane n : Nat) : State :=
  let key := planeKey ch plane
  let left := s.spareLeft ch plane
  let c : State := { s with flash := { s.flash with spares := Tbl.set s.flash.spares key (left - 1),
                                                    subst := Tbl.set s.flash.subst (key * 16384 + k) n } }
  let d := c.putSupers (((c.superNow []).map (·.ckpt)).getD 0)
  let low := fun (n : Nat) => decide (4 * n ≤ s.flash.sparesFmt)
  let e := if low (left - 1) && !low left then d.flashEvent (eFce ch) 5 0x0306 2 (locBlock ch plane k) else d
  if left = 1 then (e.flashEvent (eFce ch) 6 0x0307 0 (locBlock ch plane k)).replace 0 else e

/-- Retires the block of a plane (R187, R210, R212): the plane's next spare takes its place, and the superblock names it; without one the
stripe is retired, which the second part tells. -/
def State.retireBlock (s : State) (ch k plane : Nat) : State × Bool :=
  let b := s.markBadBlock ch k plane
  match b.nextSpare ch plane with
  | none => (b.flashEvent (eFce ch) 7 0x0308 2 (locBlock ch plane k), true)
  | some n => (b.spareIn ch k plane n, false)

/-- The mean QLC erase count of a channel as a sum and a count (R214). -/
def State.qlcWear (s : State) (ch : Nat) : Nat × Nat :=
  let qs := (s.stripesOf false).filter (fun k => (s.stripe ch k).st != .retired)
  ((qs.map (fun k => (s.stripe ch k).erases)).foldl (· + ·) 0, qs.length)

/-- WEARWARN and WEARLIM when the mean erase count reaches its mark (R214). -/
def State.wearEvents (t s : State) (ch : Nat) : State :=
  let per := t.fld fFtlWearPerated
  let at_ := fun (u : State) (m : Nat) => let w := u.qlcWear ch; decide (w.2 ≠ 0) && decide (m * w.2 ≤ 100 * w.1)
  let hit := fun (m : Nat) => at_ t m && !at_ s m
  let a := if hit (t.fld fFtlWearWearpct * per) then t.flashEvent eFtl 2 0x030B 2 (locFlash ch 0 0 0 0 0) else t
  if hit (100 * per) then a.flashEvent eFtl 3 0x030C 2 (locFlash ch 0 0 0 0 0) else a

/-- The stripe of an erase that has ended (R187, R198): free, or retired, with its pages gone and one more erase. -/
def State.stripeErased (s : State) (ch k : Nat) (gone : Bool) : State :=
  let x := s.stripe ch k
  let c := s.setStripe ch k { x with st := if gone then .retired else .free, next := 0, erases := x.erases + 1 }
  { c with flash := { c.flash with
    pages := Tbl.drop c.flash.pages (inStripe ch k), urgent := Tbl.erase c.flash.urgent (stripeKey ch k),
    gc := if (Tbl.find c.flash.gc ch).any (fun g => g.victim == k) then Tbl.erase c.flash.gc ch else c.flash.gc } }

/-- The erase of a stripe has ended (R198, R210 to R212): the blocks in `bad`, as ce × 4 + plane, failed; they and those retired without
erase are replaced, and ERASED is written. -/
def State.eraseDone (s : State) (ch k : Nat) (bad : List Nat) : State :=
  let worn := (Tbl.get [] s.flash.urgent (stripeKey ch k)).filter (fun n => !bad.contains n)
  let b := s.each bad (fun n t => t.flashEvent (eFce ch) 4 0x0305 2 (locBlock ch n k))
  let r := (bad ++ worn).foldl (fun (z : State × Bool) n => let y := z.1.retireBlock ch k n; (y.1, z.2 || y.2)) (b, false)
  ((((r.1.stripeErased ch k r.2).journal .erased false 0 (stripeKey ch k) 0 0).count (kFceErases ch) 1).wearEvents s ch).roCheck ch

/-- What goes on once a stripe is erased: marks, the cap, and what waited for pages or dies. -/
def State.afterErase (s : State) : State := s.gcMarks.capRecompute.retryUpdates.sloeNext.progPending

/-- Has every read dispatched to a stripe completed (R199)? -/
def State.readsDone (s : State) (ch k : Nat) : Bool := !s.flash.fetches.any (fun f => f.parts.any (fun x => inStripe ch k x.page))

/-- VICTIM_ERASE (R199): the erase starts once every read dispatched to the victim has completed and the dies are free. A stripe whose
blocks are all retired without erase is done at once. -/
def execVictimErase (ch : Nat) (s : State) : Outcome :=
  s.onlyIf (s.hw.variant.flash && s.pwr.phase == .running && s.pwr.flushing.isNone) (fun s =>
    match Tbl.find s.flash.gc ch with
    | none => s
    | some g =>
      if !g.commit || !s.diesFree ch || !s.readsDone ch g.victim then s
      else
        match s.erasePlanes ch g.victim with
        | [] => (s.eraseDone ch g.victim []).afterErase
        | ps =>
          s.each ps (fun e t =>
            { t with flash := { t.flash with dies := Tbl.set t.flash.dies (dieKey ch e.1) ⟨.erase g.victim, false, []⟩ } }.emit
              (.nand ch e.1 (s.eraseOps (decide (g.victim < s.slcStripes)) e.2))))

/-- NAND_ERASE_COMPLETE (R198, R210 to R212): every die with an erase of the stripe has been polled ready; `fails` names the blocks,
as ce × 4 + plane, whose status showed FAIL. -/
def execNandEraseComplete (ch k : Nat) (fails : List Nat) (s : State) : Outcome :=
  let ps := s.erasePlanes ch k
  let done := fun (c : Nat) => (Tbl.find s.flash.dies (dieKey ch c)).any (fun d => d.op == .erase k && d.ready)
  s.onlyIf (!ps.isEmpty && ps.all (fun e => done e.1)) (fun s =>
    let bad := ps.flatMap (fun e => (e.2.map (4 * e.1 + ·)).filter (fun n => fails.contains n))
    ((s.each ps (fun e t => t.dieFree ch e.1)).eraseDone ch k bad).afterErase)

/-! ## Checkpoint and calibration -/

/-- The bytes of a checkpoint of the whole map in whole pages: 8 for each unit of a namespace, 128 for each split unit (R183, R184, R202). -/
def State.ckptBytes (s : State) : Nat :=
  let units := (s.flash.nsLen.map (·.2)).foldl (· + ·) 0
  roundUp (8 * units + 128 * (s.flash.map.filter (fun e => e.2.split)).length) unitSize

/-- Writes a checkpoint (R202), CKPT with its address, and the superblocks that name it. It lies in the system stripe of the journal's
first channel, in the place that the checkpoint before it does not have (log 100). The journal before it is dropped, but for the GCCOMMIT of
a victim that is not erased yet. -/
def State.putCkpt (s : State) : State :=
  let ch := (s.flash.jchs.head?).getD 0
  let at_ := fun (n : Nat) => physAddr (pageNo ch (((s.dies ch).head?).getD 0) 0 n) true 0
  let old := ((s.superNow []).map (·.ckpt)).getD 0
  let pa := if old = at_ 1 then at_ 2 else at_ 1
  let n := s.ckptBytes
  let open_ := fun (r : JRec) => r.jtype == .gccommit && s.flash.gc.any (fun e => stripeKey e.1 e.2.victim == r.logical)
  let t := ({ s with flash := { s.flash with ckpts := Tbl.set (Tbl.erase s.flash.ckpts old) pa ⟨s.flash.jseq, s.flash.map⟩,
                                             wseq := s.flash.wseq + n / unitSize, journal := (s.flash.journal.1.filter open_, s.flash.journal.2.filter open_) } }.count
    kFtlNandbytes n)
  let u := (t.journal .ckpt false 0 0 pa 0).putSupers pa
  { u with flash := { u.flash with sinceCkpt := 0 } }

/-- CHECKPOINT (R202): after 2^20 journal records. -/
def execCheckpoint (s : State) : Outcome :=
  s.onlyIf (s.hw.variant.flash && s.pwr.phase == .running && decide (2 ^ 20 ≤ s.flash.sinceCkpt)) State.putCkpt

/-- ZQ_CALIBRATION (R164): ZQ CALIBRATION SHORT to every die. -/
def execZqCalibration (s : State) : Outcome :=
  s.onlyIf (s.hw.variant.flash && s.pwr.phase == .running) (fun s =>
    s.each s.flashChans (fun ch t => t.each (t.dies ch) (fun c u => u.emit (.nand ch c [0xD9]))))

/-! ## Scrub (R456) -/

/-- The line of the write buffer that lies in a line of HBM: place and line of the unit (R190; log 113). -/
def State.wbLine (s : State) (ch row line : Nat) : Option (Nat × Nat) :=
  match Tbl.find s.flash.wbRows ch with
  | none => none
  | some b =>
    let x := ((row - b) * 32 + ch) * 1024 + 64 * line
    if b ≤ row ∧ x < s.wbSize then some (x / unitSize, x % unitSize / 64) else none

/-- Poisons a line of HBM, with what it holds of the write buffer. -/
def State.poisonLine (s : State) (ch row line : Nat) : State :=
  match s.wbLine ch row line with
  | some w =>
    { s with flash := { s.flash with wbuf := s.flash.wbuf.map (fun u =>
      if u.slot = w.1 then { u with dat := { u.dat with pois := poisSet u.dat.pois [w.2] } } else u) } }
  | none => s.hbmPoisonLines [rowKey ch row / 64 + line]

/-- What scrub does with one finding: a corrected row is written again, an uncorrectable line receives the marker. -/
def State.scrubOne (s : State) (f : ScrubFind) : State :=
  let k := f.ch * 2 ^ 32 + f.row
  match f.line with
  | none => { s with alloc := { s.alloc with ceRows := Tbl.set s.alloc.ceRows k (Tbl.get 0 s.alloc.ceRows k + 1) } }.count kChkScrubce 1
  | some l =>
    let a := (s.count kChkScrubue 1).poisonLine f.ch f.row l
    (a.cper (a.nodeReport 0x0201 0 (locHbm f.ch f.row l) [])).retireRow f.ch f.row

/-- SCRUB_PASS (R456): findings in rows the stacks have; then the rows with CEROW corrected errors in the interval are retired, and
a new interval begins. -/
def execScrubPass (finds : List ScrubFind) (s : State) : Outcome :=
  s.onlyIf (s.pwr.phase == .running) (fun s =>
    let fs := finds.filter (fun f => decide (f.ch < s.nch) && decide (f.row < rowsPerChannel) && f.line.all (fun l => decide (l < 16)))
    let a := fs.foldl State.scrubOne s
    let due := (a.alloc.ceRows.filter (fun e => decide (max 1 (a.fld fChkCtlCerow) ≤ e.2))).map (·.1)
    let b := a.each due (fun k t => t.retireRow (k / 2 ^ 32) (k % 2 ^ 32))
    { b with alloc := { b.alloc with ceRows := [] } })

/-! ## The hot-row window (R344, R345) -/

/-- HOTWIN_BOUNDARY (R344, R345): the decisions wait for the next step boundary; counts and errors start again. HOTROWS counts the rows
that the decisions leave replicated (log 55). -/
def execHotwinBoundary (table : Nat) (s : State) : Outcome :=
  match Tbl.find s.tables.descs table with
  | none => .next s
  | some d =>
    s.onlyIf (s.pwr.phase == .running) (fun s =>
      let hot := fun (r : Nat) => ((s.tables.hot.find? (fun e => e.table == table && e.row == r)).map (fun e => e.count - e.err)).getD 0
      let has := fun (r : Nat) => Tbl.has s.tables.replicas (table * 2 ^ 40 + r)
      let new := (s.tables.hot.filter (fun e => e.table == table && decide (d.hotth ≤ e.count - e.err) && !has e.row)).map (·.row)
      let old := (s.tables.replicas.filter (fun e => e.1 / 2 ^ 40 == table)).map (fun e => e.1 % 2 ^ 40)
      let gone := old.filter (fun r => decide (4 * hot r < d.hotth))
      let ds := if bitOf d.tflags 1 then new.map (fun r => (table, r, true)) ++ gone.map (fun r => (table, r, false)) else []
      let n := s.tables.replicas.length + (ds.filter (·.2.2)).length - (ds.filter (fun x => !x.2.2)).length
      { s with tables := { s.tables with
        decisions := s.tables.decisions ++ ds,
        hot := s.tables.hot.map (fun (e : HotEnt) => if e.table = table then { e with count := 0, err := 0 } else e),
        counters := s.tables.counters.set tHotrows n } })

end Sys2Proof.Machine
end

