-- ==== Sys2Proof/Machine/HostQueues.lean ====
section
/-! DEFINITION. Host commands on queues, virtual functions and tenants (R330 to R333, R395, R509, R516, R521, R607, R609). -/

namespace Sys2Proof.Machine

/-! ## Queues -/

/-- Has the function a queue of this number (R509, R511)? -/
def State.queueOk (s : State) (fn q : Nat) : Bool :=
  if fn = 0 then decide (q < 64) else decide (fn ≤ s.fld fHstCfgNumvf) && decide (q < 4)

/-- A ring (R516). -/
def ringOk (depth ring : Nat) : Bool := decide (2 ≤ depth) && decide (depth ≤ 4096) && ring % 4096 == 0

/-- CREATE_CQ (R516, R519, R521). -/
def execCreateCq (h : HostHdr) (fn q depth : Nat) (ien : Bool) (ring : Nat) (s : State) : Outcome :=
  s.hostRun h (fun s =>
    s.wellFormed h 516 (s.queueOk fn q && ringOk depth ring && !Tbl.has s.host.cqs (qKey fn q))
      (.next ((s.setCq (qKey fn q) { depth := depth, ring := ring, ien := ien, head := 0, tail := 0, count := 0, phase := true,
                                     enabled := true, waiting := [] }).completeSt h .ok)))

/-- CREATE_SQ (R516, R521): bound to a completion queue of the same function. -/
def execCreateSq (h : HostHdr) (fn q depth cq ring : Nat) (s : State) : Outcome :=
  s.hostRun h (fun s =>
    s.wellFormed h 516 (s.queueOk fn q && ringOk depth ring && !Tbl.has s.host.sqs (qKey fn q) && Tbl.has s.host.cqs (qKey fn cq))
      (.next ((s.setSq (qKey fn q) { depth := depth, cq := cq, ring := ring, head := 0, tail := 0, enabled := true,
                                     running := [] }).completeSt h .ok)))

/-- DELETE_SQ (R521): the queue takes no more entries, and goes when its running commands have completed. The admin queue and the
queue of the command itself stay. -/
def execDeleteSq (h : HostHdr) (fn q : Nat) (s : State) : Outcome :=
  s.hostRun h (fun s =>
    s.need h (Tbl.find s.host.sqs (qKey fn q)) (fun sq =>
      s.wellFormed h 516 (!(fn == 0 && q == 0) && !(fn == h.fn && q == h.q))
        (let t := s.setSq (qKey fn q) { sq with enabled := false }
         .next ((({ t with host := { t.host with waits := t.host.waits ++ [(h, HostWait.delSq fn q)] } }).settleSq (h, HostWait.delSq fn q))))))

/-- DELETE_CQ (R521): no submission queue may still be bound to it. -/
def execDeleteCq (h : HostHdr) (fn q : Nat) (s : State) : Outcome :=
  s.hostRun h (fun s =>
    s.need h (Tbl.find s.host.cqs (qKey fn q)) (fun _ =>
      s.wellFormed h 521 (!(fn == 0 && q == 0) && !s.host.sqs.any (fun e => e.1 / 64 == fn && e.2.cq == q))
        (.next (({ s with host := { s.host with cqs := Tbl.erase s.host.cqs (qKey fn q) } }).completeSt h .ok))))

/-- VF_BIND (R509, R521, R609). Tenant 0xFFFF unbinds the VF; VF 0 unbinds every VF of the tenant (log 34). -/
def execVfBind (h : HostHdr) (vf tenant : Nat) (s : State) : Outcome :=
  s.hostRun h (fun s =>
    let go := s.wellFormed h 509 (decide (vf ≤ s.fld fHstCfgNumvf))
      (let b := if tenant = 0xFFFF then Tbl.erase s.host.binds vf
         else if vf = 0 then s.host.binds.filter (fun e => e.2 != tenant)
         else Tbl.set s.host.binds vf tenant
       .next (({ s with host := { s.host with binds := b } }).completeSt h .ok))
    if tenant = 0xFFFF then go else s.need h (s.tenant? tenant) (fun _ => go))

/-- The VF information page of a VF (R512): TENANT, BOUND, NSQ, NCQ and QERR. -/
def State.vfInfo (s : State) (vf : Nat) : Nat :=
  let sqs := s.host.sqs.filter (fun e => e.1 / 64 == vf)
  let cqs := s.host.cqs.filter (fun e => e.1 / 64 == vf)
  let tenant := Tbl.find s.host.binds vf
  (tenant.getD 0) % 2 ^ 16 + 2 ^ 16 * b2n tenant.isSome + 2 ^ 17 * (sqs.length % 8) + 2 ^ 20 * (cqs.length % 8)
    + 2 ^ 23 * b2n (sqs.any (fun e => !e.2.enabled) || cqs.any (fun e => !e.2.enabled))

/-! ## Tenants -/

/-- A new tenant (R32, R330, R395, R521). -/
def tenantNew : Tenant :=
  { limit := QuotaRec.none, used := QuotaRec.none, resident := false, rate := ⟨0, 0, 0, 0, 144⟩, ptokens := 0, stokens := 0,
    poldrop := 0, shaped := 0, hwm := [], energy := 0, held := 0, prog := Progress.zero }

/-- TENANT_CREATE (R11, R521). -/
def execTenantCreate (h : HostHdr) (tenant : Nat) (s : State) : Outcome :=
  s.hostCmd h (fun s =>
    if 4096 ≤ tenant ∨ (s.tenant? tenant).isSome then s.completeSt h .badArg
    else ({ s with work := { s.work with tenants := Tbl.set s.work.tenants tenant tenantNew } }).completeSt h .ok)

/-- Has a tenant an object left (R521): an index, plan, table, connection, keyed region or request? -/
def State.tenantBusy (s : State) (t : Nat) : Bool :=
  s.idx.desc.any (fun e => e.2.c.tenant == t) || s.work.plans.any (fun e => e.2.owner == t)
  || s.tables.descs.any (fun e => e.2.tenant == t) || s.fab.conns.any (fun e => e.2.rec_.tenant == t && e.2.st != .closed)
  || s.fab.regions.any (fun e => e.2.rec_.tenant == t) || s.work.reqs.any (fun r => r.tenant == t)

/-- TENANT_DELETE (R521, R609); objects that are still there are a host error. -/
def execTenantDelete (h : HostHdr) (tenant : Nat) (s : State) : Outcome :=
  s.hostRun h (fun s =>
    s.need h (s.tenant? tenant) (fun _ =>
      s.wellFormed h 521 (!s.tenantBusy tenant)
        (.next (({ s with work := { s.work with tenants := Tbl.erase s.work.tenants tenant } }).completeSt h .ok))))

/-- SET_QUOTA (R7, R330, R333). -/
def execSetQuota (h : HostHdr) (tenant : Nat) (q : QuotaRec) (s : State) : Outcome :=
  s.hostRun h (fun s =>
    if !s.hw.variant.flash && q.flash != 0 then .next (s.completeSt h .notPresent)
    else
      s.need h (s.tenant? tenant) (fun x =>
        s.wellFormed h 330 (decide (q.cores ≤ 192) && decide (q.leases ≤ 256) && decide (q.indexes ≤ 1024))
          (.next ((s.modTenant tenant (fun _ => { x with limit := q })).completeSt h .ok))))

/-- QUOTA_STATS (R330): the record of present use. -/
def execQuotaStats (h : HostHdr) (tenant : Nat) (s : State) : Outcome :=
  s.hostRun h (fun s => s.need h (s.tenant? tenant) (fun x => s.answerWith h (quotaBytes tenant x.used)))

/-- Buckets after a change of rates (R394). -/
def rateChange (x : Tenant) (r : RateRec) : Tenant :=
  { x with rate := r,
           ptokens := if r.prate = 0 ∨ x.rate.prate = 0 then r.pburst * 8192 else min x.ptokens (r.pburst * 8192),
           stokens := if r.srate < x.rate.srate then 0 else r.sburst * 8192 }

/-- SET_RATE (R394, R395). -/
def execSetRate (h : HostHdr) (tenant : Nat) (r : RateRec) (s : State) : Outcome :=
  s.hostRun h (fun s =>
    s.need h (s.tenant? tenant) (fun _ =>
      s.wellFormed h 395 (decide (1 ≤ r.tquant) && decide (r.tquant ≤ 4095))
        (.next ((s.modTenant tenant (fun x => rateChange x r)).completeSt h .ok))))

/-- SET_CLASS (R7, R32, R521). -/
def execSetClass (h : HostHdr) (tenant cls : Nat) (s : State) : Outcome :=
  s.hostRun h (fun s =>
    if cls = 1 ∧ !s.hw.variant.mac then .next (s.completeSt h .notPresent)
    else
      s.need h (s.tenant? tenant) (fun _ =>
        s.wellFormed h 521 (decide (cls ≤ 1))
          (.next ((s.modTenant tenant (fun x => { x with resident := cls == 1 })).completeSt h .ok))))

/-! ## Statistics (R352, R462, R483) -/

/-- TIER_STATS (R352): the counters in the order of the table. -/
def execTierStats (h : HostHdr) (s : State) : Outcome :=
  s.hostRun h (fun s => s.answerWith h (s.tables.counters.flatMap (leBytes 8)))

/-- The six totals in the order of R461. -/
def progBytes (p : Progress) : List Byte :=
  [p.commit, p.replay, p.lost, p.stall, p.ballast, p.idle].flatMap (leBytes 8)

/-- PROGRESS_STATS (R462): a tenant's totals, or the node's for 0xFFFF. -/
def execProgressStats (h : HostHdr) (tenant : Nat) (s : State) : Outcome :=
  s.hostRun h (fun s =>
    if tenant = 0xFFFF then
      s.answerWith h ((List.range 6).flatMap (fun i => leBytes 8 (s.reg64 (kChkCommit + 8 * i))))
    else s.need h (s.tenant? tenant) (fun x => s.answerWith h (progBytes x.prog)))

/-- ENERGY_STATS (R483): for each tenant its number, total and count of held windows (layout: log 35), as many as RLEN holds. -/
def execEnergyStats (h : HostHdr) (s : State) : Outcome :=
  s.hostCmd h (fun s =>
    s.complete h .ok ((s.work.tenants.take (h.rlen / 24)).flatMap (fun e =>
      leBytes 8 e.1 ++ leBytes 8 e.2.energy ++ leBytes 8 e.2.held)) [])

/-- FAB_TSTATS (R398, R409): policer drops, shaper count and the residence marks of each port and class (layout: log 35). -/
def execFabTstats (h : HostHdr) (tenant : Nat) (clear : Bool) (s : State) : Outcome :=
  s.hostRun h (fun s =>
    s.need h (s.tenant? tenant) (fun x =>
      let bs := leBytes 8 x.poldrop ++ leBytes 8 x.shaped ++ (List.range 48).flatMap (fun i => leBytes 4 (Tbl.get 0 x.hwm i))
      let t := if clear then s.modTenant tenant (fun y => { y with poldrop := 0, shaped := 0, hwm := [] }) else s
      t.answerWith h bs))

/-! ## Logs (R318, R465) -/

/-- STEP_LOG (R318): records from the oldest unread one, as many as RLEN holds. -/
def execStepLog (h : HostHdr) (s : State) : Outcome :=
  s.hostCmd h (fun s =>
    let n := min s.work.stepUnread (h.rlen / 96)
    let rs := (s.work.stepLog.drop (s.work.stepLog.length - s.work.stepUnread)).take n
    ({ s with work := { s.work with stepUnread := s.work.stepUnread - n } }).complete h .ok (rs.flatMap StepRec.bytes) [])

/-- ERR_LOG (R465): records from the host's oldest unread one, as many as RLEN holds; the host's mark moves. -/
def execErrLog (h : HostHdr) (s : State) : Outcome :=
  s.hostCmd h (fun s =>
    let rs := (s.chk.ring.filter (fun c => decide (s.chk.hostMark ≤ c.rseq))).take (h.rlen / 328)
    ({ s with chk := { s.chk with hostMark := (rs.getLast?.map (fun (c : Cper) => c.rseq + 1)).getD s.chk.hostMark } }).complete h .ok
      (rs.flatMap cperRecord) [])

end Sys2Proof.Machine
end

