-- ==== Sys2Proof/Machine/Maintenance.lean ====
section
/-! DEFINITION. Maintenance of indexes: merge and compaction (R74, R75), splits and list merges (R76 to R78), the end of a
re-clustering pass (R70, R77), retired extents (R73) and the side-extent wait (R57). Each row is the whole procedure, so no update
falls between its steps (R72). -/

namespace Sys2Proof.Machine

/-- A lease of a maintenance plan is admitted and not held. -/
def State.maintReady (s : State) : Bool := s.work.leases.any (fun e => e.2.maint && e.2.st == .open_ && !e.2.held)

/-- Maintenance that falls due (R298): it runs on an admitted lease of a MAINT plan. Where no such lease is open the node opens one, of the
lowest-numbered MAINT plan (log 114), which waits for its admission; at the node limit it waits for a lease to close. -/
def State.maintDue (s : State) (f : State → State) : State :=
  if s.maintReady then f s
  else if s.work.leases.any (fun e => e.2.maint) then s
  else
    match s.work.plans.find? (fun e => e.2.hdr.kind == 6) with
    | none => s
    | some p =>
      match s.openLease p.1 with
      | .ok (_, t) => t
      | .error _ => s

/-- The index whose list `l` maintenance may change: an ACTIVE list with a clean header, of an ACTIVE index. -/
def State.maintOf (s : State) (l : Nat) : Option (Hdr × Desc) :=
  (s.hdr? l).bind (fun h => (s.desc? h.owner).bind (fun d =>
    if d.st = .active ∧ h.st = .active ∧ !s.hdrBad l then some (h, d) else none))

/-- Maintenance of a list. What falls due in Idle-2 wakes the node (R494); while VWARN, a recovery or a flush keeps steps out it waits. -/
def State.maintList (s : State) (l : Nat) (f : Hdr → Desc → State → State) : Outcome :=
  if !s.serving then .next s
  else
    match s.maintOf l with
    | none => .next s
    | some (h, d) =>
      if s.fld fNrgStatePstate = 4 then .next (s.setFld fNrgStatePstate 5)
      else if s.fld fNrgStatePstate ≠ 0 then .next s
      else .next (s.maintDue (f h d))

/-! ## Building extents -/

/-- Zeros over a range of a channel. -/
def State.chClear (s : State) (ch off n : Nat) : State :=
  let k := chKey ch off
  { s with mem := { s.mem with hbm := Tbl.drop s.mem.hbm (fun x => k ≤ x && x < k + n),
                               hbmPoison := Tbl.drop s.mem.hbmPoison (fun l => k ≤ 64 * l && 64 * l < k + n) } }

/-- Rows for an extent of a capacity, all zero (R53, R55). -/
def State.newExt (s : State) (c : CreateFields) (ch cap : Nat) : Option (Nat × State) :=
  if cap = 0 then some (0, s)
  else if 1048576 < cap then none
  else (s.rowsTake ch (extRows c cap)).map (fun e => (e.1, e.2.chClear ch (1024 * e.1) (1024 * extRows c cap)))

/-- A copy area for a capacity (R67). -/
def State.newCopy (s : State) (c : CreateFields) (copy : Bool) (cap : Nat) : Option (Nat × State) :=
  if !copy || cap == 0 then some (0, s) else s.areaTake (copySlot c * cap)

/-- New main and side extents of a list in a channel, empty, under the next generation (R50, R57, R74). -/
def State.rebuild (s : State) (c : CreateFields) (h : Hdr) (ch mcap : Nat) : Option (Hdr × State) :=
  match s.newExt c ch mcap with
  | none => none
  | some (mb, a) =>
    match a.newExt c ch c.sidecap with
    | none => none
    | some (sb, b) =>
      match b.newCopy c h.copy mcap with
      | none => none
      | some (mc, e) =>
        (e.newCopy c h.copy c.sidecap).map (fun z =>
          ({ h with home := ch, gen := (h.gen + 1) % 65536, mbase := mb, mcount := 0, mcap := mcap, sbase := sb, scount := 0,
                    scap := c.sidecap, tombs := 0, mcopy := mc, scopy := z.1 }, z.2))

/-- Copies a slot with its filter bits, its copy slot and the poison of its lines (R74 step 3, R455). -/
def State.moveSlot (s : State) (c : CreateFields) (h : Hdr) (x : SlotAt) (g : Hdr) (y : SlotAt) : State :=
  let t := s.writeSlot c g y (s.slotSketch c h x) (s.slotVid c h x) (s.slotRec c h x) false (s.slotFilter c h x)
  let e := g.ext y.side
  let bad := fun (b : Bool) (off n : Nat) => if b then linesOf (chKey g.home off) n else []
  let u := t.hbmPoisonLines (bad (s.sketchPois c h x) (skOff c e y.slot) (skBits c.skw / 8)
    ++ bad (s.entryPois c h x) (entOff c e y.slot) 16
    ++ (List.range (c.planes + 1)).flatMap (fun q => bad (s.planePois c h q x) (planeOff c e q y.slot) 1))
  if h.copy && g.copy then
    let a := h.copyAt c x
    u.ilvStore (g.copyAt c y) (s.ilvRead a (copySlot c)) (List.replicate (copySlot c / 64 + 2) (s.ilvPois a (copySlot c)))
  else u

/-- Copies slots of lists into the main extent of a new header, in order, and counts them there. -/
def State.moveSlots (s : State) (c : CreateFields) (xs : List (Hdr × SlotAt)) (g : Hdr) : State :=
  xs.zipIdx.foldl (fun t e => t.moveSlot c e.1.1 e.1.2 g ⟨false, e.2⟩) s

/-- The live slots of a list, main then side, and the records of the others (R73, R74). -/
def State.liveSlots (s : State) (c : CreateFields) (h : Hdr) : List SlotAt := h.slots.filter (fun x => !s.slotBit c h 0 x)
def State.deadRecs (s : State) (c : CreateFields) (h : Hdr) : List Nat :=
  (h.slots.filter (s.slotBit c h 0)).map (s.slotRec c h)

/-- Retires the extents of a list's old header (R73). -/
def State.retire (s : State) (c : CreateFields) (l : Nat) (h : Hdr) (recs : List Nat) : State :=
  let spans := (if h.mcap = 0 then [] else [⟨h.mbase, extRows c h.mcap⟩]) ++ (if h.scap = 0 then [] else [⟨h.sbase, extRows c h.scap⟩])
  let areas := (if h.copy && h.mcap != 0 then [⟨h.mcopy, copySlot c * h.mcap⟩] else [])
    ++ (if h.copy && h.scap != 0 then [⟨h.scopy, copySlot c * h.scap⟩] else [])
  { s with alloc := { s.alloc with retired := s.alloc.retired ++
      [{ list := l, gen := h.gen, ch := h.home, spans := spans, areas := areas, index := h.owner, recs := recs }] } }

/-! ## Merge and compaction -/

/-- Is a merge or a compaction of a list due (R74)? -/
def mergeDue (h : Hdr) (d : Desc) : Bool := decide (d.c.mergeth ≤ h.scount)
def compactDue (h : Hdr) (d : Desc) : Bool := h.mcount != 0 && decide (d.c.compth * h.mcount ≤ h.tombs * 256)

/-- Rebuilds a list without tombstones and side entries in a channel (R74); none where it has no room. -/
def State.mergeInto (s : State) (l : Nat) (h : Hdr) (d : Desc) (ch : Nat) : Option State :=
  let c := d.c
  let xs := s.liveSlots c h
  (s.rebuild c h ch (roundUp xs.length 64)).map (fun e =>
    let u := e.2.moveSlots c (xs.map (fun x => (h, x))) e.1
    let v := (u.setHdr l { e.1 with mcount := xs.length }).retire c l h (s.deadRecs c h)
    { v with idx := { v.idx with deferred := v.idx.deferred.filter (· != l) } })

/-- Retries a deferred merge (R74): in its home channel, else by relocation to the lowest channel with room (log 115). A list that no longer
needs it is dropped. -/
def State.mergeRetry (s : State) (l : Nat) : State :=
  match s.maintOf l with
  | none => { s with idx := { s.idx with deferred := s.idx.deferred.filter (· != l) } }
  | some (h, d) =>
    if !mergeDue h d && !compactDue h d then { s with idx := { s.idx with deferred := s.idx.deferred.filter (· != l) } }
    else ((h.home :: (List.range s.nch).filter (· != h.home)).findSome? (s.mergeInto l h d)).getD s

/-- What an extent retired or freed in a channel lets go on: deferred merges of its lists (R74), then updates that wait. -/
def State.afterRetire (s : State) (chs : List Nat) : State :=
  ((s.idx.deferred.filter (fun l => (s.hdr? l).any (fun h => chs.contains h.home))).foldl State.mergeRetry s).retryUpdates

/-- A merge of a list (R74), or its deferral: counted in MDEFER, it waits for the next extent that is retired in the channel. -/
def State.mergeList (s : State) (l : Nat) (h : Hdr) (d : Desc) : State :=
  if s.idx.deferred.contains l then s
  else
    match s.mergeInto l h d h.home with
    | some t => t.afterRetire [h.home]
    | none =>
      let t := s.modDesc h.owner (fun d => { d with mdefer := satAdd 32 d.mdefer 1 })
      { t with idx := { t.idx with deferred := t.idx.deferred ++ [l] } }

/-- MERGE (R74): SCOUNT has reached MERGETH. -/
def execMerge (l : Nat) (s : State) : Outcome :=
  s.maintList l (fun h d s => if mergeDue h d then s.mergeList l h d else s)

/-- COMPACTION (R74): the share of tombstones has reached COMPTH. -/
def execCompaction (l : Nat) (s : State) : Outcome :=
  s.maintList l (fun h d s => if compactDue h d then s.mergeList l h d else s)

/-! ## Re-clustering -/

/-- Writes a fine centroid (R46, R68). -/
def State.setFine (s : State) (d : Desc) (l : Nat) (bs : List Byte) : State :=
  s.ilvStore (d.fineadr + (l - 64 * d.coarse0) * (d.c.dim / 2)) (padTo (d.c.dim / 2) bs) []

/-- The elements of a fine centroid. -/
def State.fineOf (s : State) (d : Desc) (l : Nat) : List Nat := s.row4 d d.fineadr (l - 64 * d.coarse0)

/-- Marks a coarse cluster as changed in the present pass (R77). -/
def State.markChanged (s : State) (k : Nat) : State := { s with idx := { s.idx with changed := Tbl.set s.idx.changed k true } }

/-- Sets LIST in the directory entries of slots that move (R76, R77). -/
def State.moveDirs (s : State) (n : Nat) (d : Desc) (h : Hdr) (xs : List SlotAt) (old new : Nat) : State :=
  xs.foldl (fun t x => t.moveDir n d (s.slotVid d.c h x) old new) s

/-- A header of a list that holds nothing yet: the home of its neighbour, the generation its number last had. -/
def State.freshHdr (s : State) (l : Nat) (h : Hdr) : Hdr :=
  { h with st := .active, gen := ((s.hdr? l).map (·.gen)).getD 0, succ := 0, fepoch := 0 }

/-- The mean of two centroids weighted by live counts, each element rounded to CFMT (R77, R606; log 116). Two empty lists keep the second
centroid. -/
def meanCentroid (cfmt : Nat) (a : List Nat) (na : Nat) (b : List Nat) (nb : Nat) : List Nat :=
  if na + nb = 0 then b
  else
    let val := fun (e : Nat) => if fmtInt cfmt then fOfInt (elemInt cfmt e) else elemF32 cfmt e
    (a.zip b).map (fun e =>
      (convert cfmt (fdiv (fadd (fmul (val e.1) (fOfInt na)) (fmul (val e.2) (fOfInt nb))) (fOfInt (na + nb : Nat)))).1)

/-- Merges list `a` into list `b` of the same coarse cluster (R77); none where rows do not reach. -/
def State.joinLists (s : State) (d : Desc) (a b : Nat) (ha hb : Hdr) : Option State :=
  let c := d.c
  let xb := s.liveSlots c hb
  let xa := s.liveSlots c ha
  (s.rebuild c hb hb.home (roundUp (xb.length + xa.length) 64)).map (fun e =>
    let u := e.2.moveSlots c (xb.map (fun x => (hb, x)) ++ xa.map (fun x => (ha, x))) e.1
    let mean := vecBytes c.cfmt (meanCentroid c.cfmt (s.fineOf d a) ha.livec (s.fineOf d b) hb.livec)
    let v := (u.setFine d b mean).setHdr b { e.1 with mcount := xb.length + xa.length }
    let w := (v.moveDirs ha.owner d ha xa a b).setMask a false
    let x := w.setHdr a { ha with st := .forward, gen := (ha.gen + 1) % 65536, mbase := 0, mcount := 0, mcap := 0, sbase := 0,
                                  scount := 0, scap := 0, tombs := 0, succ := b, fepoch := d.epoch, mcopy := 0, scopy := 0 }
    (((x.retire c a ha (s.deadRecs c ha)).retire c b hb (s.deadRecs c hb)).markChanged (listCoarse a)).afterRetire [ha.home, hb.home])

/-- LIST_MERGE (R77): list `a`, with fewer than JOINTH live entries, goes into list `b` of the same coarse cluster. -/
def execListMerge (a b : Nat) (s : State) : Outcome :=
  s.maintList a (fun ha d s =>
    match s.maintOf b with
    | none => s
    | some (hb, _) =>
      if a = b ∨ hb.owner ≠ ha.owner ∨ listCoarse a ≠ listCoarse b ∨ d.c.jointh ≤ ha.livec then s
      else (s.joinLists d a b ha hb).getD s)

/-- Joins pairs of lists of a coarse cluster that are both below JOINTH (R77): the second of the two lowest into the first (log 117). -/
def State.joinPairs (s : State) (k n : Nat) : State :=
  match n with
  | 0 => s
  | m + 1 =>
    let low := ((List.range 64).map (· + 64 * k)).filterMap (fun l =>
      (s.maintOf l).bind (fun e => if e.1.livec < e.2.c.jointh then some (l, e.1, e.2) else none))
    match low with
    | x :: y :: _ =>
      match s.joinLists x.2.2 y.1 x.1 y.2.1 x.2.1 with
      | none => s
      | some t => t.joinPairs k m
    | _ => s

/-- Is a slot's full vector nearer to the second of two fine centroids (R76)? The distance is that of R92, under the fine row of R91
(log 118); a vector that reads poisoned stays with the first. -/
def nearSecond (c : CreateFields) (copyOf : List Nat → List Nat) (c1 c2 : List Nat) (v : Option (List Byte)) : Bool :=
  match v with
  | none => false
  | some bs =>
    let x := copyOf (vecCodes c.vfmt c.dim bs)
    decide (dist4 c.metric c.cfmt x c2 < dist4 c.metric c.cfmt x c1)

/-- The split of a list that exceeds SPLITTH (R76). One that finds no free fine number is counted in SDEFER; so is one that finds no rows or
no copy area, for which the spec names no counter (DESIGN CHOICE, log 119). -/
def State.splitList (s : State) (l : Nat) (h : Hdr) (d : Desc) (b1 b2 : List Byte) (errs : List ReadErr) : State :=
  let c := d.c
  let n := h.owner
  let defer := fun (t : State) => t.modDesc n (fun d => { d with sdefer := satAdd 32 d.sdefer 1 })
  match ((List.range 64).map (· + 64 * listCoarse l)).find? (fun m => !(s.hdr? m).any (fun g => g.st != .free)) with
  | none => defer s
  | some m =>
    let xs := s.liveSlots c h
    let read := s.candVectors c errs (xs.map (fun x => ⟨0, 0, s.slotVid c h x, s.slotRec c h x, l, h, x⟩))
    let two := fun (z : Cand × Option (List Byte)) =>
      nearSecond c (s.copy4 d 1) (vecCodes c.cfmt c.dim (padTo (c.dim / 2) b1)) (vecCodes c.cfmt c.dim (padTo (c.dim / 2) b2)) z.2
    let x1 := (read.2.filter (fun z => !two z)).map (·.1.at_)
    let x2 := (read.2.filter two).map (·.1.at_)
    match read.1.rebuild c h h.home (roundUp x1.length 64) with
    | none => defer read.1
    | some (g1, t1) =>
      match t1.rebuild c (s.freshHdr m h) h.home (roundUp x2.length 64) with
      | none => defer read.1
      | some (g2, t2) =>
        let u := (t2.moveSlots c (x1.map (fun x => (h, x))) g1).moveSlots c (x2.map (fun x => (h, x))) g2
        let v := ((u.setFine d m b2).setHdr m { g2 with mcount := x2.length }).setMask m true
        let w := v.moveDirs n d h x2 l m
        (((w.setFine d l b1).setHdr l { g1 with mcount := x1.length }).retire c l h (s.deadRecs c h)).markChanged (listCoarse l)

/-- SPLIT (R76, R77): pairs of small lists of the cluster are joined first; `cs` holds the centroids that the maintenance
plan computed for L and for L′, and `errs` the errors that its reads of full vectors meet. -/
def execSplit (l : Nat) (cs : SplitCents) (errs : List ReadErr) (s : State) : Outcome :=
  s.maintList l (fun h d s =>
    if h.livec ≤ d.c.splitth then s
    else
      let t := s.joinPairs (listCoarse l) 64
      match t.maintOf l with
      | none => t
      | some (g, e) => if g.livec ≤ e.c.splitth then t else (t.splitList l g e cs.old cs.new errs).afterRetire [g.home])

/-- The distance of two centroids as FP32 bits (R64): that of R92 (log 118). -/
def centroidDist (metric cfmt : Nat) (a b : List Nat) : Nat :=
  if metric = 2 then (if fmtInt cfmt then fOfInt (sq4 cfmt a b) else (sq4 cfmt a b).toNat)
  else if fmtInt cfmt then fOfInt (-(dot4 cfmt a b)) else fneg (dot4 cfmt a b).toNat

/-- The adjacency record of a list: its nearest active lists of the index, by centroid distance, the lower list ID first on a tie (R64,
R77). -/
def State.adjOf (s : State) (n : Nat) (d : Desc) (epoch l : Nat) : Adj :=
  let near := rankBy (fun m => dist4 d.c.metric d.c.cfmt (s.fineOf d l) (s.fineOf d m))
    (((s.listsOf n).filter (fun e => e.2.st == .active && e.1 != l)).map (·.1))
  ⟨epoch, (near.take 8).map (fun m => (m, (convert 7 (centroidDist d.c.metric d.c.cfmt (s.fineOf d l) (s.fineOf d m))).1))⟩

/-- The end of a re-clustering pass (R70, R76, R77): EPOCH advances; forwards no longer valid go DEAD; the sweep removes every edge that
names a dead list, which frees its ID; the records of the lists in changed clusters are written anew. -/
def State.passEnd (s : State) (n : Nat) (d : Desc) : State :=
  let ep := (d.epoch + 1) % 65536
  let a := s.modDesc n (fun d => { d with epoch := ep })
  let old := (s.listsOf n).filter (fun e => e.2.st == .dead
    || (e.2.st == .forward && decide (1 < (ep + 65536 - e.2.fepoch) % 65536)))
  let b := old.foldl (fun (t : State) e => t.setHdr e.1 { e.2 with st := .dead }) a
  let gone := old.map (·.1)
  let edges := (s.listsOf n).filterMap (fun e => (Tbl.find s.idx.adj e.1).bind (fun x =>
    if x.nbs.any (fun y => gone.contains y.1) && !s.adjBad e.1 then some (e.1, x) else none))
  let e := edges.foldl (fun (t : State) x => t.setAdj x.1 { x.2 with nbs := x.2.nbs.filter (fun y => !gone.contains y.1) }) b
  let f := old.foldl (fun (t : State) x => t.setHdr x.1 { x.2 with st := .free, succ := 0, fepoch := 0 }) e
  let g : State := { f with idx := { f.idx with adj := Tbl.drop f.idx.adj (fun l => gone.contains l) } }
  let todo := ((g.listsOf n).filter (fun x => x.2.st != .free && Tbl.get false s.idx.changed (listCoarse x.1))).map (·.1)
  let h := todo.foldl (fun (t : State) l => t.setAdj l (g.adjOf n d ep l)) g
  { h with idx := { h.idx with changed := Tbl.drop h.idx.changed (fun k => decide (d.coarse0 ≤ k)
      && decide (k < d.coarse0 + d.c.ncoarse)) } }

/-- RECLUSTER_PASS_END (R70, R76, R77). -/
def execReclusterPassEnd (n : Nat) (s : State) : Outcome :=
  .next (match s.desc? n with
    | none => s
    | some d => if !s.serving || d.st != .active || s.descBad n then s else s.maintDue (fun s => s.passEnd n d))

/-! ## Retired extents -/

/-- Does a query still read a generation of a list (R73)? Replay state counts (R431). -/
def State.genInUse (s : State) (l gen : Nat) : Bool :=
  let use := fun (r : Req) => r.op == .search && r.gens.contains (l, gen)
  s.work.reqs.any use || s.cas.provs.any (fun p => p.reqs.any use)

/-- Discards the sectors of an index's namespace that no record in use overlaps any longer (R195). -/
def State.discardRecs (s : State) (n : Nat) (c : CreateFields) (rs : List Nat) : State :=
  let len := recLen c
  let secs := rs.flatMap (fun r => (List.range ((r * len + len - 1) / sectorSize - r * len / sectorSize + 1)).map
    (· + r * len / sectorSize))
  secs.foldl (fun t k =>
    let lo := k * sectorSize / len
    let hi := (k * sectorSize + sectorSize - 1) / len
    if (List.range (hi - lo + 1)).any (fun i => Tbl.has s.idx.recs (recKey n (lo + i))) then t
    else t.discardSector n (k / 16) (k % 16)) s

/-- Frees a retired entry: rows, areas and record numbers (R67, R73). -/
def State.freeRetired (s : State) (e : Retired) : State :=
  let a := e.spans.foldl (fun (t : State) x => t.rowsFree e.ch x.base) s
  let b := e.areas.foldl (fun (t : State) x => t.areaFree x.base) a
  let c : State := { b with idx := { b.idx with recs := Tbl.drop b.idx.recs (fun k => k / 2 ^ 48 == e.index && e.recs.contains (k % 2 ^ 48)) } }
  match c.desc? e.index with
  | some d => if d.c.store = 0 then c.discardRecs e.index d.c e.recs else c
  | none => c

/-- EXTENT_FREE (R73): no query that read the generation is left. -/
def execExtentFree (l gen : Nat) (s : State) : Outcome :=
  s.whenServing (fun s =>
    if s.genInUse l gen then s
    else
      let es := s.alloc.retired.filter (fun e => e.list == l && e.gen == gen)
      let t := es.foldl State.freeRetired s
      let u : State := { t with alloc := { t.alloc with retired := t.alloc.retired.filter (fun e => !(e.list == l && e.gen == gen)) } }
      u.afterRetire (es.map (·.ch)))

/-- SIDE_FULL_TIMEOUT (R57): the update has waited 1 ms for its list's merge. -/
def execSideFullTimeout (id : Nat) (s : State) : Outcome :=
  s.whenServing (fun s =>
    match s.req? id with
    | none => s
    | some r =>
      if r.st ≠ .sideWait then s
      else (s.modDesc r.index (fun d => { d with sidefull := satAdd 32 d.sidefull 1 })).finishReq r .retryLater [])

end Sys2Proof.Machine
end

