-- ==== Sys2Proof/Machine/Packs.lean ====
section
/-! DEFINITION. How the bytes of a plan pack spell its plans (R288, R293, R295), and how the bytes of the boot flash spell a boot image
(R562, R563, R567). The verdicts of the ML-DSA-65 signatures come with the commands (log 122); every digest and CRC is computed here. -/

namespace Sys2Proof.Machine

/-- `n` bytes of a byte string from an offset, as far as it reaches. -/
def slice (bs : List Byte) (off n : Nat) : List Byte := (bs.drop off).take n

/-- SIGLEN and PKLEN: the sizes of an ML-DSA-65 signature and public key (R288, R562). -/
def sigLen : Nat := 3309
def pkLen : Nat := 1952

/-! ## Plans (R293, R295) -/

/-- Section entry `i` of a plan and the bytes it names. Its bounds are valid where the section lies behind the header, inside the plan. -/
def sectionOf (plan : List Byte) (i : Nat) : PlanSection :=
  let e := 0x80 + 16 * i
  let off := leAt plan (e + 4) 4
  let n := leAt plan (e + 8) 4
  let bs := slice plan off n
  { stype := leAt plan e 1, cls := leAt plan (e + 1) 1, boundsOk := decide (512 ≤ off) && decide (off + n ≤ plan.length),
    crcOk := crc32c bs == leAt plan (e + 12) 4, bytes := bs }

/-- Are the reserved bytes of a plan header zero: those behind OUTLEN, the unused fields of the section entries, and the entries beyond
NSECT (R293, R295; log 121)? -/
def planZeros (plan : List Byte) (nsect : Nat) : Bool :=
  (slice plan 0x64 28).all (· == 0)
  && (List.range 24).all (fun i => leAt plan (0x82 + 16 * i) 2 == 0 && (decide (i < nsect) || leAt plan (0x80 + 16 * i) 16 == 0))

/-- The header of a plan with its sections. A plan too short for a header has no magic. -/
def planOf (plan : List Byte) : PlanHdr :=
  let f := leAt plan
  let n := f 0x5A 2
  let ss := (List.range (min n 25)).map (sectionOf plan)
  let io := (ss.filter (fun x => x.stype == 9)).flatMap (·.bytes)
  { magicOk := decide (512 ≤ plan.length) && slice plan 0 4 == [0x48, 0x53, 0x50, 0x4C]
    zerosOk := planZeros plan n
    kind := f 4 1, varmask := f 5 1, classmask := f 6 1, prio := f 7 1, cores := f 8 2, dies := f 0xA 1, widenmax := f 0xB 1
    rmcfg := f 0xC 1, sloeq := f 0xD 1, brmctx := f 0xE 2, nbuwords := f 0x10 2, qbatch := f 0x12 2, batchwait := f 0x14 4
    stepcyc := f 0x18 8, nrdv := f 0x20 4, nbranch := f 0x24 2, reslines := f 0x26 2, timeout := f 0x28 4, stepmax := f 0x2C 4
    estep := f 0x30 4, epeak := f 0x34 4, linger := f 0x38 4, toolver := f 0x3C 4, hbmbytes := f 0x40 8, poolbytes := f 0x48 8
    commonsb := f 0x50 4, dim := f 0x54 2, vfmt := f 0x56 1, metric := f 0x57 1, skw := f 0x58 1, pflags := f 0x59 1
    inlen := f 0x5C 4, outlen := f 0x60 4, sections := ss
    tablesRd := Config.ioTables io false, tablesWr := Config.ioTables io true }

/-! ## Packs (R288) -/

/-- Offset and length of the plans of a pack's directory. -/
def packDir (pack : List Byte) (n : Nat) : List (Nat × Nat) :=
  (List.range n).map (fun i => (leAt pack (0x100 + 16 * i) 8, leAt pack (0x108 + 16 * i) 8))

/-- A plan pack as its bytes spell it. A directory entry is valid where its plan starts on a 4 KiB boundary behind the directory, has room
for a header, and ends before the signature (R288, R289). -/
def packOf (pack : List Byte) (sigOk : Bool) : Pack :=
  let n := leAt pack 6 2
  let len := leAt pack 8 8
  let dir := packDir pack (min n 65)
  { magicOk := slice pack 0 4 == [0x48, 0x53, 0x50, 0x4B]
    format := leAt pack 4 2, nplans := n, packlen := len
    dirOk := decide (0x100 + 16 * n + sigLen ≤ len) && dir.all (fun e => e.1 % 4096 == 0 && decide (0x100 + 16 * n ≤ e.1)
      && decide (512 ≤ e.2) && decide (e.1 + e.2 + sigLen ≤ len))
    toolver := leAt pack 0x10 4, keyslot := leAt pack 0x14 2, pkflags := leAt pack 0x16 2, seq := leAt pack 0x18 8
    digestOk := shake256 64 (slice pack 0x100 (len - sigLen - 0x100)) == slice pack 0x20 64
    sigOk := sigOk
    zerosOk := decide (leAt pack 0x16 2 < 2) && (slice pack 0x60 160).all (· == 0)
    digest := slice pack 0x20 64
    plans := dir.map (fun e => planOf (slice pack e.1 e.2)) }

/-! ## The boot image (R562, R563) -/

/-- Bytes of the boot flash; an erased byte reads 0xFF. -/
def Boot.bytes (b : Boot) (off n : Nat) : List Byte := (List.range n).map (fun i => Tbl.get 0xFF b.flash (off + i))

/-- A little-endian field of the boot flash. -/
def Boot.field (b : Boot) (off n : Nat) : Nat := fromLe (b.bytes off n)

/-- A section of the image: its type, place, length and DIGEST. -/
structure ImageSect where
  stype  : Nat
  off    : Nat
  len    : Nat
  digest : List Byte
  deriving DecidableEq, Repr

/-- The section directory. -/
def Boot.sects (b : Boot) : List ImageSect :=
  (List.range (min (b.field 6 2) 32)).map (fun i =>
    let e := 0x100 + 48 * i
    ⟨b.field e 4, b.field (e + 4) 4, b.field (e + 8) 4, b.bytes (e + 16) 32⟩)

/-- The bytes of the first section of a type. -/
def Boot.sectOf (b : Boot) (t : Nat) : List Byte :=
  match b.sects.find? (fun x => x.stype == t) with
  | some x => b.bytes x.off x.len
  | none => []

/-- The CONFIG section: BAR0 offset and value of each entry (R563). -/
def configOf (bs : List Byte) : List (Nat × Nat) :=
  (List.range (bs.length / 12)).map (fun i => (leAt bs (12 * i) 4, leAt bs (12 * i + 4) 8))

/-- The KEYS section: four slots (R563, R567). -/
def keysOf (bs : List Byte) : List KeySlot :=
  (List.range 4).map (fun i =>
    let k := 2048 * i + pkLen
    ⟨leAt bs k 1 != 0, leAt bs (k + 1) 1 != 0, leAt bs (k + 2) 8⟩)

/-- The boot image as the flash spells it: header, directory, CONFIG, KEYS and MAINT, with the digests computed. What the spec gives no bytes
for, and the verdicts of the signatures, come with the reading (log 122). -/
def imageOf (hw : Hw) (b : Boot) (e : ImageEnv) : BootImage :=
  let ss := b.sects
  let len := b.field 8 4
  { deviceOk := e.deviceOk
    magicOk := b.bytes 0 4 == [0x48, 0x53, 0x42, 0x49]
    format := b.field 4 2, nsect := b.field 6 2, imglen := len, devSize := e.devSize
    boundsOk := ss.all (fun x => x.off % 4096 == 0 && decide (0x2000 ≤ x.off) && decide (x.off + x.len ≤ len))
    fwver := b.field 0xC 4, mintool := b.field 0x10 4, arb := b.field 0x14 1, rootslot := b.field 0x15 1
    variants := b.field 0x16 1, bindser := b.field 0x18 8
    rootKeyOk := hw.rootDigests[b.field 0x15 1]? == some (shake256 32 (b.bytes 0x1400 pkLen))
    sigOk := e.sigOk
    digestsOk := ss.all (fun x => shake256 32 (b.bytes x.off x.len) == x.digest)
    types := ss.map (·.stype)
    secDigests := ss.map (fun x => (x.stype, x.digest))
    fwSecDigest := e.fwSecDigest, fwElderDigest := e.fwElderDigest
    config := configOf (b.sectOf 2), keys := keysOf (b.sectOf 3)
    maint := packOf (b.sectOf 5) e.maintSigOk
    retryFeat := e.retryFeat, retryVals := e.retryVals, slcPrefix := e.slcPrefix, firstPoll := e.firstPoll, wbSize := e.wbSize
    group := e.group, queues := e.queues, pmbus := e.pmbus, storeMon := e.storeMon, nand := e.nand }

end Sys2Proof.Machine
end

