-- ==== Sys2Proof/Machine/HostObjects.lean ====
section
/-! DEFINITION. Host commands on indexes, gather tables, plans and leases (R40, R44, R180, R181, R185, R288 to R298, R303, R318,
R331, R338, R414, R583, R611, R612), and the end of a deletion. -/

namespace Sys2Proof.Machine

/-! ## INDEX_CREATE (R611) -/

/-- Are the creation fields in range (R40, R42, R43, R46, R85)? -/
def createOk (c : CreateFields) : Bool :=
  decide (c.tenant < 4096) && decide (c.index < 1024) && decide (c.skw ≤ 3)
  && (c.vfmt == 1 || (decide (3 ≤ c.vfmt) && decide (c.vfmt ≤ 7))) && decide (c.metric ≤ 3)
  && decide (64 ≤ c.dim) && decide (c.dim ≤ 4096) && c.dim % 64 == 0 && decide (c.planes ≤ 64)
  && decide (8 ≤ c.fpc) && decide (c.fpc ≤ 64) && decide (16 ≤ c.ncoarse) && decide (c.ncoarse ≤ 65536)
  && (c.sidecap == 0 || (decide (64 ≤ c.sidecap) && decide (c.sidecap ≤ 1024) && c.sidecap % 64 == 0))
  && decide (1 ≤ c.dirn) && decide (c.dirn < 2 ^ 32) && (c.cfmt == 1 || c.cfmt == 2) && decide (c.store ≤ 1)

/-- The creation fields with the zero defaults (R40). -/
def createFill (c : CreateFields) : CreateFields :=
  let side := if c.sidecap = 0 then 64 else c.sidecap
  { c with sidecap := side, mergeth := if c.mergeth = 0 then side / 2 else c.mergeth,
           compth := if c.compth = 0 then 32 else c.compth, splitth := if c.splitth = 0 then 16384 else c.splitth,
           jointh := if c.jointh = 0 then 256 else c.jointh }

/-- Is a plan loaded, of a kind, owned by the index's owner and of its shape (R583, R611)? -/
def State.shapePlan (s : State) (p kind : Nat) (c : CreateFields) : Bool :=
  s.planIs p c.tenant kind (fun h => h.dim == c.dim && h.vfmt == c.vfmt && h.metric == c.metric && h.skw == c.skw)

/-- The lowest run of free coarse numbers (R44; log 11). -/
def State.coarseRun (s : State) (n : Nat) : Option Nat :=
  firstFit (s.idx.desc.foldl (fun l e => spanInsert l ⟨e.2.coarse0, e.2.c.ncoarse⟩) []) 0 65536 n

/-- A new list, ACTIVE and empty (R57, R611). The spec gives its header no first GEN: it is 0; and its adjacency record no first contents: no
neighbours, AEPOCH 0 (DESIGN CHOICE, log 120). -/
def State.newList (s : State) (c : CreateFields) (l : Nat) : Option State :=
  let h : Hdr := { st := .active, home := l % s.nch, copy := c.store == 1, gen := 65535, mbase := 0, mcount := 0, mcap := 0,
                   sbase := 0, scount := 0, scap := 0, tombs := 0, succ := 0, fepoch := 0, owner := c.index, mcopy := 0, scopy := 0 }
  (s.rebuild c h h.home 64).map (fun e => ((e.2.setHdr l e.1).setMask l true).setAdj l ⟨0, []⟩)

/-- The lists of a new index, or none where rows do not reach. -/
def State.newLists (s : State) (c : CreateFields) (ls : List Nat) : Option State :=
  match ls with
  | [] => some s
  | l :: r =>
    match s.newList c l with
    | none => none
    | some t => t.newLists c r

/-- The areas of a list of sizes. -/
def State.newAreas (s : State) (ns : List Nat) : Option (List Nat × State) :=
  match ns with
  | [] => some ([], s)
  | n :: r =>
    match s.areaTake n with
    | none => none
    | some (b, t) => (t.newAreas r).map (fun e => (b :: e.1, e.2))

/-- Places an index with no lists: areas, descriptor and namespace (R180, R181). An orphan namespace of its number is discarded. Its descriptor and
its directory are written whole. -/
def State.placeIndex (s : State) (c : CreateFields) (splan uplan : Nat) : Option State :=
  match s.coarseRun c.ncoarse with
  | none => none
  | some k0 =>
    match s.newAreas [coarseBytes c, fineBytes c, projBytes c, scaleBytes c, 64 * c.dirn] with
    | some ([a, b, p, x, y], t) =>
      let d : Desc := { st := .building, c := c, coarse0 := k0, epoch := 0, coarseadr := a, fineadr := b, projadr := p, scaleadr := x,
                        diradr := y, live := 0, splan := splan, uplan := uplan, sealValid := false, sealSeq := 0,
                        sealDig := [], skipedge := 0, mdefer := 0, sdefer := 0, sidefull := 0, charged := true }
      let u := (({ t with idx := { t.idx with desc := Tbl.set t.idx.desc c.index d } }).ilvClean (descBase + 256 * c.index) 256).ilvClean y
        (64 * c.dirn)
      let w := u.discardNs c.index
      some (if c.store = 0 then w.newNs c.index (nsUnits c) else w).countOrphans
    | _ => none

/-- Builds an index (R611): its place, then FPC lists in each of its clusters. -/
def State.buildIndex (s : State) (c : CreateFields) (splan uplan : Nat) : Option State :=
  (s.placeIndex c splan uplan).bind (fun t =>
    let k0 := ((t.desc? c.index).map (·.coarse0)).getD 0
    t.newLists c ((List.range c.ncoarse).flatMap (fun k => (List.range c.fpc).map (fun f => (k0 + k) * 64 + f))))

/-- INDEX_CREATE (R7, R611). -/
def execIndexCreate (h : HostHdr) (c0 : CreateFields) (splan uplan : Nat) (s : State) : Outcome :=
  s.hostRun h (fun s =>
    if c0.store = 0 ∧ !s.hw.variant.flash then .next (s.completeSt h .notPresent)
    else
      s.need h (s.tenant? c0.tenant) (fun _ =>
        if (s.desc? c0.index).isSome ∨ !createOk c0 then .next (s.completeSt h .badArg)
        else
          let c := createFill c0
          if !s.shapePlan splan 1 c ∨ !s.shapePlan uplan 5 c then .next (s.completeSt h .notFound)
          else if !s.canCharge c.tenant (indexCharge c) then .next (s.completeSt h .quota)
          else
            match s.buildIndex c splan uplan with
            | none => .next (s.completeSt h .noResource)
            | some t => .next ((t.charge c.tenant (indexCharge c)).completeSt h .ok)))

/-! ## Deletion (R84, R612) -/

/-- INDEX_DELETE (R181, R612). -/
def execIndexDelete (h : HostHdr) (n : Nat) (s : State) : Outcome :=
  s.hostCmd h (fun s =>
    match s.desc? n with
    | none =>
      if Tbl.has s.flash.nsLen n then ((s.discardNs n).countOrphans).completeSt h .ok else s.completeSt h .notFound
    | some d =>
      if d.st = .deleting then s.completeSt h .ok
      else
        let t := s.modDesc n (fun d => { d with st := .deleting })
        { t with host := { t.host with waits := t.host.waits ++ [(h, HostWait.delIndex n)] } })

/-- Everything that an index charges (R331): its creation and its live items. -/
def State.indexTotal (s : State) (n : Nat) (d : Desc) : QuotaRec :=
  (s.listsOf n).foldl (fun q e =>
    let i := itemCharge d.c e.2.copy
    { q with hbm := q.hbm + i.hbm * e.2.livec, flash := q.flash + i.flash * e.2.livec }) (indexCharge d.c)

/-- Frees the structures of an index (R612). -/
def State.freeIndex (s : State) (n : Nat) (d : Desc) : State :=
  let c := d.c
  let a := (s.listsOf n).foldl (fun (t : State) e => t.retire c e.1 e.2 []) s
  let b := (a.alloc.retired.filter (fun r => r.index == n)).foldl (fun (t : State) r =>
    r.areas.foldl (fun (u : State) x => u.areaFree x.base) (r.spans.foldl (fun (u : State) x => u.rowsFree r.ch x.base) t)) a
  let e := [d.coarseadr, d.fineadr, d.projadr, d.scaleadr, d.diradr].foldl (fun (t : State) x => t.areaFree x) b
  let lists := fun (l : Nat) => decide (64 * d.coarse0 ≤ l) && decide (l < 64 * (d.coarse0 + c.ncoarse))
  let coarse := fun (k : Nat) => decide (d.coarse0 ≤ k) && decide (k < d.coarse0 + c.ncoarse)
  let x := e.idx
  let f : State := { e with
    alloc := { e.alloc with retired := e.alloc.retired.filter (fun r => r.index != n) },
    idx := { x with
      desc := Tbl.erase x.desc n, hdr := Tbl.drop x.hdr lists, adj := Tbl.drop x.adj lists, mask := Tbl.drop x.mask coarse,
      dir := Tbl.drop x.dir (fun k => k / 2 ^ 36 == n), recs := Tbl.drop x.recs (fun k => k / 2 ^ 48 == n),
      deferred := x.deferred.filter (fun l => !lists l), changed := Tbl.drop x.changed coarse,
      groupMask := Tbl.erase x.groupMask n } }
  (f.discardNs n).countOrphans

/-- Does a request still read or change an index? -/
def State.indexInUse (s : State) (n : Nat) : Bool :=
  let use := fun (r : Req) => r.op != .run && r.index == n
  s.work.reqs.any use || s.cas.provs.any (fun p => p.reqs.any use)

/-- DELETION_FINISH (R612): no request on the DELETING index is left; it returns to FREE and its INDEX_DELETE completes. -/
def execDeletionFinish (n : Nat) (s : State) : Outcome :=
  s.whenServing (fun s =>
    match s.desc? n with
    | none => s
    | some d =>
      if d.st ≠ .deleting ∨ s.indexInUse n then s
      else
        let total := s.indexTotal n d
        let t := s.freeIndex n d
        let u := if d.charged then t.release d.c.tenant total else t
        let mine := fun (w : HostHdr × HostWait) => w.2 == HostWait.delIndex n
        let v : State := { u with host := { u.host with waits := u.host.waits.filter (fun w => !mine w) } }
        (u.host.waits.filter mine).foldl (fun (x : State) w => x.completeSt w.1 .ok) v)

/-! ## Seal and attachment (R79, R583) -/

/-- INDEX_QUIESCE (R79, R612): RESULT is SEALSEQ. -/
def execIndexQuiesce (h : HostHdr) (n : Nat) (s : State) : Outcome :=
  s.hostCmd h (fun s =>
    match s.desc? n with
    | none => s.completeSt h .notFound
    | some d =>
      if d.st ≠ .active then s.completeSt h .notFound
      else
        let q := (d.sealSeq + 1) % 2 ^ 32
        (s.modDesc n (fun d => { d with sealDig := s.sealOf d, sealSeq := q, sealValid := true })).complete h .ok [] (leBytes 4 q))

/-- INDEX_ATTACH (R583): RESULT is SEALSEQ. -/
def execIndexAttach (h : HostHdr) (n splan uplan : Nat) (s : State) : Outcome :=
  s.hostCmd h (fun s =>
    match s.desc? n with
    | none => s.completeSt h .notFound
    | some d =>
      if d.st ≠ .detached then s.completeSt h .notFound
      else if !d.sealValid ∨ s.sealOf d ≠ d.sealDig then s.completeSt h .checkFail
      else if (s.tenant? d.c.tenant).isNone ∨ !s.canCharge d.c.tenant (s.indexTotal n d) then s.completeSt h .quota
      else if !s.shapePlan splan 1 d.c ∨ !s.shapePlan uplan 5 d.c then s.completeSt h .notFound
      else
        ((s.charge d.c.tenant (s.indexTotal n d)).modDesc n (fun d =>
          { d with st := .active, splan := splan, uplan := uplan, charged := true })).complete h .ok [] (leBytes 4 d.sealSeq))

/-! ## Flash namespaces and gather tables -/

/-- SET_HOT (R7, R185). -/
def execSetHot (h : HostHdr) (ns : Nat) (hot : Bool) (first count : Nat) (s : State) : Outcome :=
  s.hostRun h (fun s =>
    if !s.hw.variant.flash then .next (s.completeSt h .notPresent)
    else
      s.need h (Tbl.find s.flash.nsLen ns) (fun len =>
        s.wellFormed h 185 (decide (first + count ≤ len))
          (.next (((List.range count).foldl (fun (t : State) i =>
            t.setMap ns (first + i) { (t.mapEnt ns (first + i)) with hot := hot }) s).completeSt h .ok))))

/-- Rows of a table that lie at this node (R339). -/
def State.localRows (_s : State) (d : TableDesc) : Nat :=
  if bitOf d.tflags 0 then ceilDiv d.rows (d.chunk * d.nnodes) * d.chunk else d.rows

/-- What a table charges (R331). -/
def tableCharge (d : TableDesc) : QuotaRec := { QuotaRec.none with hbm := d.rows * d.rowbytes, tables := 1 }

/-- Are the fields of a table descriptor in range (R338)? -/
def tableOk (d : TableDesc) : Bool :=
  let dist := bitOf d.tflags 0
  decide (d.table < 4096) && decide (1 ≤ d.tfmt) && decide (d.tfmt ≤ 10) && decide (d.tflags < 4)
  && (if dist then decide (2 ≤ d.nnodes) && decide (d.nnodes ≤ 8) && (List.range 17).any (fun i => d.chunk == 2 ^ i) else d.nnodes == 1)
  && decide (64 ≤ d.rowbytes) && decide (d.rowbytes ≤ 65536) && d.rowbytes % 64 == 0
  && decide (1 ≤ d.rows) && decide (d.rows ≤ 2 ^ 40) && decide (d.base < 2 ^ 44) && d.base % 4096 == 0
  && (d.hotwin == 0 || (decide (1000 ≤ d.hotwin) && decide (d.hotwin ≤ 1000000)))

/-- Does a span of the interleaved area meet one in use, or the HDM window? -/
def State.areaMeets (s : State) (b n : Nat) : Bool :=
  s.alloc.areas.any (fun u => decide (u.base < b + n) && decide (b < u.base + u.len)) || decide (s.ilvSize - s.hdmBytes < b + n)

/-- CREATE_TABLE (R331, R338); overlapping programming is a host error (R13). -/
def execCreateTable (h : HostHdr) (d : TableDesc) (s : State) : Outcome :=
  s.hostRun h (fun s =>
    s.need h (s.tenant? d.tenant) (fun _ =>
      let n := roundUp (s.localRows d * d.rowbytes) 4096
      s.wellFormed h 338 (tableOk d && !Tbl.has s.tables.descs d.table && !s.areaMeets d.base n)
        (if !s.canCharge d.tenant (tableCharge d) then .next (s.completeSt h .quota)
         else
           let e := { d with hotth := if d.hotth = 0 then 65536 else d.hotth, hotwin := if d.hotwin = 0 then 10000 else d.hotwin }
           let t : State := { s with
             tables := { s.tables with descs := Tbl.set s.tables.descs d.table e },
             alloc := { s.alloc with areas := spanInsert s.alloc.areas ⟨d.base, n⟩ } }
           .next ((t.charge d.tenant (tableCharge d)).completeSt h .ok))))

/-- DELETE_TABLE (R331, R521): the table, its replicas and its hot rows go. -/
def execDeleteTable (h : HostHdr) (n : Nat) (s : State) : Outcome :=
  s.hostRun h (fun s =>
    s.need h (Tbl.find s.tables.descs n) (fun d =>
      let t := (s.areaFree d.base).each (s.tables.replicas.filter (fun e => e.1 / 2 ^ 40 == n)) (fun e t => t.areaFree e.2)
      let u : State := { t with tables := { t.tables with
        descs := Tbl.erase t.tables.descs n, hot := t.tables.hot.filter (fun e => e.table != n),
        replicas := Tbl.drop t.tables.replicas (fun k => k / 2 ^ 40 == n),
        decisions := t.tables.decisions.filter (fun e => e.1 != n) } }
      .next ((u.release d.tenant (tableCharge d)).completeSt h .ok)))

/-- GROUP_INDEX (R414): the master's mask of a group index. A node that is no master, or a mask beyond the members, is a host error. -/
def execGroupIndex (h : HostHdr) (n mask : Nat) (s : State) : Outcome :=
  s.hostRun h (fun s =>
    s.need h (s.desc? n) (fun _ =>
      s.wellFormed h 414 (s.role == 2 && decide (mask < 2 ^ s.fld fCasCfgNmemb))
        (.next (({ s with idx := { s.idx with groupMask := Tbl.put 0 s.idx.groupMask n mask } }).completeSt h .ok))))

/-! ## Plan packs (R288 to R297) -/

/-- The load checks of a plan header (R294, R297), in their order; `sys` says that the pack has SYSTEM and the owner is SYSTEM. -/
def State.planFault (s : State) (sys : Bool) (p : PlanHdr) : Option Status :=
  let v := s.hw.variant
  let secOk := fun (x : PlanSection) => x.boundsOk && x.crcOk && decide (1 ≤ x.stype) && decide (x.stype ≤ 9) && decide (x.cls ≤ 2)
  let mac := (planWords p true ++ planWords p false).any (fun w => decide (0x20 ≤ uOp w) && decide (uOp w ≤ 0x27))
  firstFail [
    (p.magicOk && decide (1 ≤ p.kind) && decide (p.kind ≤ 7) && decide (1 ≤ p.sections.length)
      && decide (p.sections.length ≤ 24) && p.sections.all secOk, .badPack),
    (p.kind != 6 || sys, .badPack),
    (bitOf p.varmask (v.code - 1), .notPresent),
    (decide (p.cores ≤ v.cores) && (List.range 4).all (fun i => decide (bits p.brmctx (4 * i) 4 ≤ 4))
      && decide (p.sloeq ≤ (if v.flash then 8 else 0)) && decide (p.nbuwords ≤ 512), .notPresent),
    (v.mac || !mac, .notPresent),
    (v.flash || (!bitOf p.pflags 0 && !p.sections.any (fun x => x.stype == 7)), .notPresent)]

/-- Are the header's other fields within the values R293 gives? A field outside them is a host error (R13); PRIO of a MAINT plan is not
looked at. -/
def planRanges (p : PlanHdr) : Bool :=
  (p.kind == 6 || decide (p.prio ≤ 7)) && decide (1 ≤ p.cores) && decide (p.dies ≤ 2) && (p.dies != 2 || p.cores % 2 == 0)
  && decide (p.widenmax ≤ 3) && bits p.rmcfg 0 2 != 3 && bits p.rmcfg 2 2 == 0 && decide (1 ≤ p.qbatch) && decide (p.qbatch ≤ 1024)
  && decide (p.nrdv ≤ 65536) && decide (p.nbranch ≤ 256) && decide (p.reslines ≤ 32768)
  && decide (4 * p.stepcyc ≤ 2500 * p.stepmax) && decide (p.pflags < 16) && p.zerosOk
  && ([true, false] : List Bool).all (fun r => decide ((planWords p r).length ≤ p.nbuwords))

/-- Places the sections of a plan in the interleaved area, with the check values of CONST blocks (R448, R449). -/
def State.placeSections (s : State) (plan : Nat) (xs : List PlanSection) (i : Nat) : Option (List Nat × State) :=
  match xs with
  | [] => some ([], s)
  | x :: r =>
    match s.areaTake x.bytes.length with
    | none => none
    | some (b, t) =>
      let u := t.ilvStore b x.bytes []
      let v := if x.stype = 5 then
          u.each (List.range (ceilDiv x.bytes.length 4096)) (fun k w =>
            w.checkMake (b / 4096 + k) (3 * 2 ^ 60 + plan * 2 ^ 28 + i * 2 ^ 23 + k))
        else u
      (v.placeSections plan r (i + 1)).map (fun e => (b :: e.1, e.2))

/-- Loads the plans of a pack under numbers from `first`; none where the reserve has no room. -/
def State.placePlans (s : State) (owner pack n : Nat) (ps : List PlanHdr) : Option State :=
  match ps with
  | [] => some s
  | p :: r =>
    match s.placeSections n p.sections 0 with
    | none => none
    | some (as, t) =>
      ({ t with work := { t.work with plans := Tbl.set t.work.plans n ⟨owner, pack, p, as, [], false⟩ } }).placePlans owner pack (n + 1) r

/-- The first failed check of R289 and R290. -/
def State.packFault (s : State) (first owner got : Nat) (p : Pack) : Option Status :=
  let sys := bitOf p.pkflags 0
  let key := (s.boot.image.map (·.keys)).bind (fun ks => ks[p.keyslot]?)
  match firstFail [
    (p.magicOk && p.format == 1 && decide (1 ≤ p.nplans) && decide (p.nplans ≤ 64) && p.packlen == got && p.dirOk
      && p.plans.length == p.nplans, .badPack),
    (first != 0 && decide (first + p.nplans ≤ 2 ^ 32) && decide (s.work.plans.length + p.nplans ≤ 4096)
      && !s.work.plans.any (fun e => decide (first ≤ e.1) && decide (e.1 < first + p.nplans)), .badArg),
    (owner != 0xFFFF || sys, .badArg),
    (owner == 0xFFFF || (s.tenant? owner).isSome, .notFound),
    (key.any (fun k => k.present && !k.revoked), .sigFail),
    (p.sigOk, .sigFail),
    (key.any (fun k => decide (k.floor ≤ p.seq)), .rollback),
    (p.digestOk, .badPack),
    (decide (s.fld fTopFwverMintool ≤ p.toolver), .badPack)] with
  | some st => some st
  | none => p.plans.findSome? (s.planFault (sys && owner == 0xFFFF))

/-- What a pack charges its owner (R331). -/
def packCharge (n : Nat) : QuotaRec := { QuotaRec.none with plans := n }

/-- Ends the load in progress: the bytes staged leave the node reserve. -/
def State.loadEnd (s : State) : State :=
  match s.work.load with
  | none => s
  | some l => { s.areaFree l.area with work := { s.work with load := none } }

/-- Does a part go on with the load in progress (R291)? -/
def State.loadNext (s : State) (h : HostHdr) (part : PackPart) : Bool :=
  s.work.load.any (fun l => l.fn == h.fn && l.q == h.q && l.first == part.first && l.owner == part.owner && l.bytes.length == part.offset)

/-- LOAD_PACK (R288 to R291, R297, R585). A first part discards the load in progress; the bytes received are staged in the node reserve.
Header fields outside R293 are a host error when the pack would load. -/
def execLoadPack (h : HostHdr) (part : PackPart) (pk : PackBytes) (s : State) : Outcome :=
  s.hostRun h (fun s0 =>
    if part.offset ≠ 0 ∧ !s0.loadNext h part then .next (s0.completeSt h .badArg)
    else
      let got := (if part.offset = 0 then [] else (s0.work.load.map (·.bytes)).getD []) ++ pk.bytes
      let s := s0.loadEnd
      if 256 ≤ got.length ∧ leAt got 8 8 < got.length then .next (s.completeSt h .badPack)
      else if !part.last then
        match s.areaTake got.length with
        | none => .next ((if part.offset = 0 then s else s0).completeSt h .retryLater)
        | some (b, t) =>
          .next (({ t with work := { t.work with load := some ⟨h.fn, h.q, part.first, part.owner, got, b⟩ } } : State).complete h .ok []
            (leBytes 8 got.length))
      else
        let pack := packOf got pk.sigOk
        match s.packFault part.first part.owner got.length pack with
        | some st => .next ((if st = .sigFail then s.event eSec 0 else if st = .rollback then s.event eSec 1 else s).completeSt h st)
        | none =>
          if part.owner ≠ 0xFFFF ∧ !s.canCharge part.owner (packCharge pack.nplans) then .next (s.completeSt h .quota)
          else
            s.wellFormed h 293 (pack.plans.all planRanges && pack.zerosOk)
              (match s.placePlans part.owner part.first part.first pack.plans with
               | none => .next (s.completeSt h .retryLater)
               | some u =>
                 let v : State := { u with work := { u.work with packs := Tbl.set u.work.packs part.first pack.digest } }
                 .next ((v.charge part.owner (packCharge pack.nplans)).completeSt h .ok)))

/-- PACK_LOAD_TIMEOUT (R291). -/
def execPackLoadTimeout (s : State) : Outcome := s.whenServing State.loadEnd

/-- UNLOAD_PLAN (R292, R609). -/
def execUnloadPlan (h : HostHdr) (n : Nat) (s : State) : Outcome :=
  s.hostRun h (fun s =>
    s.need h (s.plan? n) (fun p =>
      if s.planOpen n ≠ 0 ∨ s.idx.desc.any (fun e => (e.2.st == .building || e.2.st == .active) && (e.2.splan == n || e.2.uplan == n))
      then .next (s.completeSt h .planBusy)
      else
        let t := p.areas.foldl (fun (u : State) a => u.areaFree a) s
        let ps := Tbl.erase t.work.plans n
        let u : State := { t with work := { t.work with
          plans := ps, packs := if ps.any (fun e => e.2.pack == p.pack) then t.work.packs else Tbl.erase t.work.packs p.pack } }
        .next ((u.release p.owner (packCharge 1)).completeSt h .ok)))

/-! ## Leases -/

/-- LEASE_OPEN (R298, R332, R609): RESULT is the lease number. -/
def execLeaseOpen (h : HostHdr) (plan : Nat) (s : State) : Outcome :=
  s.hostRun h (fun s =>
    s.need h (s.plan? plan) (fun _ =>
      match s.openLease plan with
      | .error st => .next (s.completeSt h st)
      | .ok (l, t) => .next (t.complete h .ok [] (leBytes 2 l))))

/-- LEASE_CLOSE (R303, R609): it completes when the lease has closed; a second close of the same lease completes at once. -/
def execLeaseClose (h : HostHdr) (l : Nat) (s : State) : Outcome :=
  s.hostRun h (fun s =>
    s.need h (s.lease? l) (fun x =>
      .next (if x.closeReq.isSome then s.completeSt h .ok else s.closeLease l (some h))))

/-- PLAN_STATS (R318, R609): nine stall totals of a lease, or of the node for 0xFFFF. -/
def execPlanStats (h : HostHdr) (l : Nat) (s : State) : Outcome :=
  s.hostRun h (fun s =>
    if l = 0xFFFF then s.answerWith h (s.work.nodeTotals.flatMap (leBytes 8))
    else s.need h (s.lease? l) (fun x => s.answerWith h (x.totals.flatMap (leBytes 8))))

end Sys2Proof.Machine
end

