-- ==== Sys2Proof/Machine/PustanOps.lean ====
section
/-! DEFINITION. Shared operations of the Pustan transport: the sequence window (R370, R371), grants of buffers (R373 to R376),
keyed regions and segments (R377 to R381), range locks (R388), and the failure of a connection (R367, R372, R399). -/

namespace Sys2Proof.Machine

/-! ## The sequence window (R370, R371) -/

/-- Sends the ACK of everything accepted on a connection (R371): it answers the request accepted last. -/
def State.ackSend (s : State) (conn : Nat) : State :=
  match s.conn? conn with
  | none => s
  | some c =>
    match c.lastAcc with
    | none => s
    | some m => (s.setConn conn { c with unacked := [] }).answer m mAck .ok 0 []

/-- Accepts a request that stands at NEXT: NEXT advances, and at 16 unacknowledged ones an ACK leaves at once (R370, R371). A
request that has been accepted before stays so. -/
def State.passMsg (s : State) (m : Msg) : State :=
  match s.conn? m.dconn with
  | none => s
  | some c =>
    if c.next ≠ m.seq then s
    else
      let t := s.setConn m.dconn { c with next := (m.seq + 1) % 2 ^ 32, unacked := c.unacked ++ [m.seq], lastAcc := some m }
      if 16 ≤ c.unacked.length + 1 then t.ackSend m.dconn else t

/-- Puts a message on the ready list. -/
def State.readyUp (s : State) (m : Msg) : State := { s with fab := { s.fab with ready := s.fab.ready ++ [m] } }

/-- Enters an outstanding request of a connection. -/
def State.inflAdd (s : State) (m : Msg) (w : Wait) : State :=
  s.modConn m.dconn (fun c => { c with infl := c.infl ++ [⟨m, w⟩] })

/-- Changes what an outstanding request waits for. -/
def State.setWait (s : State) (m : Msg) (w : Wait) : State :=
  s.modConn m.dconn (fun c => { c with infl := c.infl.map (fun i => if i.msg.seq = m.seq then { i with wait := w } else i) })

/-- Completes a request by a NAK (R370): it counts as accepted, and the replay store keeps the status. A refused message that is no
request is answered and forgotten. -/
def State.refuseMsg (s : State) (m : Msg) (st : Status) : State :=
  let t := s.nak m st
  if !isRequest m.mtype then t
  else
    let u := t.passMsg m
    match u.conn? m.dconn with
    | none => u
    | some c => (u.keepReplay ⟨m.dconn, m.seq, m.tag, st, m.opc, [], false, .nak⟩ c.next).inflDone m.dconn m.seq

/-! ## Grants (R373, R375) -/

/-- Sends an XRDY for a request: BUFID and generation (R373). -/
def State.sendXrdy (s : State) (m : Msg) (buf gen : Nat) : State :=
  match s.conn? m.dconn with
  | none => s
  | some c =>
    if c.st = .closed ∨ c.st = .failed then s
    else s.sendMsg c.rec_ { (Conn.make c.rec_ mXrdy m.epoch m.seq m.tag 0 .ok []) with aux := gen, arg := buf }

/-- The lowest free staging buffer (log 11). -/
def State.freeBuf (s : State) : Option Nat :=
  firstFrom (fun k => match Tbl.find s.fab.staging k with | some b => b.owner.isNone | none => true) 0 0x4000

/-- Grants a staging buffer to a CMD. -/
def State.grantBuf (s : State) (m : Msg) (k : Nat) : State :=
  let gen := ((Tbl.find s.fab.staging k).map (·.gen)).getD 0
  (({ s with fab := { s.fab with staging := Tbl.set s.fab.staging k ⟨gen, some (m.dconn, m.seq), [], [], false⟩ } }).setWait m
    (.data k)).sendXrdy m k gen

/-- A CMD that asks for bulk data: granted a staging buffer, or waiting in acceptance order (R373). -/
def State.askBuf (s : State) (m : Msg) : State :=
  let t := s.inflAdd m .staging
  match (if s.fab.stWait.isEmpty then s.freeBuf else none) with
  | some k => t.grantBuf m k
  | none => { t with fab := { t.fab with stWait := t.fab.stWait ++ [(m.dconn, m.seq)] } }

/-- The generation of a buffer that a connection was granted (R375). -/
def State.bufGen (s : State) (c : Conn) (buf : Nat) : Nat :=
  if buf < 0x8000 then ((Tbl.find s.fab.staging buf).map (·.gen)).getD 0
  else ((c.recv.find? (fun b => b.idx + 0x8000 == buf)).map (·.gen)).getD 0

/-! ## Acceptance (R369) -/

/-- A request at NEXT (R369 steps 5 to 7). SEND, READ and WRITE are accepted when they are carried out, for RETRY_LATER leaves
NEXT where it is (R370); the others at once. -/
def State.enterMsg (s : State) (m : Msg) : State :=
  match s.conn? m.dconn with
  | none => s
  | some c =>
    if m.tenant ≠ c.rec_.tenant then s.refuseMsg m .keyFail
    else if (s.mapOf m.epoch).isNone then (s.count kCasEpstale 1).refuseMsg m .epochStale
    else if mBarrier ≤ m.mtype ∧ !c.sys then s.refuseMsg m .badArg
    else if m.mtype = mCmd then
      if m.opc = 0 ∨ 5 < m.opc ∨ 65536 < m.arg then s.refuseMsg m .badArg
      else if m.arg = 0 then ((s.passMsg m).inflAdd m .none_).readyUp m
      else (s.passMsg m).askBuf m
    else if m.mtype = mSend ∨ m.mtype = mRead ∨ m.mtype = mWrite then (s.inflAdd m .none_).readyUp m
    else ((s.passMsg m).inflAdd m .none_).readyUp m

/-- Accepts the held requests that now follow in order (R370); `n` bounds them. A request that was caught while it was held only
passes. -/
def State.follow (s : State) (conn n : Nat) : State :=
  match n with
  | 0 => s
  | k + 1 =>
    match s.conn? conn with
    | none => s
    | some c =>
      if c.infl.any (fun i => i.msg.seq == c.next) then s
      else
        match c.held.find? (fun h => h.seq == c.next) with
        | none => s
        | some h =>
          let t := s.setConn conn { c with held := c.held.filter (fun x => x.seq != h.seq) }
          (if h.mtype = 0 then t.passMsg h else t.enterMsg h).follow conn k

/-- Accepts a request and the held ones that follow it. -/
def State.passOn (s : State) (m : Msg) : State := (s.passMsg m).follow m.dconn 64

/-- Completes a request by a NAK, and goes on with the held ones. -/
def State.refuseOn (s : State) (m : Msg) (st : Status) : State := (s.refuseMsg m st).follow m.dconn 64

/-- Refuses a request while it is reassembled. One ahead of NEXT keeps its place, so that its SEQ passes in turn; a duplicate
changes nothing (R370). -/
def State.refuseEarly (s : State) (m : Msg) (st : Status) : State :=
  match s.conn? m.dconn with
  | none => s
  | some c =>
    let d := (m.seq + 2 ^ 32 - c.next) % 2 ^ 32
    if !isRequest m.mtype then s.nak m st
    else if d = 0 then (if c.infl.any (fun i => i.msg.seq == m.seq) then s.nak m st else s.refuseOn m st)
    else if d ≤ 63 ∧ !c.held.any (fun h => h.seq == m.seq) then
      ((s.setConn m.dconn { c with held := c.held ++ [{ m with mtype := 0, payload := [] }] }).nak m st).keepReplay
        ⟨m.dconn, m.seq, m.tag, st, m.opc, [], false, .nak⟩ c.next
    else s.nak m st

/-- A duplicate (R370): its REPLY or NAK again, its XRDY again, or an ACK. -/
def State.dupMsg (s : State) (m : Msg) (c : Conn) : State :=
  let t := s.count kTraDups 1
  match s.fab.replay.find? (fun r => r.conn == m.dconn && r.seq == m.seq) with
  | some r =>
    let u := if r.nodata then t else { t with fab := { t.fab with replay := t.fab.replay.erase r ++ [r] } }
    match r.how with
    | .nak => u.answer m mNak r.status 4 []
    | .ack => u.answer m mAck .ok 4 []
    | .reply => u.answer m mReply r.status (if r.nodata then 12 else 4) r.body
  | none =>
    match (c.infl.find? (fun i => i.msg.seq == m.seq)).map (·.wait) with
    | some (Wait.data b) => t.sendXrdy m b (t.bufGen c b)
    | _ => t.answer m mAck .ok 4 []

/-- A request that has been reassembled (R370). -/
def State.seqIn (s : State) (m : Msg) (c : Conn) : State :=
  let d := (m.seq + 2 ^ 32 - c.next) % 2 ^ 32
  if d = 0 then
    if c.infl.any (fun i => i.msg.seq == m.seq) then s else (s.enterMsg m).follow m.dconn 64
  else if d ≤ 63 then
    if c.held.any (fun h => h.seq == m.seq) then s else s.setConn m.dconn { c with held := c.held ++ [m] }
  else if d < 2 ^ 31 then s.nak m .retryLater
  else if 2 ^ 32 ≤ d + 64 then s.dupMsg m c
  else s.nak m .stale

/-- A message that has been reassembled (R369 steps 4 to 7). -/
def State.messageIn (s : State) (m : Msg) : State :=
  match s.conn? m.dconn with
  | none => s
  | some c =>
    if isRequest m.mtype then s.seqIn m c
    else if m.tenant ≠ c.rec_.tenant then s.nak m .keyFail
    else s.readyUp m

/-! ## Keyed regions (R377 to R381) -/

/-- Where an access goes: region slot, region, offset in it, length, and whether it writes. -/
structure Access where
  slot  : Nat
  reg   : Region
  off   : Nat
  len   : Nat
  write : Bool

/-- The checks of a READ or WRITE, in order (R365, R378, R379). A scatter row of a SYS connection is no access to a region. -/
def State.access (s : State) (c : Conn) (m : Msg) : Except Status Access :=
  let write := m.mtype == mWrite
  let n := if !write then m.aux else if c.sys then sysDataLen m.payload.length else m.payload.length
  let go := fun (slot : Nat) (r : Region) (off : Nat) =>
    if !bitOf r.rec_.rights (if write then 1 else 0) then Except.error Status.rights
    else if r.rec_.length < off + n then .error .bounds
    else .ok { slot := slot, reg := r, off := off, len := n, write := write }
  if (if c.sys then 1044480 else 1048576) < n then .error .badArg
  else if c.sys then
    if m.key ≠ 0 then .error .keyFail
    else
      match s.fab.regions.find? (fun e => bitOf e.2.rec_.rights 3 && decide (e.2.rec_.expoff ≤ m.arg)
          && decide (m.arg < e.2.rec_.expoff + e.2.rec_.length) && !s.deregging e.1) with
      | none => .error .bounds
      | some e => go e.1 e.2 (m.arg - e.2.rec_.expoff)
  else
    match s.keyed m.key m.tenant with
    | none => .error .keyFail
    | some r => go (m.key % 2 ^ 16) r m.arg

/-- The segments that a range of a region touches; none of a region that is resident (R377). -/
def segsOf (r : RegionRec) (off n : Nat) : List Nat :=
  if r.rkind ≠ 2 ∨ n = 0 then []
  else (List.range ((off + n - 1) / 2 ^ r.segshift - off / 2 ^ r.segshift + 1)).map (· + off / 2 ^ r.segshift)

/-- The absent segments that a range touches (R380). -/
def Region.absent (r : Region) (off n : Nat) : List Nat := (segsOf r.rec_ off n).filter (fun g => !Tbl.get false r.present g)

/-- An access waits on absent segments: RESFAULT, and each segment goes to the host's event queue (R380). -/
def State.resFault (s : State) (m : Msg) (r : Region) (gs : List Nat) : State :=
  gs.foldl (fun (t : State) g => t.postEvent 0x0801 (leBytes 4 r.rec_.key ++ leBytes 4 g))
    (((s.setWait m .segs).event eTra 1).count kTraResfaults 1)

/-- The next buffer of a connection's receive queue (R374). -/
def Conn.head (c : Conn) : Option PostBuf := c.recv.find? (fun b => b.grant.isNone)

/-- Bytes that a SEND delivers. -/
def sendLen (c : Conn) (m : Msg) : Nat := if m.arg ≠ 0 then m.arg else if c.sys then sysDataLen m.payload.length else m.payload.length

/-- The region and range that a request touches, for the segments that it waits on. -/
def State.touches (s : State) (c : Conn) (m : Msg) : Option (Nat × Region × Nat × Nat) :=
  if m.mtype = mSend then
    c.head.bind (fun b => (Tbl.find s.fab.regions (b.key % 2 ^ 16)).map (fun r => (b.key % 2 ^ 16, r, b.offset, sendLen c m)))
  else
    match s.access c m with
    | .ok a => some (a.slot, a.reg, a.off, a.len)
    | .error _ => none

/-- Puts the requests that wait on segments back on the ready list when every segment they touch is present, or their key has
gone (R380). -/
def State.segsRetry (s : State) : State :=
  s.fab.conns.foldl (fun (t : State) e =>
    (e.2.infl.filter (fun i => i.wait == .segs)).foldl (fun (u : State) i =>
      match s.touches e.2 i.msg with
      | some (_, r, off, n) => if (r.absent off n).isEmpty then (u.setWait i.msg .none_).readyUp i.msg else u
      | none => (u.setWait i.msg .none_).readyUp i.msg) t) s

/-- Is an access to a region, or to a segment of it, in flight: a READ whose RDATA is leaving, or a SEND whose DATA is coming
(R377, R381)? -/
def State.inFlight (s : State) (slot : Nat) (seg : Option Nat) : Bool :=
  let hit := fun (off n : Nat) =>
    match seg, Tbl.find s.fab.regions slot with
    | some g, some r => (segsOf r.rec_ off n).contains g
    | _, _ => true
  s.fab.locks.any (fun e => e.2.any (fun l => l.begun && l.slot == slot && hit l.base l.len))
  || s.fab.conns.any (fun e => e.2.recv.any (fun b => b.grant.isSome && b.key % 2 ^ 16 == slot && hit b.offset b.len))

/-- Completes the DEREG_REGION and SEG_ABSENT commands that no access holds up any more (R377, R381). -/
def State.settleRegions (s : State) : State :=
  s.host.waits.foldl (fun (t : State) w =>
    let drop := fun (u : State) => { u with host := { u.host with waits := u.host.waits.filter (fun x => x != w) } }
    match w.2 with
    | .dereg slot =>
      if t.inFlight slot none then t
      else
        let u := drop t
        ({ u with fab := { u.fab with regions := Tbl.erase u.fab.regions slot } }).completeSt w.1 .ok
    | .segAbsent slot g => if t.inFlight slot (some g) then t else (drop t).completeSt w.1 .ok
    | _ => t) s

/-- Poison of the 64-byte pieces of `n` data bytes that start at a key. -/
def dataPois (line : Nat → Bool) (x n : Nat) : List Bool :=
  (List.range (ceilDiv n 64)).map (fun i => (linesOf (x + 64 * i) (min 64 (n - 64 * i))).any line)

/-- Bytes and poison of a region in HBM (R377). -/
def State.regionRead (s : State) (r : RegionRec) (off n : Nat) : List Byte × List Bool :=
  match s.place (r.base + off) with
  | .ilv x => (s.ilvRead x n, dataPois (fun l => Tbl.get false s.mem.hbmPoison (s.ilvKey (64 * l) / 64)) x n)
  | .chan ch o => (s.chRead ch o n, dataPois (fun l => Tbl.get false s.mem.hbmPoison l) (chKey ch o) n)
  | _ => (zeros n, List.replicate (ceilDiv n 64) true)

/-- The lines that the poisoned 64-byte pieces of data at a key touch. -/
def poisLines (x n : Nat) (pois : List Bool) : List Nat :=
  ((List.range pois.length).filter (fun i => pois.getD i false)).flatMap (fun i => linesOf (x + 64 * i) (min 64 (n - 64 * i)))

/-- Places data in a region: in HBM, or by a write to host memory (R377, R453, R455). -/
def State.regionWrite (s : State) (r : RegionRec) (off : Nat) (bs : List Byte) (pois : List Bool) : State :=
  if r.rkind ≠ 0 then s.emit (.hostWrite (r.base + off) bs ((List.range pois.length).filter (fun i => pois.getD i false)))
  else
    match s.place (r.base + off) with
    | .ilv x =>
      ((s.ilvWrite x bs).hbmPoisonLines ((poisLines x bs.length pois).map (fun l => s.ilvKey (64 * l) / 64))).recheck x bs.length
    | .chan ch o => (s.chWrite ch o bs).hbmPoisonLines (poisLines (chKey ch o) bs.length pois)
    | _ => s

/-- Notes that a connection's data went to host memory since its last FLUSH (R390). -/
def State.noteHost (s : State) (conn : Nat) (r : RegionRec) : State :=
  if r.rkind = 0 then s else s.modConn conn (fun c => { c with hostWr := true })

/-! ## Range locks (R388) -/

/-- Do two entries stall one another? -/
def lockMeets (a b : RLock) : Bool :=
  a.slot == b.slot && decide (a.base < b.base + b.len) && decide (b.base < a.base + a.len) && (a.write || b.write)

/-- Does an entry of a table meet one taken before it? -/
def lockStalled (ls : List RLock) (conn seq : Nat) : Bool :=
  let before := ls.takeWhile (fun l => !(l.conn == conn && l.seq == seq))
  match ls.find? (fun l => l.conn == conn && l.seq == seq) with
  | none => false
  | some x => before.any (fun l => lockMeets l x)

/-- The range-lock table of a group. -/
def State.lockTab (s : State) (g : Nat) : List RLock := Tbl.get [] s.fab.locks g

/-- Sets the table of a group. -/
def State.setLocks (s : State) (g : Nat) (ls : List RLock) : State :=
  { s with fab := { s.fab with locks := Tbl.put [] s.fab.locks g ls } }

/-- The connection group of a connection. -/
def State.groupOfConn (s : State) (conn : Nat) : Nat := ((s.conn? conn).map (·.rec_.cgroup)).getD 0

/-- Does a request hold an entry of its group's table? -/
def State.hasLock (s : State) (g conn seq : Nat) : Bool := (s.lockTab g).any (fun l => l.conn == conn && l.seq == seq)

/-- Takes an entry for an accepted access. -/
def State.takeLock (s : State) (g : Nat) (m : Msg) (a : Access) : State :=
  s.setLocks g (s.lockTab g ++ [⟨m.dconn, m.seq, a.slot, a.off, a.len, a.write, false⟩])

/-- An access takes its place in the range-lock table: the state, and whether the access may be made now. -/
def State.lockStep (s : State) (g : Nat) (m : Msg) (a : Access) : State × Bool :=
  let full := 256 ≤ (s.lockTab g).length || s.fab.lockWait.any (fun w => s.groupOfConn w.1 == g)
  if !s.hasLock g m.dconn m.seq && full then
    (({ s with fab := { s.fab with lockWait := s.fab.lockWait ++ [(m.dconn, m.seq)] } }.count kTraLockwait 1).setWait m .lock, false)
  else
    let t := if s.hasLock g m.dconn m.seq then s else s.takeLock g m a
    if lockStalled (t.lockTab g) m.dconn m.seq then (t.setWait m .lock, false)
    else
      (t.setLocks g ((t.lockTab g).map (fun l => if l.conn = m.dconn ∧ l.seq = m.seq then { l with begun := true } else l)), true)

/-- Releases a request's entry, or its wait for one. -/
def State.unlock (s : State) (conn seq : Nat) : State :=
  let g := s.groupOfConn conn
  let t := s.setLocks g ((s.lockTab g).filter (fun l => !(l.conn == conn && l.seq == seq)))
  ({ t with fab := { t.fab with lockWait := t.fab.lockWait.filter (fun w => w != (conn, seq)) } }).settleRegions

/-- Is a packet of a READ's data still in a port's queues? -/
def State.rdataLeaving (s : State) (conn seq : Nat) : Bool :=
  s.fab.ports.any (fun p => p.2.egress.any (fun e => e.msg.mtype == mRdata && e.msg.sconn == conn && e.msg.seq == seq))

/-- Releases the entry of a READ whose last RDATA packet has been sent (R388). -/
def State.unlockSent (s : State) (conn seq : Nat) : State := if s.rdataLeaving conn seq then s else s.unlock conn seq

/-! ## Withdrawals and failures -/

/-- Withdraws the grant of a posted buffer: its generation advances (R375, R387). -/
def State.withdrawPost (s : State) (conn seq : Nat) : State :=
  (s.modConn conn (fun c => { c with recv := c.recv.map (fun b =>
    if b.grant = some seq then { b with grant := none, gen := (b.gen + 1) % 2 ^ 32, filled := [], chunks := [] } else b) })).settleRegions

/-- Takes a request off the waits of the staging pool. -/
def State.stagingUnwait (s : State) (conn seq : Nat) : State :=
  { s with fab := { s.fab with stWait := s.fab.stWait.filter (fun e => e != (conn, seq)) } }

/-- The position of the member that a SYS connection leads to. -/
def State.memberOf (s : State) (conn : Nat) : Option Nat := s.memberTable.findIdx? (fun m => m.conn == conn)

/-- The node that a SYS connection leads to. -/
def State.peerNode (s : State) (conn : Nat) : Nat :=
  match (s.memberTable ++ s.childTable).find? (fun m => m.conn == conn) with
  | some m => m.node
  | none => s.fld fCasCfgPmaster

/-- The group request whose CMD to a member stands under a SEQ (R414). -/
def State.groupBySeq (s : State) (pos seq : Nat) : Option GroupReq :=
  s.cas.groupReqs.find? (fun g => g.parts.any (fun p => p.pos == pos && p.seq == some seq))

/-- Counts a member's part of a group request as failed (R415). -/
def State.failPart (s : State) (conn seq : Nat) (st : Status) : State :=
  match s.memberOf conn with
  | none => s
  | some p =>
    match s.groupBySeq p seq with
    | none => s
    | some g => s.setPart g.req p (fun x => if x.rec_.isSome || x.failed.isSome then x else { x with failed := some st })

/-- Sets a member position's state at the master: MEMBER and a record (R436). -/
def State.setMember (s : State) (p : Nat) (st : MState) : State :=
  match Tbl.find s.cas.members p with
  | none => s
  | some m =>
    if m.st = st then s
    else
      ({ s with cas := { s.cas with members := Tbl.set s.cas.members p { m with st := st, expelled := false } } }).raise eCas 5
        (s.nodeReport 0x0504 3 (locGroup p (s.fld fCasBarBseq)) [match st with | .absent => 0 | .joining => 1 | .active => 2])

/-- A connection fails (R367, R372, R399): its outstanding requests complete with NO_CONN, as far as they have not begun, and the
parts that a member owes count as NO_CONN (R415). The member's position becomes ABSENT (R436). -/
def State.connFail (s : State) (conn : Nat) : State :=
  match s.conn? conn with
  | none => s
  | some c =>
    if c.st ≠ .open_ ∧ c.st ≠ .draining then s
    else
      let mine := fun (m : Msg) => m.dconn == conn
      let pull := fun (b : PostBuf) =>
        if b.grant.isSome then { b with grant := none, gen := (b.gen + 1) % 2 ^ 32, filled := [], chunks := [] } else b
      let a := s.setConn conn { c with st := .failed, sent := [], held := [], infl := [], recv := c.recv.map pull }
      let b := { a with fab := { a.fab with ready := a.fab.ready.filter (fun m => !mine m),
                                            stWait := a.fab.stWait.filter (fun w => w.1 != conn),
                                            lockWait := a.fab.lockWait.filter (fun w => w.1 != conn) } }
      let g := c.rec_.cgroup
      let d := ((b.setLocks g ((b.lockTab g).filter (fun l => l.conn != conn)))).settleRegions
      let e := c.infl.foldl (fun (t : State) i => t.freeStaging conn i.msg.seq) d
      let q := (e.work.reqs.filter (fun r => (r.st == .queued || r.st == .sideWait || r.st == .admitWait)
          && (match r.src with | .conn m => mine m | .queue _ => false))).foldl (fun (t : State) r =>
        let u := t.modLease r.lease (fun x => { x with queue := x.queue.filter (fun i => i != r.id) })
        u.finishReq r .noConn []) e
      let h := c.sent.foldl (fun (t : State) x => if x.mtype = mCmd then t.failPart conn x.seq .noConn else t) q
      let k := h.raise eTra 2 (h.nodeReport 0x0403 3 (locPort c.rec_.homeport conn) [])
      if k.role = 2 then (match k.memberOf conn with | some p => k.setMember p .absent | none => k) else k

end Sys2Proof.Machine
end

