-- ==== Sys2Proof/Machine/CasOps.lean ====
section
/-! DEFINITION. Shared operations of a cascade group: the records of a group request and their merge (R114 to R116, R415, R434),
the count of work under OLD (R427), and the bodies of the group messages (R421, R429, R432, R437). -/

namespace Sys2Proof.Machine

/-! ## Records from members -/

/-- The statuses by their codes (R320); an unknown code counts as CHECK_FAIL. -/
def statusOf (n : Nat) : Status :=
  (([.ok, .short, .caught, .tooLate, .badArg, .keyFail, .bounds, .rights, .quota, .policed, .notFound, .idExists, .indexFull,
     .noSpace, .notPresent, .notMine, .retryLater, .stale, .genMismatch, .reasmTimeout, .noConn, .epochStale, .tierTimeout, .poison,
     .checkFail, .aborted, .sigFail, .badPack, .noResource, .planBusy, .rollback, .stepHang, .nodeBusy] : List Status).find?
    (fun s => statusCode s == n)).getD .checkFail

/-- An entry of a result record (R114). -/
def parseEntry (b : List Byte) (i : Nat) : TkEntry :=
  let o := 64 + 24 * i
  { vid := leAt b o 8, okey := leAt b (o + 8) 8, dist := leAt b (o + 16) 4, loc := leAt b (o + 20) 4, rec_ := 0 }

/-- A search result record read from its bytes (R112, R113). -/
def SearchRec.parse (b : List Byte) : SearchRec :=
  let f := leAt b 1 1
  { status := statusOf (leAt b 0 1), tieAtK := bitOf f 0, widened := bitOf f 2, reranked := bitOf f 3, partial_ := bitOf f 4,
    k := leAt b 4 2, ties := leAt b 6 2, index := leAt b 8 2, tenant := leAt b 10 2, epoch := leAt b 12 2, wlevel := leAt b 14 1,
    failed := leAt b 15 1, lists := leAt b 16 4, poisoned := leAt b 20 4, nans := leAt b 24 4, skipped := leAt b 28 4,
    passed := leAt b 32 4, cands := leAt b 36 2, steptag := leAt b 40 8, qtag := leAt b 48 8,
    entries := (List.range (leAt b 2 2)).map (parseEntry b) }

/-- PENDING of a record (R113). -/
def recPending (b : List Byte) : Bool := bitOf (leAt b 1 1) 1

/-- Does a record contribute its entries (R116)? -/
def SearchRec.good (r : SearchRec) : Bool := r.status == .ok || r.status == .short

/-- Has a part nothing more to wait for (R415)? -/
def Part.final (p : Part) : Bool := p.failed.isSome || (p.rec_.isSome && !p.prov)

/-- A member's record reaches its part (R415, R434). A part that counts as failed takes no later record; a provisional record of a
step that was retracted is discarded; one of a step that was confirmed is final. -/
def State.putRecord (s : State) (g : GroupReq) (pos : Nat) (z : SearchRec) (pend : Bool) : State :=
  if g.parts.any (fun p => p.pos == pos && p.failed.isSome) then s
  else if pend && s.cas.ignored.contains z.steptag then s.setPart g.req pos (fun p => { p with rec_ := none, discard := some z.steptag })
  else
    let wait := pend && !s.cas.confirmed.contains z.steptag
    let t := s.setPart g.req pos (fun p =>
      { p with rec_ := some z, prov := wait, discard := none, failed := if z.good then none else some z.status })
    if wait && !t.cas.verdicts.any (fun v => v.1 == z.steptag) then
      { t with cas := { t.cas with verdicts := t.cas.verdicts ++ [(z.steptag, pos)] } }
    else t

/-- A REPLY from a member to a CMD of the master (R415). A SEARCH reply whose body the member no longer held brings no record. -/
def State.groupReply (s : State) (m : Msg) : State :=
  match s.memberOf m.dconn with
  | none => s
  | some pos =>
    match s.groupBySeq pos m.seq with
    | none => s
    | some g =>
      if g.op ≠ .search then s.setPart g.req pos (fun p => { p with failed := some (statusOf m.status), out := m.payload })
      else if m.payload.length < 64 then s
      else s.putRecord g pos (SearchRec.parse m.payload) (recPending m.payload)

/-! ## The merge (R116) -/

/-- Node number of a member position. -/
def State.posNode (s : State) (pos : Nat) : Nat :=
  if pos = s.fld fCasCfgPos then s.nodeNum else ((s.memberTable[pos]?).map (·.node)).getD 0

/-- The part of the lowest node number. -/
def State.lowestPart (s : State) (ps : List Part) : Option Part :=
  match ps with
  | [] => none
  | p :: r => some (r.foldl (fun b x => if s.posNode x.pos < s.posNode b.pos then x else b) p)

/-- Sums a counter of the records, saturating at `n` bits. -/
def sumSat (n : Nat) (rs : List SearchRec) (f : SearchRec → Nat) : Nat := rs.foldl (fun z r => satAdd n z (f r)) 0

/-- The group record of a request (R116): `b` is the request's body. A member's own excluded ties at the worst merged distance count
with the master's (R111). -/
def State.mergeGroup (s : State) (g : GroupReq) (r : Req) : SearchRec :=
  let goods := g.parts.filter (fun p => p.failed.isNone && p.rec_.any (·.good))
  let bad := g.parts.length - goods.length
  let rs := goods.filterMap (·.rec_)
  if goods.isEmpty then
    let low := s.lowestPart g.parts
    { SearchRec.fail ((low.bind (·.failed)).getD .noConn) (leAt r.body 4 2) r.index r.tenant r.epoch
        (((low.bind (·.rec_)).map (·.steptag)).getD 0) (srcTag r.src) with failed := bad, partial_ := true }
  else
    let k := leAt r.body 4 2
    let sel := select k (rs.flatMap (·.entries))
    let worst := (sel.1.getLast?.map (·.dist)).getD f32Inf
    let up := (rs.filter (fun z => z.entries.length == z.k && (z.entries.getLast?.any (fun e => tkEq e.dist worst)))).foldl
      (fun n z => n + z.ties) 0
    let ties := if sel.1.length < k then 0 else sel.2.2 + up
    { status := if sel.1.length < k then .short else .ok, tieAtK := decide (0 < ties), widened := rs.any (·.widened),
      reranked := rs.any (·.reranked), partial_ := decide (0 < bad), k := k, ties := ties, index := r.index, tenant := r.tenant,
      epoch := r.epoch, wlevel := (rs.map (·.wlevel)).foldl max 0, failed := bad, lists := sumSat 32 rs (·.lists),
      poisoned := sumSat 32 rs (·.poisoned), nans := sumSat 32 rs (·.nans), skipped := sumSat 32 rs (·.skipped),
      passed := sumSat 32 rs (·.passed), cands := sumSat 16 rs (·.cands),
      steptag := (((s.lowestPart goods).bind (·.rec_)).map (·.steptag)).getD 0, qtag := srcTag r.src, entries := sel.1 }

/-! ## Group messages -/

/-- A BARRIER body (R421). -/
def barrierBody (kind depth bseq uaddr arrcyc : Nat) : List Byte :=
  leBytes 1 kind ++ leBytes 1 depth ++ zeros 2 ++ leBytes 4 bseq ++ leBytes 8 uaddr ++ leBytes 4 arrcyc ++ zeros 4

/-- An OWNER body (R429). -/
def ownerBody (kind lepoch keeper sid : Nat) : List Byte :=
  leBytes 1 kind ++ zeros 1 ++ leBytes 2 lepoch ++ leBytes 2 keeper ++ zeros 2 ++ leBytes 8 sid ++ zeros 8

/-- A JOIN body (R437). -/
def joinBody (kind bist node bseq fwver uaddr : Nat) : List Byte :=
  leBytes 1 kind ++ leBytes 1 bist ++ leBytes 2 node ++ leBytes 4 bseq ++ leBytes 4 fwver ++ zeros 4 ++ leBytes 8 uaddr

/-- The kind of a SYS message: the first byte of its body. -/
def sysKind (m : Msg) : Nat := leAt m.payload 0 1

/-- NEW, or zero while no epoch is live. -/
def State.newEpoch (s : State) : Nat := (s.cas.newMap.map (·.epoch)).getD 0

/-- Sends a SYS request to a member position under NEW. -/
def State.toMember (s : State) (pos mtype : Nat) (body : List Byte) : State :=
  match s.memberTable[pos]? with
  | none => s
  | some m => s.request m.conn mtype 0 s.newEpoch id body

/-- Sends a SYS request to a node. -/
def State.toNode (s : State) (node mtype : Nat) (body : List Byte) : State :=
  match s.sysConn node with
  | none => s
  | some c => s.request c mtype 0 s.newEpoch id body

/-- The SYS connection of a member to its master, whose position the GROUP section gives (log 39). -/
def State.masterConn (s : State) : Option Nat :=
  (s.memberTable[((s.boot.image.bind (·.group)).map (·.master)).getD 0]?).map (·.conn)

/-- The positions other than the node's own. -/
def State.others (s : State) : List Nat := (List.range s.memberTable.length).filter (fun p => p != s.fld fCasCfgPos)

/-- Finishes with a SYS request that has been carried out. -/
def State.sysDone (s : State) (m : Msg) : State := (s.unready m).doneMsg m

/-- A SYS message of a type and kind that stands ready, carried out (R360); any other state stays as it is (log 12). -/
def State.onSys (s : State) (m : Msg) (mtype kind : Nat) (f : State → State) : Outcome :=
  if s.isReady m mtype && sysKind m == kind then .next (f (s.sysDone m)) else .next s

/-! ## Epochs (R426, R427) -/

/-- Is epoch `a` newer than `b` by 16-bit serial-number arithmetic (R426)? -/
def epochNewer (a b : Nat) : Bool := a != b && decide ((a + 2 ^ 16 - b) % 2 ^ 16 < 2 ^ 15)

/-- The count of R427 for an epoch: requests, steps, REGION transfers, replay state, and ownership queries (R430). -/
def State.epochCount (s : State) (e : Nat) : Nat :=
  let leases := s.work.leases
  let steps := leases.flatMap (fun x => x.2.step.toList ++ x.2.past)
  let reads := s.work.reads.filter (fun r => leases.any (fun x => x.2.cores.contains r.1 && x.2.step.any (fun p => p.epoch == e)))
  let msgs := s.fab.conns.foldl (fun n c => n + (c.2.sent.filter (fun x => x.msg.epoch == e && (x.mtype == mWrite
    || x.mtype == mOwner))).length) 0
  let infl := s.fab.conns.foldl (fun n c => n + (c.2.infl.filter (fun i => i.msg.epoch == e)).length) 0
  let rung := s.work.reqs.filter (fun r => r.epoch == e && !r.forwarded && (match r.src with | .queue _ => true | .conn _ => false))
  rung.length + infl + (steps.filter (fun p => p.epoch == e)).length + reads.length + msgs
    + (s.cas.provs.filter (fun p => p.step.epoch == e)).length
    + (s.cas.queries.filter (fun q => q.asked.any (fun a => a.1 == e))).length

end Sys2Proof.Machine
end

