-- ==== Sys2Proof/Machine/Fabric.lean ====
section
/-! DEFINITION. Fabric ports: frames in and reassembly (R356, R357, R361, R368, R369, R383 to R385), egress (R382, R391 to R398),
links (R353, R399), and the timed events of the transport (R370 to R372, R376, R380). -/

namespace Sys2Proof.Machine

/-! ## Ingress occupancy and priority flow control (R357) -/

/-- Sends a PFC frame. -/
def State.sendPfc (s : State) (p cls quanta : Nat) : State := (s.emit (.pfc p cls quanta)).count (kFabPfctx p) 1

/-- Adds staged bytes of a class at a port; a lossless class that rises past XOFF is paused. -/
def State.occAdd (s : State) (p cls n : Nat) : State :=
  let x := s.port p
  let v := Tbl.get 0 x.occ cls + n
  let t := s.setPort p { x with occ := Tbl.put 0 x.occ cls v, staged := x.staged + n }
  if bitOf (s.fld (fFabPfcPfcmask p)) cls && decide (1024 * s.fld (fFabPfcXoff p) < v) && !Tbl.get false x.txPause cls then
    (t.setPort p { (t.port p) with txPause := Tbl.set x.txPause cls true }).sendPfc p cls 0xFFFF
  else t

/-- Releases staged bytes; a paused class that falls below XON goes on. -/
def State.occSub (s : State) (p cls n : Nat) : State :=
  let x := s.port p
  let v := Tbl.get 0 x.occ cls - n
  let t := s.setPort p { x with occ := Tbl.put 0 x.occ cls v, staged := x.staged - n }
  if Tbl.get false x.txPause cls && decide (v < 1024 * s.fld (fFabPfcXon p)) then
    (t.setPort p { (t.port p) with txPause := Tbl.erase x.txPause cls }).sendPfc p cls 0
  else t

/-! ## Reassembly (R361, R383 to R385) -/

/-- May a message of the type span packets (R361)? -/
def spans (t : Nat) : Bool := t == mReply || t == mRdata || t == mData || t == mWrite

/-- Does a packet keep the rules of its offset, length and LAST bit (R358, R361, R383)? -/
def packetOk (m : Msg) : Bool :=
  let n := m.payload.length
  decide (n ≤ 8192) && decide (m.totlen ≤ 1048576) && decide (m.offset + n ≤ m.totlen) && m.offset % 512 == 0
  && (n % 512 == 0 || m.offset + n == m.totlen) && (bitOf m.flags 0 == (m.offset + n == m.totlen))
  && (spans m.mtype || (m.offset == 0 && n == m.totlen))

/-- The chunks of 512 bytes that a packet brings. -/
def chunksIn (m : Msg) : List Nat := (List.range (ceilDiv m.payload.length 512)).map (· + m.offset / 512)

/-- Do two packets agree in the fields that R383 names? -/
def packetsAgree (a b : Msg) : Bool :=
  a.mtype == b.mtype && a.seq == b.seq && a.tag == b.tag && a.key == b.key && a.arg == b.arg && a.totlen == b.totlen

/-- The port and the context that a packet's message has (R384). -/
def State.ctxOf (s : State) (m : Msg) : Option (Nat × Ctx) :=
  s.fab.ports.findSome? (fun e => (e.2.ctxs.find? (fun c => c.head.dconn == m.dconn && c.head.msgid == m.msgid)).map (fun c => (e.1, c)))

/-- Discards a context with what its port has staged for it. -/
def State.ctxDrop (s : State) (p : Nat) (c : Ctx) : State :=
  let t := s.setPort p { (s.port p) with ctxs := (s.port p).ctxs.filter (fun x => x != c) }
  if c.held = 0 then t else t.occSub p c.cls c.held

/-- The message of a full context. -/
def Ctx.msg (c : Ctx) : Msg := { c.head with offset := 0, payload := rdBytes c.bytes 0 c.head.totlen }

/-- The bytes that a packet takes of the port's staging: those of WRITE and REPLY (R384). -/
def stages (m : Msg) : Nat := if m.mtype = mWrite ∨ m.mtype = mReply then m.payload.length else 0

/-- What the ports have staged. -/
def State.stagedBytes (s : State) : Nat := s.fab.ports.foldl (fun n e => n + e.2.staged) 0

/-- Is there no room for a packet: for a new context, or for its bytes in the port's share or in the node reserve (R384; log 126)? -/
def State.stageFull (s : State) (p : Nat) (m : Msg) (new : Bool) : Bool :=
  (new && decide (s.fld (fFabPcapReasmctx p) ≤ (s.port p).ctxs.length))
  || decide (1024 * s.fld (fFabPcfgReasmbuf p) < (s.port p).staged + stages m)
  || (stages m != 0 && (s.areaTake (s.stagedBytes + stages m)).isNone)

/-- A packet that finds no room: REASMFULL, and one answer to its message (R384). -/
def State.reasmFull (s : State) (p : Nat) (m : Msg) : State :=
  let t := s.event (ePort p) 5
  if (s.port p).refused.contains (m.dconn, m.msgid) then t
  else (t.setPort p { (t.port p) with refused := (t.port p).refused ++ [(m.dconn, m.msgid)] }).nak m .retryLater

/-- Adds a packet to a context of port `p` and passes the message on when its bitmap is full. -/
def State.ctxAdd (s : State) (p : Nat) (c : Ctx) (m : Msg) : State :=
  let d : Ctx := { c with chunks := (chunksIn m).foldl (fun t k => Tbl.set t k true) c.chunks, bytes := wrBytes c.bytes m.offset m.payload,
                          held := c.held + stages m }
  let x := s.port p
  let t := s.setPort p { x with ctxs := x.ctxs.filter (fun y => y != c) ++ [d] }
  let u := if stages m = 0 then t else t.occAdd p c.cls (stages m)
  if ceilDiv c.head.totlen 512 ≤ d.chunks.length then (u.ctxDrop p d).messageIn d.msg else u

/-- A packet of an open connection that the policer has let pass (R383 to R385). DATA goes to its buffer as it arrives (R375). -/
def State.reassemble (s : State) (p cls : Nat) (m : Msg) : State :=
  if s.fab.ports.any (fun e => e.2.dead.contains (m.dconn, m.msgid)) then s.count (kFabDeaddrop p) 1
  else
    match s.ctxOf m with
    | some (q, c) =>
      if !packetOk m || !packetsAgree c.head m then (s.ctxDrop q c).refuseEarly m .badArg
      else if (chunksIn m).all (fun k => Tbl.has c.chunks k) then s.count (kFabReasmdup p) 1
      else if (chunksIn m).any (fun k => Tbl.has c.chunks k) then (s.ctxDrop q c).refuseEarly m .badArg
      else if s.stageFull q m false then s.reasmFull q m
      else s.ctxAdd q c m
    | none =>
      if !packetOk m then s.refuseEarly m .badArg
      else if m.mtype = mData then s.messageIn m
      else if m.offset = 0 ∧ m.payload.length = m.totlen then s.messageIn m
      else if s.stageFull p m true then s.reasmFull p m
      else
        let c : Ctx := { cls := cls, head := m, chunks := [], bytes := [], held := 0 }
        (s.setPort p { (s.port p) with ctxs := (s.port p).ctxs ++ [c] }).ctxAdd p c m

/-! ## Connections and policing (R367 to R369, R391) -/

/-- Takes the packet's bytes from the tenant's policer (R391): none when it is dropped. -/
def State.police (s : State) (c : Conn) (f : Frame) : Option State :=
  if c.sys then some s
  else
    match s.tenant? c.rec_.tenant with
    | none => some s
    | some x => (policeTake x f.len).map (fun y => s.modTenant c.rec_.tenant (fun _ => y))

/-- A packet that the policer drops: one that begins a request is answered, at most once per connection per 100 µs. -/
def State.policed (s : State) (c : Conn) (m : Msg) : State :=
  let t := s.countPoliced c.rec_.tenant
  if !isRequest m.mtype || m.offset != 0 || c.polAt.any (fun a => decide (s.uptime < a + 100)) then t
  else (t.modConn m.dconn (fun x => { x with polAt := some s.uptime })).nak m .policed

/-- A packet whose connection's state is on chip (R367, R369). -/
def State.packetIn (s : State) (p : Nat) (f : Frame) (c : Conn) : State :=
  let m := f.msg
  let new := isRequest m.mtype && decide ((m.seq + 2 ^ 32 - c.next) % 2 ^ 32 < 2 ^ 31)
  let dead := c.st = .closed ∨ c.st = .failed
  if dead ∨ (c.st = .draining ∧ new) then (if isRequest m.mtype then s.nakNoConn m f.sip else s)
  else
    let t := { (s.modConn m.dconn (fun x => { x with lru := s.fab.lruClock + 1 })) with
      fab := { (s.modConn m.dconn (fun x => { x with lru := s.fab.lruClock + 1 })).fab with lruClock := s.fab.lruClock + 1 } }
    match t.police c f with
    | none => t.policed c m
    | some u => u.reassemble p f.cls m

/-- Where a connection's state lies in the spill area of host memory (R368). -/
def State.spillAt (s : State) (conn : Nat) : Nat := s.reg64 0xF0020 + 256 * conn

/-- Looks the connection up (R368): a packet of a spilled connection waits in the miss queue, and the first of them fetches its state. -/
def State.connIn (s : State) (p : Nat) (f : Frame) : State :=
  match s.conn? f.msg.dconn with
  | none => if isRequest f.msg.mtype then s.nakNoConn f.msg f.sip else s
  | some c =>
    if c.cached then s.packetIn p f c
    else
      let t := s.count kTraCmiss 1
      if 512 ≤ t.fab.missq.length then t.count kTraCmissdrop 1
      else
        let u := if t.fab.missq.any (fun g => g.msg.dconn == f.msg.dconn) then t
          else t.emit (.hostRead (t.spillAt f.msg.dconn) 256)
        { u with fab := { u.fab with missq := u.fab.missq ++ [f] } }

/-- FRAME_RECEIVE (R356, R357, R360, R369): a frame arrives at a port in use whose link is up. -/
def execFrameReceive (p : Nat) (f : Frame) (s : State) : Outcome :=
  if s.hw.variant.ports ≤ p || !s.serving || !(s.port p).up then .next s
  else
    let t := (s.count (kFabRxframes p) 1).count (kFabRxbytes p) f.len
    let m := { f.msg with port := p }
    .next (if !f.fcsOk then t.count (kFabFcserr p) 1
      else if 9216 < f.len then t.count (kFabOversize p) 1
      else if !f.etherOk || f.pause then t.count (kFabOther p) 1
      else if !f.addrOk then t.count (kFabBadaddr p) 1
      else if !f.udpOk then t.count (kFabUdperr p) 1
      else if f.ver != 1 || !isType m.mtype then t.count (kFabOther p) 1
      else if !bitOf (t.fld (fFabPfcPfcmask p)) f.cls && decide (Config.ingressBytes < Tbl.get 0 (t.port p).occ f.cls + m.payload.length) then
        t.count (kFabLossydrop p) 1
      else t.connIn p { f with msg := m })

/-! ## PFC events -/

/-- An event of a port that is present, while the node serves; at an absent port a register write is ignored (R9) and an event cannot
happen (log 12). -/
def State.onPort (s : State) (p : Nat) (f : Port → State) : Outcome :=
  .next (if p < s.hw.variant.ports && s.serving then f (s.port p) else s)

/-- The µs that a pause of so many quanta of 512 bit times, 0.64 ns, takes. -/
def quantaUs (q : Nat) : Nat := ceilDiv (q * 64) 100000

/-- PFC_FRAME (R357): the classes named start no frame for the time given; zero quanta end the pause. -/
def execPfcFrame (p classes quanta : Nat) (s : State) : Outcome :=
  s.onPort p (fun x =>
    (s.setPort p { x with paused := (maskBits 8 classes).foldl (fun t c =>
      if quanta = 0 then Tbl.erase t c else Tbl.set t c (s.uptime + quantaUs quanta)) x.paused }).count (kFabPfcrx p) 1)

/-- PFC_REFRESH (R357): the port repeats the pause of a class whose occupancy stays at or above XON. -/
def execPfcRefresh (p cls : Nat) (s : State) : Outcome :=
  s.onPort p (fun x =>
    if Tbl.get false x.txPause cls && decide (1024 * s.fld (fFabPfcXon p) ≤ Tbl.get 0 x.occ cls) then s.sendPfc p cls 0xFFFF else s)

/-- Is a class paused now? -/
def State.pausedAt (s : State) (x : Port) (c : Nat) : Bool := (Tbl.find x.paused c).any (fun e => decide (s.uptime < e))

/-- PFCWD_EXPIRY (R357): PFCSTORM; the class stays paused. -/
def execPfcwdExpiry (p cls : Nat) (s : State) : Outcome :=
  s.onPort p (fun x => if s.pausedAt x cls then s.raise (ePort p) 3 (s.nodeReport 0x0402 0 (locPort p 0) []) else s)

/-! ## Egress (R392 to R398) -/

/-- A gate entry of a port (R404): its gates and interval. -/
def State.gateEnt (s : State) (p i : Nat) : Nat × Nat :=
  let x := s.reg64 (portBase p + 0x1000 + 8 * i)
  (bits x 0 8, bits x 8 32)

/-- The ns of the window of a class from entry `i` on, the entry's own excluded (R397). -/
def State.windowFrom (s : State) (p c i n : Nat) : Nat :=
  match n with
  | 0 => 0
  | k + 1 => if bitOf (s.gateEnt p i).1 c then (s.gateEnt p i).2 + s.windowFrom p c (i + 1) k else 0

/-- Transmission time of a frame in ns (R397). -/
def txNs (len : Nat) : Nat := ceilDiv ((len + 20) * 8) 800

/-- Is the gate of a class open, with room for a frame (R392, R397)? -/
def State.gateFits (s : State) (p : Nat) (x : Port) (c len : Nat) : Bool :=
  if !s.flag (fFabGclctlEnable p) then true
  else bitOf (s.gateEnt p x.gate).1 c
    && decide (txNs len ≤ x.gateLeft + s.windowFrom p c (x.gate + 1) (s.fld (fFabGclctlLen p) - (x.gate + 1)))

/-- The fields of FAB_CSHAPE (R404). -/
def State.cshape (s : State) (p c lo n : Nat) : Nat := bits (s.reg64 (portBase p + 0x40 + 8 * c)) lo n

/-- Does a class shaper hold a frame (R392, R394)? -/
def State.classHolds (s : State) (p : Nat) (x : Port) (c len : Nat) : Bool :=
  s.cshape p c 0 20 == 0 || decide (8 * len ≤ Tbl.get (s.cshape p c 20 16 * 8192) x.ctokens c)

/-- Does a tenant shaper hold a frame? SYS traffic has none. -/
def State.tenantHolds (s : State) (t len : Nat) : Bool :=
  match s.tenant? t with
  | none => true
  | some y => y.rate.srate == 0 || decide (8 * len ≤ y.stokens)

/-- Quantum of a tenant queue in bytes (R395); the SYS queue has a new tenant's (log 37). -/
def State.tenantQuant (s : State) (t : Nat) : Nat := 64 * (((s.tenant? t).map (·.rate.tquant)).getD 144)

/-- The first frame of a queue. -/
def headOf (x : Port) (c t : Nat) : Option Egress := x.egress.find? (fun e => e.cls == c && e.tenant == t)

/-- The next queue of a round robin after `turn`. -/
def nextTurn (ids : List Nat) (turn : Nat) : Nat := (ids.find? (fun i => decide (turn < i))).getD (ids.headD 0)

/-- Deficit round robin (R393): the queue that sends and the deficits. A queue adds its quantum on each turn and sends while its head
frame is no longer than its deficit. -/
def drr (ids : List Nat) (quant len : Nat → Nat) (turn : Nat) (def_ : Tbl Nat) (fuel : Nat) : Option (Nat × Tbl Nat) :=
  match fuel with
  | 0 => none
  | k + 1 =>
    if ids.contains turn && decide (len turn ≤ Tbl.get 0 def_ turn) then some (turn, def_)
    else
      let n := nextTurn ids turn
      drr ids quant len n (Tbl.put 0 def_ n (Tbl.get 0 def_ n + quant n)) k

/-- Turns enough for a frame of 9,216 bytes at a quantum of 64 bytes. -/
def drrFuel (ids : List Nat) : Nat := 146 * (ids.length + 1)

/-- What the tenant round robin of a class would pick: the queue, its frame, and the deficits of the class (R392). -/
def State.pickTenant (s : State) (x : Port) (c : Nat) : Option (Nat × Egress × Tbl Nat) :=
  let ts := (x.egress.filter (fun e => e.cls == c)).foldl (fun (t : Tbl Bool) e => Tbl.set t e.tenant true) []
  let len := fun t => ((headOf x c t).map (·.len)).getD 0
  let ids := (Tbl.keys ts).filter (fun t => s.tenantHolds t (len t))
  let mine : Tbl Nat := (x.tdef.filter (fun e => e.1 / 65536 == c)).map (fun e => (e.1 % 65536, e.2))
  if ids.isEmpty then none
  else
    (drr ids s.tenantQuant len (Tbl.get 0 x.tturn c) mine (drrFuel ids)).bind (fun r =>
      (headOf x c r.1).map (fun e => (r.1, e, r.2)))

/-- The choice of R392: class, tenant queue, frame, deficits of the tenants, and deficits of the classes. -/
def State.pick (s : State) (p : Nat) (x : Port) : Option (Nat × Nat × Egress × Tbl Nat × Tbl Nat) :=
  let cand := (List.range 8).filterMap (fun c => (s.pickTenant x c).bind (fun r =>
    if s.gateFits p x c r.2.1.len && !s.pausedAt x c && s.classHolds p x c r.2.1.len then some (c, r) else none))
  match (cand.reverse.find? (fun e => s.cshape p e.1 48 1 == 1)) with
  | some (c, t, e, d) => some (c, t, e, d, x.cdef)
  | none =>
    let len := fun c => ((cand.find? (fun e => e.1 == c)).map (fun e => e.2.2.1.len)).getD 0
    let ids := cand.map (·.1)
    if ids.isEmpty then none
    else
      (drr ids (fun c => 64 * s.cshape p c 36 12) len x.cturn x.cdef (drrFuel ids)).bind (fun r =>
        (cand.find? (fun e => e.1 == r.1)).map (fun e => (r.1, e.2.1, e.2.2.1, e.2.2.2, r.2)))

/-- Deficits after a frame of a queue has been sent: an empty queue has none (R393). -/
def deficitAfter (t : Tbl Nat) (k len : Nat) (empty : Bool) : Tbl Nat :=
  Tbl.put 0 t k (if empty then 0 else Tbl.get 0 t k - len)

/-- Raises the residence marks of a class (R398), in ns. -/
def State.markHwm (s : State) (p c t ns : Nat) : State :=
  let a := portBase p + 0x80 + 4 * c
  (s.setWord a (hwmRaise (s.word a) ns)).modTenant t (fun y =>
    { y with hwm := Tbl.put 0 y.hwm (p * 8 + c) (max (Tbl.get 0 y.hwm (p * 8 + c)) (min ns (2 ^ 24 - 1))) })

/-- The packet that a frame carries (R358, R359, R382): its part of the message, its offset, and LAST where it holds the end. -/
def Egress.packet (e : Egress) : Msg :=
  let last := e.msg.totlen ≤ e.offset + 8192
  { e.msg with offset := e.offset, payload := (e.msg.payload.drop e.offset).take 8192,
               flags := putBits e.msg.flags 0 1 (b2n last) }

/-- The Pustan header of a packet (R358). -/
def msgHeader (m : Msg) : List Byte :=
  leBytes 1 1 ++ leBytes 1 m.mtype ++ leBytes 2 m.flags ++ leBytes 2 m.tenant ++ leBytes 2 m.epoch ++ leBytes 2 m.dconn ++ leBytes 2 m.sconn
  ++ leBytes 4 m.seq ++ leBytes 4 m.msgid ++ leBytes 4 m.offset ++ leBytes 4 m.totlen ++ leBytes 2 m.payload.length ++ leBytes 1 m.status
  ++ leBytes 1 m.opc ++ leBytes 8 m.tag ++ leBytes 4 m.key ++ leBytes 4 m.aux ++ leBytes 8 m.arg

/-- The IPv6 address of a port (R401). -/
def State.portIp (s : State) (p : Nat) : List Byte := (List.range 4).flatMap (fun i => leBytes 4 (s.word (portBase p + 0x200 + 4 * i)).toNat)

/-- The bytes of a frame (R355; log 128): Ethernet II header with the IEEE 802.1Q tag, IPv6 and UDP headers, the packet, and the FCS. -/
def State.frameBytes (s : State) (p : Nat) (e : Egress) : List Byte :=
  let body := msgHeader e.packet ++ e.packet.payload
  let mac := s.reg64 (portBase p + 0x28)
  let dst := leBytes 16 e.dip
  let pudp := s.fld fFabTcfg2Pudp
  let udp := fun (sum : Nat) => beBytes 2 (pudp + 1 + e.path) ++ beBytes 2 pudp ++ beBytes 2 (8 + body.length) ++ beBytes 2 sum ++ body
  let dscp := bits (s.reg64 (portBase p + 0x38)) (8 * e.cls) 6
  let ip := beBytes 4 (6 * 2 ^ 28 + dscp * 2 ^ 22) ++ beBytes 2 (8 + body.length) ++ [17, 64] ++ s.portIp p ++ dst
  let eth := beBytes 6 (bits (s.reg64 (portBase p + 0x30)) 0 48) ++ beBytes 6 (bits mac 0 48) ++ beBytes 2 0x8100
    ++ beBytes 2 (e.cls * 2 ^ 13 + bits mac 48 12) ++ beBytes 2 0x86DD ++ ip ++ udp (udpSum (s.portIp p) dst (udp 0))
  eth ++ leBytes 4 (fcsOf eth)

/-- The frame of a queue begins: it leaves its queue, is charged to its shapers and deficits, and is counted (R392, R398, R405). -/
def State.beginFrame (s : State) (p : Nat) (x : Port) (c t : Nat) (e : Egress) (td cd : Tbl Nat) : State :=
  let rest := x.egress.erase e
  let strict := s.cshape p c 48 1 == 1
  let td2 := deficitAfter td t e.len (!rest.any (fun f => f.cls == c && f.tenant == t))
  let cd2 := if strict then cd else deficitAfter cd c e.len (!rest.any (fun f => f.cls == c))
  let y : Port := { x with
    egress := rest, sending := true, cdef := cd2, cturn := if strict then x.cturn else c, tturn := Tbl.set x.tturn c t,
    tdef := (List.range td2.length).foldl (fun (u : Tbl Nat) i =>
      match td2[i]? with | some d => Tbl.put 0 u (c * 65536 + d.1) d.2 | none => u) (x.tdef.filter (fun d => d.1 / 65536 != c)),
    gateLeft := x.gateLeft - txNs e.len,
    ctokens := if s.cshape p c 0 20 = 0 then x.ctokens else
      Tbl.put (s.cshape p c 20 16 * 8192) x.ctokens c (Tbl.get (s.cshape p c 20 16 * 8192) x.ctokens c - 8 * e.len) }
  let a := ((s.setPort p y).modTenant t (fun z => if z.rate.srate = 0 then z else
    { z with stokens := z.stokens - 8 * e.len, shaped := z.shaped + 1 })).markHwm p c t ((s.uptime - e.at_) * 1000)
  let b := ((a.count (kFabTxframes p) 1).count (kFabTxbytes p) e.len).emit (.frame p (s.frameBytes p e))
  if e.msg.mtype = mRdata then b.unlockSent e.msg.sconn e.msg.seq else b

/-- The gate list starts anew at entry 0 (R396). -/
def State.gateRestart (s : State) (p : Nat) : State :=
  s.setPort p { (s.port p) with gate := 0, gateLeft := (s.gateEnt p 0).2, restart := false, armed := false }

/-- EGRESS_PICK (R392): the port can begin a frame. The frame before it has ended, with a restart of the gate list that waited for
it (R396). -/
def execEgressPick (p : Nat) (s : State) : Outcome :=
  s.onPort p (fun x0 =>
    let t := if x0.restart then s.gateRestart p else s
    let x := { (t.port p) with sending := false }
    if !x.up then t
    else
      match t.pick p x with
      | none => t.setPort p x
      | some (c, q, e, td, cd) => t.beginFrame p x c q e td cd)

/-- GATE_LIST_ENABLE (R396, R403): ENABLE is set, and the list runs from entry 0. -/
def execGateListEnable (p : Nat) (s : State) : Outcome :=
  s.onPort p (fun _ => if s.flag (fFabGclctlEnable p) then s else (s.setFld (fFabGclctlEnable p) 1).gateRestart p)

/-- GATE_INTERVAL_END (R396): the next entry of the list; after the last one, entry 0. -/
def execGateIntervalEnd (p : Nat) (s : State) : Outcome :=
  s.onPort p (fun x =>
    if !s.flag (fFabGclctlEnable p) then s
    else
      let n := if s.fld (fFabGclctlLen p) ≤ x.gate + 1 then 0 else x.gate + 1
      s.setPort p { x with gate := n, gateLeft := (s.gateEnt p n).2 })

/-- GATE_LIST_RESTART (R396): RDELAY has passed since a barrier release. While a frame is being sent the restart waits for its end
and counts as GATEOVR. -/
def execGateListRestart (p : Nat) (s : State) : Outcome :=
  s.onPort p (fun x =>
    if !s.flag (fFabGclctlEnable p) || !s.flag (fFabGclctlAlign p) || !x.armed then s
    else if x.sending then (s.setPort p { x with restart := true, armed := false }).event (ePort p) 4
    else s.gateRestart p)

/-! ## Links (R353, R399) -/

/-- What the loss of a link takes with it: the link, the connections whose home the port is, contexts and staged data, queued
frames. -/
def State.portDown (s : State) (p : Nat) : State :=
  let x := s.port p
  let t := (s.setPort p { portReset with lost := x.lost, paused := x.paused, ctokens := x.ctokens, gate := x.gate,
                                         gateLeft := x.gateLeft, armed := x.armed, dead := x.dead }).setFld (fFabPcfgLinkup p) 0
  let u := t.each (List.range 8) (fun c v => if Tbl.get false x.txPause c then v.sendPfc p c 0 else v)
  (u.fab.conns.filter (fun e => e.2.rec_.homeport == p)).foldl (fun (v : State) e => v.connFail e.1) u

/-- LINK_UP (R353, R399): the port's link comes up, and the port is in its SPRAY sets again. -/
def execLinkUp (p : Nat) (s : State) : Outcome :=
  s.onPort p (fun x =>
    if !s.flag (fFabPcfgEnable p) || x.up || s.flag (fFabPcfgReset p) then s
    else ((s.setPort p { x with up := true, lost := false }).setFld (fFabPcfgLinkup p) 1).event (ePort p) 1)

/-- LINK_DOWN (R399). -/
def execLinkDown (p : Nat) (s : State) : Outcome :=
  s.onPort p (fun x => if !x.up then s else (s.portDown p).event (ePort p) 0)

/-- PORTLOST, with REPLACE (R399, R463). -/
def State.portLost (s : State) (p : Nat) : State :=
  let x := s.port p
  if x.lost then s
  else ((s.setPort p { x with lost := true }).raise (ePort p) 2 (s.nodeReport 0x0401 0 (locPort p 0) [])).replace 3

/-- LOSTTIME_EXPIRY (R399): the link of a port in use has stayed down for LOSTTIME. -/
def execLosttimeExpiry (p : Nat) (s : State) : Outcome :=
  s.onPort p (fun x => if x.up || !s.flag (fFabPcfgEnable p) then s else s.portLost p)

/-- LINK_TRAINING_FAILURE (R399). -/
def execLinkTrainingFailure (p : Nat) (s : State) : Outcome :=
  s.onPort p (fun x => if x.up || !s.flag (fFabPcfgEnable p) then s else s.portLost p)

/-! ## Timed events of the transport -/

/-- REASMTO_EXPIRY (R385): the context goes, its message is answered, and its MSGID enters the dead list of 256. -/
def execReasmtoExpiry (p dconn msgid : Nat) (s : State) : Outcome :=
  s.onPort p (fun x =>
    match x.ctxs.find? (fun c => c.head.dconn == dconn && c.head.msgid == msgid) with
    | none => s
    | some c =>
      let t := (s.ctxDrop p c).count (kFabReasmtmo p) 1
      let d := (t.port p).dead ++ [(dconn, msgid)]
      (t.setPort p { (t.port p) with dead := d.drop (d.length - 256) }).nak c.head .reasmTimeout)

/-- DEAD_LIST_EXPIRY (R385). -/
def execDeadListExpiry (p dconn msgid : Nat) (s : State) : Outcome :=
  s.onPort p (fun x => s.setPort p { x with dead := x.dead.filter (fun e => e != (dconn, msgid)) })

/-- REORDERTO_EXPIRY (R370): a held request is dropped and counted. -/
def execReordertoExpiry (conn seq : Nat) (s : State) : Outcome :=
  s.whenServing (fun s =>
    match s.conn? conn with
    | none => s
    | some c =>
      if c.held.any (fun h => h.seq == seq) then
        (s.setConn conn { c with held := c.held.filter (fun h => h.seq != seq) }).count kTraReorddrop 1
      else s)

/-- The request that a buffer is granted to (R373). -/
def State.grantee (s : State) (buf : Nat) : Option Inflight :=
  s.fab.conns.findSome? (fun e => e.2.infl.find? (fun i => i.wait == .data buf))

/-- XRDYTO_EXPIRY (R376): the grant of a staging buffer is withdrawn, and the request completes. For a posted buffer the row names
its BUFID; the first connection that waits on that BUFID is meant. -/
def execXrdytoExpiry (buf : Nat) (s : State) : Outcome :=
  s.whenServing (fun s =>
    match s.grantee buf with
    | none => s
    | some i =>
      let t := (s.withdrawPost i.msg.dconn i.msg.seq).freeStaging i.msg.dconn i.msg.seq
      if i.msg.mtype = mCmd then t.replyTo i.msg .reasmTimeout [] else t.refuseOn i.msg .reasmTimeout)

/-- Sends a request of this node again with a new MSGID, or, after the last retry, the connection fails (R372). -/
def State.resend (s : State) (conn seq : Nat) : State :=
  match s.conn? conn with
  | none => s
  | some c =>
    match c.sent.find? (fun x => x.seq == seq) with
    | none => s
    | some x =>
      if s.fld fFabTcfg2Retries ≤ x.tries then s.connFail conn
      else
        ((s.setConn conn { c with sent := c.sent.map (fun y => if y.seq = seq then { y with tries := y.tries + 1 } else y) }).count
          kTraRetx 1).sendMsg c.rec_ x.msg

/-- RTO_EXPIRY (R372): an unacknowledged request is sent again. -/
def execRtoExpiry (conn seq : Nat) (s : State) : Outcome :=
  s.whenServing (fun s =>
    match s.conn? conn with
    | none => s
    | some c => if c.sent.any (fun x => x.seq == seq && !x.acked) then s.resend conn seq else s)

/-- ACKINT_EXPIRY (R371). -/
def execAckintExpiry (conn : Nat) (s : State) : Outcome :=
  s.whenServing (fun s =>
    match s.conn? conn with
    | none => s
    | some c => if c.unacked.isEmpty then s else s.ackSend conn)

/-- RESWAIT_EXPIRY (R380): an access that waits on absent segments is refused, and NEXT stays where it is (R370). -/
def execReswaitExpiry (conn seq : Nat) (s : State) : Outcome :=
  s.whenServing (fun s =>
    match s.conn? conn with
    | none => s
    | some c =>
      match c.infl.find? (fun i => i.msg.seq == seq && i.wait == .segs) with
      | none => s
      | some i => (((s.unlock conn seq).inflDone conn seq).count kTraResnak 1).nak i.msg .retryLater)

/-- The least recently used connection on chip that is not pinned (R368). -/
def State.lruConn (s : State) : Option Nat :=
  match s.fab.conns.filter (fun e => e.2.cached && !e.2.rec_.pin && !e.2.sys) with
  | [] => none
  | e :: r => some (r.foldl (fun b x => if x.2.lru < b.2.lru then x else b) e).1

/-- A connection's state is written back to the spill area (R368). The spec gives its 256 bytes no layout: they are free (log 134). -/
def State.spillOut (s : State) (conn : Nat) : State :=
  ({ s with free := s.free + 256 }).emit (.hostWrite (s.spillAt conn)
    ((List.range 256).map (fun i => BitVec.ofNat 8 (Config.freeValue (s.free + i)))) [])

/-- Brings a connection's state on chip; the least recently used one leaves when 8,192 are there (R368). -/
def State.cacheConn (s : State) (conn : Nat) : State :=
  let full := s.fld fFabTcapCached ≤ (s.fab.conns.filter (fun e => e.2.cached)).length
  let t := if full then
      match s.lruConn with
      | some v => ((s.modConn v (fun c => { c with cached := false })).count kTraEvicts 1).spillOut v
      | none => s
    else s
  { (t.modConn conn (fun c => { c with cached := true, lru := t.fab.lruClock + 1 })) with
      fab := { (t.modConn conn (fun c => { c with cached := true, lru := t.fab.lruClock + 1 })).fab with lruClock := t.fab.lruClock + 1 } }

/-- CONN_STATE_FETCHED (R368): the state arrives and its packets go on in order; a failed access drops them. -/
def execConnStateFetched (conn : Nat) (ok : Bool) (s : State) : Outcome :=
  s.whenServing (fun s =>
    let mine := s.fab.missq.filter (fun f => f.msg.dconn == conn)
    if mine.isEmpty then s
    else
      let t := { s with fab := { s.fab with missq := s.fab.missq.filter (fun f => f.msg.dconn != conn) } }
      if !ok then t.raise eTra 0 (t.nodeReport 0x0404 0 (locPort 0 conn) [])
      else
        mine.foldl (fun (u : State) f =>
          match u.conn? conn with
          | some c => u.packetIn f.msg.port f c
          | none => u) (t.cacheConn conn))

/-- STAGING_BUFFER_GRANT (R373): the oldest waiting CMD is granted a free staging buffer. -/
def execStagingBufferGrant (s : State) : Outcome :=
  s.whenServing (fun s =>
    match s.fab.stWait, s.freeBuf with
    | w :: r, some k =>
      let t := { s with fab := { s.fab with stWait := r } }
      match (t.conn? w.1).bind (fun c => c.infl.find? (fun i => i.msg.seq == w.2)) with
      | some i => t.grantBuf i.msg k
      | none => t
    | _, _ => s)

/-- Takes waiting requests of a group into its range-lock table while it has room; `n` bounds them. -/
def State.fillLocks (s : State) (g n : Nat) : State :=
  match n with
  | 0 => s
  | k + 1 =>
    match s.fab.lockWait.find? (fun w => s.groupOfConn w.1 == g) with
    | none => s
    | some w =>
      if 256 ≤ (s.lockTab g).length then s
      else
        let t := { s with fab := { s.fab with lockWait := s.fab.lockWait.erase w } }
        match (t.conn? w.1).bind (fun c => (c.infl.find? (fun i => i.msg.seq == w.2)).map (fun i => (c, i))) with
        | none => t.fillLocks g k
        | some (c, i) =>
          match t.access c i.msg with
          | .ok a => (t.takeLock g i.msg a).fillLocks g k
          | .error _ => ((t.setWait i.msg .none_).readyUp i.msg).fillLocks g k

/-- RANGE_LOCK_GRANT (R388): waiting requests take entries, and the first stalled one that nothing before it stalls any more goes
on. -/
def execRangeLockGrant (g : Nat) (s : State) : Outcome :=
  s.whenServing (fun s =>
    let t := s.fillLocks g 256
    match (t.lockTab g).find? (fun l => !l.begun && !lockStalled (t.lockTab g) l.conn l.seq
        && (t.conn? l.conn).any (fun c => c.infl.any (fun i => i.msg.seq == l.seq && i.wait == .lock))) with
    | none => t
    | some l =>
      match (t.conn? l.conn).bind (fun c => c.infl.find? (fun i => i.msg.seq == l.seq)) with
      | some i => (t.setWait i.msg .none_).readyUp i.msg
      | none => t)

end Sys2Proof.Machine
end

