-- ==== Sys2Proof/Machine/Nbu.lean ====
section
/-! DEFINITION. Near-bank unit commands other than micro-ops: GO, start and release of slots, refresh, the corrected-error
interval. -/

namespace Sys2Proof.Machine

/-- A command about a channel that the variant has, while the node serves; at an absent channel a write is ignored (R9) and an event
cannot happen (log 12). -/
def State.onCh (s : State) (ch : Nat) (f : State → State) : Outcome :=
  .next (if ch < s.nch && s.serving then f s else s)

/-- The next slot to run: the rest of the group under way, then the oldest waiting group (R125), with the rest of its group
and the groups left. -/
def Currant.nextSlot (c : Currant) : Option (Nat × List Nat × List (List Nat) × Bool) :=
  match c.group, c.groups with
  | k :: r, gs => some (k, r, gs, false)
  | [], (k :: r) :: gs => some (k, r, gs, true)
  | [], _ => none

/-- The per-currant items at zero, as before the first group of another lease (R577). -/
def Currant.clean (c : Currant) : Currant :=
  { c with buf := currantReset.buf, bufPois := currantReset.bufPois, ps := 0, psPois := false, heap := [],
           v := currantReset.v, vPois := currantReset.vPois, sf := currantReset.sf, sPois := currantReset.sPois,
           sInt := currantReset.sInt, of_ := currantReset.of_, oPois := currantReset.oPois, m := 0, l := 0, mlPois := false }

/-- The registers of a slot as it starts (R122). -/
def State.slotLoad (s : State) (ch k qwait : Nat) (c : Currant) : Currant :=
  { c with rs := .run, slot := k, pc := s.slotGet ch k 0 2 % 512,
           a := (List.range 8).map (fun i => s.slotGet ch k (8 + 4 * i) 4 % 2 ^ 28),
           c := (List.range 4).map (fun i => s.slotGet ch k (0x28 + 2 * i) 2),
           limit := s.slotGet ch k 0x30 4 % 2 ^ 24, scanpos := s.slotGet ch k 0x34 4 % 2 ^ 24,
           side := bitOf (s.slotGet ch k 0x34 4) 31,
           heap := if bitOf (s.slotGet ch k 2 1) 0 then [] else c.heap,
           accPois := false, passcnt := 0, poiscnt := 0, rowops := 0, pausec := 0, qwait := qwait, confw := 0,
           ovf := false, spois := false, lastRdl := none }

/-- SLOT_START (R125, R128, R155, R577): the currant is idle and starts the next slot in order, unless its ENABLE is clear. The first
slot of a group of another lease finds the per-currant items cleared, which takes 8 cycles of QWAIT; within a lease they stay as the
last command left them (log 95). The lists that the slot scans are read then (R25). No slot starts while the node is held (R487). An ENTRY outside the plan's range is a host error. -/
def execSlotStart (ch qwait : Nat) (s : State) : Outcome :=
  s.onCh ch (fun s =>
    let c := s.cur ch
    if c.rs ≠ .idle ∨ s.powerHeld ∨ !s.flag (fNbuCtlEnable ch) then s
    else
      match c.nextSlot with
      | none => s
      | some (k, r, gs, first) =>
        let lease := s.slotGet ch k 6 2
        let entry := s.slotGet ch k 0 2 % 512
        let g := s.nbuRange lease
        let wipe := first && lease != c.lastLease
        let c1 := { c with group := r, groups := gs, lastLease := if first then lease else c.lastLease }
        let c2 := if wipe then c1.clean else c1
        let t := if entry < g.1 ∨ g.2 ≤ entry then s.hostErr 128 else s
        ((t.slotSet ch k 3 1 2).setCur ch (s.slotLoad ch k (if wipe then qwait + 8 else qwait) c2)).scanSlot lease ch
          (s.slotGet ch k 8 4 % 2 ^ 28 / 16))

/-- SLOT_RELEASE (R124): the issuer writes zero to SSTATE; a DONE slot returns to IDLE, a write to a slot in READY, RUN or
PAUSED is a host error and leaves SSTATE, which is the currant's. -/
def execSlotRelease (ch slot : Nat) (s : State) : Outcome :=
  s.onCh ch (fun s =>
    let x := s.sstate ch slot
    if 16 ≤ slot then s
    else if x = 1 ∨ x = 2 ∨ x = 3 then s.hostErr 124
    else s.slotSet ch slot 3 1 0)

/-- REF_DUE (R144, R146): a refresh is due; with no slot running the controller refreshes at once, without a pause. -/
def execRefDue (ch : Nat) (s : State) : Outcome :=
  s.onCh ch (fun s =>
    let c := s.cur ch
    if c.rs = .run then s.setCur ch { c with refDue := true } else s)

/-- FORCED_PAUSE (R145): no yield point came within 4,875 cycles of REF_DUE; the slot pauses and FORCED is raised. -/
def execForcedPause (ch : Nat) (s : State) : Outcome :=
  s.onCh ch (fun s =>
    let c := s.cur ch
    if c.rs = .run ∧ c.refDue then
      let t := ((s.setCur ch { c with rs := .paused }).slotSet ch c.slot 3 1 3).count (kNbuForcepause ch) 1
      t.raise (eNbu ch) 2 (t.nodeReport 0x0204 3 (locHbm ch 0 0) [])
    else s)

/-- REFRESH_COMPLETE (R144, R146): the channel is refreshed and the paused slot runs again; the cycles count. While the node is held
for VWARN the slot stays paused (R487). -/
def execRefreshComplete (ch cyc : Nat) (s : State) : Outcome :=
  s.onCh ch (fun s =>
    let c := s.cur ch
    if c.rs = .paused then
      let r := s.setCur ch { c with rs := if s.powerHeld then .paused else .run, refDue := false, pausec := c.pausec + cyc }
      let t := r.slotSet ch c.slot 3 1 (if s.powerHeld then 3 else 2)
      (t.count (kNbuPausecyc ch) cyc).count (kNbuBusycyc ch) cyc
    else s)

/-- CEWARN_INTERVAL (R155): a one-second interval ends and the next counts from zero. -/
def execCewarnInterval (ch : Nat) (s : State) : Outcome :=
  s.onCh ch (fun s => s.setCur ch { (s.cur ch) with ceCount := 0, ceWarned := false })

/-- NBU_GO (R124, R125, R157): a write of the mask to NBU_GO of a currant's block, or of a broadcast block that covers
several (R152). -/
def State.nbuGo (s : State) (blk mask : Nat) : State :=
  let chs := match blkOf (320 + blk) with
    | .nbu c => [c]
    | b => (blkCovers s.hw.variant b).map (· - 320)
  s.each chs (fun c t => t.nbuGoOn c (mask % 2 ^ 16))

end Sys2Proof.Machine
end

