-- ==== Sys2Proof/Machine/RegBus.lean ====
section
/-! DEFINITION. Register accesses of the two requesters (R531 to R546): what a read returns, what a base or alias write changes, the
values a field takes, and the effects that a write starts. -/

namespace Sys2Proof.Machine

/-! ## Values that a read computes -/

/-- HST_IRQSRC (R525, R527): the functions that hold completion entries. -/
def State.irqSrc (s : State) : Nat :=
  (List.range 64).foldl (fun x f => if s.host.cqs.any (fun e => e.1 / 64 == f && e.2.count != 0) then x + 2 ^ f else x) 0

/-- HRDY# (R525, R526): is it asserted? -/
def State.hrdy (s : State) : Bool :=
  !s.flag fTopStatusBusy
  && (s.host.cqs.any (fun e => e.2.ien && e.2.count != 0) || (s.evtSum &&& s.fld fHstEvtenBlocks) != 0)

/-- CAS_MEMBER of a position (R442): zero except on a master. -/
def State.memberReg (s : State) (p : Nat) : Nat :=
  if s.role ≠ 2 then 0
  else
    match s.memberTable[p]? with
    | none => 0
    | some e =>
      let m := Tbl.get ⟨.absent, false, none, [], false, none⟩ s.cas.members p
      e.node % 2 ^ 16 + (match m.st with | .absent => 0 | .joining => 1 | .active => 2) * 2 ^ 16 + b2n m.suspect * 2 ^ 18
        + (m.lasts.filter id).length * 2 ^ 24

/-- FCE_SPARE of a channel (R219): the fewest spares left in a plane, and the spares at format. -/
def State.spareReg (s : State) (c : Nat) : Nat :=
  let left := (s.planes c).map (s.spareLeft c)
  (if left.isEmpty then 0 else left.foldl min s.flash.sparesFmt) + s.flash.sparesFmt * 2 ^ 16

/-- NBU_STATE (R157). -/
def State.nbuStateReg (s : State) (c : Nat) : Nat :=
  let x := s.cur c
  (if x.rs = .idle then 0 else x.slot % 16 + 2 ^ 4) + b2n (x.rs == .paused) * 2 ^ 5
    + (List.range 16).foldl (fun m k => if s.sstate c k = 1 then m + 2 ^ (16 + k) else m) 0

/-- CORE_BRM_STATE of a merge unit (R263): the contexts that leases hold in its stage. -/
def State.brmStateReg (s : State) (u : Nat) : Nat :=
  if !unitPresent s.hw.variant u then 0
  else
    let i := unitStage u
    (List.range 4).foldl (fun m c =>
      if s.admitted.any (fun e => (s.plan? e.2.plan).any (fun p =>
          decide (e.2.ctxBase.getD i 0 ≤ c) && decide (c < e.2.ctxBase.getD i 0 + bits p.hdr.brmctx (4 * i) 4))) then m + 2 ^ c else m) 0

/-- The value of a register that the node computes from its state, by block number and offset. -/
def State.derived (s : State) (n o : Nat) : Option Nat :=
  match blkOf n with
  | .top => if o = 0x48 then some s.evtSum else if o = 0x50 then some s.uptime else none
  | .hst => if o = 0x20 then some s.irqSrc else none
  | .ftl => if o = 0x28 then some (unitSize * s.flash.wbuf.length) else none
  | .fce c => if o = 0x20 then some (s.spareReg c) else none
  | .nbu c => if o = 0x20 then some (s.nbuStateReg c) else none
  | .bramble => if o % 0x20 = 0 ∧ 0x100 ≤ o then some (s.brmStateReg ((o - 0x100) / 0x20)) else none
  | .cas =>
    if o = 0x38 then some (match s.cas.oldMap with | none => 0 | some m => s.epochCount m.epoch)
    else if 0x40 ≤ o ∧ o < 0x80 then some (s.memberReg ((o - 0x40) / 8)) else none
  | _ => none

/-! ## Reading -/

/-- Can the requester read and write fields of an access code (R536)? -/
def accReads (req : Requester) (a : Acc) : Bool :=
  match a with
  | .rw => true
  | .ro => true
  | .sq => true
  | .wb => false
  | .pz => req == .host
  | .sz => req == .secure
  | .wo => false

def accWrites (req : Requester) (a : Acc) : Bool :=
  match a with
  | .rw => true
  | .pz => req == .host
  | .sz => req == .secure
  | _ => false

/-- The whole value of a register. -/
def State.regValue (s : State) (n : Nat) (r : Reg) : Nat :=
  match s.derived n r.off with
  | some v => v
  | none => (List.range r.words).foldr (fun i x => (s.word (n * 0x10000 + r.off + 4 * i)).toNat + 2 ^ 32 * x) 0

/-- Is a block hidden while BUSY is set (R535)? The secure master may read NRG. -/
def State.hiddenRead (s : State) (req : Requester) (n : Nat) : Bool :=
  s.flag fTopStatusBusy && blkOf n != .top && !(blkOf n == .nrg && req == .secure)

/-- What a requester reads at an address (R9, R534 to R537, R543): a broadcast block, an absent one and a reserved offset read zero,
and an alias page reads as the base page. -/
def State.busRead (s : State) (req : Requester) (a : Nat) : W32 :=
  let n := a / 0x10000
  let o := a % 0x4000
  if s.hiddenRead req n || blkAbsent s.hw.variant (blkOf n) then 0
  else
    match regAt s.hw n o with
    | none => 0
    | some r => BitVec.ofNat 32 ((s.regValue n r &&& regMask r (accReads req)) / 2 ^ (8 * (o - r.off)))

/-! ## The values a register takes -/

/-- The rule that a register's new value breaks, none if every field lies in its stated values (R544 and the field tables). -/
def regBad (s : State) (n : Nat) (r : Reg) (v : Nat) : Option Nat :=
  let o := r.off
  let req := fun (rule : Nat) (c : Bool) => if c then none else some rule
  match blkOf n with
  | .nrg =>
    if o = 0x8 then req 500 (decide (bits v 0 16 ≤ s.hw.variant.allowMax) && decide (10 ≤ bits v 16 10) && decide (bits v 16 10 ≤ 1000)
      && decide (10 ≤ bits v 26 10) && decide (bits v 26 10 ≤ 1000)) else none
  | .chk => if o = 0 then req 471 (bits v 0 4 != 0) else none
  | .cas =>
    if o = 0x10 then req 440 (decide (1 ≤ bits v 0 7) && decide (bits v 0 7 ≤ 64) && decide (1 ≤ bits v 7 7)
      && decide (bits v 7 7 ≤ bits v 0 7)) else none
  | .port _ =>
    if o = 0x8 then req 402 (bits v 2 2 != 3)
    else if o = 0x18 then req 403 (decide (bits v 24 16 < bits v 8 16))
    else if o = 0x20 then req 403 (decide (1 ≤ bits v 2 7) && decide (bits v 2 7 ≤ 64))
    else if 0x40 ≤ o ∧ o < 0x80 then req 404 (decide (1 ≤ bits v 20 16) && decide (1 ≤ bits v 36 12))
    else none
  | .trans => if o = 0x20 then req 406 (v % 4096 == 0) else none
  | .fce c =>
    if o = 0x8 then req 217 (bits v 1 2 != 3 && decide (bits v 16 5 ≤ 16) && decide (bits v 16 5 ≤ s.fld (fFceCapRetrylv c))
      && decide (1 ≤ bits v 21 5) && decide (bits v 21 5 ≤ 16)) else none
  | .core _ =>
    if o = 0x8 then req 260 (decide (8 ≤ bits v 2 5) && decide (bits v 2 5 ≤ 24))
    else if 0x1000 ≤ o then req 274 (bits v 12 8 != 0xFF) else none
  | _ => none

/-- The rule that forbids a write now: a gate list that runs, a scale register of a leased core, the micro-program store, a slot that
is not the issuer's (R124, R159, R276, R403). -/
def State.regShut (s : State) (n o : Nat) : Option Nat :=
  match blkOf n with
  | .port p => if 0x1000 ≤ o ∧ s.flag (fFabGclctlEnable p) then some 403 else none
  | .core c => if 0x1000 ≤ o ∧ s.fld (fCoreStateLease c) ≠ 0xFFFF then some 276 else none
  | .nbu c =>
    if 0x2000 ≤ o then some 159
    else if 0x1000 ≤ o then
      let x := s.sstate c ((o - 0x1000) / 0x100)
      if x = 1 ∨ x = 2 ∨ x = 3 then some 124 else none
    else none
  | _ => none

/-- What a register holds when fields of its own kind meet a written value: OVF clears only by zero (R276), RESET of a port keeps reading
one until the reset is done (R402), and SSTATE of a slot is the currant's, which a zero returns to IDLE (R123, R124). -/
def State.regMeet (s : State) (n : Nat) (r : Reg) (v : Nat) : Nat :=
  let old := s.regValue n r
  match blkOf n with
  | .core _ => if 0x1000 ≤ r.off then putBits v 21 1 (b2n (bitOf v 21 && bitOf old 21)) else v
  | .port _ => if r.off = 0x8 then putBits v 1 1 (b2n (bitOf v 1 || bitOf old 1)) else v
  | .nbu _ =>
    if 0x1000 ≤ r.off ∧ r.off < 0x2000 ∧ r.off % 0x100 = 0 then
      (if bits v 24 8 = 0 then v else putBits v 24 8 (bits old 24 8))
    else v
  | _ => v

/-- Sets all words of a register at once. -/
def State.setRegister (s : State) (n : Nat) (r : Reg) (v : Nat) : State :=
  s.each (List.range r.words) (fun i t => t.setWord (n * 0x10000 + r.off + 4 * i) (BitVec.ofNat 32 (v / 2 ^ (32 * i))))

/-! ## What a write starts -/

/-- The BAR0 offsets that the running image's CONFIG loads (R563, R580). -/
def State.loaded (s : State) : List Nat := ((s.boot.image.map (·.config)).getD []).map (·.1)

/-- The registers of a block return to their reset values, except those that the boot image loads; staged words are discarded (R542,
R580). -/
def State.resetUnloaded (s : State) (n : Nat) : State :=
  let keep := fun (a : Nat) => s.loaded.any (fun x => decide (x ≤ a) && decide (a < x + 8))
  { s with regs := Tbl.drop s.regs (fun a => a / 0x10000 == n && !keep a),
           stagedW := Tbl.drop s.stagedW (fun a => a % 0x4000000 / 0x10000 == n) }

/-- Starts a port reset (R399, R402, R580). -/
def State.portResetGo (s : State) (p : Nat) : State :=
  let t := (s.portDown p).resetUnloaded (8 + p)
  ((t.setPort p { portReset with lost := (s.port p).lost }).setFld (fFabPcfgLinkup p) 0).setFld (fFabPcfgReset p) 1

/-- The tokens of a class shaper after a change of its rate or burst: kept, and clamped to the new burst (R394). `full` are those of the
old burst. -/
def State.shaperChange (s : State) (p c full : Nat) : State :=
  let x := s.port p
  let top := 8192 * s.cshape p c 20 16
  s.setPort p { x with ctokens := Tbl.put top x.ctokens c (min top (Tbl.get full x.ctokens c)) }

/-- The effects of a register's new value: a port reset (R402), a gate list that is enabled (R396), a class shaper's tokens (R394), QUIESCE
cleared (R556). -/
def State.regStarts (s : State) (n : Nat) (r : Reg) (old : Nat) : State :=
  match blkOf n with
  | .port p =>
    if r.off = 0x8 ∧ s.flag (fFabPcfgReset p) ∧ !bitOf old 1 then s.portResetGo p
    else if r.off = 0x20 ∧ s.flag (fFabGclctlEnable p) ∧ !bitOf old 0 then s.gateRestart p
    else if 0x40 ≤ r.off ∧ r.off < 0x80 then s.shaperChange p ((r.off - 0x40) / 8) (8192 * bits old 20 16)
    else s
  | .top => if r.off = 0x38 ∧ !s.flag fTopCtlQuiesce then s.setFld fTopStatusQuiesced 0 else s
  | _ => s

/-- A register write that is a host error (R13, log 94): the fields that the requester writes take a free value. -/
def State.spoilReg (s : State) (req : Requester) (n : Nat) (r : Reg) (rule : Nat) : State :=
  let old := s.regValue n r
  let w := regMask r (accWrites req)
  ((s.hostErr rule).setRegister n r (s.regMeet n r ((s.freeNow &&& w) + (old - (old &&& w))))).regStarts n r old

/-- A register takes the value `v` in its fields that the requester writes. -/
def State.commitReg (s : State) (req : Requester) (n : Nat) (r : Reg) (v : Nat) : Outcome :=
  let old := s.regValue n r
  let w := regMask r (accWrites req)
  let new := s.regMeet n r ((v &&& w) + (old - (old &&& w)))
  match s.regShut n r.off with
  | some rule => .next (s.spoilReg req n r rule)
  | none =>
    match regBad s n r new with
    | some rule => .next (s.spoilReg req n r rule)
    | none => .next ((s.setRegister n r new).regStarts n r old)

/-! ## Base writes -/

/-- The key of a staged word: the requester and the address (R542). -/
def stageKey (req : Requester) (a : Nat) : Nat := (match req with | .host => 0 | .secure => 1) * 0x4000000 + a

/-- A write of an SQ register (R539): an event register, or FAB_HWM, whose mark becomes zero. -/
def State.sqWrite (s : State) (n : Nat) (r : Reg) (x : W32) : State :=
  let a := n * 0x10000 + r.off
  let w := s.word a
  match sqClear w x with
  | none => s.count 0x80 1
  | some y =>
    match blkOf n with
    | .port _ => if 0x80 ≤ r.off ∧ r.off < 0xA0 then s.setWord a (BitVec.ofNat 32 (2 ^ 24 * evtSeq w)) else s.setWord a y
    | _ => s.setWord a y

/-- Is a register cleared by the sequence-number rule? -/
def Reg.sq (r : Reg) : Bool := r.flds.any (fun f => f.acc == .sq)

/-- Is a register written with staging by a requester (R542)? -/
def Reg.staged (r : Reg) (req : Requester) : Bool := 2 ≤ r.words && r.flds.any (fun f => accWrites req f.acc)

/-- The word `o` of a register's value with `x` in it. -/
def wordIn (r : Reg) (o v : Nat) (x : W32) : Nat := putBits v (8 * (o - r.off)) 32 x.toNat

/-- A write to a register that is written with staging (R542): a lower word is staged; the highest commits. -/
def State.stagedWrite (s : State) (req : Requester) (n : Nat) (r : Reg) (o : Nat) (x : W32) : Outcome :=
  let a := n * 0x10000 + r.off
  if o < r.off + 4 * (r.words - 1) then
    .next { s with stagedW := Tbl.set s.stagedW (stageKey req (n * 0x10000 + o)) x }
  else
    let v := (List.range (r.words - 1)).foldl (fun v i =>
      match Tbl.find s.stagedW (stageKey req (a + 4 * i)) with
      | some y => wordIn r (r.off + 4 * i) v y
      | none => v) (s.regValue n r)
    let t := { s with stagedW := Tbl.drop s.stagedW (fun k => decide (stageKey req a ≤ k) && decide (k < stageKey req a + 4 * r.words)) }
    t.commitReg req n r (wordIn r o v x)

/-- A write of a word of one block's base page (R534, R536, R539, R542). -/
def State.baseWrite (s : State) (req : Requester) (n o : Nat) (x : W32) : Outcome :=
  match regAt s.hw n o with
  | none => .next s
  | some r =>
    let wb := regMask r (fun a => a == .wb) / 2 ^ (8 * (o - r.off))
    if x.toNat &&& wb % 2 ^ 32 ≠ 0 then .next (s.spoilReg req n r 536)
    else if r.sq then .next (s.sqWrite n r x)
    else if r.flds.any (fun f => f.acc == .wo) then .next (s.nbuGo (n - 320) x.toNat)
    else if r.words = 1 then s.commitReg req n r x.toNat
    else if r.staged req then s.stagedWrite req n r o x
    else .next s

/-- What an alias page does to a bit (R543). -/
inductive Alias where
  | set | clear | toggle
  deriving DecidableEq, Repr

/-- An alias write of a word (R543 to R545): one read-modify-write of its writable bits, without staging. Slots and the micro-program
store ignore it. -/
def State.aliasWrite (s : State) (req : Requester) (k : Alias) (n o : Nat) (x : W32) : Outcome :=
  match regAt s.hw n o with
  | none => .next s
  | some r =>
    let sh := 8 * (o - r.off)
    let wb := regMask r (fun a => a == .wb) / 2 ^ sh
    if (match blkOf n with | .nbu _ => decide (0x1000 ≤ o) | _ => false) then .next s
    else if x.toNat &&& wb % 2 ^ 32 ≠ 0 then .next (s.spoilReg req n r 544)
    else
      let old := s.regValue n r
      let m := (x.toNat * 2 ^ sh) &&& regMask r (accWrites req)
      if m = 0 then .next s
      else
        s.commitReg req n r (match k with
          | .set => old ||| m
          | .clear => old - (old &&& m)
          | .toggle => old ^^^ m)

/-- A write to one block or, through a broadcast block, to each that it covers (R152, R215, R257, R400, R535). Outside the address
space, or across a word, it is a host error (R531). -/
def State.onBus (s : State) (a : Nat) (f : Nat → Nat → State → Outcome) : Outcome :=
  let n := a / 0x10000
  let b := blkOf n
  if a % 4 ≠ 0 ∨ 0x4000000 ≤ a then .next (s.hostErr 531)
  else if (s.flag fTopStatusBusy && b != .top) || blkAbsent s.hw.variant b then .next s
  else
    let go := fun (o : Outcome) (k : Nat) =>
      match o with
      | .next t => f k (a % 0x4000) t
      | r => r
    match blkCovers s.hw.variant b with
    | [] => f n (a % 0x4000) s
    | ks => ks.foldl go (.next s)

/-- A write of a word at an address, whatever its page (R543). -/
def State.busWrite (s : State) (req : Requester) (a : Nat) (x : W32) : Outcome :=
  match a % 0x10000 / 0x4000 with
  | 0 => s.onBus a (fun n o t => t.baseWrite req n o x)
  | 1 => s.onBus a (fun n o t => t.aliasWrite req .set n o x)
  | 2 => s.onBus a (fun n o t => t.aliasWrite req .clear n o x)
  | _ => s.onBus a (fun n o t => t.aliasWrite req .toggle n o x)

/-- The control path of a register access (R446): its word failed parity `par` times. Each of at most four replays counts in PARREPLAY;
when the fourth fails too, the access is `lost` and the node raises CTLPAR. While BUSY holds CHK at reset nothing is counted. -/
def State.ctlPath (s : State) (par : Nat) (lost go : State → Outcome) : Outcome :=
  if par = 0 then go s
  else if s.flag fTopStatusBusy then if par ≤ 4 then go s else lost s
  else
    let t := s.count kChkParreplay (min par 4)
    if par ≤ 4 then go t else lost (t.raise eChk 7 (t.nodeReport 0x010A 0 locNode []))

end Sys2Proof.Machine
end

