-- ==== Sys2Proof/Machine/PowerOps.lean ====
section
/-! DEFINITION. Shared operations of power events and resets: the flush (R207, R208, R581), the hold of R487, what a reset keeps
(R580), recovery (R574), and the low-power states (R493, R494). -/

namespace Sys2Proof.Machine

/-! ## What a reset keeps (R580) -/

/-- The flash devices and what they hold outlive every reset; what is in flight, the write buffer and the map, which recovery rebuilds
(R203), do not. -/
def Flash.kept (f : Flash) : Flash :=
  { f with map := [], mapArea := [], subs := [], subFree := [], wbuf := [], wbRows := [], dies := [], disp := [], fetches := [],
           qslots := [], gc := [], foldOn := [], gcOn := [] }

/-- A descriptor after a reset: an index that was not FREE is DETACHED, and charged to the node reserve (R583). -/
def Desc.detach (d : Desc) : Desc := { d with st := .detached, charged := false }

/-- The interleaved areas of the indexes: tables, member copies of lists, and retired copies. -/
def State.indexAreas (s : State) : List Nat :=
  s.idx.desc.flatMap (fun e => [e.2.coarseadr, e.2.fineadr, e.2.projadr, e.2.scaleadr, e.2.diradr])
  ++ s.idx.hdr.flatMap (fun e => [e.2.mcopy, e.2.scopy])
  ++ s.alloc.retired.flatMap (fun r => r.areas.map (·.base))

/-- The areas and rows of the translation layer in HBM: its map (R186) and the write buffer (R190). -/
def State.flashAreas (s : State) : List Nat :=
  s.flash.mapArea.map (·.2) ++ (s.flash.subs.map (·.2) ++ s.flash.subFree).map (fun a => a / 4096 * 4096)

/-- Allocation after a reset: rows and areas of the indexes stay; those of leases and of the translation layer, and the marks of rows, do
not (R580 "retired rows"). -/
def State.keptAlloc (s : State) : Alloc :=
  let gone := s.work.leases.flatMap (fun e => e.2.kv.map (fun x => (x.1, x.2.base))) ++ s.flash.wbRows
  { (s.each gone (fun x t => t.rowsFree x.1 x.2)).alloc with
    areas := s.alloc.areas.filter (fun a => s.indexAreas.contains a.base), ceRows := [], gone := [], bankSpares := [], deadCh := [] }

/-- Memory after a reset: HBM with its poison and the check values of its granules stay (R580). -/
def Mem.kept (m : Mem) : Mem :=
  { State.reset.mem with hbm := m.hbm, hbmPoison := m.hbmPoison,
                         checks := Tbl.drop m.checks (fun k => decide (2 ^ 44 ≤ k)),
                         checkLaddr := Tbl.drop m.checkLaddr (fun k => decide (2 ^ 44 ≤ k)) }

/-- The node after a reset of the whole of it: columns Cold, and PERST# with Standby, of R580. The pins keep their levels. -/
def State.wholeReset (s : State) (cold : Bool) : State :=
  let z := State.reset
  { z with
    pending := s.pending
    hw := s.hw
    pwr := { z.pwr with perst := s.pwr.perst, refclk := s.pwr.refclk, vwarn := s.pwr.vwarn, holdupOk := s.pwr.holdupOk,
                        resets := if cold then 0 else s.pwr.resets }
    boot := ⟨s.boot.flash, none⟩
    mem := if cold then z.mem else s.mem.kept
    alloc := if cold then z.alloc else s.keptAlloc
    idx := if cold then z.idx else { s.idx with desc := s.idx.desc.map (fun e => (e.1, e.2.detach)) }
    flash := s.flash.kept
    chk := if cold then z.chk else s.chk
    mgmt := { z.mgmt with wakeReq := s.mgmt.wakeReq }
    uptime := if cold then 0 else s.uptime
    out := s.out
    free := s.free }

/-- A reset with CAUSE and WDSRC (R559, R579): it counts in RESETS, and the node waits for its power-up. -/
def State.restart (s : State) (cause wd : Nat) : State :=
  let t := s.wholeReset false
  { t with pwr := { t.pwr with cause := cause, wdSrc := wd, resets := satAdd 32 s.pwr.resets 1 } }

/-- The node holds itself in reset until PERST# or a cold power-on (R491, R599, R605); THERMTRIP# stays as it is. -/
def State.stopHere (s : State) : State :=
  let t := s.wholeReset false
  { t with pwr := { t.pwr with phase := .stopped, thermtrip := s.pwr.thermtrip } }

/-- Registers of a block as they were. -/
def State.keepBlock (t s : State) (n : Nat) : State :=
  t.each (s.regs.filter (fun e => e.1 / 0x10000 == n)) (fun e u => u.setWord e.1 e.2)

/-- The node is held for recovery (R574): the management block and the security controller run on. -/
def State.enterRecovery (s : State) (mseq : Nat) : State :=
  let t := ((s.wholeReset false).keepBlock s 4).keepBlock s 5
  let u := { t with pwr := { t.pwr with phase := .recovery }, boot := s.boot, mgmt := { s.mgmt with recoverReq := none } }
  (((u.setFld fSecStateRecovery 1).setFld fTopStatusBusy 1).event eMgt 0).emit (.mgmt 0x07 mseq .ok [])

/-! ## Low-power states -/

/-- Completes the host commands that wait for a power state. -/
def State.powerDone (s : State) (k : Nat) : State :=
  let ws := s.host.waits.filter (fun w => w.2 == HostWait.setPower k)
  ws.foldl (fun (t : State) w => t.completeSt w.1 .ok)
    { s with host := { s.host with waits := s.host.waits.filter (fun w => w.2 != HostWait.setPower k) } }

/-- Standby (R493, R579): the host commands complete, everything of the PERST# column is gone, and STANDBY is answered. The management
block runs on. -/
def State.enterStandby (s : State) : State :=
  let a := s.powerDone 2
  let t := a.wholeReset false
  let u := { t with pwr := { t.pwr with phase := .standby }, mgmt := { s.mgmt with stbyReq := none, wakeReq := none } }
  match s.mgmt.stbyReq with
  | some q => u.emit (.mgmt 0x05 q .ok [])
  | none => u

/-- Micro-program store and slots of a currant at their reset values (R580). -/
def State.clearCurrants (s : State) : State :=
  { s with nbu := [],
           regs := Tbl.drop s.regs (fun a => decide (0x1400000 ≤ a) && decide (a < 0x1400000 + 0x10000 * s.nch)
             && decide (0x1000 ≤ a % 0x10000) && decide (a % 0x10000 < 0x4000)) }

/-- Core stores, commons, scale registers, running-maximum slots and merge units at zero (R580). -/
def State.clearCompute (s : State) : State :=
  { s with mem := { s.mem with store := [], storePoison := [], storeFilled := [], commons := [], commonsPoison := [],
                               checks := Tbl.drop s.mem.checks (fun k => decide (2 ^ 44 ≤ k)),
                               checkLaddr := Tbl.drop s.mem.checkLaddr (fun k => decide (2 ^ 44 ≤ k)) },
           comp := { s.comp with cores := [], brm := [] },
           regs := Tbl.drop s.regs (fun a => decide (0x400000 ≤ a) && decide (a < 0x1000000) && decide (0x1000 ≤ a % 0x10000)
             && decide (a % 0x10000 < 0x1800)) }

/-- Idle-2 (R493, R580): replay state is dropped, cores, commons and currants are off. -/
def State.enterIdle2 (s : State) : State :=
  let a := { s with cas := { s.cas with provs := [] } }
  (((a.clearCompute.clearCurrants).setFld fNrgStatePstate 4).setFld fTopStatusIdle2 1).powerDone 1

/-! ## The flush (R207, R208, R581) -/

/-- Goes on when the flush is done. A PERST# that came during the flush is taken now (R582). A low-power state waits for the leases that
opened meanwhile. -/
def State.flushGoOn (s : State) (why : FlushWhy) : State :=
  match why with
  | .holdup => if s.pwr.perst then s.restart 1 0 else s.stopHere
  | .thermal => if s.pwr.perst then s.restart 1 0 else s.stopHere
  | .recover => s.enterRecovery (s.mgmt.recoverReq.getD 0)
  | .watchdog src => if s.pwr.perst then s.restart 1 0 else s.restart 2 src
  | .perst => s.restart 1 0
  | .mgmtReset => s.restart 1 0
  | .standby => if s.pwr.perst then s.restart 1 0 else if s.work.leases.isEmpty then s.enterStandby else s
  | .idle2 => if s.pwr.perst then s.restart 1 0 else if s.work.leases.isEmpty then s.enterIdle2 else s

/-- Starts the flush that precedes a reset or a low-power state; a node with no translation layer goes on at once. A flush that
runs already takes the new reason. -/
def State.flushBegin (s : State) (why : FlushWhy) : State :=
  let t := { s with pwr := { s.pwr with flushing := some why } }
  if s.hw.variant.flash then (t.setFld fFtlStateFlushing 1).progPending else { s with pwr := { s.pwr with flushing := none } }.flushGoOn why

/-- BUSY is set and READY clear (R526): a reset is coming. -/
def State.goBusy (s : State) : State := (s.setFld fTopStatusBusy 1).setFld fTopStatusReady 0

/-- A reset of the whole node with the flush before it, from any phase (R208, R579, R599). -/
def State.resetNode (s : State) (why : FlushWhy) : State :=
  match s.pwr.phase with
  | .running =>
    match s.pwr.flushing with
    | none => s.goBusy.flushBegin why
    | some .idle2 => s.goBusy.flushBegin why
    | some .standby => s.goBusy.flushBegin why
    | some _ => s
  | _ => { s with pwr := { s.pwr with flushing := none } }.flushGoOn why

/-! ## The hold (R487) -/

/-- The order in which leases are held (R479): lowest PRIO first, and within one PRIO the one admitted last. -/
def holdOrder (ls : List (Nat × Lease)) : List (Nat × Lease) :=
  sortBy (fun a b => decide (a.2.prio < b.2.prio) || (a.2.prio == b.2.prio && decide (b.2.arrival < a.2.arrival))) ls

/-- Every ballast tile stops. -/
def State.ballastOff (s : State) : State :=
  (s.each (List.range s.hw.variant.cores) (fun c t => t.setFld (fCoreStateBallaston c) 0)).setFld fNrgStateBalcores 0

/-- A running slot pauses at its row-operation boundary. -/
def State.pauseSlot (s : State) (ch : Nat) : State :=
  let c := s.cur ch
  if c.rs = .run then (s.setCur ch { c with rs := .paused }).slotSet ch c.slot 3 1 3 else s

/-- A slot that the hold paused runs again; one that a refresh pauses waits for it. -/
def State.resumeSlot (s : State) (ch : Nat) : State :=
  let c := s.cur ch
  if c.rs = .paused ∧ !c.refDue then (s.setCur ch { c with rs := .run }).slotSet ch c.slot 3 1 2 else s

/-- The effects of a hold: the clock slows, ballast stops, currants pause, every lease is held and the flush is armed. -/
def State.powerHold (s : State) : State :=
  let a := (s.setFld fNrgClkCdiv 48).ballastOff
  let b := a.each (List.range a.nch) (fun ch t => t.pauseSlot ch)
  let mine := ((holdOrder b.admitted).map (·.1)).filter (fun l => !b.nrg.heldOrder.contains l && !b.nrg.vwHeld.contains l)
  let c := mine.foldl (fun (t : State) l => t.holdLease l) b
  let d := { c with nrg := { c.nrg with vwHeld := c.nrg.vwHeld ++ mine } }
  if d.hw.variant.flash then d.setFld fFtlStateFlusharm 1 else d

/-- Ends the hold (R490): the clock is restored, the flush disarmed, slots run again, and the held leases wait for their release in
the order of R479. -/
def State.powerUnhold (s : State) : State :=
  let a := s.setFld fNrgClkCdiv 6
  let b := if a.hw.variant.flash then a.setFld fFtlStateFlusharm 0 else a
  let c := b.each (List.range b.nch) (fun ch t => t.resumeSlot ch)
  { c with nrg := { c.nrg with heldOrder := c.nrg.heldOrder ++ c.nrg.vwHeld, vwHeld := [] } }

/-- An event of the power supply with its record (R498, R503). -/
def State.nrgEvent (s : State) (bit code sev : Nat) (dat : List Nat) : State :=
  s.raise eNrg bit (s.nodeReport code sev locNode dat)

/-- PSTATE, which Idle-2 and its exit keep while a hold comes and goes (log 43). -/
def State.setPstate (s : State) (v : Nat) : State :=
  if s.fld fNrgStatePstate = 4 ∨ s.fld fNrgStatePstate = 5 then s else s.setFld fNrgStatePstate v

/-- The supply has reached the reset threshold (R491, R599): the flush runs on hold-up energy where there may be something to flush. -/
def State.threshold (s : State) : State :=
  match s.pwr.phase with
  | .running =>
    if s.lastFlush then s
    else
      let a := if s.hw.variant.flash then
          (s.nrgEvent 2 0x0703 0 [s.fld fNrgEavail, unitSize * s.flash.wbuf.length]).count kNrgFlushes 1 else s
      (a.setFld fNrgStatePstate 3).flushBegin .holdup
  | .off => s
  | .held => if s.pwr.perst then s else s.stopHere
  | .stopped => s
  | _ => s.stopHere

end Sys2Proof.Machine
end

