-- ==== Sys2Proof/Machine/Power.lean ====
section
/-! DEFINITION. Power, pins and clocks: rails and PERST#, watchdogs, the reference, VWARN and the reset threshold, thermal trip, the
hold-up store and telemetry (R475, R476, R484 to R497, R579, R584, R599, R605). -/

namespace Sys2Proof.Machine

/-! ## Rails and PERST# -/

/-- COLD_POWER_ON (R580, R584): rails rise from off; PERST# is asserted. -/
def execColdPowerOn (s : State) : Outcome :=
  s.onlyIf (s.pwr.phase == .off) (fun s =>
    let t := s.wholeReset true
    { t with pwr := { t.pwr with phase := .held, perst := true, refclk := true, vwarn := false } })

/-- POWER_LOSS (R491, R580): the rails fail; what R580 clears at a cold power-on is gone, and a flush under way has ended. -/
def execPowerLoss (s : State) : Outcome :=
  let t := s.wholeReset true
  .next { t with pwr := { t.pwr with phase := .off, perst := false, refclk := false, vwarn := false, holdupOk := false },
                 mgmt := State.reset.mgmt }

/-- PERST_ASSERT (R208, R574, R579, R582, R599). -/
def execPerstAssert (s : State) : Outcome :=
  s.onlyIf (!s.pwr.perst && s.pwr.phase != .off) (fun s =>
    if s.pwr.phase = .recovery ∨ s.pwr.flushing = some .recover then s
    else
      let t := { s with pwr := { s.pwr with perst := true } }
      if s.pwr.phase = .standby then t.restart 3 0 else t.resetNode .perst)

/-- PERST_RELEASE (R495, R564, R578, R584): stage 1 of the power-up. The command also stands for the start that follows a reset without
PERST# (log 44). -/
def execPerstRelease (bist7Ok : Bool) (s : State) : Outcome :=
  s.onlyIf (s.pwr.phase == .held && s.pwr.refclk) (fun s =>
    let a := { s with pwr := { s.pwr with perst := false, bootStalled := s.pwr.vwarn, phase := if bist7Ok then .stage1 else .failed } }
    let b := (((a.setFld fNrgClkRefok 1).setFld fNrgClkCorelock 1).setFld fNrgHoldupHoldupok (b2n s.pwr.holdupOk)).setFld
      fNrgStateVwarn (b2n s.pwr.vwarn)
    if bist7Ok then b
    else ((b.setFld fTopStatusBootfail 1).setFld fTopStatusBootcode 0x0A).setFld fSecStateBistgrp 7)

/-! ## Watchdog and clocks -/

/-- A watchdog reset with its source (R559, R579). -/
def State.watchdog (s : State) (src : Nat) : State :=
  match s.pwr.phase with
  | .off => s
  | .held => s
  | .stopped => s
  | .recovery => s
  | .standby => s
  | _ => s.resetNode (.watchdog src)

/-- WATCHDOG_RESET (R579): a watchdog reset whose source the command does not name, so WDSRC is 0. -/
def execWatchdogReset (s : State) : Outcome := .next (s.watchdog 0)

/-- ELDER_WATCHDOG (R559, R579). -/
def execElderWatchdog (s : State) : Outcome := .next (s.watchdog 3)

/-- REFCLK_LOSS (R497, R502): holdover; no step is admitted; the PHY links drop. -/
def execRefclkLoss (s : State) : Outcome :=
  s.onlyIf (s.pwr.refclk && s.pwr.phase != .off) (fun s =>
    let a := { s with pwr := { s.pwr with refclk := false } }
    let b := (((((a.setFld fNrgClkRefok 0).setFld fNrgClkHoldover 1).setFld fNrgClkHbmlock 0).setFld fNrgClkCxllock 0).setFld
      fNrgClkFablock 0).setFld fHstLinkLinkup 0
    if s.pwr.phase = .running then
      (b.each (List.range b.hw.variant.ports) (fun p t => if (t.port p).up then t.portDown p else t)).nrgEvent 5 0x0706 0 []
    else b)

/-- REFCLK_RESTORE (R497): the reference has been present for 1 ms; a watchdog reset follows. -/
def execRefclkRestore (s : State) : Outcome :=
  s.onlyIf (!s.pwr.refclk && s.pwr.phase != .off) (fun s =>
    ({ s with pwr := { s.pwr with refclk := true } }.setFld fNrgClkRefok 1).watchdog 1)

/-- PLL_UNLOCK (R497): the reference is present. -/
def execPllUnlock (s : State) : Outcome :=
  s.onlyIf (s.pwr.refclk && s.flag fNrgClkCorelock) (fun s =>
    let t := s.setFld fNrgClkCorelock 0
    (if s.pwr.phase = .running then t.nrgEvent 6 0x0707 0 [] else t).watchdog 2)

/-! ## Brownout -/

/-- VWARN_TAKEN (R487, R489, R492, R599). In a power-up it stops the stages; in a flush the clock slows and the flush goes on. -/
def execVwarnTaken (s : State) : Outcome :=
  s.onlyIf (!s.pwr.vwarn) (fun s =>
    let t := { s with pwr := { s.pwr with vwarn := true, vwRecover := false } }
    match s.pwr.phase with
    | .running =>
      if s.lastFlush then t.setFld fNrgStateVwarn 1
      else
        let a : State := { t with pwr := { t.pwr with heldAt := if s.pwr.vwRecover then s.pwr.heldAt else s.uptime } }
        let b := (a.nrgEvent 0 0x0701 0 [s.fld fNrgStateMeasured, s.fld fNrgCfgAllow]).powerHold
        ((b.setFld fNrgStateVwarn 1).setPstate 1).count kNrgBrownouts 1
    | .stage1 => { t with pwr := { t.pwr with bootStalled := true } }.setFld fNrgStateVwarn 1
    | .verified => { t with pwr := { t.pwr with bootStalled := true } }.setFld fNrgStateVwarn 1
    | _ => s)

/-- VWARN_RELEASE (R490): the wait of 2 ms starts. -/
def execVwarnRelease (s : State) : Outcome :=
  s.onlyIf s.pwr.vwarn (fun s =>
    let t := { s with pwr := { s.pwr with vwarn := false } }.setFld fNrgStateVwarn 0
    if s.pwr.phase = .running then
      if s.lastFlush then t else { t with pwr := { t.pwr with vwRecover := true } }.setPstate 2
    else { t with pwr := { t.pwr with vwRecover := s.pwr.bootStalled } })

/-- BROWNOUT_RECOVERY (R490, R492, R599). -/
def execBrownoutRecovery (s : State) : Outcome :=
  s.onlyIf (s.pwr.vwRecover && !s.pwr.vwarn) (fun s =>
    let t := { s with pwr := { s.pwr with vwRecover := false, bootStalled := false } }
    if s.pwr.phase = .running then
      (((t.powerUnhold).nrgEvent 1 0x0702 3 [s.uptime - s.pwr.heldAt]).setPstate 0).sloeNext.progPending
    else t)

/-- VWMAX_EXPIRY (R491): VWARN has been asserted without a break for VWMAX. -/
def execVwmaxExpiry (s : State) : Outcome := s.onlyIf s.pwr.vwarn State.threshold

/-- RESET_THRESHOLD (R491, R596, R599): a rail monitor trips. -/
def execResetThreshold (s : State) : Outcome := .next s.threshold

/-- FLUSH_COMPLETE (R207, R491): every channel has programmed its staged units; FLUSHEND is written. -/
def execFlushComplete (s : State) : Outcome :=
  s.onlyIf (s.pwr.flushing.isSome && s.flash.wbuf.isEmpty) (fun s =>
    match s.pwr.flushing with
    | none => s
    | some why =>
      let t := ((s.journal .flushend false 0 0 0 0).setFld fFtlStateFlushing 0)
      let u := { t with pwr := { t.pwr with flushing := none } }.flushGoOn why
      if u.serving then u.retryUpdates.sloeNext else u)

/-- THERMAL_TRIP (R487, R605): a trip while a hold or a flush runs only asserts THERMTRIP#. -/
def execThermalTrip (s : State) : Outcome :=
  s.onlyIf (s.pwr.phase != .off) (fun s =>
    let t := { s with pwr := { s.pwr with thermtrip := true } }
    match s.pwr.phase with
    | .running =>
      if s.powerHeld || s.pwr.flushing.isSome then t else ((t.powerHold).setFld fNrgStatePstate 3).flushBegin .thermal
    | .held => if s.pwr.perst then t else t.stopHere
    | .stopped => t
    | _ => t.stopHere)

/-! ## Limits, hold-up store and telemetry -/

/-- The share of ALLOW of a PWR_LIM code, in per cent (R475). -/
def pinPct (code : Nat) : Nat := [15, 35, 50, 60, 70, 80, 90, 100].getD code 100

/-- L in W (R474). -/
def State.liveLimit (s : State) : Nat :=
  let a := s.fld fNrgCfgAllow
  min a (min (a * pinPct (s.fld fNrgLimitPincode) / 100) (max (s.fld fNrgLimitLimreg) (a * 15 / 100)))

/-- PWR_LIM_CHANGE (R475): a code has been stable for 10 µs. -/
def execPwrLimChange (code : Nat) (s : State) : Outcome :=
  s.onlyIf (s.pwr.phase != .off && s.pwr.phase != .held && decide (code < 8) && s.fld fNrgLimitPincode != code) (fun s =>
    let t := s.setFld fNrgLimitPincode code
    (t.setFld fNrgLimitLive t.liveLimit).nrgEvent 7 0x0708 3 [s.fld fNrgLimitPincode, code])

/-- HOLDUP_OK_DEASSERT (R484): E_avail becomes zero at once. -/
def execHoldupOkDeassert (s : State) : Outcome :=
  .next (({ s with pwr := { s.pwr with holdupOk := false } }.setFld fNrgHoldupHoldupok 0).setReg64 0x20030 0)

/-- HOLDUP_OK_ASSERT (R484, R501): later reads may give an energy that is not zero. -/
def execHoldupOkAssert (s : State) : Outcome :=
  s.onlyIf (s.pwr.phase != .off) (fun s =>
    { s with pwr := { s.pwr with holdupOk := true } }.setFld fNrgHoldupHoldupok 1)

/-- E_avail in mJ at a voltage in mV: HUCAP counts 0.1 mF (R484, R501). -/
def State.eavailAt (s : State) (v : Nat) : Nat :=
  let m := s.fld fNrgHoldupHuvmin
  if s.pwr.holdupOk ∧ m < v then s.fld fNrgHoldupHucap * (v * v - m * m) / 20000000 else 0

/-- HOLDUP_READ (R484): the 1 ms read of the store, in mV, or a failed read. Two failures in a row raise TELEMERR. -/
def execHoldupRead (mv : Option Nat) (s : State) : Outcome :=
  s.onlyIf (s.pwr.phase == .running) (fun s =>
    match mv with
    | some v =>
      let x := v % 65536
      let t := { s with pwr := { s.pwr with huFails := 0 } }
      ((t.setFld fNrgHoldupHuvnow x).setFld fNrgHoldupHuvalid 1).setReg64 0x20030 (t.eavailAt x)
    | none =>
      let t := ({ s with pwr := { s.pwr with huFails := s.pwr.huFails + 1 } }.setFld fNrgHoldupHuvalid 0).setReg64 0x20030 0
      if s.pwr.huFails = 1 then t.nrgEvent 4 0x0705 0 [((s.boot.image.map (·.storeMon)).getD 0)] else t)

/-- CALIBRATION_UPDATE (R476): a regulator's telemetry gives its factor in 1/1,000, or a failed read. Two failures in a row hold the last
good factor multiplied by 1.25. -/
def execCalibrationUpdate (regulator : Nat) (factor : Option Nat) (s : State) : Outcome :=
  match ((s.boot.image.map (·.pmbus)).getD [])[regulator]? with
  | none => .next s
  | some addr =>
    let n := Tbl.get 0 s.nrg.telFails regulator
    s.onlyIf (s.pwr.phase == .running) (fun s =>
      match factor with
      | some f => { s with nrg := { s.nrg with factor := Tbl.put 1000 s.nrg.factor regulator f,
                                               telFails := Tbl.put 0 s.nrg.telFails regulator 0 } }
      | none =>
        let t := { s with nrg := { s.nrg with telFails := Tbl.put 0 s.nrg.telFails regulator (n + 1) } }
        if n = 1 then
          { t with nrg := { t.nrg with factor := Tbl.put 1000 t.nrg.factor regulator (Tbl.get 1000 t.nrg.factor regulator * 5 / 4) } }.nrgEvent
            4 0x0705 0 [addr]
        else t)

end Sys2Proof.Machine
end

