-- ==== Sys2Proof/Machine/Boot.lean ====
section
/-! DEFINITION. Boot: the checks of the image (R562 to R567), CONFIG (R563, R608), bring-up, format and recovery of the flash side (R161 to
R163, R187, R203), self-test (R578) and the opening of the node (R584). -/

namespace Sys2Proof.Machine

/-! ## CONFIG (R563, R608) -/

/-- The RO fields of a register that a CONFIG entry loads (R608). -/
def loadExtra (n o : Nat) : Nat :=
  match blkOf n with
  | .top => if o = 0x10 then maskOf 32 55 else 0
  | .hst => if o = 0x8 then maskOf 0 15 else 0
  | .mgt => if o = 0 then maskOf 0 6 else 0
  | .trans => if o = 0x10 then maskOf 32 47 else 0
  | .cas => if o = 0 then maskOf 0 63 else if o = 0x8 then maskOf 9 11 + maskOf 16 31 else 0
  | _ => 0

/-- Are the fields that only CONFIG sets in their stated values: IROW0, HDMSIZE, TOPDEPTH (R327, R411, R528, R608)? -/
def loadOk (n o v : Nat) : Bool :=
  match blkOf n with
  | .top => o != 0x10 || (decide (2 ≤ bits v 32 24) && decide (bits v 32 24 < rowsPerChannel))
  | .hst => o != 0x8 || decide (bits v 0 10 ≤ 512)
  | .cas => o != 0x8 || decide (2 ≤ bits v 9 3)
  | _ => true

/-- Does CONFIG set a register of the block at all: the slots and the micro-program store of a currant are not loaded (log 45)? -/
def loadable (n o : Nat) : Bool :=
  match blkOf n with
  | .nbu _ => decide (o < 0x1000)
  | _ => true

/-- One entry applied to one block: none if it names no register that takes its value (check 8 of R564). -/
def State.configOne (s : State) (n o v : Nat) : Option State :=
  match regAt s.hw n o with
  | none => none
  | some r =>
    let sh := 8 * (o - r.off)
    let rst := match blkOf n with | .port _ => if r.off = 0x8 then 2 else 0 | _ => 0
    let full := regMask r (fun a => a == .rw) + loadExtra n r.off
    let m := (full / 2 ^ sh % 2 ^ 64) * 2 ^ sh
    let wb := regMask r (fun a => a == .wb)
    let old := s.regValue n r
    let w := m - (m &&& rst)
    let new := (old - (old &&& w)) + (v * 2 ^ sh &&& w)
    if (o - r.off) % 8 ≠ 0 ∨ m = 0 ∨ (r.words = 1 ∧ 2 ^ 32 ≤ v) ∨ (v * 2 ^ sh &&& wb) ≠ 0 ∨ !loadable n o then none
    else if (s.regShut n r.off).isSome ∨ (regBad s n r new).isSome ∨ !loadOk n r.off new then none
    else some (s.setRegister n r new)

/-- One entry of CONFIG: a BAR0 offset and a value. A broadcast block sets every block that it covers. -/
def State.configEntry (s : State) (e : Nat × Nat) : Option State :=
  let n := e.1 / 0x10000
  let o := e.1 % 0x10000
  if 0x4000000 ≤ e.1 ∨ 0x4000 ≤ o ∨ 2 ^ 64 ≤ e.2 ∨ blkAbsent s.hw.variant (blkOf n) then none
  else
    match blkCovers s.hw.variant (blkOf n) with
    | [] => s.configOne n o e.2
    | ks => ks.foldl (fun (t : Option State) k => t.bind (fun u => u.configOne k o e.2)) (some s)

/-- Has CONFIG the entries that it must have (R608): IROW0, and PUDP where a port is enabled? -/
def configHas (cs : List (Nat × Nat)) : Bool :=
  let port := fun (a : Nat) => decide (0x80000 ≤ a) && decide (a < 0xF0000) && a % 0x10000 == 8
  cs.any (fun e => e.1 == 0x10) && (!cs.any (fun e => port e.1 && e.2 % 2 == 1) || cs.any (fun e => e.1 == 0xF0010))

/-- Applies CONFIG in order; none if an entry fails check 8. -/
def State.applyConfig (s : State) (cs : List (Nat × Nat)) : Option State :=
  if configHas cs then cs.foldl (fun (t : Option State) e => t.bind (fun u => u.configEntry e)) (some s) else none

/-! ## The checks (R564) -/

/-- The section types that a variant requires, none reserved (R563). -/
def typesOk (v : Variant) (ts : List Nat) : Bool :=
  ts.all (fun t => decide (1 ≤ t) && decide (t ≤ 8))
  && ([1, 2, 3, 5, 7, 8] : List Nat).all (fun t => ts.contains t) && (!v.flash || ts.contains 4)

/-- The BOOTCODE of the first of checks 1 to 7 that fails. -/
def imageFault (hw : Hw) (i : BootImage) : Option Nat :=
  ((([(i.deviceOk && i.magicOk, 0x01),
    (i.format == 1 && decide (1 ≤ i.nsect) && decide (i.nsect ≤ 32) && decide (i.imglen ≤ i.devSize) && i.boundsOk, 0x02),
    (i.rootKeyOk && decide (i.rootslot < 4) && !bitOf hw.rootRevoked i.rootslot, 0x03),
    (i.sigOk, 0x04),
    (decide (hw.arbFuse ≤ i.arb), 0x05),
    (bitOf i.variants (hw.variant.code - 1) && (i.bindser == 0 || i.bindser == hw.serial), 0x06),
    (i.digestsOk, 0x07),
    (typesOk hw.variant i.types, 0x02)] : List (Bool × Nat)).find? (fun c => !c.1))).map (·.2)

/-- The boot stops with a BOOTCODE (R564). -/
def State.bootFail (s : State) (code : Nat) : State :=
  ({ s with pwr := { s.pwr with phase := .failed } }.setFld fTopStatusBootfail 1).setFld fTopStatusBootcode code

/-- TOP_RESETCAUSE as the image is read (R559). -/
def State.setCause (s : State) : State :=
  ((s.setFld fTopResetcauseCause s.pwr.cause).setFld fTopResetcauseWdsrc s.pwr.wdSrc).setFld fTopResetcauseResets s.pwr.resets

/-- What the security controller shows of the image and the fuses (R555, R585). -/
def State.setSec (s : State) (i : BootImage) : State :=
  let slots := fun (f : KeySlot → Bool) => (List.range 4).foldl (fun n k => if (i.keys[k]?).any f then n + 2 ^ k else n) 0
  let a := (s.setFld fTopFwverFwver i.fwver).setFld fTopFwverMintool i.mintool
  let b := (((a.setFld fSecStateVerified 1).setFld fSecStateRootslot i.rootslot).setFld fSecStateArbimg i.arb).setFld fSecStateArbfuse
    s.hw.arbFuse
  ((b.setFld fSecKeysPresent (slots (·.present))).setFld fSecKeysRevoked (slots (·.revoked))).setFld fSecKeysRootrev s.hw.rootRevoked

/-- CAS_CFG from GROUP (R413, R440, R608). -/
def State.setGroup (s : State) (g : Option GroupSection) : State :=
  match g with
  | none => s
  | some g =>
    ((((s.setFld fCasCfgRole g.role).setFld fCasCfgPos g.pos).setFld fCasCfgNmemb g.members.length).setFld fCasCfgPartner
      g.partner).setFld fCasCfgPmaster g.pmaster

/-- The node as it is when CONFIG is applied: TOP_RESETCAUSE is set, and the read-retry levels and first-poll times of NAND (R165) are loaded
(R559, R563). -/
def State.bootPrep (s : State) (i : BootImage) : State :=
  let poll := fun (k : Nat) => i.firstPoll.getD k 0
  s.setCause.each (if s.hw.variant.flash then List.range 32 else []) (fun c t =>
    let u := ((t.setFld (fFceCapRetrylv c) (min 16 i.retryVals.length)).setFld (fFcePollFirstr c) (poll 0)).setFld (fFcePollFirsts c) (poll 1)
    (u.setFld (fFcePollFirstq c) (poll 2)).setFld (fFcePollFirste c) (poll 3))

/-- The first number of the MAINT plans: the highest numbers (log 46). -/
def maintFirst (p : Pack) : Nat := 2 ^ 32 - p.nplans

/-- The image becomes the running one, and its maintenance plans are loaded (R564, R290); none where the MAINT section fails a check. -/
def State.imageRuns (s : State) (i : BootImage) : Option State :=
  let d : State := { s with boot := { s.boot with image := some i } }
  match d.packFault (maintFirst i.maint) 0xFFFF (d.boot.sectOf 5).length i.maint with
  | some _ => none
  | none =>
    ((if i.maint.plans.all planRanges && i.maint.zerosOk then d else d.hostErr 293).placePlans 0xFFFF (maintFirst i.maint)
      (maintFirst i.maint) i.maint.plans).map (fun e =>
        let f := (e.setSec i).setGroup i.group
        { f with work := { f.work with packs := Tbl.set f.work.packs (maintFirst i.maint) i.maint.digest },
                 pwr := { f.pwr with phase := .verified } })

/-- The boot of an image (R564): the first check that fails stops it with its BOOTCODE. -/
def State.bootImage (s : State) (i : BootImage) : State :=
  match imageFault s.hw i with
  | some code => s.setCause.bootFail code
  | none =>
    match (s.bootPrep i).applyConfig i.config with
    | none => s.setCause.bootFail 0x08
    | some c => (c.imageRuns i).getD (s.setCause.bootFail 0x09)

/-- BOOT_IMAGE_VERIFY (R559, R561 to R565, R608): the image as the boot flash spells it; checks 1 to 7, then CONFIG (check 8), then MAINT
(check 9), whose plans are loaded. -/
def execBootImageVerify (e : ImageEnv) (s : State) : Outcome :=
  if s.pwr.phase ≠ .stage1 ∨ s.pwr.bootStalled then .next s else .next (s.bootImage (imageOf s.hw s.boot e))

/-! ## Self-test (R578) -/

/-- What the failure of a unit does to the node. -/
def State.bistUnit (s : State) (f : BistFail) : State :=
  match f.group with
  | 1 => s.quarantine 0xFFFF f.unit
  | 2 => s.quarantine 0xFFFF f.unit
  | 3 =>
    match f.row with
    | some r => s.retireRow f.unit r
    | none => { s with alloc := { s.alloc with deadCh := Tbl.put false s.alloc.deadCh f.unit true } }
  | 5 => s.portLost f.unit
  | 6 => s.setFld fTopCapFlashChmask (s.fld fTopCapFlashChmask &&& (2 ^ 32 - 1 - 2 ^ f.unit % 2 ^ 32))
  | _ => s

/-- Is there such a unit? -/
def bistReal (v : Variant) (f : BistFail) : Bool :=
  match f.group with
  | 1 => decide (f.unit < v.cores)
  | 2 => decide (f.unit < v.cores)
  | 3 => decide (f.unit < v.channels)
  | 4 => true
  | 5 => decide (f.unit < v.ports)
  | 6 => v.flash && decide (f.unit < 32)
  | _ => false

/-! ## The flash side (R161 to R163, R187, R203, R553) -/

/-- Does a die report the geometry that the node requires (R162)? -/
def geomOk (g : Geom) : Bool :=
  g.data == 16384 && decide (2048 ≤ g.spare) && g.planes == 4 && decide (1 ≤ g.pages) && decide (g.pages ≤ 4096)
  && decide (1 ≤ g.blocks) && decide (g.blocks ≤ 16384) && g.bits == 4 && g.slc && g.indep

/-- The report of a chip enable. -/
def dieReport (n : NandReport) (ch ce : Nat) : Option DieReport := n.dies.find? (fun d => d.ch == ch && d.ce == ce)

/-- The parameter page of a die: the first copy whose CRC passes (R163). -/
def diePage (d : DieReport) : Option Geom := d.copies.findSome? id

/-- The channels that are brought up: in use, populated, and through self-test group 6 (R161, R217, R553). -/
def State.upChans (s : State) (bad : List Nat) : List Nat :=
  (List.range 32).filter (fun c => s.fld (fFceCfgCemask c) != 0 && s.flag (fFceCfgEnable c) && !bad.contains c)

/-- The geometry that every die must report: that of the format, else that of the first die with one that the node takes (R162). -/
def State.geomRef (s : State) (n : NandReport) (chs : List Nat) : Option Geom :=
  match s.flash.geom with
  | some g => some g
  | none =>
    (chs.flatMap (fun c => (maskBits 8 (s.fld (fFceCfgCemask c))).map (fun k => (c, k)))).findSome? (fun x =>
      (dieReport n x.1 x.2).bind (fun d => if d.idOk && d.train then (diePage d).filter geomOk else none))

/-- Does a chip enable pass every step of bring-up (R163)? -/
def diePasses (n : NandReport) (g : Option Geom) (ch ce : Nat) : Bool :=
  (dieReport n ch ce).any (fun d => d.idOk && d.train && (diePage d).any (fun p => geomOk p && g == some p))

/-- The commands of the bring-up of a channel (R163, R164): RESET, READ ID and READ PARAMETER PAGE to each chip enable, ZQ CALIBRATION LONG
and the timing mode of RATE to each that passed, and the read of the superblock. -/
def State.bringUp (s : State) (ch : Nat) (ces up : List Nat) : State :=
  let say := fun (ops : List Nat) (k : Nat) (t : State) => t.emit (.nand ch k ops)
  let a := s.each ces (fun k t => say [0xEC] k (say [0x90] k (say [0xFF] k t)))
  let b := a.each up (fun k t => say [0xEF, 0x01, s.fld (fFceCfgRate ch)] k (say [0xF9] k t))
  b.each (up.take 1) (fun k t => say [0x00, 0x30] k t)

/-- CHMASK and the dies that came up (R163, R553). -/
def State.flashUp (s : State) (n : NandReport) (bad : List Nat) : State :=
  let mask := (List.range 32).foldl (fun m c => if s.fld (fFceCfgCemask c) = 0 ∨ bad.contains c then m else m + 2 ^ c) 0
  let chs := s.upChans bad
  let g := s.geomRef n chs
  let t := s.each (List.range 32) (fun c t => t.setFld (fFceCapDiemask c) 0)
  (t.setFld fTopCapFlashChmask mask).each chs (fun c u =>
    let ces := maskBits 8 (s.fld (fFceCfgCemask c))
    let up := ces.filter (diePasses n g c)
    ((u.bringUp c ces up).setFld (fFceCapDiemask c) (up.foldl (fun m k => m + 2 ^ k) 0)).each (ces.filter (fun k => !up.contains k)) (fun k v =>
      v.flashEvent (eFce c) 0 0x0301 2 (locFlash c k 0 0 0 0)))

/-- A block that the factory marked bad (R187): a spare of its plane replaces it, a bad spare is not used, and a stripe for which no spare
is left is retired. -/
def State.markBad (s : State) (ch plane block : Nat) : State :=
  let key := planeKey ch plane
  let left := s.spareLeft ch plane
  let a : State := { s with flash := { s.flash with badBlocks := Tbl.set s.flash.badBlocks key (Tbl.get [] s.flash.badBlocks key ++ [block]) } }
  if s.nStripes ≤ block then { a with flash := { a.flash with spares := Tbl.set a.flash.spares key (left - 1) } }
  else
    match a.nextSpare ch plane with
    | none => a.setStripe ch block { (a.stripe ch block) with st := .retired }
    | some b => { a with flash := { a.flash with spares := Tbl.set a.flash.spares key (left - 1),
                                                 subst := Tbl.set a.flash.subst (key * 16384 + block) b } }

/-- The format of a flash that holds no superblock (R187, R200, R202): the geometry, the spares, the substitutions, the channels of the
journal (the two lowest, log 100), and the superblocks. -/
def State.flashFormat (s : State) (n : NandReport) : State :=
  let chs := s.flashChans
  match s.geomRef n chs with
  | none => s
  | some g =>
    let a : State := { s with flash := { s.flash with geom := some g, sparesFmt := g.blocks * s.fld fFtlWearSparepct / 100,
                                                      jchs := chs.take 2 } }
    let marks := chs.flatMap (fun c => (a.dies c).flatMap (fun k =>
      (((dieReport n c k).map (·.marked)).getD []).filterMap (fun m =>
        if m.1 < 4 ∧ m.2 < g.blocks then some (c, 4 * k + m.1, m.2) else none)))
    -- bad spares first, so that none of them replaces a block
    let order := marks.filter (fun m => a.nStripes ≤ m.2.2) ++ marks.filter (fun m => decide (m.2.2 < a.nStripes))
    (a.each order (fun m t => t.markBad m.1 m.2.1 m.2.2)).putSupers 0

/-- The map after one journal record (R201, R203). -/
def replayRec (m : Tbl MapEnt) (r : JRec) : Tbl MapEnt :=
  let unit := if r.sector then r.logical / 16 else r.logical
  let k := mapKey r.ns unit
  let e := Tbl.get mapNone m k
  let whole := if e.split then e.sect else if e.mapped then (List.range 16).map (fun i => (i, e.page)) else []
  let split := fun (ss : Tbl Nat) =>
    Tbl.put mapNone m k (if ss.isEmpty then mapNone else { e with page := 0, mapped := true, split := true, sect := ss })
  match r.jtype with
  | .map | .gcmap =>
    if r.sector then split (Tbl.set whole (r.logical % 16) (paPage r.newpa))
    else Tbl.put mapNone m k { e with page := paPage r.newpa, mapped := true, split := false, sect := [] }
  | .discard => if r.sector then split (Tbl.erase whole (r.logical % 16)) else Tbl.erase m k
  | _ => m

/-- The journal as recovery reads it (R203): the records present in either copy, in JSEQ order. `bad` are those that do not decode, as copy
and JSEQ. -/
def State.journalRead (s : State) (bad : List (Nat × Nat)) : List JRec :=
  let copy := fun (i : Nat) (l : List JRec) => if s.jUp i then l.filter (fun r => !bad.contains (i, r.jseq)) else []
  (copy 0 s.flash.journal.1 ++ copy 1 s.flash.journal.2).foldl (fun l r =>
    if l.any (fun x => x.jseq == r.jseq) then l else insBy (fun a b => decide (a.jseq < b.jseq)) l r) []

/-- The entry of a recovered map with PSN and HOT as the pages it names have them (R168, R183; log 124). -/
def State.entOf (s : State) (e : MapEnt) : MapEnt :=
  { e with psn := s.entPsn e, hot := e.pages.any (fun p => (Tbl.find s.flash.pages p).any (·.hot)) }

/-- Steps 1 to 3 (R203): the map of the checkpoint that the newest superblock names, with the journal after it; its tables are placed in
HBM anew. -/
def State.mapRecover (s : State) (p : Super) (js : List JRec) : State :=
  let c := (Tbl.find s.flash.ckpts p.ckpt).getD ⟨0, []⟩
  let m := (js.filter (fun r => decide (c.jseq ≤ r.jseq))).foldl replayRec c.map
  let a := s.each (Tbl.keys s.flash.nsLen) (fun n t => t.mapTake n)
  m.foldl (fun (t : State) e => t.setMap (e.1 / 2 ^ 32) (e.1 % 2 ^ 32) (t.entOf e.2)) a

/-- The victims whose GCCOMMIT has no ERASED after it (R203). -/
def openVictims (js : List JRec) : List Nat :=
  js.foldl (fun l r => match r.jtype with
    | .gccommit => if l.contains r.logical then l else l ++ [r.logical]
    | .erased => l.filter (· != r.logical)
    | _ => l) []

/-- Step 4 (R203): a committed victim is erased, and ERASED written. -/
def State.victimErase (s : State) (x : Nat) : State :=
  let ch := x / 16384
  let k := x % 16384
  let t := s.each (s.erasePlanes ch k) (fun e u => u.emit (.nand ch e.1 (u.eraseOps (decide (k < u.slcStripes)) e.2)))
  t.eraseDone ch k []

/-- The write buffer's region: an equal share of the channels of stack 0 (R190; log 113). -/
def State.wbTake (s : State) : State :=
  s.each (List.range (min 32 s.nch)) (fun c t =>
    match t.rowsTake c (ceilDiv t.wbSize (32 * 1024)) with
    | some (b, u) => { u with flash := { u.flash with wbRows := Tbl.set u.flash.wbRows c b } }
    | none => t)

/-- Recovery of the translation layer (R203). Any stripe that was being collected without a GCCOMMIT is an ordinary one again. -/
def State.ftlRecover (s : State) (p : Super) (bad : List (Nat × Nat)) : State :=
  let js := s.journalRead bad
  let a := s.mapRecover p js
  let b := (openVictims js).foldl State.victimErase a
  let v : State := { b with flash := { b.flash with gc := [], stripes := b.flash.stripes.map (fun (e : Nat × Stripe) =>
    (e.1, if e.2.st = .victim then { e.2 with st := .closed } else e.2)) } }
  if js.getLast?.any (fun r => r.jtype != .flushend) then v.flashEvent eFtl 1 0x030E 0 locNode else v

/-- The translation layer as a boot finds it: recovered from the newest superblock, or formatted where no copy decodes (log 125). -/
def State.ftlBoot (s : State) (n : NandReport) : State :=
  let t := match s.superNow n.superBad with
    | some p => s.ftlRecover p n.jrecBad
    | none => s.flashFormat n
  ((t.wbTake.setFld fFtlStateReady 1).setFld fTopStatusFtlready 1).countOrphans.capRecompute

/-- Steps 3 and 4 of the power-up on the flash side. -/
def State.flashBoot (s : State) (n : NandReport) (bad : List Nat) : State :=
  if s.hw.variant.flash then (s.flashUp n bad).ftlBoot n else s

/-! ## Opening the node -/

/-- A member position as a boot leaves it (R436). -/
def memberNew (st : MState) : Member := ⟨st, false, none, [], false, none⟩

/-- The group at boot (R417, R436): a master holds every position ABSENT except its own; a member stands outside the barrier until it
has joined. -/
def State.groupBoot (s : State) : State :=
  let own := s.fld fCasCfgPos
  let ms := (List.range s.memberTable.length).map (fun p => (p, memberNew (if p = own then .active else .absent)))
  let cs := (List.range s.childTable.length).map (fun p => (p, memberNew .active))
  { s with cas := { s.cas with members := if s.role = 2 then ms else [], children := cs, outside := s.role == 1 } }

/-- PF0's admin queues (R516). IEN of CQ 0 is set (log 47). -/
def State.adminQueues (s : State) : State :=
  match s.boot.image with
  | none => s
  | some i =>
    let q := i.queues
    (s.setCq 0 { depth := q.cqDepth, ring := q.cqRing, ien := true, head := 0, tail := 0, count := 0, phase := true, enabled := true,
                 waiting := [] }).setSq 0 { depth := q.sqDepth, cq := 0, ring := q.sqRing, head := 0, tail := 0, enabled := true,
                                            running := [] }

/-- The clocks and limits of a node in service (R474, R502). -/
def State.clocksUp (s : State) : State :=
  let t := ((s.setFld fNrgClkHbmlock 1).setFld fNrgClkCxllock 1).setFld fNrgClkFablock (2 ^ s.hw.variant.ports - 1)
  t.setFld fNrgLimitLive t.liveLimit

/-- The last step of R584: CQ 0 opens, BUSY clears, READY and BOOTDONE are set and WAKE is sent. -/
def State.openNode (s : State) : State :=
  let a := { s with pwr := { s.pwr with phase := .running } }.adminQueues
  let b := ((a.setFld fTopStatusBusy 0).setFld fTopStatusReady 1).event eTop 0
  let c := if s.pwr.cause = 2 then b.event eTop 2 else b
  let d := match s.mgmt.wakeReq with
    | some q => { c with mgmt := { c.mgmt with wakeReq := none } }.emit (.mgmt 0x06 q .ok [])
    | none => c
  (d.emit (.mgmt 0x06 0 .ok [])).cqDrain 0 0 256

/-- BOOT_COMPLETE (R578, R584): self-test groups 1 to 6, the flash side, and the opening of the node. A link with no spare lane fails
the boot as group 7 does. -/
def execBootComplete (fails : List BistFail) (s : State) : Outcome :=
  if s.pwr.phase ≠ .verified ∨ s.pwr.bootStalled then .next s
  else
    match s.boot.image with
    | none => .next s
    | some i =>
      let fs := fails.filter (bistReal s.hw.variant)
      let low := fs.foldl (fun m f => if m = 0 ∨ f.group < m then f.group else m) 0
      let a := s.setFld fSecStateBistgrp low
      if fs.any (fun f => f.group == 4 && f.unit != 0) then .next (a.bootFail 0x0A)
      else
        let b := a.clocksUp.flashBoot i.nand ((fs.filter (fun f => f.group == 6)).map (·.unit))
        let c := fs.foldl (fun (t : State) f => t.bistUnit f) b
        let d := c.each ((List.range c.hw.variant.ports).filter (fun p => c.flag (fFabGclctlEnable p))) (fun p t => t.gateRestart p)
        .next d.groupBoot.openNode

end Sys2Proof.Machine
end

