-- ==== Sys2Proof/Machine/HostFab.lean ====
section
/-! DEFINITION. Host commands on connections, keyed regions, route maps and the straggler ring (R331, R334, R366 to R368, R374, R377
to R381, R425 to R427, R521, R609). -/

namespace Sys2Proof.Machine

/-! ## Connections -/

/-- Connections that never leave the cache (R368). -/
def State.pinned (s : State) : Nat := (s.fab.conns.filter (fun e => e.2.st != .closed && (e.2.rec_.pin || e.2.sys))).length

/-- Is a connection record well formed (R366, R368)? -/
def State.connOk (s : State) (c : ConnRec) : Bool :=
  decide (c.conn < 2 ^ 16) && decide (c.ckind ≤ 1) && (c.ckind == 0 || c.tenant == 0xFFFF) && decide (c.cls < 8)
  && bitOf c.spray c.homeport && decide (c.spray < 64) && decide (1 ≤ c.paths) && decide (c.paths ≤ 16) && decide (c.cgroup < 256)
  && decide (c.rqdepth ≤ 1024) && Tbl.has s.host.cqs (qKey 0 c.cq) && decide (c.iseq < 2 ^ 32) && decide (c.irseq < 2 ^ 32)
  && (s.conn? c.conn).all (fun x => x.st == .closed)
  && (!(c.pin || c.ckind == 1) || decide (s.pinned < s.fld fFabTcapPinmax))

/-- A connection as CONN_OPEN makes it (R366, R370). -/
def connNew (c : ConnRec) : Conn :=
  { rec_ := c, st := .open_, txSeq := c.iseq, next := c.irseq, held := [], infl := [], unacked := [], lastAcc := none, sent := [],
    recv := [], gens := [], cached := false, lru := 0, closing := false, hostWr := false, polAt := none }

/-- CONN_OPEN (R5, R366 to R368). A port that the variant has not got is an absent unit (R6). -/
def execConnOpen (h : HostHdr) (c : ConnRec) (s : State) : Outcome :=
  s.hostRun h (fun s =>
    let go := s.wellFormed h 366 (s.connOk c) (.next (((s.setConn c.conn (connNew c)).cacheConn c.conn).completeSt h .ok))
    if c.homeport < 6 ∧ c.spray < 64 ∧ (s.hw.variant.ports ≤ c.homeport ∨ 2 ^ s.hw.variant.ports ≤ c.spray) then
      .next (s.completeSt h .notPresent)
    else if c.ckind = 0 then s.need h (s.tenant? c.tenant) (fun _ => go) else go)

/-- CONN_CLOSE (R367): an open connection drains and sends CLOSE; a failed one closes at once. -/
def execConnClose (h : HostHdr) (conn : Nat) (s : State) : Outcome :=
  s.hostCmd h (fun s =>
    match s.conn? conn with
    | none => s.completeSt h .notFound
    | some c =>
      match c.st with
      | .closed => s.completeSt h .notFound
      | .failed => (s.connClosed conn .noConn).completeSt h .ok
      | _ => ((s.setConn conn { c with st := .draining, closing := true }).drainConn conn).completeSt h .ok)

/-- POST_RECV (R374, R375): the buffer lies in a region of the connection's tenant with SEND rights; its generation adds one at every
repost. -/
def execPostRecv (h : HostHdr) (conn key offset length : Nat) (s : State) : Outcome :=
  s.hostRun h (fun s =>
    s.need h ((s.conn? conn).filter (fun c => c.st != .closed)) (fun c =>
      s.need h ((Tbl.find s.fab.regions (key % 2 ^ 16)).filter (fun r => r.rec_.key == key && !s.deregging (key % 2 ^ 16))) (fun r =>
        match c.freeIdx with
        | none => .next (s.hostErrCmd h 374)
        | some i =>
          s.wellFormed h 374 (postOk c r offset length) (.next ((s.setConn conn (c.post i key offset length none)).completeSt h .ok)))))

/-! ## Keyed regions -/

/-- Does an HBM region lie in the memory that its address names, outside the HDM window (R327, R377, R514)? -/
def State.hbmSpanOk (s : State) (base n : Nat) : Bool :=
  match s.place base with
  | .ilv x => decide (x + n ≤ s.ilvSize - s.hdmBytes)
  | .chan _ off => decide (off + n ≤ 1024 * rowsPerChannel)
  | _ => false

/-- Is a region record well formed (R377)? -/
def State.regionOk (s : State) (r : RegionRec) : Bool :=
  decide (r.key < 2 ^ 32) && r.key / 2 ^ 16 != 0 && decide (r.rights < 16) && decide (r.rkind ≤ 2) && decide (64 ≤ r.length)
  && (if r.rkind = 0 then s.hbmSpanOk r.base r.length else r.base % 4096 == 0)
  && (if r.rkind = 2 then decide (21 ≤ r.segshift) && decide (r.segshift ≤ 30) else r.segshift == 0)
  && !Tbl.has s.fab.regions (r.key % 2 ^ 16)

/-- Does an EXPORT span overlap another (R379)? -/
def State.exportMeets (s : State) (r : RegionRec) : Bool :=
  bitOf r.rights 3 && s.fab.regions.any (fun e => bitOf e.2.rec_.rights 3 && decide (e.2.rec_.expoff < r.expoff + r.length)
    && decide (r.expoff < e.2.rec_.expoff + e.2.rec_.length))

/-- REG_REGION (R377, R379). -/
def execRegRegion (h : HostHdr) (r : RegionRec) (s : State) : Outcome :=
  s.hostRun h (fun s =>
    let go := s.wellFormed h 377 (s.regionOk r) (s.wellFormed h 379 (!s.exportMeets r)
      (.next (({ s with fab := { s.fab with regions := Tbl.set s.fab.regions (r.key % 2 ^ 16) ⟨r, []⟩ } }).completeSt h .ok)))
    if r.tenant = 0xFFFF then go else s.need h (s.tenant? r.tenant) (fun _ => go))

/-- The region that a host command names by its key. -/
def State.regionBy (s : State) (key : Nat) : Option Region :=
  (Tbl.find s.fab.regions (key % 2 ^ 16)).filter (fun r => r.rec_.key == key && !s.deregging (key % 2 ^ 16))

/-- DEREG_REGION (R377): it completes when every access in flight has ended; meanwhile the key fails. -/
def execDeregRegion (h : HostHdr) (key : Nat) (s : State) : Outcome :=
  s.hostRun h (fun s => s.need h (s.regionBy key) (fun _ =>
    .next (({ s with host := { s.host with waits := s.host.waits ++ [(h, HostWait.dereg (key % 2 ^ 16))] } }).settleRegions.segsRetry)))

/-- Is a segment of a region on demand (R380)? -/
def segOk (r : Region) (seg : Nat) : Bool := r.rec_.rkind == 2 && decide (seg * 2 ^ r.rec_.segshift < r.rec_.length)

/-- Sets a region. -/
def State.setRegion (s : State) (slot : Nat) (r : Region) : State :=
  { s with fab := { s.fab with regions := Tbl.set s.fab.regions slot r } }

/-- SEG_PRESENT (R380): the accesses that wait for the segment go on. -/
def execSegPresent (h : HostHdr) (key seg : Nat) (s : State) : Outcome :=
  s.hostRun h (fun s => s.need h (s.regionBy key) (fun r =>
    s.wellFormed h 380 (segOk r seg)
      (.next (((s.setRegion (key % 2 ^ 16) { r with present := Tbl.set r.present seg true }).segsRetry).completeSt h .ok))))

/-- SEG_ABSENT (R381): it completes when every access in flight to the segment has ended. -/
def execSegAbsent (h : HostHdr) (key seg : Nat) (s : State) : Outcome :=
  s.hostRun h (fun s => s.need h (s.regionBy key) (fun r =>
    s.wellFormed h 380 (segOk r seg)
      (let t := s.setRegion (key % 2 ^ 16) { r with present := Tbl.erase r.present seg }
       .next ({ t with host := { t.host with waits := t.host.waits ++ [(h, HostWait.segAbsent (key % 2 ^ 16) seg)] } }).settleRegions)))

/-! ## Route maps (R334, R426) -/

/-- Is a region entry well formed (R334)? -/
def regionEntOk (e : RegionEnt) : Bool :=
  decide (e.region < 4096) && decide (e.kind ≤ 3) && decide (e.rights < 4)
  && (e.kind == 0 || (e.length % 4096 == 0 && decide (4096 ≤ e.length) && (e.kind == 3 || e.target % 4096 == 0)))

/-- Are the region numbers of a map distinct? -/
def distinctRegions (es : List RegionEnt) : Bool :=
  match es with
  | [] => true
  | e :: r => !r.any (fun x => x.region == e.region) && distinctRegions r

/-- What the live maps charge a tenant for a kind of region; a region of several maps counts once (R331). -/
def mapUse (ms : List RMap) (t kind : Nat) : Nat :=
  ((ms.flatMap (·.entries)).foldl (fun (z : List Nat × Nat) e =>
    if z.1.contains e.region then z else (e.region :: z.1, if e.owner = t ∧ e.kind = kind then z.2 + e.length else z.2)) ([], 0)).2

/-- The live maps, newest first. -/
def State.liveMaps (s : State) : List RMap := s.cas.newMap.toList ++ s.cas.oldMap.toList

/-- Sets every tenant's POOL and HOSTMEM use to what the live maps charge (R331). -/
def State.chargeMaps (s : State) : State :=
  { s with work := { s.work with tenants := s.work.tenants.map (fun (e : Nat × Tenant) =>
      (e.1, { e.2 with used := { e.2.used with pool := mapUse s.liveMaps e.1 1, hostmem := mapUse s.liveMaps e.1 2 } })) } }

/-- Writes CAS_EPOCH (R441). -/
def State.epochRegs (s : State) : State :=
  let e := fun (m : Option RMap) => (m.map (·.epoch)).getD 0
  ((((s.setFld fCasEpochNew (e s.cas.newMap)).setFld fCasEpochOld (e s.cas.oldMap)).setFld fCasEpochOldlive
    (b2n s.cas.oldMap.isSome)).setFld fCasEpochNewlive (b2n s.cas.newMap.isSome)).setFld fCasEpochHeld (b2n s.cas.heldMap.isSome)

/-- Installs a map while at most one epoch is live, and completes its ROUTE_MAP; a tenant whose regions exceed its quota refuses it
(R331, R426). -/
def State.installMap (s : State) (h : HostHdr) (m : RMap) : State :=
  let t := { s with cas := { s.cas with newMap := some m, oldMap := s.cas.newMap, heldMap := none } }
  let past := s.work.tenants.any (fun e => decide (e.2.limit.pool < mapUse t.liveMaps e.1 1) || decide (e.2.limit.hostmem < mapUse t.liveMaps e.1 2))
  if past then (({ s with cas := { s.cas with heldMap := none } }).epochRegs).completeSt h .quota
  else (t.chargeMaps.epochRegs).completeSt h .ok

/-- ROUTE_MAP (R334, R426). -/
def execRouteMap (h : HostHdr) (epoch : Nat) (entries : List RegionEnt) (s : State) : Outcome :=
  s.hostRun h (fun s =>
    if entries.any (fun e => e.kind != 0 && e.owner != 0xFFFF && (s.tenant? e.owner).isNone) then .next (s.completeSt h .notFound)
    else if s.cas.heldMap.isSome then .next (s.completeSt h .retryLater)
    else
      s.wellFormed h 334 (entries.all regionEntOk && distinctRegions entries && decide (entries.length ≤ 4096) && decide (epoch < 2 ^ 16))
        (s.wellFormed h 426 (s.cas.newMap.all (fun m => epochNewer epoch m.epoch))
          (if s.cas.oldMap.isSome then
             .next ({ s with cas := { s.cas with heldMap := some ⟨h, ⟨epoch, entries⟩⟩ } }).epochRegs
           else .next (s.installMap h ⟨epoch, entries⟩))))

/-! ## The straggler ring (R425) -/

/-- A straggler record. -/
def StragRec.bytes (r : StragRec) : List Byte :=
  leBytes 4 r.bseq ++ leBytes 4 ((List.range 8).foldl (fun x i => x + (r.order.getD i 0xF) * 2 ^ (4 * i)) 0) ++ leBytes 4 r.spread
  ++ leBytes 1 r.last ++ leBytes 1 r.susp ++ zeros 2 ++ (List.range 8).flatMap (fun i => leBytes 2 (min (r.arr.getD i 0xFFFF) 0xFFFF))

/-- CAS_LOG (R425): records from the oldest unread one, as many as RLEN holds (log 41). -/
def execCasLog (h : HostHdr) (s : State) : Outcome :=
  s.hostCmd h (fun s =>
    let n := min s.cas.unread (h.rlen / 32)
    let rs := (s.cas.ring.drop (s.cas.ring.length - s.cas.unread)).take n
    ({ s with cas := { s.cas with unread := s.cas.unread - n } }).complete h .ok (rs.flatMap StragRec.bytes) [])

end Sys2Proof.Machine
end

