-- ==== Sys2Proof/Machine/Round.lean ====
section
/-! DEFINITION. Shared operations of a barrier round and of joining: when a node releases STEP_RDY# (R348, R417, R421), the ranking of
a round (R423 to R425), and what a joiner does of itself (R438). -/

namespace Sys2Proof.Machine

/-- The unit address of the node's ancestor at depth `d` (R411). -/
def State.ancestor (s : State) (d : Nat) : Nat :=
  let a := s.reg64 0x60000 % 2 ^ 61
  a / 2 ^ (46 + 3 * (d - 3)) * 2 ^ (46 + 3 * (d - 3)) + d * 2 ^ 61

/-- The depth of the unit whose barrier this master runs: 3 for a group of nodes, 4 where it has child groups (log 56). -/
def State.groupDepth (s : State) : Nat := if s.childTable.isEmpty then 3 else 4

/-- Control cycles since the node detected the release: 625 in a microsecond. -/
def State.arrCyc (s : State) : Nat := min (625 * (s.uptime - s.cas.rdySince)) (2 ^ 32 - 1)

/-- Does something of the round keep STEP_RDY# low (R348, R417): a GROUPSTEP step that was released and has not started, that runs, or
whose result does not stand, or a FLUSH of its rows? -/
def State.groupBusy (s : State) : Bool :=
  s.work.leases.any (fun e => e.2.nextGroup || e.2.step.any (·.group) || e.2.past.any (·.group))
  || s.fab.conns.any (fun e => e.2.sent.any (fun x => x.mtype == mFlush))

/-- A position's arrival at the master. -/
def State.memberArrives (s : State) (pos cyc : Nat) : State :=
  { s with cas := { s.cas with members := Tbl.modify s.cas.members pos (fun m => { m with arrived := some cyc }) } }

/-- Releases STEP_RDY# when nothing keeps it low; a member tells its master with ARRIVE (R417, R421). -/
def State.rdySettle (s : State) : State :=
  if !s.pwr.stepRdyLow || s.groupBusy then s
  else
    let t := { s with pwr := { s.pwr with stepRdyLow := false } }
    if s.role = 2 then t.memberArrives (s.fld fCasCfgPos) s.arrCyc
    else
      match s.masterConn with
      | none => t
      | some c => t.request c mBarrier 0 t.newEpoch id (barrierBody 1 2 (s.fld fCasBarBseq) (s.reg64 0x60000) s.arrCyc)

/-- A joiner whose snapshot has ended and whose forward queue is empty sends CAUGHTUP (R438). -/
def State.caughtSettle (s : State) : State :=
  if !s.cas.join.snapEnd || s.cas.join.caught then s
  else
    let busy := s.fab.conns.any (fun e => s.peerNode e.1 == s.fld fCasCfgPartner && e.2.infl.any (fun i => i.msg.mtype == mCmd))
    if busy then s
    else
      match s.masterConn with
      | none => s
      | some c =>
        let t := { s with cas := { s.cas with join := { s.cas.join with caught := true } } }
        t.request c mJoin 0 t.newEpoch id (joinBody 5 0 s.nodeNum 0 0 (s.reg64 0x60000))

/-- Firmware version of the running image. -/
def State.fwver (s : State) : Nat := ((s.boot.image).map (·.fwver)).getD 0

/-- A member outside the barrier with a live route map and an open connection to its master sends HELLO (R438; log 58). -/
def State.helloSettle (s : State) : State :=
  if s.role ≠ 1 || !s.cas.outside || s.cas.expelled || s.cas.join.waiting || s.cas.newMap.isNone || !s.serving then s
  else
    match s.masterConn with
    | none => s
    | some c =>
      if !(s.conn? c).any (fun x => x.st == .open_) then s
      else
        let t := { s with cas := { s.cas with join := { s.cas.join with waiting := true } } }
        t.request c mJoin 0 t.newEpoch id (joinBody 1 (s.fld fSecStateBistgrp) s.nodeNum 0 s.fwver (s.reg64 0x60000))

/-- What the group side does of itself as time passes. -/
def State.casSettle (s : State) : State := s.rdySettle.caughtSettle.helloSettle

/-! ## Stragglers (R423 to R425) -/

/-- The members that arrived, in the order of R423: ascending ARRCYC, then position. -/
def rankOf (ms : Tbl Member) : List (Nat × Nat) :=
  sortBy (fun a b => decide (a.2 < b.2)) (ms.filterMap (fun e => e.2.arrived.map (fun c => (e.1, c))))

/-- The largest ARRCYC of a round less the smallest. -/
def spreadOf (r : List (Nat × Nat)) : Nat := (r.getLast?.map (·.2)).getD 0 - (r.head?.map (·.2)).getD 0

/-- The last arrival of a round, none where the spread is below STRAGMIN. -/
def lastOf (r : List (Nat × Nat)) (stragmin : Nat) : Option Nat :=
  if r.isEmpty || decide (spreadOf r < stragmin) then none else r.getLast?.map (·.1)

/-- A member after a round: its window of last places, and its mark (R424). -/
def Member.round (m : Member) (isLast : Bool) (win slown : Nat) : Member :=
  let l := (isLast :: m.lasts).take win
  let n := (l.filter id).length
  { m with lasts := l, suspect := if slown ≤ n then true else if n < slown / 2 then false else m.suspect, arrived := none, expelled := false }

/-- The members after a round. -/
def State.roundOf (s : State) (ms : Tbl Member) : Tbl Member :=
  let last := lastOf (rankOf ms) (s.fld fCasCtlStragmin)
  ms.map (fun e => (e.1, e.2.round (last == some e.1) (s.fld fCasCtlSlowwin) (s.fld fCasCtlSlown)))

/-- Raises SLOW for the positions newly marked (R424). -/
def State.slowEvents (s : State) (old new : Tbl Member) : State :=
  (new.filter (fun e => e.2.suspect && !(Tbl.find old e.1).any (·.suspect))).foldl (fun (t : State) e =>
    (t.raise eCas 0 (t.nodeReport 0x0501 3 (locGroup e.1 (t.fld fCasBarBseq)) [])).emit (.mgmt 0x03 0 .ok t.healthBytes)) s

/-- Closes the open round at the master: its straggler record, the windows and marks of members and child groups. -/
def State.closeRound (s : State) : State :=
  if !s.cas.detected then s
  else
    let r := rankOf s.cas.members
    let ms := s.roundOf s.cas.members
    let cs := s.roundOf s.cas.children
    let rec_ : StragRec :=
      { bseq := s.fld fCasBarBseq, order := r.map (·.1), spread := spreadOf r,
        last := (lastOf r (s.fld fCasCtlStragmin)).getD 0xFF,
        susp := ms.foldl (fun x e => if e.2.suspect then x + 2 ^ e.1 else x) 0,
        arr := (List.range 8).map (fun p => (((Tbl.find s.cas.members p).bind (·.arrived)).map (min 0xFFFF)).getD 0xFFFF) }
    let ring := s.cas.ring ++ [rec_]
    let t : State := { s with cas := { s.cas with
      members := ms, children := cs, ring := ring.drop (ring.length - 1024), unread := min 1024 (s.cas.unread + 1), detected := false } }
    (t.slowEvents s.cas.members ms).slowEvents s.cas.children cs

end Sys2Proof.Machine
end

