-- ==== Sys2Proof/Machine/Snapshot.lean ====
section
/-! DEFINITION. The snapshot of a join (R181, R438 step 3): what the partner streams and what the joiner makes of it. The structures keep
their formats (R40, R50, R53, R58, R64, R65, R67, R338); the spec gives their WRITEs no KEY and no ARG, so those are the model's own
(log 59): KEY is 2^32 plus 1,024 times the COARSE0 of the index plus its number, ARG a part in bits [63:60] with a number below it. -/

namespace Sys2Proof.Machine

/-! ## The partner -/

/-- A part of a snapshot: the ARG of its WRITE, its bytes, and the poison of their lines. -/
structure SnapPart where
  arg  : Nat
  dat  : List Byte
  pois : List Bool
  deriving DecidableEq, Repr

/-- The ARG of a part. -/
def snapArg (part n : Nat) : Nat := part * 2 ^ 60 + n

/-- An interleaved structure as a part. -/
def State.snapIlv (s : State) (part n adr len : Nat) : SnapPart :=
  ⟨snapArg part n, s.ilvRead adr len, (s.ilvLines adr len).map (fun l => Tbl.get false s.mem.hbmPoison l)⟩

/-- The poison of the lines of a range of a channel. -/
def State.chLines (s : State) (ch off n : Nat) : List Bool := (linesOf (chKey ch off) n).map (fun l => Tbl.get false s.mem.hbmPoison l)

/-- A list: its header, its adjacency record, its extents and its copies (R50, R53, R64, R67). -/
def State.snapList (s : State) (d : Desc) (l : Nat) (h : Hdr) : SnapPart :=
  let ext := fun (side : Bool) => (1024 * (h.ext side).1, 1024 * extRows d.c (h.ext side).2)
  let cp := fun (cap : Nat) => if h.copy then copySlot d.c * cap else 0
  ⟨snapArg 6 l,
    s.ilvRead (hdrBase + 64 * l) 64 ++ s.ilvRead (adjBase + 64 * l) 64 ++ s.chRead h.home (ext false).1 (ext false).2
      ++ s.chRead h.home (ext true).1 (ext true).2 ++ s.ilvRead h.mcopy (cp h.mcap) ++ s.ilvRead h.scopy (cp h.scap),
    [s.hdrBad l, s.adjBad l] ++ s.chLines h.home (ext false).1 (ext false).2 ++ s.chLines h.home (ext true).1 (ext true).2⟩

/-- The parts of an index, its descriptor first, then its tables, its lists, and the records of its namespace (R36, R65). -/
def State.snapIndex (s : State) (n : Nat) (d : Desc) : List SnapPart :=
  let c := d.c
  [s.snapIlv 0 0 (descBase + 256 * n) 256, s.snapIlv 1 0 d.coarseadr (coarseBytes c), s.snapIlv 2 0 d.fineadr (fineBytes c),
   s.snapIlv 3 0 d.projadr (projBytes c), s.snapIlv 4 0 d.scaleadr (scaleBytes c), s.snapIlv 5 0 d.diradr (64 * c.dirn)]
  ++ (s.listsOf n).map (fun e => s.snapList d e.1 e.2)
  ++ (if c.store = 0 then (s.idx.recs.filter (fun e => e.1 / 2 ^ 48 == n)).map (fun e =>
        let x := s.nsRead n (e.1 % 2 ^ 48 * recLen c) (recLen c)
        (⟨snapArg 7 (e.1 % 2 ^ 48), x.1, List.replicate (ceilDiv (recLen c) 64) x.2⟩ : SnapPart)) else [])

/-- The 64 bytes of a table descriptor (R338). -/
def tableDescBytes (d : TableDesc) : List Byte :=
  leBytes 2 d.tenant ++ leBytes 2 d.table ++ leBytes 1 d.tfmt ++ leBytes 1 d.tflags ++ leBytes 2 d.nnodes ++ leBytes 4 d.rowbytes
  ++ leBytes 4 d.chunk ++ leBytes 8 d.rows ++ leBytes 8 d.base ++ (List.range 8).flatMap (fun i => leBytes 2 (d.nodes.getD i 0))
  ++ leBytes 4 d.hotth ++ leBytes 4 d.hotwin ++ zeros 8

/-- The parts of a gather table: its descriptor, then its rows of this node. -/
def State.snapTable (s : State) (t : Nat) (d : TableDesc) : List SnapPart :=
  ⟨snapArg 8 t, tableDescBytes d, []⟩
  :: (List.range (s.localRows d)).map (fun r => s.snapIlv 9 (t * 2 ^ 40 + r) (bits d.base 0 44 + r * d.rowbytes) d.rowbytes)

/-- The whole snapshot, with the KEY of each WRITE. -/
def State.snapshot (s : State) : List (Nat × SnapPart) :=
  (s.idx.desc.filter (fun e => e.2.st == .active)).flatMap (fun e =>
    (s.snapIndex e.1 e.2).map (fun p => (2 ^ 32 + 1024 * e.2.coarse0 + e.1, p)))
  ++ s.tables.descs.flatMap (fun e => (s.snapTable e.1 e.2).map (fun p => (2 ^ 32, p)))

/-- The node begins to serve a joiner as its partner: the snapshot, then SNAPEND (R438). -/
def State.startStream (s : State) (node : Nat) : State :=
  let t : State := { s with cas := { s.cas with join := { s.cas.join with joiner := some node } } }
  match t.sysConn node with
  | none => t
  | some c =>
    let u := s.snapshot.foldl (fun (v : State) p =>
      v.request c mWrite 0 v.newEpoch (fun m => { m with key := p.1, arg := p.2.arg }) (sysPack p.2.dat p.2.pois)) t
    u.request c mJoin 0 u.newEpoch id (joinBody 4 0 node 0 0 (s.reg64 0x60000))

/-! ## The joiner -/

/-- The creation fields of a descriptor's bytes (R40). -/
def createOfBytes (b : List Byte) : CreateFields :=
  let f := leAt b
  { tenant := f 0 2, index := f 2 2, skw := f 5 1, vfmt := f 6 1, metric := f 7 1, dim := f 8 2, planes := f 10 1, fpc := f 11 1,
    ncoarse := f 16 4, sidecap := f 22 2, mergeth := f 24 2, compth := f 26 2, splitth := f 28 4, jointh := f 32 4, vscale := f 36 4,
    dirn := f 80 4, maxitems := f 88 8, cfmt := f 112 1, store := f 113 1 }

/-- The descriptor of a snapshot creates its index in this node's own memory, which discards an orphan namespace of its number (R181). A
number that an index holds already keeps it. -/
def State.snapDesc (s : State) (b : List Byte) : State :=
  let c := createOfBytes b
  if (s.desc? c.index).isSome then s
  else
    match s.placeIndex c (leAt b 116 4) (leAt b 120 4) with
    | none => s
    | some t =>
      (t.modDesc c.index (fun d => { d with
        epoch := leAt b 20 2, live := leAt b 96 8, sealSeq := leAt b 132 4, skipedge := leAt b 192 4, mdefer := leAt b 196 4,
        sdefer := leAt b 200 4, sidefull := leAt b 204 4 })).charge c.tenant (indexCharge c)

/-- A list state by its code (R51). -/
def listStateOf (n : Nat) : ListState := match n with | 1 => .active | 2 => .forward | 3 => .dead | _ => .free

/-- A header of its bytes (R50); `rel` numbers lists as this node does. -/
def hdrOfBytes (rel : Nat → Nat) (owner : Nat) (b : List Byte) : Hdr :=
  let f := leAt b
  let st := listStateOf (f 0 4 / 2 ^ 22 % 4)
  { st := st, home := f 4 1, copy := f 5 1 % 2 == 1, gen := f 6 2, mbase := f 8 4, mcount := f 12 4, mcap := f 16 4, sbase := f 20 4,
    scount := f 24 2, scap := f 26 2, tombs := f 28 4, succ := if st = .forward then rel (f 36 4) else f 36 4, fepoch := f 40 2,
    owner := owner, mcopy := f 48 8, scopy := f 56 8 }

/-- An adjacency record of its bytes (R64). -/
def adjOfBytes (rel : Nat → Nat) (b : List Byte) : Adj :=
  ⟨leAt b 4 2, (List.range (min 8 (leAt b 6 1))).map (fun i => (rel (leAt b (8 + 4 * i) 4), leAt b (40 + 2 * i) 2))⟩

/-- Places an extent of a list: its rows, bytes and poison. -/
def State.snapExt (s : State) (c : CreateFields) (ch cap : Nat) (bs : List Byte) (pois : List Bool) : Option (Nat × State) :=
  (s.newExt c ch cap).map (fun e =>
    (e.1, if cap = 0 then e.2 else
      (e.2.chWrite ch (1024 * e.1) bs).hbmPoisonLines
        (((List.range pois.length).filter (fun i => pois.getD i false)).map (· + chKey ch (1024 * e.1) / 64))))

/-- Places the copies of an extent. -/
def State.snapCopy (s : State) (c : CreateFields) (copy : Bool) (cap : Nat) (bs : List Byte) : Option (Nat × State) :=
  (s.newCopy c copy cap).map (fun e => (e.1, if copy && cap != 0 then e.2.ilvStore e.1 bs [] else e.2))

/-- A list of a snapshot in this node's memory; none where its rows or areas do not reach. -/
def State.snapTake (s : State) (n : Nat) (d : Desc) (rel : Nat → Nat) (l : Nat) (b : List Byte) (pois : List Bool) : Option State :=
  let c := d.c
  let h := hdrOfBytes rel n b
  let m := 1024 * extRows c h.mcap
  let v := 1024 * extRows c h.scap
  let x := if h.copy then copySlot c * h.mcap else 0
  match s.snapExt c h.home h.mcap ((b.drop 128).take m) ((pois.drop 2).take (m / 64)) with
  | none => none
  | some (mb, s1) =>
    match s1.snapExt c h.home h.scap ((b.drop (128 + m)).take v) ((pois.drop (2 + m / 64)).take (v / 64)) with
    | none => none
    | some (sb, s2) =>
      match s2.snapCopy c h.copy h.mcap ((b.drop (128 + m + v)).take x) with
      | none => none
      | some (mc, s3) =>
        (s3.snapCopy c h.copy h.scap (b.drop (128 + m + v + x))).map (fun z =>
          let g : Hdr := { h with mbase := mb, sbase := sb, mcopy := mc, scopy := z.1 }
          let t := ((z.2.setHdr l g).setMask l (g.st == .active)).setAdj l (adjOfBytes rel (b.drop 64))
          let u : State := { t with idx := { t.idx with recs := g.slots.foldl (fun r y => Tbl.set r (recKey n (t.slotRec c g y)) true) t.idx.recs } }
          let i := itemCharge c g.copy
          u.charge c.tenant { i with hbm := i.hbm * g.livec, flash := i.flash * g.livec })

/-- DST by its code (R58). -/
def dstOf (n : Nat) : Dst := match n with | 1 => .live | 2 => .deleted | _ => .empty

/-- The item directory of a snapshot (R58). -/
def State.snapDir (s : State) (n : Nat) (rel : Nat → Nat) (b : List Byte) : State :=
  s.each (List.range (b.length / 4)) (fun i t =>
    let w := leAt b (4 * i) 4
    if w = 0 then t
    else t.setDir (dirKey n (i / 16) (i % 16)) ⟨rel (w % 2 ^ 22), w / 2 ^ 22 % 256, dstOf (w / 2 ^ 30)⟩)

/-- A gather table of a snapshot: BASE is an area of this node's own. -/
def State.snapTableIn (s : State) (b : List Byte) : State :=
  let f := leAt b
  let d : TableDesc := { tenant := f 0 2, table := f 2 2, tfmt := f 4 1, tflags := f 5 1, nnodes := f 6 2, rowbytes := f 8 4, chunk := f 12 4,
                         rows := f 16 8, base := 0, nodes := (List.range 8).map (fun i => f (32 + 2 * i) 2), hotth := f 48 4, hotwin := f 52 4 }
  if Tbl.has s.tables.descs d.table then s
  else
    match s.areaTake (s.localRows d * d.rowbytes) with
    | none => s
    | some (a, t) =>
      ({ t with tables := { t.tables with descs := Tbl.set t.tables.descs d.table { d with base := a } } }).charge d.tenant (tableCharge d)

/-- A row of a gather table of a snapshot. -/
def State.snapRow (s : State) (n : Nat) (b : List Byte) (pois : List Bool) : State :=
  match Tbl.find s.tables.descs (n / 2 ^ 40) with
  | none => s
  | some d => if n % 2 ^ 40 < s.localRows d then s.ilvStore (bits d.base 0 44 + n % 2 ^ 40 * d.rowbytes) (padTo d.rowbytes b) pois else s

/-- What the joiner makes of one part. None for a record that must wait for the write buffer (R206). -/
def State.snapPart (s : State) (key : Nat) (p : SnapPart) : Option State :=
  let n := key % 1024
  let k := p.arg % 2 ^ 60
  let tab := fun (d : Desc) (adr len : Nat) => some (if d.c.index = n then s.ilvStore adr (padTo len p.dat) p.pois else s)
  match p.arg / 2 ^ 60 with
  | 0 => some (s.snapDesc p.dat)
  | 8 => some (s.snapTableIn p.dat)
  | 9 => some (s.snapRow k p.dat p.pois)
  | part =>
    match s.desc? n with
    | none => some s
    | some d =>
      let rel := fun (l : Nat) => l + 64 * d.coarse0 - 64 * ((key - 2 ^ 32) / 1024)
      match part with
      | 1 => tab d d.coarseadr (coarseBytes d.c)
      | 2 => tab d d.fineadr (fineBytes d.c)
      | 3 => tab d d.projadr (projBytes d.c)
      | 4 => tab d d.scaleadr (scaleBytes d.c)
      | 5 => some (s.snapDir n rel p.dat)
      | 6 => some ((s.snapTake n d rel (rel k) p.dat p.pois).getD s)
      | 7 =>
        match s.nsWrite n (k * recLen d.c) p.dat [] with
        | .ok t => some t.progPending
        | .wait => none
        | .noSpace => some (s.flashEvent eFtl 0 0x030A 0 locNode)
      | _ => some s

end Sys2Proof.Machine
end

