-- ==== Sys2Proof/Machine/Cascade.lean ====
section
/-! DEFINITION. Cascade groups: the barrier (R416 to R425, R435), group records and verdicts (R415, R431 to R434), the drain of an
epoch (R427) and joining (R438). -/

namespace Sys2Proof.Machine

/-- Is a SYS message from this node's master (R413)? -/
def State.fromMaster (s : State) (m : Msg) : Bool := s.role == 1 && s.masterConn == some m.dconn

/-- The connection to the parent's master (R413). -/
def State.parentConn (s : State) : Option Nat :=
  (s.boot.image.bind (·.group)).bind (fun g => if g.pmaster = 0 then none else some g.pconn)

/-- Sends a BARRIER message on a connection. -/
def State.sendBarrier (s : State) (conn kind depth uaddr arrcyc : Nat) : State :=
  s.request conn mBarrier 0 s.newEpoch id (barrierBody kind depth (s.fld fCasBarBseq) uaddr arrcyc)

/-! ## Group reset (R435) -/

/-- Ends every running step of every lease with ABORTED (R315, R435). -/
def State.abortAll (s : State) (only : Step → Bool) : State :=
  (s.work.leases.filter (fun e => e.2.step.any only)).foldl (fun (t : State) e => t.abortFree e.1 .aborted) s

/-- What a member does at a group reset (R435, R580): its steps end, its replay state, its currant slots and its micro-program stores go,
and it releases STEP_RDY#. -/
def State.resetMember (s : State) : State :=
  let t := (s.abortAll (fun _ => true)).clearCurrants
  { t with cas := { t.cas with provs := [] }, pwr := { t.pwr with stepRdyLow := false },
           work := { t.work with leases := t.work.leases.map (fun (e : Nat × Lease) => (e.1, { e.2 with nextGroup := false })) } }

/-- Completes GROUP_RESET when every member that is not ABSENT has answered: BARSTUCK clears, and the master may release again. -/
def State.resetSettle (s : State) : State :=
  match s.cas.resetWait with
  | none => s
  | some h =>
    if s.cas.members.any (fun e => e.1 != s.fld fCasCfgPos && e.2.st != .absent && e.2.arrived.isNone) then s
    else (({ s with cas := { s.cas with resetWait := none, stuck := false } }).setWord eCas ((s.word eCas) &&& 0xFFFFFFFD)).completeSt h .ok

/-- GROUP_RESET (R435): RESET to every member, the master among them. A node that is no master is a host error. -/
def execGroupReset (h : HostHdr) (s : State) : Outcome :=
  s.hostRun h (fun s =>
    s.wellFormed h 435 (s.role == 2)
      (let a := s.resetMember
       let b := { a with cas := { a.cas with
         resetWait := some h, members := a.cas.members.map (fun (e : Nat × Member) => (e.1, { e.2 with arrived := none })) } }
       let body := barrierBody 4 (s.groupDepth) (b.fld fCasBarBseq) (b.ancestor s.groupDepth) 0
       .next (b.others.foldl (fun (t : State) p => t.toMember p mBarrier body) b).resetSettle))

/-- BARRIER_RESET (R435). -/
def execBarrierReset (m : Msg) (s : State) : Outcome :=
  s.onSys m mBarrier 4 (fun s =>
    if !s.fromMaster m then s
    else (s.resetMember.setFld fCasBarBseq (leAt m.payload 4 4)).sendBarrier m.dconn 1 2 (s.reg64 0x60000) 0)

/-! ## The barrier -/

/-- ARRIVE (R420, R421): of a member, for the straggler record or a group reset; of a child group's master, for the gate as well. -/
def execArrive (m : Msg) (s : State) : Outcome :=
  s.onSys m mBarrier 1 (fun s =>
    let cyc := leAt m.payload 16 4
    if s.role ≠ 2 ∨ leAt m.payload 4 4 ≠ s.fld fCasBarBseq then s
    else
      match s.memberOf m.dconn with
      | some p => (s.memberArrives p cyc).resetSettle
      | none =>
        match s.childTable.findIdx? (fun c => c.conn == m.dconn) with
        | some p => { s with cas := { s.cas with children := Tbl.modify s.cas.children p (fun x => { x with arrived := some cyc }) } }
        | none => s)

/-- GO (R420): from the parent's master. -/
def execGo (m : Msg) (s : State) : Outcome :=
  s.onSys m mBarrier 2 (fun s =>
    if s.role ≠ 2 ∨ s.parentConn ≠ some m.dconn ∨ !s.cas.sentArrive then s
    else ({ s with cas := { s.cas with parentGo := true } }).setFld fCasBarWaitgo 0)

/-- EXPEL (R422): the member leaves the barrier for good, and its GROUPSTEP steps end. -/
def execExpel (m : Msg) (s : State) : Outcome :=
  s.onSys m mBarrier 3 (fun s =>
    if !s.fromMaster m then s
    else
      let t := s.abortAll (·.group)
      { t with pwr := { t.pwr with stepRdyLow := false }, cas := { t.cas with outside := true, expelled := true } })

/-- What the barrier needs beyond the pin (R417, R420): verdicts, child groups, and the parent's GO. -/
def State.childrenIn (s : State) : Bool := s.cas.children.all (fun e => e.2.arrived.isSome)

/-- The release (R418): the round closes, BSEQ advances, GO goes to the child groups, STEP_GO rises, and joiners whose round it is
become ACTIVE (R438). -/
def State.releaseNow (s : State) : State :=
  let a := s.closeRound
  let n := (a.fld fCasBarBseq + 1) % 2 ^ 32
  let b := (((a.setFld fCasBarBseq n).setFld fCasBarWaitgo 0).setFld fCasBarHoldv 0).count kCasReleases 1
  let c : State := { b with pwr := { b.pwr with stepGo := true }, cas := { b.cas with parentGo := false, sentArrive := false } }
  let d := c.childTable.foldl (fun (t : State) e => t.sendBarrier e.conn 2 t.groupDepth (t.ancestor t.groupDepth) 0) c
  (d.cas.members.filter (fun e => e.2.admitAt == some n && e.2.st == .joining)).foldl (fun (t : State) e => t.setMember e.1 .active) d

/-- BARRIER_RELEASE (R417, R418, R420): STEP_RDY# has been high for four control cycles. While a verdict is outstanding the release is
held; a master with a parent sends ARRIVE and waits for GO. -/
def execBarrierRelease (s : State) : Outcome :=
  s.onlyIf (s.serving && s.role == 2 && !s.cas.stuck && s.cas.resetWait.isNone && !s.pwr.stepGo) (fun s =>
    let t := s.rdySettle
    if t.pwr.stepRdyLow then t
    else if !t.cas.verdicts.isEmpty then t.setFld fCasBarHoldv 1
    else if !t.childrenIn then t
    else
      match t.parentConn with
      | none => t.releaseNow
      | some c =>
        if t.cas.parentGo then t.releaseNow
        else if t.cas.sentArrive then t
        else
          ((({ t with cas := { t.cas with sentArrive := true } }).setFld fCasBarWaitgo 1).setFld fCasBarHoldv 0).sendBarrier c 1
            t.groupDepth (t.ancestor t.groupDepth) t.arrCyc)

/-- The remote rows and the node's own rows of DIST tables, in ascending source node number (R348); the list keeps each source's order. -/
def State.applyRows (s : State) : State :=
  let rows := sortBy (fun a b => decide (a.1 < b.1)) s.cas.remoteRows
  let t := rows.foldl (fun (u : State) r =>
    match Tbl.find u.tables.descs r.2.table with
    | some d => u.rowPut d r.2
    | none => u) s
  { t with cas := { t.cas with remoteRows := [] } }

/-- Is the node the home of rows of some DIST table (R339)? -/
def State.isHome (s : State) : Bool := s.tables.descs.any (fun e => bitOf e.2.tflags 0 && (e.2.nodes.take e.2.nnodes).contains s.nodeNum)

/-- A home has applied the rows of the step before: APPLIED to every member (R348, R349). -/
def State.sendApplied (s : State) : State :=
  if !s.isHome then s
  else
    let t : State := { s with cas := { s.cas with appliedFrom := [s.nodeNum] } }
    t.others.foldl (fun (u : State) p => u.toMember p mApplied []) t

/-- The steps that a release starts: every open GROUPSTEP lease with a batch (R302, R416). -/
def State.markGroup (s : State) : State :=
  { s with work := { s.work with leases := s.work.leases.map (fun (e : Nat × Lease) =>
      match s.plan? e.2.plan with
      | none => e
      | some pl =>
        if bitOf pl.hdr.pflags 3 && e.2.st == .open_ && e.2.step.isNone && batchReady e.2 pl.hdr (s.batch e.2 pl.hdr.qbatch) then
          (e.1, { e.2 with nextGroup := true })
        else e) } }

/-- The ports whose gate lists restart after a barrier release (R396). -/
def State.armGates (s : State) : State :=
  s.each ((List.range s.hw.variant.ports).filter (fun p => s.flag (fFabGclctlEnable p) && s.flag (fFabGclctlAlign p))) (fun p t =>
    t.setPort p { (t.port p) with armed := true })

/-- A node in the barrier takes a release (R348, R417, R418): STEP_RDY# goes low, rows are applied, and the queued steps may start. -/
def State.takeRelease (s : State) : State :=
  let t : State := { s with pwr := { s.pwr with stepRdyLow := true },
                            cas := { s.cas with rdySince := s.uptime, detected := true, appliedFrom := [] } }
  t.applyRows.sendApplied.markGroup

/-- RELEASE_DETECT (R348, R396, R418, R422, R438): STEP_GO is seen high at the node's own ball. A member counts the round; a joiner
takes part from the round that ADMIT named. -/
def execReleaseDetect (s : State) : Outcome :=
  s.onlyIf (s.serving && s.role != 0 && (s.role == 1 || s.pwr.stepGo)) (fun s =>
    let a := if s.role = 1 then (s.setFld fCasBarBseq ((s.fld fCasBarBseq + 1) % 2 ^ 32)).count kCasReleases 1
      else { s with pwr := { s.pwr with stepGo := false } }
    let b := if a.cas.join.admitAt == some (a.fld fCasBarBseq) then
        { a with cas := { a.cas with outside := false, join := ⟨none, false, false, false, none⟩ } } else a
    if b.cas.outside then b.armGates else b.takeRelease.armGates)

/-- A member position is lost: it is ABSENT, and what it owes counts as NO_CONN (R415, R422, R436). -/
def State.loseMember (s : State) (p : Nat) : State :=
  let t := s.setMember p .absent
  let lose := fun (x : Part) => if x.pos = p && !x.final then { x with failed := some .noConn } else x
  { t with cas := { t.cas with
    groupReqs := t.cas.groupReqs.map (fun (g : GroupReq) => { g with parts := g.parts.map lose }),
    verdicts := t.cas.verdicts.filter (fun v => v.2 != p) } }

/-- The unit address of a member: the group's with the position in L2 (R410). -/
def State.memberAddr (s : State) (p : Nat) : Nat := putBits (putBits (s.reg64 0x60000) 43 3 p) 61 3 2

/-- BARTO_EXPIRY (R422): EXPEL to each member whose ARRIVE for the round is missing. -/
def execBartoExpiry (s : State) : Outcome :=
  s.onlyIf (s.serving && s.role == 2 && s.cas.detected) (fun s =>
    let late := (s.cas.members.filter (fun e => e.1 != s.fld fCasCfgPos && e.2.st == .active && e.2.arrived.isNone)).map (·.1)
    late.foldl (fun (t : State) p =>
      let u := (t.toMember p mBarrier (barrierBody 3 t.groupDepth (t.fld fCasBarBseq) (t.memberAddr p) 0)).loseMember p
      { u with cas := { u.cas with members := Tbl.modify u.cas.members p (fun m => { m with expelled := true }) } }) s)

/-- BARSTUCK (R422): the line is still low 1 ms after the EXPEL. -/
def execBarstuck (s : State) : Outcome :=
  s.onlyIf (s.serving && s.role == 2 && !s.cas.stuck && s.cas.members.any (fun e => e.2.expelled)) (fun s =>
    ({ s with cas := { s.cas with stuck := true } }).raise eCas 1
      (s.nodeReport 0x0502 0 (locGroup (s.fld fCasCfgPos) (s.fld fCasBarBseq)) []))

/-! ## Group records (R415, R434) -/

/-- MEMBTO_EXPIRY (R415): ABORT for the TAG; the member counts as failed with TIER_TIMEOUT and a later record is discarded. -/
def execMembtoExpiry (tag pos : Nat) (s : State) : Outcome :=
  s.onlyIf (s.serving && s.role == 2) (fun s =>
    match s.cas.groupReqs.find? (fun g => g.tag == tag && g.parts.any (fun p =>
        p.pos == pos && p.rec_.isNone && p.failed.isNone && p.discard.isNone)) with
    | none => s
    | some g =>
      let t := s.setPart g.req pos (fun p => { p with failed := some .tierTimeout })
      match (t.memberTable[pos]?).bind (fun m => t.conn? m.conn) with
      | some c => t.sendMsg c.rec_ (Conn.make c.rec_ mAbort t.newEpoch 0 tag 0 .ok [])
      | none => t)

/-- GROUP_RECORD_SEND (R116, R415): every contributing member has a final record or has failed. An update has one part; of a RUN the part of
the lowest node number answers, of those that ended with OK where one did: the spec merges search records only (log 32). -/
def execGroupRecordSend (tag : Nat) (s : State) : Outcome :=
  s.onlyIf (s.serving && s.role == 2) (fun s =>
    match s.cas.groupReqs.find? (fun g => g.tag == tag && g.parts.all Part.final) with
    | none => s
    | some g =>
      let t : State := { s with cas := { s.cas with groupReqs := s.cas.groupReqs.filter (fun x => x.req != g.req) } }
      match t.req? g.req with
      | none => t
      | some r =>
        if g.op = .search then
          let z := t.mergeGroup g r
          t.finishReq r z.status (z.bytes false)
        else
          let good := g.parts.filter (fun p => p.failed == some .ok)
          match t.lowestPart (if good.isEmpty then g.parts else good) with
          | some p => t.finishReq r (p.failed.getD .ok) p.out
          | none => t)

/-- The step that a VERDICT names (R432). -/
def verdictTag (m : Msg) : Nat := leAt m.payload 8 8

/-- Changes the parts of a member that hold a record of a step. -/
def State.mapParts (s : State) (pos tag : Nat) (f : Part → Part) : State :=
  { s with cas := { s.cas with groupReqs := s.cas.groupReqs.map (fun (g : GroupReq) => { g with parts := g.parts.map (fun (p : Part) =>
      if p.pos = pos && p.failed.isNone && (p.discard == some tag || (p.prov && p.rec_.any (fun z => z.steptag == tag))) then f p else p) }) } }

/-- CONFIRM (R434). -/
def execConfirm (m : Msg) (s : State) : Outcome :=
  s.onSys m mVerdict 1 (fun s =>
    let tag := verdictTag m
    match s.memberOf m.dconn with
    | none => s
    | some pos =>
      if s.role ≠ 2 || s.cas.ignored.contains tag then s
      else
        let t := (s.mapParts pos tag (fun p => { p with prov := false })).count kCasConfirms 1
        { t with cas := { t.cas with verdicts := t.cas.verdicts.filter (fun v => v.1 != tag), confirmed := t.cas.confirmed ++ [tag] } })

/-- The master discards every partial of a step and asks for its replay; later verdicts are ignored (R434). -/
def State.discardStep (s : State) (pos tag : Nat) : State :=
  let a := (s.mapParts pos tag (fun p => { p with rec_ := none, prov := false, discard := some tag })).count kCasRetracts 1
  let b : State := { a with cas := { a.cas with verdicts := a.cas.verdicts.filter (fun v => v.1 != tag), ignored := a.cas.ignored ++ [tag] } }
  match (b.memberTable[pos]?) with
  | none => b
  | some e => (b.request e.conn mVerdict tag b.newEpoch id (verdictBody 3 tag)).count kCasReplays 1

/-- RETRACT (R434): taken at the master. -/
def execRetract (m : Msg) (s : State) : Outcome :=
  s.onSys m mVerdict 2 (fun s =>
    let tag := verdictTag m
    match s.memberOf m.dconn with
    | none => s
    | some pos =>
      if s.role ≠ 2 || s.cas.ignored.contains tag then s
      else (s.discardStep pos tag).raise eCas 4 { s.nodeReport 0x0505 2 (locGroup pos 0) [] with steptag := tag })

/-- REPLAY_TIMEOUT (R434): no verdict has come within 200 µs. -/
def execReplayTimeout (steptag : Nat) (s : State) : Outcome :=
  s.onlyIf (s.serving && s.role == 2) (fun s =>
    match s.cas.verdicts.find? (fun v => v.1 == steptag) with
    | none => s
    | some v => s.discardStep v.2 steptag)

/-- GONE (R434): the member's records of the step count as failed with CHECK_FAIL. -/
def execGone (m : Msg) (s : State) : Outcome :=
  s.onSys m mVerdict 4 (fun s =>
    match s.memberOf m.dconn with
    | none => s
    | some pos => s.mapParts pos (verdictTag m) (fun p => { p with failed := some .checkFail }))

/-! ## Replays at a member (R431, R434) -/

/-- REPLAY (R434): the step runs again, at once or when its lease is free; a step whose replay state has gone is answered GONE. -/
def execReplay (m : Msg) (s : State) : Outcome :=
  s.onSys m mVerdict 3 (fun s =>
    let tag := verdictTag m
    if !s.fromMaster m then s
    else
      match s.cas.provs.find? (fun q => q.steptag == tag), (s.cas.provs.find? (fun q => q.steptag == tag)).bind (fun q => s.lease? q.lease) with
      | some q, some _ =>
        let t : State := { s with cas := { s.cas with provs := s.cas.provs.map (fun (r : Prov) =>
          if r.steptag = tag then { r with replay := true } else r) } }
        t.replayWaiting q.lease
      | _, _ => s.request m.dconn mVerdict tag m.epoch id (verdictBody 4 tag))

/-- VERDICT_TIMEOUT (R433): the decision is not final 200 µs after the first provisional record left. -/
def execVerdictTimeout (steptag : Nat) (s : State) : Outcome :=
  s.whenServing (fun s => s.sendVerdict steptag false)

/-- RPKEEP_EXPIRY (R431): RPKEEP has passed since the verdict was sent. -/
def execRpkeepExpiry (steptag : Nat) (s : State) : Outcome :=
  s.whenServing (fun s =>
    { s with cas := { s.cas with provs := s.cas.provs.filter (fun p =>
      !(p.steptag == steptag && p.verdict.isSome && !p.replay && !(s.lease? p.lease).any (fun x =>
        x.step.any (fun t => t.replayed && t.seq == p.step.seq)))) } })

/-- The barrier rendezvous of every running step, as the homes stand: its lines, and its lease if it waits (R308, R349). -/
def State.barrierLines (s : State) : State :=
  s.each (s.runningLeases.filter (fun e => (s.plan? e.2.plan).any (fun p => s.homesApplied p.hdr))) (fun e t => (t.fillBarrier e.1).goOn e.1)

/-- APPLIED (R349): a home has applied the rows of the step before; the rendezvous that waited for it are filled. -/
def execApplied (m : Msg) (s : State) : Outcome :=
  .next (if !s.isReady m mApplied then s
    else
      let t := s.sysDone m
      let n := t.peerNode m.dconn
      if t.cas.appliedFrom.contains n then t
      else State.barrierLines { t with cas := { t.cas with appliedFrom := t.cas.appliedFrom ++ [n] } })

/-! ## Epochs -/

/-- EPOCH_DRAIN (R331, R426, R427): OLD's count is zero; its map goes, and a ROUTE_MAP that waits proceeds. -/
def execEpochDrain (s : State) : Outcome :=
  s.onlyIf (s.serving && s.cas.oldMap.any (fun m => s.epochCount m.epoch == 0)) (fun s =>
    let t := ((({ s with cas := { s.cas with oldMap := none } }).chargeMaps).epochRegs).event eCas 2
    match t.cas.heldMap with
    | some w => t.installMap w.h w.map
    | none => t)

/-! ## Joining (R438) -/

/-- HELLO (R438): at the master, for the position whose connection it came on. ACCEPT goes to the joiner and to the partner (log 58). -/
def execHello (m : Msg) (s : State) : Outcome :=
  s.onSys m mJoin 1 (fun s =>
    let node := leAt m.payload 2 2
    match s.memberOf m.dconn with
    | none => s
    | some p =>
      if s.role ≠ 2 then s
      else if leAt m.payload 1 1 ≠ 0 ∨ leAt m.payload 8 4 ≠ s.fwver ∨ node ≠ s.posNode p
          ∨ (Tbl.find s.cas.members p).all (fun x => x.st != .absent) then
        s.request m.dconn mJoin 0 s.newEpoch id (joinBody 3 0 node 0 0 (leAt m.payload 16 8))
      else
        let body := joinBody 2 0 node 0 0 (leAt m.payload 16 8)
        let t := (s.setMember p .joining).request m.dconn mJoin 0 s.newEpoch id body
        let w := t.fld fCasCfgPartner
        if w = node ∨ w = t.nodeNum then t.startStream node else t.toNode w mJoin body)

/-- ACCEPT (R438): the joiner awaits its snapshot; the partner sends it. -/
def execAccept (m : Msg) (s : State) : Outcome :=
  s.onSys m mJoin 2 (fun s =>
    let node := leAt m.payload 2 2
    if !s.fromMaster m then s
    else if node = s.nodeNum then { s with cas := { s.cas with join := ⟨none, true, false, false, none⟩ } }
    else s.startStream node)

/-- REFUSE (R438): the joiner sends no HELLO again before JOINTO (log 58). -/
def execRefuse (m : Msg) (s : State) : Outcome :=
  s.onSys m mJoin 3 (fun s =>
    if !s.fromMaster m then s else { s with cas := { s.cas with join := ⟨none, true, false, false, none⟩ } })

/-- SNAPEND (R438): forwarded updates follow; the joiner sends CAUGHTUP when none waits. -/
def execSnapend (m : Msg) (s : State) : Outcome :=
  s.onSys m mJoin 4 (fun s =>
    if !s.cas.outside then s else ({ s with cas := { s.cas with join := { s.cas.join with snapEnd := true } } }).caughtSettle)

/-- CAUGHTUP (R438): the master sends ADMIT for the round after next. -/
def execCaughtup (m : Msg) (s : State) : Outcome :=
  s.onSys m mJoin 5 (fun s =>
    match s.memberOf m.dconn with
    | none => s
    | some p =>
      if s.role ≠ 2 ∨ !(Tbl.find s.cas.members p).any (fun x => x.st == .joining) then s
      else
        let b := (s.fld fCasBarBseq + 2) % 2 ^ 32
        ({ s with cas := { s.cas with members := Tbl.modify s.cas.members p (fun x => { x with admitAt := some b }) } }).request m.dconn
          mJoin 0 s.newEpoch id (joinBody 6 0 (s.posNode p) b 0 (leAt m.payload 16 8)))

/-- ADMIT (R438): the joiner takes part from the release of the round named; its own count then stands two below (log 58). -/
def execJoinAdmit (m : Msg) (s : State) : Outcome :=
  s.onSys m mJoin 6 (fun s =>
    let b := leAt m.payload 4 4
    if !s.fromMaster m || !s.cas.outside then s
    else
      ({ s with cas := { s.cas with join := { s.cas.join with admitAt := some b } } }).setFld fCasBarBseq ((b + 2 ^ 32 - 2) % 2 ^ 32))

/-- JOINTO_EXPIRY (R438): at the master the position is ABSENT again; the joiner starts again with HELLO; a partner ends its stream. -/
def execJointoExpiry (pos : Nat) (s : State) : Outcome :=
  s.onlyIf (s.serving && s.role != 0) (fun s =>
    if s.role = 2 then
      let t := if (Tbl.find s.cas.members pos).any (fun x => x.st == .joining) then s.setMember pos .absent else s
      if t.cas.join.joiner = some (t.posNode pos) then { t with cas := { t.cas with join := { t.cas.join with joiner := none } } } else t
    else if s.cas.join.joiner == some (s.posNode pos) then { s with cas := { s.cas with join := { s.cas.join with joiner := none } } }
    else if pos = s.fld fCasCfgPos ∧ s.cas.outside then { s with cas := { s.cas with join := ⟨none, false, false, false, none⟩ } }
    else s)

end Sys2Proof.Machine
end

