-- ==== Sys2Proof/Machine/Energy.lean ====
section
/-! DEFINITION. The energy planner's window (R477 to R483, R461, R206) and the low-power states that commands ask for (R493, R494). Energies
are in µJ per window of 100 µs, so that 1 W is 100 µJ. -/

namespace Sys2Proof.Machine

/-! ## The window -/

/-- Core cycles of a window: 100 µs at 2.5 GHz (R477, R495). -/
def windowCycles : Nat := 250000

/-- The figure of a lease's running step (R317). -/
def State.figureOf (s : State) (x : Lease) : Nat := ((s.plan? x.plan).map Plan.admitFigure).getD 0

/-- The running leases that are not held. -/
def State.liveLeases (s : State) : List (Nat × Lease) := s.runningLeases.filter (fun e => !e.2.held)

/-- The limits of the next window: pcap and pmin (R477), from the last window's draw in W. -/
def State.windowLimits (s : State) (draw : Nat) : Nat × Nat :=
  let l := 100 * s.liveLimit
  let d := 100 * draw
  let up := 10 * s.fld fNrgCfgSlewup
  let dn := 10 * s.fld fNrgCfgSlewdn
  (if d ≤ l then min l (d + up) else max l (d - dn), d - dn)

/-- The cycles and energy of the window just ended on cores that run no step: ballast, or idle, which counts for the owner of a lease that
has the core (R256, R461, R462, R481; log 127). -/
def State.windowCores (s : State) (ebal : Nat) : State :=
  s.each (List.range s.hw.variant.cores) (fun c t =>
    if t.fld (fCoreStateLease c) ≠ 0xFFFF then
      match t.lease? (t.fld (fCoreStateLease c)) with
      | none => t
      | some x =>
        if x.step.isSome || !x.past.isEmpty then t
        else (t.count kChkIdle windowCycles).modTenant x.owner (fun y =>
          { y with prog := { y.prog with idle := y.prog.idle + windowCycles } })
    else if t.flag (fCoreStateBallaston c) then
      ((t.count (kCoreBallastcyc c) windowCycles).count kChkBallast windowCycles).count kNrgBallaste ebal
    else t.count kChkIdle windowCycles)

/-- Each held lease's window counts for its owner (R483). -/
def State.heldWindows (s : State) : State :=
  (s.work.leases.filter (fun e => e.2.held && e.2.step.isSome)).foldl (fun (t : State) e =>
    t.modTenant e.2.owner (fun x => { x with held := satAdd 64 x.held 1 })) s

/-- Holds a lease of the planner's (R310, R479). -/
def State.planHold (s : State) (l : Nat) : State :=
  let t := (s.holdLease l).count kNrgHolds 1
  { t with nrg := { t.nrg with heldOrder := t.nrg.heldOrder ++ [l] } }

/-- Holds leases in the order of R479 until what is left fits. -/
def State.holdUntil (s : State) (ls : List (Nat × Lease)) (eplan pcap : Nat) : State :=
  match ls with
  | [] => s
  | e :: r => if eplan ≤ pcap then s else (s.planHold e.1).holdUntil r (eplan - s.figureOf e.2) pcap

/-- Releases held leases in the reverse order while they fit (R479, R490). -/
def State.releaseWhile (s : State) (ls : List Nat) (pcap : Nat) : State :=
  match ls with
  | [] => s
  | l :: r =>
    let f := ((s.lease? l).map (fun x => if x.step.isSome && holdTaken x then s.figureOf x else 0)).getD 0
    if s.nrg.eplan + f ≤ pcap then
      let t := (s.unhold l).goOn l
      ({ t with nrg := { t.nrg with eplan := t.nrg.eplan + f } }).releaseWhile r pcap
    else s

/-- Fills the gap below pmin with ballast on the lowest-numbered idle cores; too few of them raise SLEWMISS (R481, R482). -/
def State.ballast (s : State) (pmin ebal : Nat) : State :=
  let gap := pmin - s.nrg.eplan
  let idle := s.ballastCores
  let n := if ebal = 0 then idle.length else min (ceilDiv gap ebal) idle.length
  let on := if gap = 0 then [] else idle.take n
  let a := s.each (List.range s.hw.variant.cores) (fun c t => t.setFld (fCoreStateBallaston c) (b2n (on.contains c)))
  let b := (a.each on (fun c t => t.setCore c { (t.core c) with gated := false })).setFld fNrgStateBalcores on.length
  if on.length * ebal < gap then
    (b.nrgEvent 3 0x0704 2 [(gap - on.length * ebal) / 100]).count kNrgSlewmisses 1
  else b

/-! ## Transitions -/

/-- Idle-2 exit and the entries that commands have asked for (R493). Every lease closes first. -/
def State.powerMoves (s : State) : State :=
  if s.powerHeld || s.pwr.flushing.isSome then s
  else
    let a := if s.fld fNrgStatePstate = 5 then ((s.setFld fNrgStatePstate 0).setFld fTopStatusIdle2 0).powerDone 0 else s
    let stby := a.mgmt.stbyReq.isSome || a.host.waits.any (fun w => w.2 == HostWait.setPower 2)
    let idle := a.host.waits.any (fun w => w.2 == HostWait.setPower 1)
    if !stby && !idle then a
    else
      let b := a.each (Tbl.keys a.work.leases) (fun l t => t.closeLease l none)
      if !b.work.leases.isEmpty then b else b.flushBegin (if stby then .standby else .idle2)

/-- ENERGY_WINDOW (R206, R477 to R483): the boundary between two windows. While the node is held for a power event, leases stay held and
no ballast runs (R487). -/
def execEnergyWindow (w : WindowMeas) (s : State) : Outcome :=
  s.whenServing (fun s =>
    let lim := s.windowLimits w.draw
    let a := ((s.windowCores w.ebal).heldWindows.count kNrgBasee w.ebase).setFld fNrgStateMeasured (min w.draw 0xFFFF)
    let sum := fun (ls : List (Nat × Lease)) => w.ebase + (ls.map (fun e => a.figureOf e.2)).foldl (· + ·) 0
    let plan := sum (a.runningLeases.filter (fun e => !holdTaken e.2))
    let left := sum a.liveLeases
    let b := { a with nrg := { a.nrg with draw := w.draw, ebase := w.ebase, eplan := plan, admittedNow := 0, pcap := lim.1,
                                          pmin := lim.2 } }
    let c := if lim.1 < plan then b.holdUntil (holdOrder b.liveLeases) left lim.1
      else if b.powerHeld then b else b.releaseWhile b.nrg.heldOrder.reverse lim.1
    let d := if c.powerHeld then c else c.ballast lim.2 w.ebal
    let e := (d.setFld fNrgStatePlanned (min (d.nrg.eplan / 100) 0xFFFF)).setFld fNrgLimitLive d.liveLimit
    (e.powerMoves.capRecompute.progPending).retryUpdates)

/-- IDLE1_ENTRY (R493): a core that has held no lease and run no ballast for 10 µs gates its clock. -/
def execIdle1Entry (core : Nat) (s : State) : Outcome :=
  s.whenServing (fun s =>
      if s.hw.variant.cores ≤ core ∨ s.fld (fCoreStateLease core) ≠ 0xFFFF ∨ s.flag (fCoreStateBallaston core) then s
      else s.setCore core { (s.core core) with gated := true })

/-! ## SET_POWER (R493, R494, R521) -/

/-- A SET_POWER that waits for its state. -/
def State.powerWait (s : State) (h : HostHdr) (k : Nat) : State :=
  { s with host := { s.host with waits := s.host.waits ++ [(h, HostWait.setPower k)] } }

/-- SET_POWER RUN: the node leaves Idle-2. -/
def execSetPowerRun (h : HostHdr) (autowake : Bool) (s : State) : Outcome :=
  s.hostCmd h (fun s =>
    let t := s.setFld fNrgStateAutowake (b2n autowake)
    if s.fld fNrgStatePstate = 4 then (t.setFld fNrgStatePstate 5).powerWait h 0
    else if s.fld fNrgStatePstate = 5 then t.powerWait h 0
    else t.completeSt h .ok)

/-- SET_POWER IDLE2: entered when the leases have closed and the write buffer is flushed. -/
def execSetPowerIdle2 (h : HostHdr) (autowake : Bool) (s : State) : Outcome :=
  s.hostCmd h (fun s =>
    let t := s.setFld fNrgStateAutowake (b2n autowake)
    if s.fld fNrgStatePstate = 4 then t.completeSt h .ok else t.powerWait h 1)

/-- SET_POWER STANDBY: as Idle-2, then the links drop. -/
def execSetPowerStandby (h : HostHdr) (autowake : Bool) (s : State) : Outcome :=
  s.hostCmd h (fun s => (s.setFld fNrgStateAutowake (b2n autowake)).powerWait h 2)

end Sys2Proof.Machine
end

