-- ==== Sys2Proof/Machine/HostPort.lean ====
section
/-! DEFINITION. The host port: doorbells (R511, R520, R523), DMA faults (R508), the link (R505, R506) and the HDM window (R513 to
R515). -/

namespace Sys2Proof.Machine

/-- A VF's doorbell value is wrong: the queue is disabled, and PF0 is told (R523). On PF0 it is a host error, and the
queue stays as it is. -/
def State.queueError (s : State) (fn q value : Nat) (off : State → State) : Outcome :=
  if fn = 0 then .next (s.hostErr 523)
  else
    .next ((((off s).event eHst 1).count kHstQerrs 1).postEvent 0x0804 (leBytes 1 fn ++ leBytes 1 q ++ leBytes 2 value))

/-- SQ_TAIL_DOORBELL (R511, R516, R523, R526): a queue that does not exist or is disabled ignores it. -/
def execSqTailDoorbell (fn q value : Nat) (s : State) : Outcome :=
  if !s.serving then .next s
  else
    match Tbl.find s.host.sqs (qKey fn q) with
    | none => .next s
    | some sq =>
      if !sq.enabled then .next s
      else if sq.depth ≤ value then s.queueError fn q value (fun t => t.setSq (qKey fn q) { sq with enabled := false })
      else .next (s.setSq (qKey fn q) { sq with tail := value })

/-- CQ_HEAD_DOORBELL (R511, R519, R520, R523): the host has taken the entries before the head; those that waited are written. -/
def execCqHeadDoorbell (fn q value : Nat) (s : State) : Outcome :=
  if !s.serving then .next s
  else
    match Tbl.find s.host.cqs (qKey fn q) with
    | none => .next s
    | some cq =>
      let taken := (value + cq.depth - cq.head) % cq.depth
      if !cq.enabled then .next s
      else if cq.depth ≤ value ∨ cq.count < taken then
        s.queueError fn q value (fun t => t.setCq (qKey fn q) { cq with enabled := false })
      else .next ((s.setCq (qKey fn q) { cq with head := value, count := cq.count - taken }).cqDrain fn q cq.depth)

/-- DMA_TIMEOUT (R508): a transfer of the entry's command failed or was not completed within 50 µs; the command completes with BOUNDS
and has no other effect. A VF's entry has paid its policer and has passed its checks before (R523). -/
def execDmaTimeout (h : HostHdr) (s : State) : Outcome :=
  .next (match s.fetch h false with
    | none => s
    | some t =>
      if t.host.pcieOnly then t.completeSt h .nodeBusy
      else
        match t.vfAdmit h with
        | .error st => (if st = .policed then t.countPoliced ((t.boundTo h.fn).getD 0) else t).completeSt h st
        | .ok u => ((u.count kHstDmaerrs 1).event eHst 2).completeSt h .bounds)

/-- CXL_LINK_TRAIN (R505, R506, R528): width and rate code of the trained link; LINKDEG below x16 at 64 GT/s. Below 32 GT/s the port
is a PCIe endpoint that answers every command with NODE_BUSY. -/
def execCxlLinkTrain (width rate : Nat) (s : State) : Outcome :=
  if s.pwr.phase = .off ∨ !(width == 16 || width == 8 || width == 4) ∨ 2 < rate then .next s
  else
    let t := ((s.setFld fHstLinkWidth width).setFld fHstLinkRate rate).setFld fHstLinkLinkup 1
    let u := { t with host := { t.host with pcieOnly := rate == 2 } }
    .next (if width = 16 ∧ rate = 0 then u else (u.event eHst 0).postEvent 0x0805 (leBytes 1 width ++ leBytes 1 rate))

/-- HDM_COMMIT (R513, R528): the host commits the decoder of a window that is not empty. -/
def execHdmCommit (s : State) : Outcome :=
  s.whenServing (fun s => if s.fld fHstCfgHdmsize = 0 then s else s.setFld fHstLinkHdmcommit 1)

/-- Can the host reach the line at an offset of the window (R505, R513)? -/
def State.hdmReach (s : State) (offset : Nat) : Bool :=
  s.serving && s.flag fHstLinkHdmcommit && s.flag fHstLinkLinkup && !s.host.pcieOnly && decide (offset + 64 ≤ s.hdmBytes)
  && offset % 64 == 0

/-- The interleaved offset of a place in the window (R513). -/
def State.hdmAt (s : State) (offset : Nat) : Nat := s.ilvSize - s.hdmBytes + offset

/-- CXL_MEM_READ (R351, R453, R515): a line of the window; a line that fails ECC is poisoned. -/
def execCxlMemRead (offset : Nat) (ecc : Ecc) (s : State) : Outcome :=
  s.onlyIf (s.hdmReach offset) (fun s =>
    let x := s.hdmAt offset
    let t := if ecc = .uncorrectable then
        ((s.hbmPoisonLines (s.ilvLines x 64)).tier tHbmue 1).cper
          (s.nodeReport 0x0201 0 (locKey (s.ilvKey x)) [])
      else s
    t.emit (.memData (t.ilvRead x 64) (t.ilvPois x 64)))

/-- CXL_MEM_WRITE (R449, R455, R515): the bytes enabled are written, and the check value of their block follows; a write of the whole line clears its poison. -/
def execCxlMemWrite (offset : Nat) (bytes : List (Option Byte)) (s : State) : Outcome :=
  s.onlyIf (s.hdmReach offset && bytes.length == 64) (fun s =>
    let x := s.hdmAt offset
    (if bytes.all (·.isSome) then s.ilvWrite x (bytes.filterMap id)
     else s.each (List.range 64) (fun i t =>
       match bytes.getD i none with
       | some b => t.ilvWrite (x + i) [b]
       | none => t)).recheck x 64)

end Sys2Proof.Machine
end

