-- ==== Sys2Proof/Machine/Mgmt.lean ====
section
/-! DEFINITION. The management messages of the secure master (R572 to R574, R586) and SPDM (R570, R571). -/

namespace Sys2Proof.Machine

/-! ## Management messages (R573) -/

/-- Does the management block answer? It is held in reset with the node, and runs in every other phase with power (R493, R574, R584). -/
def State.mgmtUp (s : State) : Bool :=
  match s.pwr.phase with
  | .off => false
  | .held => false
  | .stopped => false
  | _ => true

/-- A message that the management block takes. -/
def State.onMgmt (s : State) (f : State → Outcome) : Outcome := if s.mgmtUp then f s else .next s

/-- A response (R572). -/
def State.mgmtSay (s : State) (kind mseq : Nat) (st : Status) (payload : List Byte) : State := s.emit (.mgmt kind mseq st payload)

/-- REGREAD (R446, R536, R573): a word that the control path loses reads as all ones. A misaligned address, or one outside the space, is a
host error that reads a free word (R531). -/
def execRegread (mseq addr par : Nat) (s : State) : Outcome :=
  s.onMgmt (fun s =>
    if addr % 4 ≠ 0 ∨ 0x4000000 ≤ addr then .next ((s.hostErr 531).mgmtSay 0x01 mseq .ok (leBytes 4 s.freeNow))
    else
      (s.ctlPath par (fun s => .next (s.mgmtSay 0x01 mseq .ok (leBytes 4 0xFFFFFFFF)))
        (fun s => .next (s.mgmtSay 0x01 mseq .ok (leBytes 4 (s.busRead .secure addr).toNat)))))

/-- REGWRITE (R446, R536, R573); a write that the control path drops is answered as any other. -/
def execRegwrite (mseq addr : Nat) (x : W32) (par : Nat) (s : State) : Outcome :=
  s.onMgmt (fun s =>
    match s.ctlPath par .next (fun s => s.busWrite .secure addr x) with
    | .next t => .next (t.mgmtSay 0x02 mseq .ok [])
    | o => o)

/-- HEALTH (R573). -/
def execHealth (mseq : Nat) (s : State) : Outcome := s.onMgmt (fun s => .next (s.mgmtSay 0x03 mseq .ok s.healthBytes))

/-- HEALTH_INTERVAL (R586): HEALTHINT seconds have passed; zero sends none. -/
def execHealthInterval (s : State) : Outcome :=
  s.onMgmt (fun s => .next (if s.fld fMgtCfgHealthint = 0 then s else s.mgmtSay 0x03 0 .ok s.healthBytes))

/-- CPERREAD (R465, R573): the secure master's oldest unread record; its own mark moves. -/
def execCperread (mseq : Nat) (s : State) : Outcome :=
  s.onMgmt (fun s =>
    match s.chk.ring.find? (fun c => decide (s.chk.secMark ≤ c.rseq)) with
    | none => .next (s.mgmtSay 0x04 mseq .notFound [])
    | some c => .next ({ s with chk := { s.chk with secMark := c.rseq + 1 } }.mgmtSay 0x04 mseq .ok (cperRecord c)))

/-- STANDBY (R493, R573): the node enters Standby when its leases have closed, and answers then. A node that is not in service answers
NODE_BUSY (log 48). -/
def execStandby (mseq : Nat) (s : State) : Outcome :=
  s.onMgmt (fun s =>
    .next (match s.pwr.phase with
      | .standby => s.mgmtSay 0x05 mseq .ok []
      | .running =>
        if s.serving then { s with mgmt := { s.mgmt with stbyReq := some mseq } }.event eMgt 1 else s.mgmtSay 0x05 mseq .nodeBusy []
      | _ => s.mgmtSay 0x05 mseq .nodeBusy []))

/-- WAKE (R493, R573): the node leaves Standby as at a PERST#, and answers once BUSY clears; in any other state at once. -/
def execWake (mseq : Nat) (s : State) : Outcome :=
  s.onMgmt (fun s =>
    .next (if s.pwr.phase = .standby then { s with mgmt := { s.mgmt with wakeReq := some mseq } }.restart 3 0
      else s.mgmtSay 0x06 mseq .ok []))

/-- RECOVER (R574): the flush, then the node is held for recovery. A reset that is under way wins. -/
def execRecover (mseq : Nat) (s : State) : Outcome :=
  s.onMgmt (fun s =>
    .next (match s.pwr.phase with
      | .recovery => s.mgmtSay 0x07 mseq .ok []
      | .running =>
        if s.lastFlush || s.flag fTopStatusBusy then s
        else { s with mgmt := { s.mgmt with recoverReq := some mseq } }.flushBegin .recover
      | _ => s.enterRecovery mseq))

/-- RESET (R573, R574): as PERST#; it also ends a recovery. There is no response. -/
def execReset (_mseq : Nat) (s : State) : Outcome :=
  s.onMgmt (fun s => .next (if s.pwr.phase = .standby then s.restart 3 0 else s.resetNode .mgmtReset))

/-! ## The boot flash in recovery (R560, R574) -/

/-- A message about the boot flash: NODE_BUSY outside recovery, BAD_ARG for arguments outside the table (R573). -/
def State.onBootFlash (s : State) (kind mseq : Nat) (ok : Bool) (f : State → State) : Outcome :=
  s.onMgmt (fun s =>
    .next (if s.pwr.phase ≠ .recovery then s.mgmtSay kind mseq .nodeBusy []
      else if !ok then s.mgmtSay kind mseq .badArg [] else f s))

/-- FLASHREAD (R573). -/
def execFlashread (mseq addr len : Nat) (s : State) : Outcome :=
  s.onBootFlash 0x08 mseq (decide (1 ≤ len) && decide (len ≤ 256)) (fun s =>
    s.mgmtSay 0x08 mseq .ok ((List.range len).map (fun i => Tbl.get 0xFF s.boot.flash (addr + i))))

/-- FLASHERASE (R573): a block of 64 KiB reads 0xFF (log 4). -/
def execFlasherase (mseq addr : Nat) (s : State) : Outcome :=
  s.onBootFlash 0x09 mseq (addr % 65536 == 0) (fun s =>
    { s with boot := { s.boot with flash := Tbl.drop s.boot.flash (fun k => decide (addr ≤ k) && decide (k < addr + 65536)) } }.mgmtSay
      0x09 mseq .ok [])

/-- Programs one byte: an erased byte takes the value; what a second program of a byte leaves the spec does not say, so it is a free
value (log 9). -/
def State.bootByte (s : State) (a : Nat) (b : Byte) : State :=
  if Tbl.get 0xFF s.boot.flash a = 0xFF then { s with boot := { s.boot with flash := Tbl.put 0xFF s.boot.flash a b } }
  else { s.drawFree with boot := { s.boot with flash := Tbl.put 0xFF s.boot.flash a (BitVec.ofNat 8 s.freeNow) } }

/-- FLASHWRITE (R573). -/
def execFlashwrite (mseq addr : Nat) (data : List Byte) (s : State) : Outcome :=
  s.onBootFlash 0x0A mseq (addr % 256 == 0 && decide (1 ≤ data.length) && decide (data.length ≤ 256)) (fun s =>
    (s.each (List.range data.length) (fun i t => t.bootByte (addr + i) (data.getD i 0))).mgmtSay 0x0A mseq .ok [])

/-- ARBCOMMIT (R566, R573): the fuses rise to the ARB of the running image; the response carries the fused level. -/
def execArbcommit (mseq : Nat) (s : State) : Outcome :=
  s.onMgmt (fun s =>
    let arb := (s.boot.image.map (·.arb)).getD 0
    let t := if s.hw.arbFuse < arb then
        ({ s with hw := { s.hw with arbFuse := arb } }.setFld fSecStateArbfuse arb).event eSec 2
      else s
    .next (t.mgmtSay 0x0C mseq .ok (leBytes 1 t.hw.arbFuse)))

/-- FOREIGN_MCTP_MESSAGE (R572): dropped, and MSGERR is raised. -/
def execForeignMctpMessage (s : State) : Outcome := s.onMgmt (fun s => .next (s.event eMgt 2))

/-! ## SPDM (R570, R571) -/

/-- Does a transport answer? DOE answers on a running port; MCTP with the security controller's firmware, in service and in recovery
(log 49). -/
def State.spdmUp (s : State) (tr : SpdmTr) : Bool :=
  match tr, s.pwr.phase with
  | .doe, .running => true
  | .mctp, .running => true
  | .mctp, .recovery => true
  | _, _ => false

/-- The state of a transport. -/
def State.spdm (s : State) (tr : SpdmTr) : Spdm :=
  match tr with
  | .doe => s.mgmt.doe
  | .mctp => s.mgmt.mctp

/-- Sets the state of a transport; the other is not disturbed. -/
def State.setSpdm (s : State) (tr : SpdmTr) (x : Spdm) : State :=
  match tr with
  | .doe => { s with mgmt := { s.mgmt with doe := x } }
  | .mctp => { s with mgmt := { s.mgmt with mctp := x } }

/-- Answers a request with a code and payload; both join the transcript. -/
def State.spdmSay (s : State) (tr : SpdmTr) (x : Spdm) (req : List Byte) (code : Nat) (payload : List Byte) : State :=
  (s.setSpdm tr { x with transcript := x.transcript ++ req ++ payload }).emit (.spdm tr code payload)

/-- ERROR with a code: 1 InvalidRequest, 4 UnexpectedRequest (log 49). -/
def State.spdmErr (s : State) (tr : SpdmTr) (code : Nat) : State := s.emit (.spdm tr 0x7F [BitVec.ofNat 8 code])

/-- A request that needs what came before it, on a transport that answers. -/
def State.onSpdm (s : State) (tr : SpdmTr) (need : Spdm → Bool) (f : Spdm → State) : Outcome :=
  .next (if !s.spdmUp tr then s else if need (s.spdm tr) then f (s.spdm tr) else s.spdmErr tr 4)

/-- GET_VERSION: the exchange starts anew; SPDM 1.3. -/
def execGetVersion (tr : SpdmTr) (s : State) : Outcome :=
  s.onSpdm tr (fun _ => true) (fun _ => s.spdmSay tr ⟨true, false, false, []⟩ [0x84] 0x04 [0, 1, 0, 0x13])

/-- GET_CAPABILITIES: certificates, challenge and signed measurements; no session. -/
def execGetCapabilities (tr : SpdmTr) (s : State) : Outcome :=
  s.onSpdm tr (fun x => x.version) (fun x => s.spdmSay tr { x with caps := true } [0xE1] 0x61 (leBytes 4 0x16))

/-- NEGOTIATE_ALGORITHMS: ML-DSA-65 and SHA3-384 must both be offered. -/
def execNegotiateAlgorithms (tr : SpdmTr) (mldsa sha3 : Bool) (s : State) : Outcome :=
  s.onSpdm tr (fun x => x.version && x.caps) (fun x =>
    if mldsa && sha3 then s.spdmSay tr { x with algs := true } [0xE3] 0x63 (leBytes 4 0x10) else s.spdmErr tr 1)

/-- The DIGEST of a section of the running image (R571). -/
def State.secDigest (s : State) (t : Nat) : List Byte :=
  ((s.boot.image.bind (fun i => i.secDigests.find? (fun d => d.1 == t))).map (·.2)).getD (zeros 32)

/-- The digest of the security controller's part of FIRMWARE (R568, R571). -/
def State.fwSecDigest (s : State) : List Byte := (s.boot.image.map (·.fwSecDigest)).getD (zeros 32)

/-- The digest of the elder part of FIRMWARE (R568, R571). -/
def State.fwElderDigest (s : State) : List Byte := (s.boot.image.map (·.fwElderDigest)).getD (zeros 32)

/-- The seed of the DeviceID key pair, which no firmware changes (R568). -/
def deviceIdSeed : List Byte := shake256 32 Config.uds

/-- CDI0 of the DICE engine (R568): UDS and the digest of the security controller's firmware. -/
def State.cdi0 (s : State) : List Byte := shake256 32 (Config.uds ++ s.fwSecDigest)

/-- What layer 0 takes beside CDI0, and the Alias certificate carries (R568): the digests of the elder part, CONFIG and KEYS, and the
fused ARB level. -/
def State.layer0 (s : State) : List Byte := s.fwElderDigest ++ s.secDigest 2 ++ s.secDigest 3 ++ leBytes 1 s.hw.arbFuse

/-- CDI1, of which the Alias key pair is made (R568). -/
def State.cdi1 (s : State) : List Byte := shake256 32 (s.cdi0 ++ s.layer0)

/-- The chain of slot 0: the DeviceID certificate, then the Alias certificate signed by the DeviceID key (R568, R570). -/
def State.certChain (s : State) : List Byte :=
  Config.spdmBytes 1 deviceIdSeed ++ Config.spdmBytes 4 (deviceIdSeed ++ s.cdi1 ++ s.layer0)

/-- A signature with the Alias key (R568, R570). -/
def State.aliasSigns (s : State) (k : Nat) (x : List Byte) : List Byte := Config.spdmBytes k (s.cdi1 ++ x)

/-- GET_DIGESTS: the digest of the chain of slot 0. -/
def execGetDigests (tr : SpdmTr) (s : State) : Outcome :=
  s.onSpdm tr (fun x => x.algs) (fun x => s.spdmSay tr x [0x81] 0x01 (1 :: Config.spdmBytes 0 s.certChain))

/-- GET_CERTIFICATE: a part of the chain DeviceID, Alias of slot 0. -/
def execGetCertificate (tr : SpdmTr) (slot offset length : Nat) (s : State) : Outcome :=
  s.onSpdm tr (fun x => x.algs) (fun x =>
    if slot ≠ 0 then s.spdmErr tr 1
    else s.spdmSay tr x [0x82] 0x02 ((s.certChain.drop offset).take length))

/-- CHALLENGE: signed with the Alias key over the transcript and the nonce. -/
def execChallenge (tr : SpdmTr) (slot : Nat) (nonce : List Byte) (s : State) : Outcome :=
  s.onSpdm tr (fun x => x.algs) (fun x =>
    if slot ≠ 0 then s.spdmErr tr 1
    else s.spdmSay tr x (0x83 :: nonce) 0x03 (s.aliasSigns 2 (x.transcript ++ nonce)))

/-- A measurement block (R571), none for an index that does not exist. The ROM identity, and how the fuses are encoded, the spec does
not state (log 49). -/
def State.measurement (s : State) (i : Nat) : Option (List Byte) :=
  match i with
  | 1 => some (shake256 32 (Config.spdmBytes 16 []))
  | 2 => some s.fwSecDigest
  | 3 => some s.fwElderDigest
  | 4 => some (s.secDigest 2)
  | 5 => some (s.secDigest 3)
  | 6 => some (shake256 32 (Config.spdmBytes 17 (leBytes 1 s.hw.arbFuse ++ leBytes 1 s.hw.rootRevoked)))
  | 7 => some (s.secDigest 5)
  | 16 => some (shake256 32 (s.work.packs.flatMap (·.2)))
  | _ => none

/-- GET_MEASUREMENTS (R571): index 0 asks for the number of blocks, 0xFF for all of them. -/
def execGetMeasurements (tr : SpdmTr) (index : Nat) (sign : Bool) (nonce : List Byte) (s : State) : Outcome :=
  s.onSpdm tr (fun x => x.algs) (fun x =>
    let all := ([1, 2, 3, 4, 5, 6, 7, 16] : List Nat).flatMap (fun i => BitVec.ofNat 8 i :: (s.measurement i).getD [])
    let body := if index = 0 then some [8] else if index = 0xFF then some all else (s.measurement index).map (BitVec.ofNat 8 index :: ·)
    match body with
    | none => s.spdmErr tr 1
    | some b =>
      s.spdmSay tr x (0xE0 :: BitVec.ofNat 8 index :: nonce) 0x60
        (b ++ if sign then s.aliasSigns 3 (x.transcript ++ nonce ++ b) else []))

end Sys2Proof.Machine
end

