-- ==== Sys2Proof/Machine/MicroOps.lean ====
section
/-! DEFINITION. The micro-ops (R129 to R137, R148 to R151): one definition each. A micro-op row runs when the currant's
running slot has that micro-op at its program counter; otherwise nothing happens (log 12). -/

namespace Sys2Proof.Machine

/-- The frame of a micro-op: the counter moves on, the cycles count, the body runs, and a yield point with a refresh due
pauses the slot (R119, R141, R144). A slot that stands at a reserved opcode is a host error (R128): whatever micro-op comes, the slot
passes over it (log 94). -/
def State.microOp (s : State) (ch op : Nat) (e : UEnv) (f : State → Currant → Nat → State) : Outcome :=
  s.onCh ch (fun s =>
    let c := s.cur ch
    let w := s.ustore ch c.pc
    let c1 := { c with pc := (c.pc + 1) % 512, confw := c.confw + e.confw }
    if c.rs ≠ .run then s
    else if uReserved s.hw.variant (uOp w) then (s.hostErr 128).setCur ch { c with pc := (c.pc + 1) % 512 }
    else if uOp w = op then
      let t := f ((s.setCur ch c1).count (kNbuBusycyc ch) e.cyc) c1 w
      let d := t.cur ch
      if uY w && d.rs == .run && d.refDue then
        ((t.setCur ch { d with rs := .paused }).slotSet ch d.slot 3 1 3).count (kNbuRefpause ch) 1
      else t
    else s)

/-- A row operation, counted and passed through ECC. A row beyond the channel is a host error, and its data are free (R319). -/
def State.rowOp (s : State) (ch row : Nat) (e : UEnv) (f : State → Currant → List Byte → List Bool → State) : State :=
  if rowsPerChannel ≤ row then
    let t := (s.countRowOps ch 1).hostErr 319
    f t (t.cur ch) (leBytes 1024 s.freeNow) (List.replicate 16 false)
  else
    let t := (s.countRowOps ch 1).eccNote ch row e.ecc
    f t (t.cur ch) (s.rowData ch row) (s.rowPois ch row e.ecc)

/-- A jump; a target outside the plan's range is a host error (R128). -/
def State.jumpTo (s : State) (ch : Nat) (c : Currant) (a : Nat) : State :=
  let g := s.nbuRange (s.slotGet ch c.slot 6 2)
  (if a < g.1 ∨ g.2 ≤ a then s.hostErr 128 else s).setCur ch { c with pc := a }

/-- NOP (R130). -/
def execUNop (ch : Nat) (e : UEnv) (s : State) : Outcome := s.microOp ch 0x00 e (fun s _ _ => s)

/-- LDA (R130). -/
def execULda (ch : Nat) (e : UEnv) (s : State) : Outcome :=
  s.microOp ch 0x01 e (fun s c w =>
    let v := if bitOf (uFn w) 0 then (c.areg (uRb w) + uImm w) % 2 ^ 28 else uImm w
    (s.setCur ch { c with a := c.a.set (uRa w) v }))

/-- ADDA (R130). -/
def execUAdda (ch : Nat) (e : UEnv) (s : State) : Outcome :=
  s.microOp ch 0x02 e (fun s c w => (s.setCur ch { c with a := c.a.set (uRa w) (uLine c w) }))

/-- LDC (R130). -/
def execULdc (ch : Nat) (e : UEnv) (s : State) : Outcome :=
  s.microOp ch 0x03 e (fun s c w => (s.setCur ch { c with c := c.c.set (uRa w % 4) (uCnt w) }))

/-- LOOP (R130): the counter wraps at 16 bits. -/
def execULoop (ch : Nat) (e : UEnv) (s : State) : Outcome :=
  s.microOp ch 0x04 e (fun s c w =>
    let v := (c.c.getD (uRa w % 4) 0 + 0xFFFF) % 0x10000
    let c1 := { c with c := c.c.set (uRa w % 4) v }
    if v = 0 then s.setCur ch c1 else s.jumpTo ch c1 (uImm w % 512))

/-- JMP (R130). -/
def execUJmp (ch : Nat) (e : UEnv) (s : State) : Outcome :=
  s.microOp ch 0x05 e (fun s c w => s.jumpTo ch c (uImm w % 512))

/-- SETS (R130); a reserved FN is a host error that sets nothing. -/
def execUSets (ch : Nat) (e : UEnv) (s : State) : Outcome :=
  s.microOp ch 0x06 e (fun s c w =>
    if uFn w = 0 then (s.setCur ch { c with scanpos := uImm w, side := bitOf (uCnt w) 0 })
    else if uFn w = 1 then (s.setCur ch { c with limit := uImm w })
    else s.hostErr 130)

/-- RD (R130, R150). -/
def execURd (ch : Nat) (e : UEnv) (s : State) : Outcome :=
  s.microOp ch 0x08 e (fun s c w => s.rowOp ch (rowOf (uLine c w)) e (fun t c bs ps =>
    t.setCur ch { c with buf := c.buf.set (uBd w) bs, bufPois := c.bufPois.set (uBd w) ps }))

/-- WR (R130, R149, R150). -/
def execUWr (ch : Nat) (e : UEnv) (s : State) : Outcome :=
  s.microOp ch 0x09 e (fun s c w =>
    ((s.countRowOps ch 1).rowWrite ch (rowOf (uLine c w)) (c.buf.getD (uBs w) []) (c.bufPois.getD (uBs w) [])))

/-- COPY (R130, R150): row A[RA] to row A[RB] + IMM; it counts as two row operations (R119). -/
def execUCopy (ch : Nat) (e : UEnv) (s : State) : Outcome :=
  s.microOp ch 0x0A e (fun s c w =>
    let dst := rowOf ((c.areg (uRb w) + uImm w) % 2 ^ 28)
    s.rowOp ch (rowOf (c.areg (uRa w))) e (fun t _ bs ps => (t.countRowOps ch 1).rowWrite ch dst bs ps))

/-- What INIT writes under FN; a reserved FN is a host error and writes a free value (R130). -/
def State.initRow (s : State) (ch fn : Nat) : List Byte :=
  if fn = 0 then zeros 1024
  else if fn = 1 then List.replicate 1024 0xFF
  else if fn = 2 then (List.replicate 128 (leBytes 8 (s.reg64 (nbuBase ch + 0x28)))).flatten
  else leBytes 1024 s.freeNow

/-- INIT (R130, R159). -/
def execUInit (ch : Nat) (e : UEnv) (s : State) : Outcome :=
  s.microOp ch 0x0B e (fun s c w =>
    ((if uFn w ≤ 2 then s else s.hostErr 130).countRowOps ch 1).rowWrite ch (rowOf (uLine c w)) (s.initRow ch (uFn w)) [])

/-- The pass word after RDL (R132), none for a reserved function. -/
def rdlCombine (fn ps line : Nat) : Option Nat :=
  if fn = 0 then some line
  else if fn = 1 then some (2 ^ 512 - 1 - line)
  else if fn = 2 then some (ps &&& line)
  else if fn = 3 then some (ps ||| line)
  else if fn = 4 then some (ps &&& (2 ^ 512 - 1 - line))
  else none

/-- RDL (R132, R148, R150). A line of the row that the previous RDL opened, with no row operation between, is no row operation of
its own (R119); it is read through ECC as every line is, and the row stays poisoned if its open met an uncorrectable error. A reserved
function, or a line beyond the channel, is a host error that leaves a free pass word. -/
def execURdl (ch : Nat) (e : UEnv) (s : State) : Outcome :=
  s.microOp ch 0x0C e (fun s c w =>
    let l := uLine c w
    let row := rowOf l
    match (if rowsPerChannel ≤ row then none else rdlCombine (uFn w % 8) c.ps (fromLe (s.chRead ch (64 * l) 64))) with
    | none =>
      let t := (s.countRowOps ch 1).hostErr 132
      t.setCur ch { (t.cur ch) with ps := s.freeNow % 2 ^ 512 }
    | some ps =>
      let opened := c.lastRdl.any (fun r => r.1 == row)
      let ue := e.ecc == .uncorrectable || (opened && c.lastRdl.any (·.2))
      let bad := ue || (s.rowPois ch row .clean).getD (l % 16) false
      let t := (if opened then s else s.countRowOps ch 1).eccNote ch row e.ecc
      let load := uFn w % 8 ≤ 1
      t.setCur ch { (t.cur ch) with ps := ps, psPois := if load then bad else c.psPois || bad, lastRdl := some (row, ue) })

/-- A bitwise micro-op of two buffers (R130, R150). -/
def State.bufOp (s : State) (ch : Nat) (c : Currant) (w : Nat) (g : Byte → Byte → Byte) : State :=
  let x := c.buf.getD (uBs w) []
  let y := c.buf.getD (uBt w) []
  let px := c.bufPois.getD (uBs w) []
  let py := c.bufPois.getD (uBt w) []
  s.setCur ch { c with buf := c.buf.set (uBd w) (List.zipWith g x y),
                       bufPois := c.bufPois.set (uBd w) (List.zipWith or px py) }

/-- AND (R130). -/
def execUAnd (ch : Nat) (e : UEnv) (s : State) : Outcome :=
  s.microOp ch 0x10 e (fun s c w => (s.bufOp ch c w (fun x y => x &&& y)))

/-- OR (R130). -/
def execUOr (ch : Nat) (e : UEnv) (s : State) : Outcome :=
  s.microOp ch 0x11 e (fun s c w => (s.bufOp ch c w (fun x y => x ||| y)))

/-- XOR (R130). -/
def execUXor (ch : Nat) (e : UEnv) (s : State) : Outcome :=
  s.microOp ch 0x12 e (fun s c w => (s.bufOp ch c w (fun x y => x ^^^ y)))

/-- ANDNOT (R130). -/
def execUAndnot (ch : Nat) (e : UEnv) (s : State) : Outcome :=
  s.microOp ch 0x13 e (fun s c w => (s.bufOp ch c w (fun x y => x &&& ~~~y)))

/-- NOT (R130). -/
def execUNot (ch : Nat) (e : UEnv) (s : State) : Outcome :=
  s.microOp ch 0x14 e (fun s c w =>
    (s.setCur ch { c with buf := c.buf.set (uBd w) ((c.buf.getD (uBs w) []).map (fun x => ~~~x)),
                              bufPois := c.bufPois.set (uBd w) (c.bufPois.getD (uBs w) []) }))

/-- One sketch of a row in XPOP (R133, R150): `x` is the sketch, `bad` the poison of its lines, `w` the sketch width, `eb` the
entry line of the extent and `q` the query sketch. Line addresses are of 28 bits (R120). -/
def xpopSlot (c : Currant) (q eb w x : Nat) (bad : Bool) : Currant × Nat :=
  let p := c.scanpos
  let c1 := { c with scanpos := (p + 1) % 2 ^ 24 }
  if p < c.limit then
    if c.psPois then ({ c1 with poiscnt := c.poiscnt + 1, spois := true }, 1)
    else if c.ps.testBit (p % 512) then
      if bad then ({ c1 with poiscnt := c.poiscnt + 1, spois := true }, 1)
      else
        let d := popcount w (x ^^^ q % 2 ^ w)
        let pos := if c.side then 0x100000 + p else p
        ({ c1 with passcnt := c.passcnt + 1, heap := heapOffer c.heap ⟨d, pos, (eb + p / 4) % 2 ^ 28, p % 4⟩ }, 0)
    else (c1, 0)
  else (c1, 0)

/-- XPOP (R133, R134, R150). -/
def execUXpop (ch : Nat) (e : UEnv) (s : State) : Outcome :=
  s.microOp ch 0x18 e (fun s c w =>
    let wd := 128 * 2 ^ (uFn w % 4)
    s.rowOp ch (rowOf (uLine c w)) e (fun t c bs ps =>
      let q := t.slotQ ch c.slot
      let r := (List.range (8192 / wd)).foldl (fun (a : Currant × Nat) j =>
        let y := xpopSlot a.1 q (a.1.areg (uRb w)) wd (leAt bs (j * wd / 8) (wd / 8)) (anyPois ps (j * wd / 512) (ceilDiv wd 512))
        (y.1, a.2 + y.2)) (c, 0)
      (t.setCur ch r.1).count (kNbuPoisdrop ch) r.2))

/-- MACV (R136, R150). The reserved format is a host error that leaves a free accumulator (R135). -/
def execUMacv (ch : Nat) (e : UEnv) (s : State) : Outcome :=
  s.microOp ch 0x20 e (fun s c w =>
    if uFn w / 4 = 3 then
      (s.hostErr 135).setCur ch { c with sf := c.sf.set (uCnt w % 256) (BitVec.ofNat 32 s.freeNow) }
    else s.rowOp ch (rowOf (uLine c w)) e (fun t c bs ps =>
      let seg := (c.v.drop (1024 * (uFn w % 4))).take 1024
      let i := uCnt w % 256
      let old := c.sf.getD i 0
      let bad := ps.any id || anyPois c.vPois (16 * (uFn w % 4)) 16 || c.sPois.getD i false
      let r : W32 × Bool := if macFmt w = 3 then
          let z := clamp32 (old.toInt + dotInt bs seg 1024)
          (BitVec.ofInt 32 z.1, z.2)
        else (BitVec.ofNat 32 (fadd old.toNat (dotFp (macFmt w) bs seg 1024)), false)
      t.setCur ch { c with sf := c.sf.set i r.1, sPois := c.sPois.set i bad, sInt := c.sInt.set i (macFmt w = 3), ovf := c.ovf || r.2,
                           accPois := c.accPois || bad, spois := c.spois || bad }))

/-- The score of key j of a row (R137). -/
def qkScore (w scale : Nat) (bs v : List Byte) (j : Nat) : Nat :=
  let h := headDim w
  let k := (bs.drop (h * j)).take h
  if macFmt w = 3 then rne32 (Fp.mul (Fp.ofInt (dotInt k v h)) (fval scale))
  else fmul (dotFp (macFmt w) k v h) scale

/-- QK (R137, R150). Scores past the end of the S file go to its start (log 96). A reserved format or head dimension is a host error that
leaves a free score (R135, R137). -/
def execUQk (ch : Nat) (e : UEnv) (s : State) : Outcome :=
  s.microOp ch 0x21 e (fun s c w =>
    if uFn w / 4 = 3 ∨ uFn w % 4 = 3 then
      (s.hostErr 137).setCur ch { c with sf := c.sf.set (uCnt w % 256) (BitVec.ofNat 32 s.freeNow) }
    else s.rowOp ch (rowOf (uLine c w)) e (fun t c bs ps =>
      let h := headDim w
      let sc := t.slotGet ch c.slot 0x38 4
      let bad := ps.any id || anyPois c.vPois 0 16
      let r := (List.range (1024 / h)).foldl (fun (a : List W32 × List Bool × List Bool) j =>
        let i := (uCnt w % 256 + j) % 256
        (a.1.set i (BitVec.ofNat 32 (qkScore w sc bs c.v j)), a.2.1.set i bad, a.2.2.set i false)) (c.sf, c.sPois, c.sInt)
      t.setCur ch { c with sf := r.1, sPois := r.2.1, sInt := r.2.2, accPois := c.accPois || bad, spois := c.spois || bad }))

/-- The exp unit: a NaN operand gives the canonical NaN (R137, R267). -/
def uExp (x : Nat) : Nat := if isNan x then fp32.qnan else Config.expBits x

/-- SMAX (R137, R150). A sum of scores past the end of the S file is a host error that leaves free values. -/
def execUSmax (ch : Nat) (e : UEnv) (s : State) : Outcome :=
  s.microOp ch 0x22 e (fun s c w =>
    let i := uCnt w % 256
    let n := uImm w
    if 256 < i + n then
      let v := BitVec.ofNat 32 s.freeNow
      (s.hostErr 137).setCur ch { c with sf := c.sf.take i ++ List.replicate (256 - i) v, of_ := List.replicate 256 v, m := v, l := v }
    else
      let xs := ((c.sf.drop i).take n).map (·.toNat)
      let m := xs.foldl fmax c.m.toNat
      let a := if c.m.toNat = 0xFF800000 then 0 else uExp (fsub c.m.toNat m)
      let es := xs.map (fun x => uExp (fsub x m))
      let sum := es.foldl fadd 0
      let l := rne32 (Fp.add (Fp.mul (fval c.l.toNat) (fval a)) (fval sum))
      let bad := c.mlPois || anyPois c.sPois i n
      s.setCur ch { c with
        sf := c.sf.take i ++ es.map (BitVec.ofNat 32) ++ c.sf.drop (i + n)
        sPois := if bad then c.sPois.take i ++ List.replicate n true ++ c.sPois.drop (i + n) else c.sPois
        sInt := c.sInt.take i ++ List.replicate n false ++ c.sInt.drop (i + n)
        of_ := c.of_.map (fun o => BitVec.ofNat 32 (fmul o.toNat a))
        oPois := if bad then List.replicate 256 true else c.oPois
        m := BitVec.ofNat 32 m, l := BitVec.ofNat 32 l, mlPois := bad
        accPois := c.accPois || bad, spois := c.spois || bad })

/-- AV (R137, R150): a poisoned line of the row poisons every destination. Scores past the end of the S file come from its start (log 96).
A reserved format or head dimension is a host error that leaves free outputs (R135, R137). -/
def execUAv (ch : Nat) (e : UEnv) (s : State) : Outcome :=
  s.microOp ch 0x23 e (fun s c w =>
    if uFn w / 4 = 3 ∨ uFn w % 4 = 3 then
      (s.hostErr 137).setCur ch { c with of_ := List.replicate 256 (BitVec.ofNat 32 s.freeNow) }
    else s.rowOp ch (rowOf (uLine c w)) e (fun t c bs ps =>
      let h := headDim w
      let js := List.range (1024 / h)
      let sc := fun j => (c.sf.getD ((uCnt w % 256 + j) % 256) 0).toNat
      let o := fun i => js.foldl (fun x j => fadd x (fmul (sc j) (elemF32 (macFmt w) (leAt bs (h * j + i) 1))))
        (c.of_.getD i 0).toNat
      let any := ps.any id || js.any (fun j => c.sPois.getD ((uCnt w % 256 + j) % 256) false) || anyPois c.oPois 0 h
      t.setCur ch { c with
        of_ := (List.range 256).map (fun i => if i < h then BitVec.ofNat 32 (o i) else c.of_.getD i 0)
        oPois := (List.range 256).map (fun i => c.oPois.getD i false || (decide (i < h) && (ps.any id || js.any (fun j => c.sPois.getD ((uCnt w % 256 + j) % 256) false))))
        accPois := c.accPois || any, spois := c.spois || any }))

/-- ONORM (R130, R150). The reserved head dimension is a host error that leaves free outputs (R137). -/
def execUOnorm (ch : Nat) (e : UEnv) (s : State) : Outcome :=
  s.microOp ch 0x24 e (fun s c w =>
    if uFn w % 4 = 3 then (s.hostErr 137).setCur ch { c with of_ := List.replicate 256 (BitVec.ofNat 32 s.freeNow) }
    else
      let h := headDim w
      s.setCur ch { c with
        of_ := (List.range 256).map (fun i =>
          if i < h then BitVec.ofNat 32 (fdiv (c.of_.getD i 0).toNat c.l.toNat) else c.of_.getD i 0)
        oPois := (List.range 256).map (fun i => c.oPois.getD i false || (decide (i < h) && c.mlPois))
        accPois := c.accPois || c.mlPois, spois := c.spois || c.mlPois })

/-- The bytes of an entry that ACCW writes (R137): `f` is FN[3:2]. -/
def accwEntry (f scale : Nat) (isInt : Bool) (x : W32) : List Byte :=
  let y := if isInt then rne32 (Fp.mul (Fp.ofInt x.toInt) (fval scale)) else x.toNat
  if f = 0 then leBytes 4 x.toNat
  else if f = 1 then leBytes 4 y
  else if f = 2 then leBytes 2 (bf16.round (fval y))
  else leBytes 2 (fp16.round (fval y))

/-- ACCW (R137, R150): an entry of the S file converts as what it holds, an INT32 accumulation or an FP32 score. -/
def execUAccw (ch : Nat) (e : UEnv) (s : State) : Outcome :=
  s.microOp ch 0x25 e (fun s c w =>
    let useO := bitOf (uFn w) 0
    let f := uFn w / 4
    let sc := s.slotGet ch c.slot 0x38 4
    let src := if useO then c.of_.map (fun x => (x, false)) else c.sf.zip c.sInt
    let pz := if useO then c.oPois else c.sPois
    let n := if f ≤ 1 then 16 else 32
    let pois := (List.range 16).map (fun i => anyPois pz (n * i) n)
    let bad := pois.any id
    let t := (s.countRowOps ch 1).rowWrite ch (rowOf (uLine c w)) (src.flatMap (fun x => accwEntry f sc x.2 x.1)) pois
    t.setCur ch { (t.cur ch) with accPois := c.accPois || bad, spois := c.spois || bad })

/-- VLD (R130, R150). -/
def execUVld (ch : Nat) (e : UEnv) (s : State) : Outcome :=
  s.microOp ch 0x26 e (fun s c w => s.rowOp ch (rowOf (uLine c w)) e (fun t c bs ps =>
    let g := uFn w % 4
    t.setCur ch { c with v := c.v.take (1024 * g) ++ bs ++ c.v.drop (1024 * (g + 1)),
                         vPois := c.vPois.take (16 * g) ++ ps ++ c.vPois.drop (16 * (g + 1)) }))

/-- ACLR (R130). -/
def execUAclr (ch : Nat) (e : UEnv) (s : State) : Outcome :=
  s.microOp ch 0x27 e (fun s c _ =>
    (s.setCur ch { c with sf := currantReset.sf, sPois := currantReset.sPois, of_ := currantReset.of_,
                              oPois := currantReset.oPois, sInt := currantReset.sInt, m := 0xFF800000, l := 0, mlPois := false }))

/-- SIGNAL (R130). -/
def execUSignal (ch : Nat) (e : UEnv) (s : State) : Outcome :=
  s.microOp ch 0x30 e (fun s c w => (s.emit (.nbuSignal ch (uImm w % 0x10000) (s.slotGet ch c.slot 0x40 8))))

/-- The read of a held slot's entry (R134, R148): VID and REC, none where it yields poison. A line beyond the channel is a host error
and its entry a free value (R319). -/
def State.entryRead (s : State) (ch : Nat) (x : HeapEnt) (e : Ecc) : State × Option (Nat × Nat) :=
  let row := x.eline / 16
  if rowsPerChannel ≤ row then (s.hostErr 319, some (s.freeNow % 2 ^ 64, s.freeNow / 2 ^ 64 % 2 ^ 64))
  else
    let b := s.chRead ch (64 * x.eline + 16 * x.eword) 16
    let bad := e == .uncorrectable || s.chPois ch (64 * x.eline + 16 * x.eword) 16
    (s.eccNote ch row e, if bad then none else some (leAt b 0 8, leAt b 8 8))

/-- The heap's delivery (R134): the entry of each held slot is read, with its own ECC outcome; one that yields poison is dropped and
counted. -/
def State.heapOut (s : State) (ch : Nat) (c : Currant) (es : List Ecc) : State :=
  let r := (c.heap.zipIdx).foldl (fun (z : State × List (Nat × Nat × Nat × Nat)) x =>
    let y := z.1.entryRead ch x.1 (es.getD x.2 .clean)
    (y.1, z.2 ++ (y.2.map (fun v => (v.1, v.2, x.1.d, x.1.pos))).toList)) (s, [])
  let n := c.heap.length - r.2.length
  let t := if n = 0 then r.1
    else (r.1.setCur ch { (r.1.cur ch) with poiscnt := c.poiscnt + n, spois := true }).count (kNbuPoisdrop ch) n
  t.emit (.heap ch (s.slotGet ch c.slot 0x40 8) r.2)

/-- END (R126, R134, R151): the heap is delivered if HOUT is set, then the slot is DONE. -/
def execUEnd (ch : Nat) (e : UEnv) (s : State) : Outcome :=
  s.microOp ch 0x3F e (fun s c _ =>
    (if bitOf (s.slotGet ch c.slot 2 1) 1 then s.heapOut ch c e.entryEcc else s).slotEnd ch (if c.accPois then .poison else .ok))

end Sys2Proof.Machine
end

