-- ==== Sys2Proof/Machine/Owner.lean ====
section
/-! DEFINITION. Ownership of state objects (R428 to R430): what a RUN that needs an object does, and the six kinds of OWNER message.
How the node learns which objects a RUN needs, and what the bytes of an object are, is the plan's affair (log 57). -/

namespace Sys2Proof.Machine

/-- The entry of an object. -/
def State.owner? (s : State) (sid : Nat) : Option Owner := s.cas.owners.find? (fun o => o.sid == sid)

/-- Enters a keeper. -/
def State.setOwner (s : State) (o : Owner) : State :=
  { s with cas := { s.cas with owners := s.cas.owners.filter (fun x => x.sid != o.sid) ++ [o] } }

/-- Ends a query. -/
def State.endQuery (s : State) (sid : Nat) : State :=
  { s with cas := { s.cas with queries := s.cas.queries.filter (fun q => q.sid != sid) } }

/-- The node that a map names as keeper of the object in a region: the TARGET of a PEER region, this node for any other. -/
def State.namedIn (s : State) (m : RMap) (region : Nat) : Option Nat :=
  (m.entries.find? (fun e => e.region == region && e.kind != 0)).map (fun e => if e.kind = 3 then e.target else s.nodeNum)

/-- Sends an OWNER message to a node. -/
def State.sendOwner (s : State) (node epoch : Nat) (st : Status) (body : List Byte) : State :=
  match s.sysConn node with
  | none => s
  | some c => s.request c mOwner 0 epoch (fun m => { m with status := statusCode st }) body

/-- Requests that waited for their objects go on; one whose object is lost completes with NOT_FOUND (R430). -/
def State.ownerReady (s : State) : State :=
  (s.work.reqs.filter (fun r => r.st == .ownerWait)).foldl (fun (t : State) r =>
    let known := fun (o : Nat × Nat) => (t.owner? o.1).isSome && !t.cas.queries.any (fun q => q.sid == o.1)
    let lost := fun (o : Nat × Nat) => (t.owner? o.1).any (fun x => x.keeper == t.nodeNum && !x.copy)
    if !r.gens.all known then t
    else if r.gens.any lost then t.deliver r .notFound none []
    else
      match t.leaseFor r.plan with
      | .error st => t.deliver r st none []
      | .ok (l, u) => (u.modReq r.id (fun q => { q with st := .queued })).queueOn l r.id) s

/-- The master takes a conflict report (R430): OWNCONF and a record for the report and for the ASSIGN it answers with. -/
def State.conflictEvent (s : State) : State :=
  s.raise eCas 3 (s.nodeReport 0x0503 3 (locGroup (s.fld fCasCfgPos) (s.fld fCasBarBseq)) [])

/-- An object is assigned to a node (R430). The assignee keeps its copy, or fetches the other's; if no other is known, the object is
lost (log 57). -/
def State.assigned (s : State) (sid keeper lepoch : Nat) : State :=
  let copy := (s.owner? sid).any (·.copy)
  if keeper ≠ s.nodeNum then ((s.setOwner ⟨sid, keeper, lepoch, copy⟩).endQuery sid).ownerReady
  else
    let t := s.setOwner ⟨sid, keeper, lepoch, copy⟩
    let asked := ((s.cas.queries.find? (fun q => q.sid == sid)).map (·.asked)).getD []
    let from_ := (asked.map (·.2) ++ ((s.owner? sid).map (·.keeper)).toList).find? (fun n => n != s.nodeNum)
    if copy then (t.endQuery sid).ownerReady
    else
      match from_ with
      | none => (t.endQuery sid).ownerReady
      | some n =>
        let u := t.endQuery sid
        let q : OQuery := ⟨sid, asked, [], true⟩
        ({ u with cas := { u.cas with queries := u.cas.queries ++ [q] } }).sendOwner n lepoch .ok (ownerBody 5 0 0 sid)

/-- What the master does with a report (R430): `keeper` is the node named in NEW, zero where the claims have settled the matter. -/
def State.conflictAt (s : State) (sid keeper reporter : Nat) : State :=
  let t := s.conflictEvent.count kCasOwnconfs 1
  if keeper = 0 then t
  else
    let body := ownerBody 3 t.newEpoch keeper sid
    let u := ([keeper, reporter].filter (fun n => n != t.nodeNum)).eraseDups.foldl (fun (u : State) n => u.sendOwner n u.newEpoch .ok body)
      t.conflictEvent
    if keeper = t.nodeNum ∨ reporter = t.nodeNum then u.assigned sid keeper t.newEpoch else u

/-- Reports a conflict to the master (R430). A node that stands in no group has none. -/
def State.reportConflict (s : State) (sid keeper : Nat) : State :=
  if s.role = 2 then s.conflictAt sid keeper s.nodeNum
  else
    match s.masterConn with
    | none => s
    | some c => s.request c mOwner 0 s.newEpoch id (ownerBody 6 0 keeper sid)

/-- Decides a query once every node asked has answered, by the table of R430. -/
def State.settleQuery (s : State) (q : OQuery) : State :=
  let nodes := (q.asked.map (·.2)).eraseDups
  let named := (q.asked.head?.map (·.2)).getD s.nodeNum
  if q.fetch || !nodes.all (fun n => q.answers.any (fun a => a.1 == n)) then s
  else
    match q.answers.filterMap (fun a => a.2.map (fun e => (a.1, e))) with
    | [] =>
      if s.role = 0 then ((s.setOwner ⟨q.sid, s.nodeNum, s.newEpoch, false⟩).endQuery q.sid).ownerReady
      else s.reportConflict q.sid named
    | [(n, e)] => ((s.setOwner ⟨q.sid, n, e, n == s.nodeNum⟩).endQuery q.sid).ownerReady
    | a :: b :: _ =>
      let first := if a.2 = b.2 then a.1 == named else epochNewer a.2 b.2
      let w := if first then a else b
      let l := if first then b else a
      let t := (s.setOwner ⟨q.sid, w.1, w.2, w.1 == s.nodeNum⟩).endQuery q.sid
      let u := if l.1 = s.nodeNum then t else t.sendOwner l.1 t.newEpoch .ok (ownerBody 4 0 0 q.sid)
      (u.reportConflict q.sid 0).ownerReady

/-- Asks for the keeper of an object that this node needs and does not know (R430). A new object that every live epoch places here is
kept here (R428); one whose region no live map holds is lost. -/
def State.askOwner (s : State) (o : ObjRef) : State :=
  if (s.owner? o.sid).isSome || s.cas.queries.any (fun q => q.sid == o.sid) then s
  else
    let maps := s.cas.newMap.toList ++ s.cas.oldMap.toList
    let asked := maps.filterMap (fun m => (s.namedIn m o.region).map (fun n => (m.epoch, n)))
    if asked.all (fun a => a.2 == s.nodeNum) then s.setOwner ⟨o.sid, s.nodeNum, s.newEpoch, !asked.isEmpty⟩
    else
      let q : OQuery := ⟨o.sid, asked, if asked.any (fun a => a.2 == s.nodeNum) then [(s.nodeNum, none)] else [], false⟩
      let t : State := { s with cas := { s.cas with queries := s.cas.queries ++ [q] } }
      (asked.filter (fun a => a.2 != s.nodeNum)).foldl (fun (u : State) a => u.sendOwner a.2 a.1 .ok (ownerBody 1 0 0 o.sid)) t

/-- The node at the other end of an OWNER message, and its object. -/
def ownerSid (m : Msg) : Nat := leAt m.payload 8 8

/-- OWNER_QUERY (R429, R430): the node claims an object that it keeps, and disclaims any other. -/
def execOwnerQuery (m : Msg) (s : State) : Outcome :=
  s.onSys m mOwner 1 (fun s =>
    match (s.owner? (ownerSid m)).filter (fun o => o.keeper == s.nodeNum && o.copy) with
    | some o => s.sendOwner (s.peerNode m.dconn) m.epoch .ok (ownerBody 2 o.lepoch 0 (ownerSid m))
    | none => s.sendOwner (s.peerNode m.dconn) m.epoch .notMine (ownerBody 2 0 0 (ownerSid m)))

/-- OWNER_ANSWER (R430): the answer to a query, or to a FETCH. -/
def execOwnerAnswer (m : Msg) (s : State) : Outcome :=
  s.onSys m mOwner 2 (fun s =>
    let sid := ownerSid m
    let n := s.peerNode m.dconn
    let ok := m.status == statusCode .ok
    match s.cas.queries.find? (fun q => q.sid == sid) with
    | none => s
    | some q =>
      if q.fetch then
        (((s.owner? sid).elim s (fun o => s.setOwner { o with copy := ok })).endQuery sid).ownerReady
      else if !q.asked.any (fun a => a.2 == n) || q.answers.any (fun a => a.1 == n) then s
      else
        let p := { q with answers := q.answers ++ [(n, if ok then some (leAt m.payload 2 2) else none)] }
        ({ s with cas := { s.cas with queries := s.cas.queries.map (fun (x : OQuery) => if x.sid = sid then p else x) } }).settleQuery p)

/-- OWNER_ASSIGN (R430): from the master. -/
def execOwnerAssign (m : Msg) (s : State) : Outcome :=
  s.onSys m mOwner 3 (fun s =>
    if s.masterConn ≠ some m.dconn then s else s.assigned (ownerSid m) (leAt m.payload 4 2) (leAt m.payload 2 2))

/-- OWNER_DROP (R430): the copy is discarded, and the conflict reported. -/
def execOwnerDrop (m : Msg) (s : State) : Outcome :=
  s.onSys m mOwner 4 (fun s =>
    let sid := ownerSid m
    ({ s with cas := { s.cas with owners := s.cas.owners.filter (fun o => o.sid != sid) } }).reportConflict sid 0)

/-- OWNER_FETCH (R430): the node hands its copy to the assignee, or has none. -/
def execOwnerFetch (m : Msg) (s : State) : Outcome :=
  s.onSys m mOwner 5 (fun s =>
    let sid := ownerSid m
    let n := s.peerNode m.dconn
    if (s.owner? sid).any (·.copy) then
      (s.setOwner ⟨sid, n, s.newEpoch, false⟩).sendOwner n m.epoch .ok (ownerBody 2 s.newEpoch 0 sid)
    else s.sendOwner n m.epoch .notMine (ownerBody 2 0 0 sid))

/-- OWNER_CONFLICT (R430): at the master. -/
def execOwnerConflict (m : Msg) (s : State) : Outcome :=
  s.onSys m mOwner 6 (fun s =>
    if s.role ≠ 2 then s else s.conflictAt (ownerSid m) (leAt m.payload 4 2) (s.peerNode m.dconn))

end Sys2Proof.Machine
end

