-- ==== Sys2Proof/Machine/Pustan.lean ====
section
/-! DEFINITION. The messages of the Pustan transport once they stand ready (R360, R369): responses to this node's requests, bulk
data, one-sided access, and the life of a connection (R367, R372 to R379, R386, R388, R390). CMD and ABORT stand in
Machine/Tenant.lean, the messages of a group in Machine/Cascade.lean. -/

namespace Sys2Proof.Machine

/-- A message of a type that stands ready on a known connection; any other state stays as it is (log 12). -/
def State.onMsg (s : State) (m : Msg) (t : Nat) (f : State → Conn → State) : Outcome :=
  if !s.isReady m t then .next s
  else
    match s.conn? m.dconn with
    | none => .next (s.unready m)
    | some c => .next (f (s.unready m) c)

/-! ## Responses to this node's requests (R360, R372) -/

/-- Does a request of this node need nothing but an acknowledgement: its copy then goes (R372)? -/
def Sent.plain (x : Sent) : Bool :=
  x.mtype == mWrite || (x.mtype == mSend && x.bulk.isEmpty) || decide (mBarrier ≤ x.mtype)

/-- The copies of a connection after everything up to a SEQ is acknowledged. -/
def ackUpTo (l : List Sent) (seq : Nat) : List Sent :=
  (l.map (fun x => if (seq + 2 ^ 32 - x.seq) % 2 ^ 32 < 2 ^ 31 then { x with acked := true } else x)).filter
    (fun x => !(x.acked && x.plain))

/-- The copies without the request of a type and SEQ. -/
def dropSent (l : List Sent) (t seq : Nat) : List Sent := l.filter (fun x => !(x.mtype == t && x.seq == seq))

/-- REPLY (R360, R371, R415): it completes and acknowledges a CMD of this node; a group request takes its record. -/
def execReply (m : Msg) (s : State) : Outcome :=
  s.onMsg m mReply (fun t c => (t.setConn m.dconn { c with sent := dropSent c.sent mCmd m.seq }).groupReply m)

/-- ACK (R372): the copies of the requests up to SEQ are released. -/
def execAck (m : Msg) (s : State) : Outcome :=
  s.onMsg m mAck (fun t c => t.setConn m.dconn { c with sent := ackUpTo c.sent m.seq })

/-- NAK (R372): RETRY_LATER and REASM_TIMEOUT send the request again at once; any other status ends it, and a member's part of a group
request counts as failed (R415). A GEN_MISMATCH concerns DATA that came too late, not the request. -/
def execNak (m : Msg) (s : State) : Outcome :=
  s.onMsg m mNak (fun t c =>
    if !c.sent.any (fun x => x.seq == m.seq && x.tag == m.tag) then t
    else
      match statusOf m.status with
      | .genMismatch => t
      | .retryLater => t.resend m.dconn m.seq
      | .reasmTimeout => t.resend m.dconn m.seq
      | st => (t.setConn m.dconn { c with sent := c.sent.filter (fun x => x.seq != m.seq) }).failPart m.dconn m.seq st)

/-- XRDY (R373): the bulk data of a CMD or SEND leave as one DATA message under the buffer and generation given. -/
def execXrdy (m : Msg) (s : State) : Outcome :=
  s.onMsg m mXrdy (fun t c =>
    match c.sent.find? (fun x => x.seq == m.seq && !x.bulk.isEmpty) with
    | none => t
    | some x =>
      let body := if c.sys then sysPack x.bulk [] else x.bulk
      let d : Msg := { (Conn.make c.rec_ mData x.msg.epoch x.seq x.tag 0 .ok body) with aux := m.aux, arg := m.arg }
      let keep := if x.mtype = mSend then dropSent c.sent mSend x.seq
        else c.sent.map (fun y => if y.seq = x.seq then { y with acked := true } else y)
      (t.setConn m.dconn { c with sent := keep }).sendMsg c.rec_ d)

/-- RDATA (R360, R379, R452): the data of a READ of peer memory land in the core store that asked for them. A chunk whose check value
fails is poisoned and counts in CVMIS. -/
def execRdata (m : Msg) (s : State) : Outcome :=
  s.onMsg m mRdata (fun t c =>
    if !c.sent.any (fun x => x.mtype == mRead && x.seq == m.seq) then t
    else
      let u := t.setConn m.dconn { c with sent := dropSent c.sent mRead m.seq }
      match u.fillOf (m.tag / 2 ^ 32) (m.tag % 2 ^ 32) with
      | none => u
      | some (l, x, _, f) =>
        let d := sysUnpack m.payload
        let lost := statusOf m.status != .ok || d.1.length != f.len
        (u.cvmisAdd d.2.2).landFill (m.tag / 2 ^ 32) l x f (if lost then zeros f.len else d.1)
          (if lost then List.replicate (linesIn f.len) true else d.2.1) ⟨true, true, 0, []⟩)

/-- FLUSHED (R390): the writes before the FLUSH are placed. -/
def execFlushed (m : Msg) (s : State) : Outcome :=
  s.onMsg m mFlushed (fun t c => t.setConn m.dconn { c with sent := dropSent c.sent mFlush m.seq })

/-- ABORTREP (R386): the request it answers completes by its own REPLY or NAK. -/
def execAbortrep (m : Msg) (s : State) : Outcome :=
  s.onMsg m mAbortrep (fun t _ => t)

/-- PONG (R360): the peer lives. -/
def execPong (m : Msg) (s : State) : Outcome :=
  s.onMsg m mPong (fun t _ => t)

/-- PING (R360). -/
def execPing (m : Msg) (s : State) : Outcome :=
  s.onMsg m mPing (fun t _ => t.answer m mPong .ok 0 [])

/-! ## SEND and bulk data (R373 to R376) -/

/-- Places data in a posted buffer from a byte on (R374, R375). -/
def State.placePart (s : State) (conn : Nat) (b : PostBuf) (off : Nat) (bs : List Byte) (pois : List Bool) : State :=
  match Tbl.find s.fab.regions (b.key % 2 ^ 16) with
  | some r => (s.regionWrite r.rec_ (b.offset + off) bs pois).noteHost conn r.rec_
  | none => s

/-- What a plan reads of a buffer of its own that has been filled: the line that it named holds connection and length and is FILLED; the
lease that waits for it goes on (R374; log 135). A lease that has closed is told nothing. -/
def State.planFilled (s : State) (p : PostedBy) (body : List Byte) : State :=
  match s.lease? p.lease with
  | none => s
  | some x =>
    if x.arrival ≠ p.arrival ∨ x.cores.length ≤ p.pos then s
    else (s.land (x.cores.getD p.pos 0) (64 * p.line) (padTo 64 body) [false]).goOn p.lease

/-- A filled buffer is reported on the connection's CQ, or to the plan that posted it (R374). -/
def State.reportFilled (s : State) (c : Conn) (b : PostBuf) (body : List Byte) : State :=
  match b.plan with
  | none => s.connEvent c 0x0802 body
  | some p => s.planFilled p body

/-- A SEND has filled its buffer, which leaves the queue and is reported (R374). -/
def State.sendDone (s : State) (m : Msg) (b : PostBuf) (n : Nat) : State :=
  match s.conn? m.dconn with
  | some c =>
    let u := s.modConn m.dconn (fun c => { c with recv := c.recv.filter (fun x => x.idx != b.idx), gens := Tbl.set c.gens b.idx b.gen })
    (((u.reportFilled c b (leBytes 2 m.dconn ++ leBytes 4 n)).passOn m).doneMsg m).settleRegions
  | none => s

/-- Delivers the whole data of a SEND into a posted buffer. -/
def State.deliverSend (s : State) (m : Msg) (b : PostBuf) (bs : List Byte) (pois : List Bool) : State :=
  (s.placePart m.dconn b 0 bs pois).sendDone m b bs.length

/-- The data of a message of a connection: plain, or unpacked on a SYS connection with its failed chunks counted (R452). -/
def State.dataOf (s : State) (c : Conn) (bs : List Byte) : List Byte × List Bool × State :=
  if c.sys then (let d := sysUnpack bs; (d.1, d.2.1, s.cvmisAdd d.2.2)) else (bs, [], s)

/-- SEND (R365, R374): into the head of the receive queue. With none posted it is refused with RETRY_LATER, and NEXT stays (R370). -/
def execSend (m : Msg) (s : State) : Outcome :=
  s.onMsg m mSend (fun t c =>
    match c.head with
    | none => (t.modConn m.dconn (fun c => { c with infl := c.infl.filter (fun i => i.msg.seq != m.seq) })).nak m .retryLater
    | some b =>
      match t.keyed b.key c.rec_.tenant with
      | none => t.refuseOn m .keyFail
      | some r =>
        if b.len < sendLen c m then t.refuseOn m .bounds
        else if !(r.absent b.offset (sendLen c m)).isEmpty then t.resFault m r (r.absent b.offset (sendLen c m))
        else if m.arg = 0 then
          let d := t.dataOf c m.payload
          d.2.2.deliverSend m b d.1 d.2.1
        else
          let u := t.modConn m.dconn (fun c => { c with recv := c.recv.map (fun x =>
            if x.idx = b.idx then { x with grant := some m.seq, filled := [], chunks := [] } else x) })
          ((u.passOn m).setWait m (.data (0x8000 + b.idx))).sendXrdy m (0x8000 + b.idx) b.gen)

/-- Bytes of the DATA message of a request: with the chunk trailer on a SYS connection (R373, R452). -/
def dataTotal (c : Conn) (n : Nat) : Nat := if c.sys then n + 12 * ceilDiv n 4096 else n

/-- The chunks and bytes of a buffer after a packet. -/
def fillBuf (filled : Tbl Byte) (chunks : Tbl Bool) (m : Msg) : Tbl Byte × Tbl Bool :=
  (wrBytes filled m.offset m.payload, (chunksIn m).foldl (fun t k => Tbl.set t k true) chunks)

/-- A packet of DATA for a buffer: placed, complete, a duplicate, or against the rules (R375, R383). -/
inductive DataOut where
  | more (filled : Tbl Byte) (chunks : Tbl Bool)
  | full (filled : Tbl Byte) (chunks : Tbl Bool) (bytes : List Byte)
  | dup
  | bad

/-- Places a packet of DATA. -/
def placeData (filled : Tbl Byte) (chunks : Tbl Bool) (m : Msg) (total : Nat) : DataOut :=
  let ks := chunksIn m
  if m.totlen ≠ total then .bad
  else if ks.all (fun k => Tbl.has chunks k) then .dup
  else if ks.any (fun k => Tbl.has chunks k) then .bad
  else
    let z := fillBuf filled chunks m
    if ceilDiv total 512 ≤ z.2.length then .full z.1 z.2 (rdBytes z.1 0 total) else .more z.1 z.2

/-- A CMD whose bulk has come: it is ready. A query with a poisoned line fails in its step (R103); other bulk with one fails its CMD
(R454; log 70). -/
def State.bulkIn (s : State) (c : Conn) (i : Inflight) (buf : Nat) (b : StBuf) (z : Tbl Bool) (bs : List Byte) : State :=
  let d := s.dataOf c bs
  let t := { d.2.2 with fab := { d.2.2.fab with
    staging := Tbl.set d.2.2.fab.staging buf { b with filled := wrBytes [] 0 d.1, chunks := z, pois := d.2.1.any id } } }
  if i.msg.opc ≠ 1 ∧ d.2.1.any id then t.replyTo i.msg .poison [] else (t.setWait i.msg .none_).readyUp i.msg

/-- DATA for a staging buffer. -/
def State.dataStaging (s : State) (m : Msg) (c : Conn) (i : Inflight) (buf : Nat) (b : StBuf) : State :=
  match placeData b.filled b.chunks m (dataTotal c i.msg.arg) with
  | .bad => s.nak m .badArg
  | .dup => s.count (kFabReasmdup m.port) 1
  | .more f z => { s with fab := { s.fab with staging := Tbl.set s.fab.staging buf { b with filled := f, chunks := z } } }
  | .full _ z bs => s.bulkIn c i buf b z bs

/-- DATA for a posted buffer. It is placed as it arrives (R375); on a SYS connection when all has come, for the trailer at its end says
which lines are poisoned (R452; log 40). -/
def State.dataPosted (s : State) (m : Msg) (c : Conn) (i : Inflight) (b : PostBuf) : State :=
  match placeData b.filled b.chunks m (dataTotal c i.msg.arg) with
  | .bad => s.nak m .badArg
  | .dup => s.count (kFabReasmdup m.port) 1
  | .more f z =>
    let t := if c.sys then s else s.placePart m.dconn b m.offset m.payload []
    t.modConn m.dconn (fun c => { c with recv := c.recv.map (fun x =>
      if x.idx = b.idx then { x with filled := f, chunks := z } else x) })
  | .full _ _ bs =>
    if c.sys then
      let d := s.dataOf c bs
      d.2.2.deliverSend i.msg b d.1 d.2.1
    else (s.placePart m.dconn b m.offset m.payload []).sendDone i.msg b bs.length

/-- DATA (R375): placed if its generation is the buffer's and its SEQ the one granted; otherwise GEN_MISMATCH. -/
def execData (m : Msg) (s : State) : Outcome :=
  s.onMsg m mData (fun t c =>
    let buf := m.arg % 2 ^ 16
    match c.infl.find? (fun i => i.msg.seq == m.seq) with
    | none => t.nak m .genMismatch
    | some i =>
      if buf < 0x8000 then
        match Tbl.find t.fab.staging buf with
        | some b => if b.owner = some (m.dconn, m.seq) ∧ b.gen = m.aux then t.dataStaging m c i buf b else t.nak m .genMismatch
        | none => t.nak m .genMismatch
      else
        match c.recv.find? (fun b => b.idx + 0x8000 == buf) with
        | some b => if b.grant = some m.seq ∧ b.gen = m.aux then t.dataPosted m c i b else t.nak m .genMismatch
        | none => t.nak m .genMismatch)

/-! ## READ, WRITE and FLUSH (R365, R377 to R381, R388, R390) -/

/-- A READ or WRITE that may be made: checked, its segments present, accepted, with its entry in the range-lock table. -/
def State.onAccess (s : State) (m : Msg) (c : Conn) (f : State → Access → State) : State :=
  match s.access c m with
  | .error st => (s.unlock m.dconn m.seq).refuseOn m st
  | .ok a =>
    if !(a.reg.absent a.off a.len).isEmpty then s.resFault m a.reg (a.reg.absent a.off a.len)
    else
      let z := (s.passOn m).lockStep c.rec_.cgroup m a
      if z.2 then f z.1 a else z.1

/-- READ (R365, R378, R388, R452 to R454). `host` and `err` are what a read of host memory brings. A tenant gets no poisoned byte. -/
def execRead (m : Msg) (host : List Byte) (err : Bool) (s : State) : Outcome :=
  s.onMsg m mRead (fun t c => t.onAccess m c (fun u a =>
    let r := a.reg.rec_
    let d := if r.rkind = 0 then u.regionRead r a.off a.len else (padTo a.len host, List.replicate (ceilDiv a.len 64) err)
    let v := if r.rkind = 0 then u else u.emit (.hostRead (r.base + a.off) a.len)
    let w := if c.sys then v.answer m mRdata .ok 0 (sysPack d.1 d.2)
      else if d.2.any id then v.answer m mRdata .poison 0 [] else v.answer m mRdata .ok 0 d.1
    (w.unlockSent m.dconn m.seq).doneMsg m))

/-- A row of a gather table that another member's step has written (R348): it waits for the barrier. The KEY of its WRITE names the
table (log 29). -/
def State.scatterIn (s : State) (m : Msg) (c : Conn) : State :=
  match Tbl.find s.tables.descs (m.key - 1) with
  | none => s.refuseOn m .keyFail
  | some d =>
    let z := s.dataOf c m.payload
    if z.1.length ≠ d.rowbytes ∨ d.rows ≤ m.arg then s.refuseOn m .bounds
    else
      let t := z.2.2.passOn m
      ({ t with cas := { t.cas with remoteRows := t.cas.remoteRows ++ [(t.peerNode m.dconn, (⟨m.key - 1, m.arg, z.1, z.2.1⟩ : Staged))] } }).doneMsg m

/-- A part of the snapshot that the join partner streams to this node (R438; log 59). One that waits for the write buffer stays ready. -/
def State.snapIn (s : State) (m : Msg) (c : Conn) : State :=
  if s.role ≠ 1 || !s.cas.outside || s.peerNode m.dconn != s.fld fCasCfgPartner then s.refuseOn m .keyFail
  else
    let z := s.dataOf c m.payload
    match z.2.2.snapPart m.key ⟨m.arg, z.1, z.2.1⟩ with
    | some t => (t.passOn m).doneMsg m
    | none => s.readyUp m

/-- WRITE (R365, R378, R388, R452, R455). -/
def execWrite (m : Msg) (s : State) : Outcome :=
  s.onMsg m mWrite (fun t c =>
    if c.sys ∧ 2 ^ 32 ≤ m.key then t.snapIn m c
    else if c.sys ∧ m.key ≠ 0 then t.scatterIn m c
    else t.onAccess m c (fun u a =>
      let d := u.dataOf c m.payload
      let v := (d.2.2.regionWrite a.reg.rec_ a.off d.1 d.2.1).noteHost m.dconn a.reg.rec_
      (v.unlock m.dconn m.seq).doneMsg m))

/-- Is a WRITE or SEND that was accepted before a SEQ still to be placed (R390)? -/
def Conn.writesBefore (c : Conn) (seq : Nat) : Bool :=
  c.infl.any (fun i => (i.msg.mtype == mWrite || i.msg.mtype == mSend) && decide (0 < (seq + 2 ^ 32 - i.msg.seq) % 2 ^ 32)
    && decide ((seq + 2 ^ 32 - i.msg.seq) % 2 ^ 32 < 2 ^ 31))

/-- FLUSH (R390): answered once everything before it is placed. `err` says that a write to host memory among it returned an error. -/
def execFlush (m : Msg) (err : Bool) (s : State) : Outcome :=
  if !s.isReady m mFlush then .next s
  else
    match s.conn? m.dconn with
    | none => .next (s.unready m)
    | some c =>
      if c.writesBefore m.seq then .next s
      else
        let t := (s.unready m).setConn m.dconn { c with hostWr := false }
        .next ((t.answer m mFlushed (if err && c.hostWr then .poison else .ok) 0 []).doneMsg m)

/-! ## Closing (R367) -/

/-- CLOSE: the connection drains; CLOSEACK leaves when nothing else is outstanding. -/
def execClose (m : Msg) (s : State) : Outcome :=
  s.onMsg m mClose (fun t c =>
    ((t.setConn m.dconn { c with st := if c.st = .open_ then .draining else c.st }).setWait m .draining).drainConn m.dconn)

/-- CLOSEACK: the connection that sent CLOSE closes. -/
def execCloseack (m : Msg) (s : State) : Outcome :=
  s.onMsg m mCloseack (fun t c =>
    if c.st = .draining ∧ c.sent.any (fun x => x.mtype == mClose) then
      (t.setConn m.dconn { c with sent := [], closing := false }).connClosed m.dconn .ok
    else t)

end Sys2Proof.Machine
end

