-- ==== Sys2Proof/Machine/Register.lean ====
section
/-! DEFINITION. The register accesses (R531 to R546) and the commands that a register write is (R402, R556, R557). -/

namespace Sys2Proof.Machine

/-- The register at an address of a base page. -/
def State.regOf (s : State) (a : Nat) : Option Reg :=
  let n := a / 0x10000
  match blkCovers s.hw.variant (blkOf n) with
  | [] => regAt s.hw n (a % 0x4000)
  | k :: _ => regAt s.hw k (a % 0x4000)

/-- REGISTER_WRITE (R536): a write of a word to a base page. -/
def execRegisterWrite (req : Requester) (a : Nat) (x : W32) (par : Nat) (s : State) : Outcome :=
  if a % 0x10000 < 0x4000 then s.ctlPath par .next (fun s => s.busWrite req a x) else .next s

/-- SQ_CLEAR (R538 to R540): a write to a register cleared by the sequence-number rule. -/
def execSqClear (req : Requester) (a : Nat) (x : W32) (par : Nat) (s : State) : Outcome :=
  if a % 0x10000 < 0x4000 ∧ (s.regOf a).any (·.sq) then s.ctlPath par .next (fun s => s.busWrite req a x) else .next s

/-- ALIAS_SET_WRITE (R543, R544): the bits of `x` that are one become one. -/
def execAliasSetWrite (req : Requester) (a : Nat) (x : W32) (par : Nat) (s : State) : Outcome :=
  if a % 0x10000 / 0x4000 = 1 then s.ctlPath par .next (fun s => s.busWrite req a x) else .next s

/-- ALIAS_CLEAR_WRITE (R543, R544): they become zero. -/
def execAliasClearWrite (req : Requester) (a : Nat) (x : W32) (par : Nat) (s : State) : Outcome :=
  if a % 0x10000 / 0x4000 = 2 then s.ctlPath par .next (fun s => s.busWrite req a x) else .next s

/-- ALIAS_TOGGLE_WRITE (R543, R544): they invert. -/
def execAliasToggleWrite (req : Requester) (a : Nat) (x : W32) (par : Nat) (s : State) : Outcome :=
  if a % 0x10000 / 0x4000 = 3 then s.ctlPath par .next (fun s => s.busWrite req a x) else .next s

/-- MULTIWORD_STAGED_WRITE (R542): a write of a word of a register that the requester writes with staging. -/
def execMultiwordStagedWrite (req : Requester) (a : Nat) (x : W32) (par : Nat) (s : State) : Outcome :=
  if a % 0x10000 < 0x4000 ∧ (s.regOf a).any (fun r => r.staged req) then s.ctlPath par .next (fun s => s.busWrite req a x) else .next s

/-- QUIESCE (R557): QUIESCE of TOP_CTL is set. -/
def execQuiesce (s : State) : Outcome := .next (s.setFld fTopCtlQuiesce 1)

/-- QUIESCED (R556, R558): QUIESCE is set and no tenant request is outstanding. -/
def execQuiesced (s : State) : Outcome :=
  s.onlyIf (s.flag fTopCtlQuiesce && s.work.reqs.isEmpty && !s.flag fTopStatusQuiesced)
    (fun s => (s.setFld fTopStatusQuiesced 1).event eTop 1)

/-- PORT_RESET (R399, R402): RESET of FAB_PCFG is written with 1. -/
def execPortReset (p : Nat) (s : State) : Outcome :=
  s.onPort p (fun _ => if s.flag (fFabPcfgReset p) then s else s.portResetGo p)

/-- PORT_RESET_DONE (R402): the reset has completed, and RESET reads 0. -/
def execPortResetDone (p : Nat) (s : State) : Outcome := s.onPort p (fun _ => s.setFld (fFabPcfgReset p) 0)

/-- SCALE_REGISTER_WRITE (R274, R276): the host writes scale register `idx` of a core. A write at an absent core or beyond the
registers is ignored (R9, R534). -/
def execScaleRegisterWrite (core idx : Nat) (x : W32) (par : Nat) (s : State) : Outcome :=
  if s.hw.variant.cores ≤ core ∨ 512 ≤ idx then .next s
  else s.ctlPath par .next (fun s => s.busWrite .host (coreBase core + 0x1000 + 4 * idx) x)

/-- NBU_GO (R124, R125, R152, R157): a write of a mask to NBU_GO of an NBU block; bits [31:16] are WB. A write
beyond the blocks is ignored (R534). -/
def execNbuGo (blk mask : Nat) (s : State) : Outcome :=
  if 200 ≤ blk then .next s
  else s.busWrite .host ((320 + blk) * 0x10000 + 0x18) (BitVec.ofNat 32 mask)

end Sys2Proof.Machine
end

