-- ==== Sys2Proof/Machine/Tenant.lean ====
section
/-! DEFINITION. Tenant requests: SEARCH, INSERT, UPSERT, DELETE, RUN and ABORT, from a queue or from a connection (R24 to R30,
R80 to R84, R362 to R364, R386, R387, R414, R521, R523). -/

namespace Sys2Proof.Machine

/-- Does the RLEN of a VF's entry cover the largest result (R523)? -/
def rlenOk (src : ReqSrc) (n : Nat) : Bool :=
  match src with
  | .queue h => h.fn == 0 || decide (n ≤ h.rlen)
  | .conn _ => true

/-- Queues a request on a lease of its plan, or refuses it (R298). A master's own part of a group request carries no charge of its
own. -/
def State.queueReq (s : State) (src : ReqSrc) (op : ReqOp) (tenant plan index : Nat) (body : List Byte) : State :=
  match s.leaseFor plan with
  | .error st => s.refuse src op body st
  | .ok (l, u) => (u.addReq src op tenant plan index body .queued false []).queueOn l u.work.nextReq

/-- The master's own part of a group SEARCH or RUN (R414): it runs like any member's, and its record goes to the merge. -/
def State.queuePart (s : State) (src : ReqSrc) (op : ReqOp) (tenant plan index : Nat) (body : List Byte) : State :=
  match s.leaseFor plan with
  | .error st => s.setPart (s.holderOf src) (s.fld fCasCfgPos) (fun p => { p with failed := some st })
  | .ok (l, u) => ((u.addReq src op tenant plan index body .queued true []).release tenant outreqCharge).queueOn l u.work.nextReq

/-! ## SEARCH -/

/-- A SEARCH of a group index at the master (R414): forwarded to every member of the mask. -/
def State.groupSearch (s : State) (src : ReqSrc) (d : Desc) (mask : Nat) (b : List Byte) : State :=
  let me := s.fld fCasCfgPos
  let ps := State.maskPos mask
  let a := s.addReq src .search d.c.tenant d.splan (bIndex b) b .running false []
  let g := a.openGroup (srcTag src) s.work.nextReq .search (bIndex b) ps
  let f := (ps.filter (fun p => p != me)).foldl (fun (t : State) p => t.forward s.work.nextReq p 1 (srcTag src) (srcEpoch src) b) g
  if ps.contains me then f.queuePart src .search d.c.tenant d.splan (bIndex b) b else f

/-- Stage 1 of a SEARCH (R83), and its place on a lease (R298). -/
def State.takeSearch (s : State) (src : ReqSrc) (b : List Byte) (want : Nat) : State :=
  if !rlenOk src (64 + 24 * bK b) then s.answerReq src .badArg []
  else
    match s.searchChecks b want with
    | .error st => s.refuse src .search b st
    | .ok d =>
      let mask := s.groupOf (bIndex b)
      if mask = 0 then s.queueReq src .search d.c.tenant d.splan (bIndex b) b else s.groupSearch src d mask b

/-- SEARCH (R83). -/
def execSearch (src : ReqSrc) (body : List Byte) (s : State) : Outcome :=
  s.tenantCmd src 1 body (fun b want t => t.takeSearch src b want)

/-! ## Updates -/

/-- Stage 1 of an update (R363), and the update itself. The master sends an update of a group index to one member (R414). -/
def State.takeUpdate (s : State) (src : ReqSrc) (op : ReqOp) (opc : Nat) (errs : List ReadErr) (b : List Byte) (want : Nat) : State :=
  match s.updateChecks op b want with
  | .error st => s.refuse src op b st
  | .ok d =>
    let n := bIndex b
    let ps := State.maskPos (s.groupOf n)
    let dst := ps.getD (vidHash (uVid b) * ps.length / 2 ^ 32) 0
    if ps.isEmpty || dst == s.fld fCasCfgPos then
      (s.addReq src op d.c.tenant d.uplan n b .admitWait false errs).runUpdate s.work.nextReq
    else
      let a := s.addReq src op d.c.tenant d.uplan n b .running false []
      (a.openGroup (srcTag src) s.work.nextReq op n [dst]).forward s.work.nextReq dst opc (srcTag src) (srcEpoch src) b

/-- INSERT (R26). -/
def execInsert (src : ReqSrc) (body : PutBody) (s : State) : Outcome :=
  s.tenantCmd src 2 body.bytes (fun b want t => t.takeUpdate src .insert 2 body.errs b want)

/-- UPSERT (R26, R28). -/
def execUpsert (src : ReqSrc) (body : PutBody) (s : State) : Outcome :=
  s.tenantCmd src 3 body.bytes (fun b want t => t.takeUpdate src .upsert 3 body.errs b want)

/-- DELETE (R29). -/
def execDelete (src : ReqSrc) (body : List Byte) (s : State) : Outcome :=
  s.tenantCmd src 4 body (fun b want t => t.takeUpdate src .delete 4 [] b want)

/-! ## RUN -/

def rPlan (b : List Byte) : Nat := leAt b 4 4
def rInlen (b : List Byte) : Nat := leAt b 8 4

/-- A RUN on this node: on a lease of its plan, or waiting for its objects (R298, R430). `part` says that it is the master's own part of a
group request. -/
def State.runHere (s : State) (src : ReqSrc) (tenant plan : Nat) (b : List Byte) (objects : List ObjRef) (part : Bool) : State :=
  if objects.isEmpty then
    if part then s.queuePart src .run tenant plan 0 b else s.queueReq src .run tenant plan 0 b
  else
    let a := s.addReq src .run tenant plan 0 b .ownerWait part []
    let t := (if part then a.release tenant outreqCharge else a).modReq s.work.nextReq (fun q =>
      { q with gens := objects.map (fun o => (o.sid, o.region)) })
    (objects.foldl (fun (u : State) o => u.askOwner o) t).ownerReady

/-- The members that a RUN of a tenant goes to at the master. R414 sends a RUN to every member in the mask of its index; a RUN names no
index, and the model takes the members of every group index of the tenant (DESIGN CHOICE, log 32). -/
def State.runMask (s : State) (tenant : Nat) : Nat :=
  if s.role = 2 then
    (s.idx.groupMask.filter (fun e => (s.desc? e.1).any (fun d => d.c.tenant == tenant))).foldl (fun m e => m ||| e.2) 0
  else 0

/-- A RUN at the master (R414): forwarded to every member of the mask. -/
def State.groupRun (s : State) (src : ReqSrc) (tenant plan mask : Nat) (b : List Byte) (objects : List ObjRef) : State :=
  let me := s.fld fCasCfgPos
  let ps := State.maskPos mask
  let a := s.addReq src .run tenant plan 0 b .running false []
  let g := a.openGroup (srcTag src) s.work.nextReq .run 0 ps
  let f := (ps.filter (fun p => p != me)).foldl (fun (t : State) p => t.forward s.work.nextReq p 5 (srcTag src) (srcEpoch src) b) g
  if ps.contains me then f.runHere src tenant plan b objects true else f

/-- Stage 1 of a RUN (R364, R523); `ioOk` says that the input passes the plan's IODECL. -/
def State.takeRun (s : State) (src : ReqSrc) (b : List Byte) (ioOk : Bool) (objects : List ObjRef) (want : Nat) : State :=
  if bTenant b ≠ want ∨ 4096 ≤ bTenant b then s.refuse src .run b .keyFail
  else
    match s.plan? (rPlan b) with
    | none => s.refuse src .run b .notFound
    | some p =>
      if !rlenOk src p.hdr.outlen then s.refuse src .run b .badArg
      else if p.owner ≠ bTenant b ∨ p.hdr.kind ≠ 7 then s.refuse src .run b .notFound
      else if p.hdr.inlen < rInlen b ∨ b.length < 16 + rInlen b ∨ !ioOk then s.refuse src .run b .badArg
      else if !s.canCharge p.owner outreqCharge then s.refuse src .run b .quota
      else if s.runMask p.owner = 0 then s.runHere src p.owner (rPlan b) b objects false
      else s.groupRun src p.owner (rPlan b) (s.runMask p.owner) b objects

/-- RUN (R364). `objects` are the state objects that the plan's IODECL declares for it (R428; log 57): the request waits until their
keepers are known (R430). -/
def execRun (src : ReqSrc) (body : List Byte) (ioOk : Bool) (objects : List ObjRef) (s : State) : Outcome :=
  s.tenantCmd src 5 body (fun b want t => t.takeRun src b ioOk objects want)

/-! ## ABORT -/

/-- A group request of the master that is caught: its part here leaves its lease, and ABORT goes to every member that has not
answered (R387, R414). -/
def State.abortGroup (s : State) (r : Req) (g : GroupReq) : State :=
  let part := s.work.reqs.filter (fun q => q.forwarded && q.src == r.src)
  let a := part.foldl (fun (t : State) q =>
    let u := t.modLease q.lease (fun x => { x with queue := x.queue.filter (fun i => i != q.id) })
    { u with work := { u.work with reqs := u.work.reqs.filter (fun x => x.id != q.id) } }) s
  let b := (g.parts.filter (fun p => p.rec_.isNone && p.failed.isNone && p.pos != s.fld fCasCfgPos)).foldl (fun (t : State) p =>
    match t.memberTable[p.pos]? with
    | none => t
    | some m =>
      match t.conn? m.conn with
      | none => t
      | some c => t.sendMsg c.rec_ (Conn.make c.rec_ mAbort 0 0 g.tag 0 .ok [])) a
  { b with cas := { b.cas with groupReqs := b.cas.groupReqs.filter (fun x => x.req != r.id) } }.failReq r.id .aborted 0

/-- What an abort of an accepted request comes to (R315, R387): the state and CAUGHT or TOO_LATE. -/
def State.abortReq (s : State) (r : Req) : State × Status :=
  match r.st with
  | .queued =>
    ((s.modLease r.lease (fun x => { x with queue := x.queue.filter (fun i => i != r.id) })).failReq r.id .aborted 0, .caught)
  | .sideWait => (s.failReq r.id .aborted 0, .caught)
  | .admitWait => (s.failReq r.id .aborted 0, .caught)
  | .ownerWait => (s.failReq r.id .aborted 0, .caught)
  | .running =>
    match s.cas.groupReqs.find? (fun g => g.req == r.id) with
    | some g => if r.op = .search ∨ r.op = .run then (s.abortGroup r g, .caught) else (s, .tooLate)
    | none =>
      match (s.lease? r.lease).bind (·.step) with
      | none => (s, .tooLate)
      | some p =>
        if !p.reqs.contains r.id || p.ended || p.replayed || p.provSent then (s, .tooLate)
        else
          let t := s.failReq r.id .aborted (s.stepTag r.lease p.seq)
          (if p.reqs.all (fun i => (t.req? i).isNone) then t.abortFree r.lease .aborted else t, .caught)
  | _ => (s, .tooLate)

/-- Completes a request of a connection that never ran (R387): a CMD by REPLY, any other by NAK. Its SEQ counts as accepted. -/
def State.abortedMsg (s : State) (m : Msg) : State :=
  if m.mtype = mCmd then s.replyTo m .aborted [] else (s.unlock m.dconn m.seq).refuseOn m .aborted

/-- A completion in the replay store with a tag on a connection. -/
def State.replayTag (s : State) (conn tag : Nat) : Option Replay :=
  s.fab.replay.find? (fun r => r.conn == conn && r.tag == tag)

/-- The RDATA of a READ with a tag on a connection, none of whose packets has been sent (R387). -/
def State.rdataHeld (s : State) (conn tag : Nat) : Option Msg :=
  let es := s.fab.ports.flatMap (fun p => p.2.egress.filter (fun e => e.msg.mtype == mRdata && e.msg.sconn == conn && e.msg.tag == tag))
  (es.find? (fun e => (es.filter (fun f => f.msg.msgid == e.msg.msgid)).length == max 1 (ceilDiv e.msg.totlen 8192))).map (·.msg)

/-- A READ is caught before its first RDATA packet is sent: the packets leave the queues, and the READ completes with ABORTED (R386, R387). -/
def State.rdataDrop (s : State) (m x : Msg) : State :=
  let keep := fun (f : Egress) => f.msg.mtype != mRdata || f.msg.msgid != x.msgid
  let ports := s.fab.ports.map (fun (e : Nat × Port) => (e.1, { e.2 with egress := e.2.egress.filter keep }))
  let r : Msg := { m with mtype := mRead, seq := x.seq, tag := x.tag }
  let t := (({ s with fab := { s.fab with ports := ports } }).unlock m.dconn x.seq).nak r .aborted
  match t.conn? m.dconn with
  | none => t
  | some c => t.keepReplay ⟨m.dconn, x.seq, x.tag, .aborted, 0, [], false, .nak⟩ c.next

/-- An ABORT message (R386, R387). A held request that is caught keeps its place in the reorder queue, as a message of type zero
whose SEQ will count as accepted. -/
def State.abortMsg (s : State) (m : Msg) : State × Status :=
  match s.conn? m.dconn with
  | none => (s, .notFound)
  | some c =>
    match s.rdataHeld m.dconn m.tag with
    | some x => (s.rdataDrop m x, .caught)
    | none =>
    match c.infl.find? (fun i => i.msg.tag == m.tag), c.held.find? (fun h => h.mtype != 0 && h.tag == m.tag) with
    | some i, _ =>
      match i.wait with
      | .staging => ((s.stagingUnwait m.dconn i.msg.seq).abortedMsg i.msg, .caught)
      | .data _ => (((s.withdrawPost m.dconn i.msg.seq).freeStaging m.dconn i.msg.seq).abortedMsg i.msg, .caught)
      | .lock => (s.abortedMsg i.msg, .caught)
      | .segs => (s.abortedMsg i.msg, .caught)
      | _ =>
        if s.fab.ready.contains i.msg then ((s.unready i.msg).abortedMsg i.msg, .caught)
        else
          match s.work.reqs.find? (fun r => !r.forwarded && (match r.src with | .conn x => x == i.msg | .queue _ => false)) with
          | some r => s.abortReq r
          | none => (s, .tooLate)
    | none, some h =>
      let t := s.setConn m.dconn { c with held := c.held.map (fun x => if x = h then { x with mtype := 0 } else x) }
      (if h.mtype = mCmd then (t.answer h mReply .aborted 0 []).keepReplay ⟨m.dconn, h.seq, h.tag, .aborted, h.opc, [], false, .reply⟩ c.next
       else (t.nak h .aborted).keepReplay ⟨m.dconn, h.seq, h.tag, .aborted, h.opc, [], false, .nak⟩ c.next, .caught)
    | none, none =>
      match s.replayTag m.dconn m.tag with
      | some r => (s, if r.status = .aborted then .caught else .tooLate)
      | none => (s, .notFound)

/-- ABORT (R386, R387, R521). -/
def execAbort (src : AbortSrc) (s : State) : Outcome :=
  match src with
  | .conn m =>
    if !s.isReady m mAbort then .next s
    else
      let z := (s.unready m).abortMsg m
      .next (z.1.answer m mAbortrep z.2 0 [])
  | .queue h cid =>
    .next (match s.fetch h false with
      | none => s
      | some t =>
        if t.host.pcieOnly then t.completeSt h .nodeBusy
        else
          match t.vfAdmit h with
          | .error st => (if st = .policed then t.countPoliced ((t.boundTo h.fn).getD 0) else t).completeSt h st
          | .ok u =>
            if h.fn ≠ 0 ∧ u.boundTo h.fn ≠ some h.tenant then u.completeSt h .keyFail
            else if (u.mapOf h.epoch).isNone then (u.count kCasEpstale 1).completeSt h .epochStale
            else
              let r := u.work.reqs.find? (fun r => !r.forwarded && (match r.src with
                | .queue g => g.fn == h.fn && g.cid == cid
                | .conn _ => false))
              let z := match r with
                | some r => u.abortReq r
                | none => (u, if u.host.waits.any (fun w => w.1.fn == h.fn && w.1.cid == cid) then .tooLate else .notFound)
              z.1.complete h .ok [] [BitVec.ofNat 8 (statusCode z.2)])

end Sys2Proof.Machine
end

