-- ==== Sys2Proof/Machine/Reset.lean ====
section
/-! DEFINITION. Function-level resets (R526, R580, R582). -/

namespace Sys2Proof.Machine

/-! ## PF0 (R580) -/

/-- Is a plan of the boot image's own maintenance pack (R290)? -/
def State.maintPlan (s : State) (n : Nat) : Bool :=
  match s.boot.image with
  | some i => decide (maintFirst i.maint ≤ n)
  | none => false

/-- Ends every running step, completes every accepted request with ABORTED and closes every lease. -/
def State.flrWork (s : State) : State :=
  let a := s.each (Tbl.keys s.work.leases) (fun l t =>
    if (t.lease? l).any (fun x => x.step.isSome) then t.abortFree l .aborted else t)
  let b := a.each ((a.work.reqs.filter (fun r => !r.forwarded)).map (·.id)) (fun i t => t.failReq i .aborted 0)
  let c := { b with work := { b.work with reqs := [] } }
  c.each (Tbl.keys c.work.leases) (fun l t => t.closeNow l)

/-- Removes the objects of the tenants: plans, packs, tables, connections, regions, bindings. The areas of the indexes, of the translation
layer and of the maintenance plans stay. -/
def State.flrObjects (s : State) : State :=
  let mine := s.work.plans.filter (fun e => s.maintPlan e.1)
  let keep := s.indexAreas ++ s.flashAreas ++ mine.flatMap (fun e => e.2.areas)
  let a := s.each ((s.alloc.areas.filter (fun x => !keep.contains x.base)).map (·.base)) (fun b t => t.areaFree b)
  { a with
    work := { a.work with tenants := [], plans := mine, packs := a.work.packs.filter (fun e => s.maintPlan e.1), load := none,
                          reads := [] }
    idx := { a.idx with desc := a.idx.desc.map (fun e => (e.1, e.2.detach)) }
    tables := { a.tables with descs := [], hot := [], replicas := [], decisions := [] }
    flash := { a.flash with disp := [], qslots := [] }
    fab := { State.reset.fab with
      ports := a.fab.ports.map (fun (e : Nat × Port) => (e.1, { e.2 with ctxs := [], refused := [], staged := 0 })),
      msgid := a.fab.msgid, lruClock := a.fab.lruClock }
    cas := { a.cas with groupReqs := [], provs := [], verdicts := [], ignored := [], confirmed := [], heldMap := none, remoteRows := [],
                        resetWait := none }
    host := { a.host with sqs := [], cqs := [], binds := [], waits := [] } }

/-- PF0_FLR (R526, R580, R582): all of it at once (log 50); the admin queues come back empty, and BOOTDONE tells that BUSY has
cleared. -/
def execPf0Flr (s : State) : Outcome :=
  s.whenServing (fun s =>
    let a := ((s.flrWork.flrObjects).clearCompute.clearCurrants).setFld fCasEpochHeld 0
    (a.adminQueues.event eTop 0).cqDrain 0 0 256)

/-! ## VFs (R580) -/

/-- A function number that no function has: where the answers of a VF's discarded commands go (R580). -/
def noFn : Nat := 64

/-- Is the request rung on the function? -/
def reqOn (fn : Nat) (r : Req) : Bool :=
  match r.src with
  | .queue h => h.fn == fn
  | .conn _ => false

/-- The request with its answer going nowhere. -/
def Req.orphan (r : Req) : Req :=
  match r.src with
  | .queue h => { r with src := .queue { h with fn := noFn } }
  | .conn _ => r

/-- VF_FLR (R580, R582): the VF's queues and binding go; its commands are discarded, and a DELETE_SQ of PF0 that waited for them
completes. -/
def execVfFlr (vf : Nat) (s : State) : Outcome :=
  s.onlyIf (s.serving && decide (1 ≤ vf) && decide (vf ≤ s.fld fHstCfgNumvf)) (fun s =>
    let a := { s with host := { s.host with sqs := Tbl.drop s.host.sqs (fun k => k / 64 == vf),
                                            cqs := Tbl.drop s.host.cqs (fun k => k / 64 == vf),
                                            binds := Tbl.erase s.host.binds vf } }
    let mine := a.work.reqs.filter (reqOn vf)
    let b := { a with work := { a.work with reqs := a.work.reqs.map (fun r => if reqOn vf r then r.orphan else r) } }
    let c := b.each (mine.filter (fun r => !r.forwarded && r.st != .running && r.st != .dataWait)) (fun r t =>
      match t.req? r.id with
      | some q => (t.abortReq q).1
      | none => t)
    let ws := c.host.waits.filter (fun w => match w.2 with | .delSq fn _ => fn == vf | _ => false)
    ws.foldl (fun (t : State) w => t.completeSt w.1 .ok) { c with host := { c.host with waits := c.host.waits.filter (fun w => !ws.contains w) } })

end Sys2Proof.Machine
end

