-- ==== Sys2Proof/Machine/Steps.lean ====
section
/-! DEFINITION. Steps and leases: STEPEND and the medlar decision, admission, the start and the timed ends of a step (R281,
R298 to R305, R313 to R318, R457 to R461). -/

namespace Sys2Proof.Machine

/-- An event of a lease whose step runs, while the node serves (log 12). -/
def State.onStep (s : State) (l : Nat) (f : Lease → Step → State) : Outcome :=
  if !s.serving then .next s
  else
    match s.lease? l with
    | none => .next s
    | some x =>
      match x.step with
      | none => .next s
      | some p => if p.ended then .next s else .next (f x p)

/-- STEPEND (R296, R302, R318, R457): every position has executed it; the run ends, and the step with it unless a tile failed.
A frozen lease has not reached it. -/
def execStepend (l : Nat) (m : StepMeas) (s : State) : Outcome :=
  s.onStep l (fun x p =>
    if !p.waitB.isEmpty || x.frozen then s
    else
      match s.plan? x.plan with
      | none => s
      | some pl =>
        let t := s.each x.cores (fun c u => u.cyc c 1)
        let d := t.measOf l m
        d.2.runEnd l x p d.1 pl.hdr)

/-- CHKWAIT_EXPIRY (R458): no healthy free core came within CHKWAIT; the step ends with CHECK_FAIL and A alone is SUSPECT. -/
def execChkwaitExpiry (l : Nat) (s : State) : Outcome :=
  s.onStep l (fun x p =>
    if p.waitB.isEmpty then s
    else
      let t := p.waitB.foldl (fun (u : State) pos => u.suspect l (x.cores.getD pos 0)) s
      match p.meas with
      | some m => (t.retractStep l).endStep l .checkFail 0xFFFFFFFF m false
      | none => t.abortFree l .checkFail)

/-- RESULT_STANDS (R281, R348, R433): the oldest step of the lease whose verdicts are final. Maxima are appended, scatters
applied and requests answered; a replay appends nothing (R283). -/
def execResultStands (l : Nat) (s : State) : Outcome :=
  if !s.serving then .next s
  else
    match s.lease? l with
    | none => .next s
    | some x =>
      match x.past with
      | [] => .next s
      | p :: rest =>
        let a := if p.replayed then s else s.each (x.cores.zip p.rmax) (fun e t =>
          t.setCore e.1 { (t.core e.1) with rm := e.2.foldl (fun r m => Tbl.modify r m.1 (·.append m.2)) (t.core e.1).rm })
        let b := if p.replayed then a else a.applyScatters l p
        let c := b.deliverStep p
        let d := if p.replayed then c.swapRm l (s.stepTag l p.seq) else c
        .next (((d.modLease l (fun y => { y with past := rest })).replayWaiting l).closeIfDone l)

/-- Waiting leases in the order of R300: descending PRIO, then arrival. -/
def State.waitOrder (s : State) : List (Nat × Lease) :=
  sortBy (fun a b => decide (b.2.prio < a.2.prio) || (a.2.prio == b.2.prio && decide (a.2.arrival < b.2.arrival)))
    (s.work.leases.filter (fun e => e.2.st == .waiting))

/-- Does an overdue lease earlier in the order block this one (R300; log 30)? -/
def blockedBy (ls : List (Nat × Lease)) (x : Lease) : Bool :=
  let tenants := ls.any (fun e => !e.2.maint)
  ls.any (fun e => e.2.overdue && !(e.2.maint && tenants) && decide (x.prio ≤ e.2.prio) && decide (e.2.arrival < x.arrival))

/-- Admits the first of the leases whose resources are free. -/
def State.admitFirst (s : State) (all ls : List (Nat × Lease)) : State :=
  match ls with
  | [] => s
  | e :: r =>
    if blockedBy all e.2 then s.admitFirst all r
    else
      match s.tryAdmit e.1 with
      | some t => t
      | none => s.admitFirst all r

/-- LEASE_ADMIT (R299, R300): the first waiting lease whose resources are all free takes them. Positions that wait for a core B
(R458) look for one first (log 28). -/
def execLeaseAdmit (s : State) : Outcome :=
  s.whenServing (fun s =>
    let t := s.each (Tbl.keys s.work.leases) (fun l u => u.tryThird l)
    t.admitFirst t.waitOrder t.waitOrder)

/-- LEASE_WAIT_LIMIT (R300): the lease has waited 10 ms and blocks later leases of equal or lower priority. -/
def execLeaseWaitLimit (l : Nat) (s : State) : Outcome :=
  s.whenServing (fun s => s.modLease l (fun x => if x.st = .waiting then { x with overdue := true } else x))

/-- May a lease's next step start, once its figure fits (R302, R304)? -/
def State.stepReady (s : State) (l : Nat) (x : Lease) (pl : Plan) : Bool :=
  x.st == .open_ && x.step.isNone && !s.rmBusy x && batchReady x pl.hdr (s.batch x pl.hdr.qbatch)
    && !(bitOf pl.hdr.pflags 3 && s.role != 0 && !x.nextGroup)
    && (s.healPositions l pl.hdr (List.range x.cores.length)).isSome

/-- Does a step that fits wait on a lease that stands before this one in the order of R300? The planner admits that one first (R478;
log 30). -/
def State.stepBefore (s : State) (x : Lease) : Bool :=
  s.work.leases.any (fun e =>
    (decide (x.prio < e.2.prio) || (e.2.prio == x.prio && decide (e.2.arrival < x.arrival)))
      && (s.plan? e.2.plan).any (fun pl => s.admits pl.admitFigure && s.stepReady e.1 e.2 pl))

/-- STEP_START (R302, R304): the predecessor's result stands where the plan has running maxima, a batch is ready, the barrier has
released a GROUPSTEP step, and the planner admits the figure; positions move off bad cores first. A step that does not fit waits
and counts in ADMITDEFER (R478). -/
def execStepStart (l : Nat) (errs : List ReadErr) (s : State) : Outcome :=
  if !s.serving then .next s
  else
    match s.lease? l with
    | none => .next s
    | some x =>
      match s.plan? x.plan with
      | none => .next s
      | some pl =>
        let b := s.batch x pl.hdr.qbatch
        if s.cas.provs.any (fun q => q.lease == l && q.replay) then .next (s.replayWaiting l)
        else if x.st ≠ .open_ ∨ x.step.isSome ∨ s.rmBusy x ∨ !batchReady x pl.hdr b
            ∨ (bitOf pl.hdr.pflags 3 ∧ s.role ≠ 0 ∧ !x.nextGroup) ∨ s.stepBefore x then .next s
        else if !s.admits pl.admitFigure then .next (s.count kNrgAdmitdefer 1)
        else
          match s.healPositions l pl.hdr (List.range x.cores.length) with
          | none => .next s
          | some t =>
            match t.lease? l with
            | none => .next s
            | some y => .next (t.beginStep l y pl b (rmDepth pl.hdr.rmcfg) errs)

/-- BATCHWAIT_EXPIRY (R302): a partial batch may start. -/
def execBatchwaitExpiry (l : Nat) (s : State) : Outcome :=
  s.whenServing (fun s => s.modLease l (fun x => if x.queue.isEmpty then x else { x with batchOk := true }))

/-- LINGER_EXPIRY (R303): a lease with no step queued or running closes. -/
def execLingerExpiry (l : Nat) (s : State) : Outcome :=
  s.whenServing (fun s =>
    match s.lease? l with
    | none => s
    | some x => if x.st = .open_ ∧ x.queue.isEmpty ∧ x.step.isNone ∧ x.past.isEmpty then s.closeLease l none else s)

/-- Does the clock of R313 run at a rendezvous: the lease froze there and has not passed it, and it does not wait for the barrier, whose
cycles are charged BARRIER_WAIT? -/
def State.timedRdv (s : State) (x : Lease) (p : Step) (rdv : Nat) : Bool :=
  p.rdvFroze.contains rdv && !p.rdvDone.contains rdv
    && !(((s.plan? x.plan).bind (fun pl => (rdvTab pl.hdr p.resident)[rdv]?)).any (fun e => e.src == 7))

/-- RENDEZVOUS_TIMEOUT (R313): a lease of a plan with a TIMEOUT is frozen at a rendezvous; the step ends with TIER_TIMEOUT and the index
of the rendezvous. A lease that is held, or that waits for the barrier, does not time out. -/
def execRendezvousTimeout (l rdv : Nat) (m : StepMeas) (s : State) : Outcome :=
  s.onStep l (fun x p =>
    if x.held || !x.frozen || !s.timedRdv x p rdv || ((s.plan? x.plan).map (·.hdr.timeout)).getD 0 == 0 then s
    else s.abortMeas l .tierTimeout rdv m)

/-- STEP_HANG (R316): the step has run for STEPMAX; it ends with STEP_HANG and the lease closes. The watchdog does not advance while the
lease is frozen under a hold (R479). -/
def execStepHang (l : Nat) (m : StepMeas) (s : State) : Outcome :=
  s.onStep l (fun x _ => if holdTaken x then s else (s.abortMeas l .stepHang 0xFFFFFFFF m).closeLease l none)

end Sys2Proof.Machine
end

