-- ==== Sys2Proof/Machine/Dispatch.lean ====
section
/-! DEFINITION. The meaning of every command: one arm per constructor of `Instr`, in the order of the opcode table. -/

namespace Sys2Proof.Machine

/-- The effect of a command on everything but the queue. -/
def exec (i : Instr) (s : State) : Host.Outcome State Fault Refusal :=
  match i with
  | .coldPowerOn => Sys2Proof.Machine.execColdPowerOn s
  | .perstAssert => Sys2Proof.Machine.execPerstAssert s
  | .perstRelease bist7Ok => Sys2Proof.Machine.execPerstRelease bist7Ok s
  | .bootImageVerify e => Sys2Proof.Machine.execBootImageVerify e s
  | .bootComplete fails => Sys2Proof.Machine.execBootComplete fails s
  | .watchdogReset => Sys2Proof.Machine.execWatchdogReset s
  | .elderWatchdog => Sys2Proof.Machine.execElderWatchdog s
  | .refclkLoss => Sys2Proof.Machine.execRefclkLoss s
  | .refclkRestore => Sys2Proof.Machine.execRefclkRestore s
  | .pllUnlock => Sys2Proof.Machine.execPllUnlock s
  | .pf0Flr => Sys2Proof.Machine.execPf0Flr s
  | .vfFlr vf => Sys2Proof.Machine.execVfFlr vf s
  | .vwarnTaken => Sys2Proof.Machine.execVwarnTaken s
  | .vwarnRelease => Sys2Proof.Machine.execVwarnRelease s
  | .brownoutRecovery => Sys2Proof.Machine.execBrownoutRecovery s
  | .vwmaxExpiry => Sys2Proof.Machine.execVwmaxExpiry s
  | .resetThreshold => Sys2Proof.Machine.execResetThreshold s
  | .flushComplete => Sys2Proof.Machine.execFlushComplete s
  | .thermalTrip => Sys2Proof.Machine.execThermalTrip s
  | .pwrLimChange code => Sys2Proof.Machine.execPwrLimChange code s
  | .holdupOkDeassert => Sys2Proof.Machine.execHoldupOkDeassert s
  | .holdupRead mv => Sys2Proof.Machine.execHoldupRead mv s
  | .calibrationUpdate regulator factor => Sys2Proof.Machine.execCalibrationUpdate regulator factor s
  | .energyWindow w => Sys2Proof.Machine.execEnergyWindow w s
  | .idle1Entry core => Sys2Proof.Machine.execIdle1Entry core s
  | .createCq h fn q depth ien ring => Sys2Proof.Machine.execCreateCq h fn q depth ien ring s
  | .createSq h fn q depth cq ring => Sys2Proof.Machine.execCreateSq h fn q depth cq ring s
  | .deleteSq h fn q => Sys2Proof.Machine.execDeleteSq h fn q s
  | .deleteCq h fn q => Sys2Proof.Machine.execDeleteCq h fn q s
  | .vfBind h vf tenant => Sys2Proof.Machine.execVfBind h vf tenant s
  | .tenantCreate h tenant => Sys2Proof.Machine.execTenantCreate h tenant s
  | .tenantDelete h tenant => Sys2Proof.Machine.execTenantDelete h tenant s
  | .setQuota h tenant rec_ => Sys2Proof.Machine.execSetQuota h tenant rec_ s
  | .quotaStats h tenant => Sys2Proof.Machine.execQuotaStats h tenant s
  | .setRate h tenant rate => Sys2Proof.Machine.execSetRate h tenant rate s
  | .setClass h tenant cls => Sys2Proof.Machine.execSetClass h tenant cls s
  | .indexCreate h d splan uplan => Sys2Proof.Machine.execIndexCreate h d splan uplan s
  | .indexDelete h index => Sys2Proof.Machine.execIndexDelete h index s
  | .deletionFinish index => Sys2Proof.Machine.execDeletionFinish index s
  | .indexQuiesce h index => Sys2Proof.Machine.execIndexQuiesce h index s
  | .indexAttach h index splan uplan => Sys2Proof.Machine.execIndexAttach h index splan uplan s
  | .setHot h ns hot first count => Sys2Proof.Machine.execSetHot h ns hot first count s
  | .createTable h d => Sys2Proof.Machine.execCreateTable h d s
  | .deleteTable h table => Sys2Proof.Machine.execDeleteTable h table s
  | .groupIndex h index mask => Sys2Proof.Machine.execGroupIndex h index mask s
  | .loadPack h part pack => Sys2Proof.Machine.execLoadPack h part pack s
  | .packLoadTimeout => Sys2Proof.Machine.execPackLoadTimeout s
  | .unloadPlan h plan => Sys2Proof.Machine.execUnloadPlan h plan s
  | .leaseOpen h plan => Sys2Proof.Machine.execLeaseOpen h plan s
  | .leaseClose h lease => Sys2Proof.Machine.execLeaseClose h lease s
  | .stepLog h => Sys2Proof.Machine.execStepLog h s
  | .planStats h lease => Sys2Proof.Machine.execPlanStats h lease s
  | .connOpen h c => Sys2Proof.Machine.execConnOpen h c s
  | .connClose h conn => Sys2Proof.Machine.execConnClose h conn s
  | .postRecv h conn key offset length => Sys2Proof.Machine.execPostRecv h conn key offset length s
  | .regRegion h r => Sys2Proof.Machine.execRegRegion h r s
  | .deregRegion h key => Sys2Proof.Machine.execDeregRegion h key s
  | .segPresent h key seg => Sys2Proof.Machine.execSegPresent h key seg s
  | .segAbsent h key seg => Sys2Proof.Machine.execSegAbsent h key seg s
  | .fabTstats h tenant clear => Sys2Proof.Machine.execFabTstats h tenant clear s
  | .routeMap h epoch entries => Sys2Proof.Machine.execRouteMap h epoch entries s
  | .groupReset h => Sys2Proof.Machine.execGroupReset h s
  | .casLog h => Sys2Proof.Machine.execCasLog h s
  | .errLog h => Sys2Proof.Machine.execErrLog h s
  | .tierStats h => Sys2Proof.Machine.execTierStats h s
  | .progressStats h tenant => Sys2Proof.Machine.execProgressStats h tenant s
  | .energyStats h => Sys2Proof.Machine.execEnergyStats h s
  | .setPowerRun h autowake => Sys2Proof.Machine.execSetPowerRun h autowake s
  | .setPowerIdle2 h autowake => Sys2Proof.Machine.execSetPowerIdle2 h autowake s
  | .setPowerStandby h autowake => Sys2Proof.Machine.execSetPowerStandby h autowake s
  | .search src body => Sys2Proof.Machine.execSearch src body s
  | .insert src body => Sys2Proof.Machine.execInsert src body s
  | .upsert src body => Sys2Proof.Machine.execUpsert src body s
  | .delete src body => Sys2Proof.Machine.execDelete src body s
  | .run src body ioOk objects => Sys2Proof.Machine.execRun src body ioOk objects s
  | .abort src => Sys2Proof.Machine.execAbort src s
  | .sqTailDoorbell fn q value => Sys2Proof.Machine.execSqTailDoorbell fn q value s
  | .cqHeadDoorbell fn q value => Sys2Proof.Machine.execCqHeadDoorbell fn q value s
  | .dmaTimeout h => Sys2Proof.Machine.execDmaTimeout h s
  | .cxlLinkTrain width rate => Sys2Proof.Machine.execCxlLinkTrain width rate s
  | .hdmCommit => Sys2Proof.Machine.execHdmCommit s
  | .cxlMemRead offset ecc => Sys2Proof.Machine.execCxlMemRead offset ecc s
  | .cxlMemWrite offset bytes => Sys2Proof.Machine.execCxlMemWrite offset bytes s
  | .getVersion tr => Sys2Proof.Machine.execGetVersion tr s
  | .getCapabilities tr => Sys2Proof.Machine.execGetCapabilities tr s
  | .negotiateAlgorithms tr mldsa sha3 => Sys2Proof.Machine.execNegotiateAlgorithms tr mldsa sha3 s
  | .getDigests tr => Sys2Proof.Machine.execGetDigests tr s
  | .getCertificate tr slot offset length => Sys2Proof.Machine.execGetCertificate tr slot offset length s
  | .challenge tr slot nonce => Sys2Proof.Machine.execChallenge tr slot nonce s
  | .getMeasurements tr index sign nonce => Sys2Proof.Machine.execGetMeasurements tr index sign nonce s
  | .regread mseq addr par => Sys2Proof.Machine.execRegread mseq addr par s
  | .regwrite mseq addr x par => Sys2Proof.Machine.execRegwrite mseq addr x par s
  | .health mseq => Sys2Proof.Machine.execHealth mseq s
  | .healthInterval => Sys2Proof.Machine.execHealthInterval s
  | .cperread mseq => Sys2Proof.Machine.execCperread mseq s
  | .standby mseq => Sys2Proof.Machine.execStandby mseq s
  | .wake mseq => Sys2Proof.Machine.execWake mseq s
  | .recover mseq => Sys2Proof.Machine.execRecover mseq s
  | .flashread mseq addr len => Sys2Proof.Machine.execFlashread mseq addr len s
  | .flasherase mseq addr => Sys2Proof.Machine.execFlasherase mseq addr s
  | .flashwrite mseq addr data => Sys2Proof.Machine.execFlashwrite mseq addr data s
  | .reset mseq => Sys2Proof.Machine.execReset mseq s
  | .arbcommit mseq => Sys2Proof.Machine.execArbcommit mseq s
  | .foreignMctpMessage => Sys2Proof.Machine.execForeignMctpMessage s
  | .registerWrite req addr x par => Sys2Proof.Machine.execRegisterWrite req addr x par s
  | .sqClear req addr x par => Sys2Proof.Machine.execSqClear req addr x par s
  | .aliasSetWrite req addr x par => Sys2Proof.Machine.execAliasSetWrite req addr x par s
  | .aliasClearWrite req addr x par => Sys2Proof.Machine.execAliasClearWrite req addr x par s
  | .aliasToggleWrite req addr x par => Sys2Proof.Machine.execAliasToggleWrite req addr x par s
  | .multiwordStagedWrite req addr x par => Sys2Proof.Machine.execMultiwordStagedWrite req addr x par s
  | .quiesce => Sys2Proof.Machine.execQuiesce s
  | .quiesced => Sys2Proof.Machine.execQuiesced s
  | .portReset port => Sys2Proof.Machine.execPortReset port s
  | .gateListEnable port => Sys2Proof.Machine.execGateListEnable port s
  | .gateIntervalEnd port => Sys2Proof.Machine.execGateIntervalEnd port s
  | .scaleRegisterWrite core idx x par => Sys2Proof.Machine.execScaleRegisterWrite core idx x par s
  | .nbuGo block mask => Sys2Proof.Machine.execNbuGo block mask s
  | .slotRelease ch slot => Sys2Proof.Machine.execSlotRelease ch slot s
  | .slotStart ch qwait => Sys2Proof.Machine.execSlotStart ch qwait s
  | .uNop ch e => Sys2Proof.Machine.execUNop ch e s
  | .uLda ch e => Sys2Proof.Machine.execULda ch e s
  | .uAdda ch e => Sys2Proof.Machine.execUAdda ch e s
  | .uLdc ch e => Sys2Proof.Machine.execULdc ch e s
  | .uLoop ch e => Sys2Proof.Machine.execULoop ch e s
  | .uJmp ch e => Sys2Proof.Machine.execUJmp ch e s
  | .uSets ch e => Sys2Proof.Machine.execUSets ch e s
  | .uRd ch e => Sys2Proof.Machine.execURd ch e s
  | .uWr ch e => Sys2Proof.Machine.execUWr ch e s
  | .uCopy ch e => Sys2Proof.Machine.execUCopy ch e s
  | .uInit ch e => Sys2Proof.Machine.execUInit ch e s
  | .uRdl ch e => Sys2Proof.Machine.execURdl ch e s
  | .uAnd ch e => Sys2Proof.Machine.execUAnd ch e s
  | .uOr ch e => Sys2Proof.Machine.execUOr ch e s
  | .uXor ch e => Sys2Proof.Machine.execUXor ch e s
  | .uAndnot ch e => Sys2Proof.Machine.execUAndnot ch e s
  | .uNot ch e => Sys2Proof.Machine.execUNot ch e s
  | .uXpop ch e => Sys2Proof.Machine.execUXpop ch e s
  | .uMacv ch e => Sys2Proof.Machine.execUMacv ch e s
  | .uQk ch e => Sys2Proof.Machine.execUQk ch e s
  | .uSmax ch e => Sys2Proof.Machine.execUSmax ch e s
  | .uAv ch e => Sys2Proof.Machine.execUAv ch e s
  | .uOnorm ch e => Sys2Proof.Machine.execUOnorm ch e s
  | .uAccw ch e => Sys2Proof.Machine.execUAccw ch e s
  | .uVld ch e => Sys2Proof.Machine.execUVld ch e s
  | .uAclr ch e => Sys2Proof.Machine.execUAclr ch e s
  | .uSignal ch e => Sys2Proof.Machine.execUSignal ch e s
  | .uEnd ch e => Sys2Proof.Machine.execUEnd ch e s
  | .refDue ch => Sys2Proof.Machine.execRefDue ch s
  | .forcedPause ch => Sys2Proof.Machine.execForcedPause ch s
  | .refreshComplete ch cyc => Sys2Proof.Machine.execRefreshComplete ch cyc s
  | .cewarnInterval ch => Sys2Proof.Machine.execCewarnInterval ch s
  | .tile core d env => Sys2Proof.Machine.execTile core d env s
  | .fill core x => Sys2Proof.Machine.execFill core x s
  | .fillComplete core id e => Sys2Proof.Machine.execFillComplete core id e s
  | .poolReadTimeout core id => Sys2Proof.Machine.execPoolReadTimeout core id s
  | .streamSend core x => Sys2Proof.Machine.execStreamSend core x s
  | .gather core g remote => Sys2Proof.Machine.execGather core g remote s
  | .scatter core g remote => Sys2Proof.Machine.execScatter core g remote s
  | .release core first count => Sys2Proof.Machine.execRelease core first count s
  | .scaleld core base addr => Sys2Proof.Machine.execScaleld core base addr s
  | .rmslot core array slot => Sys2Proof.Machine.execRmslot core array slot s
  | .rmseed core array addr => Sys2Proof.Machine.execRmseed core array addr s
  | .flagrd core base addr => Sys2Proof.Machine.execFlagrd core base addr s
  | .tkopen core k maxMode => Sys2Proof.Machine.execTkopen core k maxMode s
  | .tkoffer core e => Sys2Proof.Machine.execTkoffer core e s
  | .tkclose core ctx => Sys2Proof.Machine.execTkclose core ctx s
  | .brambleMerge unit ctx open_ entries end_ => Sys2Proof.Machine.execBrambleMerge unit ctx open_ entries end_ s
  | .nbucmd core ch slot bytes => Sys2Proof.Machine.execNbucmd core ch slot bytes s
  | .sloedesc core d => Sys2Proof.Machine.execSloedesc core d s
  | .fabsend core conn opc payload => Sys2Proof.Machine.execFabsend core conn opc payload s
  | .branch lease pos addr => Sys2Proof.Machine.execBranch lease pos addr s
  | .wait core cycles => Sys2Proof.Machine.execWait core cycles s
  | .stepend lease m => Sys2Proof.Machine.execStepend lease m s
  | .chkwaitExpiry lease => Sys2Proof.Machine.execChkwaitExpiry lease s
  | .resultStands lease => Sys2Proof.Machine.execResultStands lease s
  | .leaseAdmit => Sys2Proof.Machine.execLeaseAdmit s
  | .leaseWaitLimit lease => Sys2Proof.Machine.execLeaseWaitLimit lease s
  | .stepStart lease errs => Sys2Proof.Machine.execStepStart lease errs s
  | .batchwaitExpiry lease => Sys2Proof.Machine.execBatchwaitExpiry lease s
  | .lingerExpiry lease => Sys2Proof.Machine.execLingerExpiry lease s
  | .rendezvousTimeout lease rdv m => Sys2Proof.Machine.execRendezvousTimeout lease rdv m s
  | .stepHang lease m => Sys2Proof.Machine.execStepHang lease m s
  | .merge list => Sys2Proof.Machine.execMerge list s
  | .compaction list => Sys2Proof.Machine.execCompaction list s
  | .split list cents errs => Sys2Proof.Machine.execSplit list cents errs s
  | .listMerge a b => Sys2Proof.Machine.execListMerge a b s
  | .reclusterPassEnd index => Sys2Proof.Machine.execReclusterPassEnd index s
  | .extentFree list gen => Sys2Proof.Machine.execExtentFree list gen s
  | .sideFullTimeout req => Sys2Proof.Machine.execSideFullTimeout req s
  | .loadq d => Sys2Proof.Machine.execLoadq d s
  | .fetch d => Sys2Proof.Machine.execFetch d s
  | .scan d errs => Sys2Proof.Machine.execScan d errs s
  | .flashStatusPoll ch ce ready fails => Sys2Proof.Machine.execFlashStatusPoll ch ce ready fails s
  | .nandReadComplete ch ce e => Sys2Proof.Machine.execNandReadComplete ch ce e s
  | .nandProgramComplete ch ce => Sys2Proof.Machine.execNandProgramComplete ch ce s
  | .nandEraseComplete ch stripe fails => Sys2Proof.Machine.execNandEraseComplete ch stripe fails s
  | .wbageExpiry ns unit => Sys2Proof.Machine.execWbageExpiry ns unit s
  | .writeAdmitTimeout req => Sys2Proof.Machine.execWriteAdmitTimeout req s
  | .foldStart ch e => Sys2Proof.Machine.execFoldStart ch e s
  | .gcStart ch e => Sys2Proof.Machine.execGcStart ch e s
  | .victimErase ch => Sys2Proof.Machine.execVictimErase ch s
  | .checkpoint => Sys2Proof.Machine.execCheckpoint s
  | .zqCalibration => Sys2Proof.Machine.execZqCalibration s
  | .scrubPass finds => Sys2Proof.Machine.execScrubPass finds s
  | .hotwinBoundary table => Sys2Proof.Machine.execHotwinBoundary table s
  | .frameReceive port f => Sys2Proof.Machine.execFrameReceive port f s
  | .pfcFrame port classes quanta => Sys2Proof.Machine.execPfcFrame port classes quanta s
  | .pfcRefresh port cls => Sys2Proof.Machine.execPfcRefresh port cls s
  | .pfcwdExpiry port cls => Sys2Proof.Machine.execPfcwdExpiry port cls s
  | .egressPick port => Sys2Proof.Machine.execEgressPick port s
  | .linkUp port => Sys2Proof.Machine.execLinkUp port s
  | .linkDown port => Sys2Proof.Machine.execLinkDown port s
  | .losttimeExpiry port => Sys2Proof.Machine.execLosttimeExpiry port s
  | .reasmtoExpiry port dconn msgid => Sys2Proof.Machine.execReasmtoExpiry port dconn msgid s
  | .deadListExpiry port dconn msgid => Sys2Proof.Machine.execDeadListExpiry port dconn msgid s
  | .reordertoExpiry conn seq => Sys2Proof.Machine.execReordertoExpiry conn seq s
  | .xrdytoExpiry buf => Sys2Proof.Machine.execXrdytoExpiry buf s
  | .rtoExpiry conn seq => Sys2Proof.Machine.execRtoExpiry conn seq s
  | .ackintExpiry conn => Sys2Proof.Machine.execAckintExpiry conn s
  | .reswaitExpiry conn seq => Sys2Proof.Machine.execReswaitExpiry conn seq s
  | .connStateFetched conn ok => Sys2Proof.Machine.execConnStateFetched conn ok s
  | .stagingBufferGrant => Sys2Proof.Machine.execStagingBufferGrant s
  | .rangeLockGrant group => Sys2Proof.Machine.execRangeLockGrant group s
  | .reply m => Sys2Proof.Machine.execReply m s
  | .ack m => Sys2Proof.Machine.execAck m s
  | .nak m => Sys2Proof.Machine.execNak m s
  | .send m => Sys2Proof.Machine.execSend m s
  | .xrdy m => Sys2Proof.Machine.execXrdy m s
  | .data m => Sys2Proof.Machine.execData m s
  | .read m host err => Sys2Proof.Machine.execRead m host err s
  | .rdata m => Sys2Proof.Machine.execRdata m s
  | .write m => Sys2Proof.Machine.execWrite m s
  | .flush m err => Sys2Proof.Machine.execFlush m err s
  | .flushed m => Sys2Proof.Machine.execFlushed m s
  | .abortrep m => Sys2Proof.Machine.execAbortrep m s
  | .close m => Sys2Proof.Machine.execClose m s
  | .closeack m => Sys2Proof.Machine.execCloseack m s
  | .ping m => Sys2Proof.Machine.execPing m s
  | .pong m => Sys2Proof.Machine.execPong m s
  | .arrive m => Sys2Proof.Machine.execArrive m s
  | .go m => Sys2Proof.Machine.execGo m s
  | .expel m => Sys2Proof.Machine.execExpel m s
  | .barrierReset m => Sys2Proof.Machine.execBarrierReset m s
  | .barrierRelease => Sys2Proof.Machine.execBarrierRelease s
  | .releaseDetect => Sys2Proof.Machine.execReleaseDetect s
  | .bartoExpiry => Sys2Proof.Machine.execBartoExpiry s
  | .barstuck => Sys2Proof.Machine.execBarstuck s
  | .membtoExpiry tag pos => Sys2Proof.Machine.execMembtoExpiry tag pos s
  | .groupRecordSend tag => Sys2Proof.Machine.execGroupRecordSend tag s
  | .confirm m => Sys2Proof.Machine.execConfirm m s
  | .retract m => Sys2Proof.Machine.execRetract m s
  | .replay m => Sys2Proof.Machine.execReplay m s
  | .gone m => Sys2Proof.Machine.execGone m s
  | .verdictTimeout steptag => Sys2Proof.Machine.execVerdictTimeout steptag s
  | .replayTimeout steptag => Sys2Proof.Machine.execReplayTimeout steptag s
  | .rpkeepExpiry steptag => Sys2Proof.Machine.execRpkeepExpiry steptag s
  | .applied m => Sys2Proof.Machine.execApplied m s
  | .epochDrain => Sys2Proof.Machine.execEpochDrain s
  | .ownerQuery m => Sys2Proof.Machine.execOwnerQuery m s
  | .ownerAnswer m => Sys2Proof.Machine.execOwnerAnswer m s
  | .ownerAssign m => Sys2Proof.Machine.execOwnerAssign m s
  | .ownerDrop m => Sys2Proof.Machine.execOwnerDrop m s
  | .ownerFetch m => Sys2Proof.Machine.execOwnerFetch m s
  | .ownerConflict m => Sys2Proof.Machine.execOwnerConflict m s
  | .hello m => Sys2Proof.Machine.execHello m s
  | .accept m => Sys2Proof.Machine.execAccept m s
  | .refuse m => Sys2Proof.Machine.execRefuse m s
  | .snapend m => Sys2Proof.Machine.execSnapend m s
  | .caughtup m => Sys2Proof.Machine.execCaughtup m s
  | .joinAdmit m => Sys2Proof.Machine.execJoinAdmit m s
  | .jointoExpiry pos => Sys2Proof.Machine.execJointoExpiry pos s
  | .powerLoss => Sys2Proof.Machine.execPowerLoss s
  | .holdupOkAssert => Sys2Proof.Machine.execHoldupOkAssert s
  | .portResetDone port => Sys2Proof.Machine.execPortResetDone port s
  | .gateListRestart port => Sys2Proof.Machine.execGateListRestart port s
  | .linkTrainingFailure port => Sys2Proof.Machine.execLinkTrainingFailure port s

end Sys2Proof.Machine
end

