-- ==== Sys2Proof/Machine/Tick.lean ====
section
/-! DEFINITION. What time alone does: the idle tick of one microsecond (log 15). -/

namespace Sys2Proof.Machine

/-- A token bucket in bits after one microsecond at `rate` Mb/s: a rate of 1 Mb/s brings one bit, up to `burst` KiB
(R391, R394). -/
def refill (rate burst tokens : Nat) : Nat := min (tokens + rate) (burst * 8192)

/-- The tenant's policer and shaper after one microsecond; a policer that is off is held full (R394). -/
def tickTenant (x : Tenant) : Tenant :=
  { x with ptokens := if x.rate.prate = 0 then x.rate.pburst * 8192 else refill x.rate.prate x.rate.pburst x.ptokens,
           stokens := refill x.rate.srate x.rate.sburst x.stokens }

/-- A port's class shapers and the interval of its gate list after one microsecond (R394, R396, R404). -/
def tickPort (s : State) (p : Nat) (x : Port) : Port :=
  { x with gateLeft := if s.flag (fFabGclctlEnable p) then x.gateLeft - 1000 else x.gateLeft, ctokens := (List.range 8).foldl (fun t c =>
      let r := s.reg64 (portBase p + 0x40 + 8 * c)
      Tbl.put (bits r 20 16 * 8192) t c (refill (bits r 0 20) (bits r 20 16) (Tbl.get (bits r 20 16 * 8192) t c))) x.ctokens }

/-- An index that is BUILDING becomes ACTIVE: the spec gives it no other moment (log 16). -/
def tickDesc (d : Desc) : Desc := if d.st = .building then { d with st := .active } else d

/-- One microsecond passes with no command waiting (log 15). -/
def tick (s : State) : Outcome :=
  if s.pwr.phase = .off then .next s
  else
    let t : State := { s with
      uptime := s.uptime + 1
      work := { s.work with tenants := s.work.tenants.map (fun e => (e.1, tickTenant e.2)) }
      fab := { s.fab with ports := s.fab.ports.map (fun e => (e.1, tickPort s e.1 e.2)) }
      idx := { s.idx with desc := s.idx.desc.map (fun e => (e.1, tickDesc e.2)) } }
    .next t.casSettle

end Sys2Proof.Machine
end

