-- ==== Sys2Proof/Safety.lean ====
section
/-! DEFINITION. What counts as a safe run and a sound state, and the words the claims use: the parts of the state, what a command leaves
alone, what every step keeps, when a host command is taken, and when it has been answered. -/

namespace Sys2Proof.Machine

/-! ## Sound states and safe runs -/

/-- The memories are in their canonical form: keys rise and no byte at its unlisted value is listed. -/
def Mem.wf (m : Mem) : Bool :=
  Tbl.wf 0 m.hbm && Tbl.wf false m.hbmPoison && Tbl.wf 0 m.store && Tbl.wf false m.storePoison
  && Tbl.wf false m.storeFilled && Tbl.wf 0 m.commons && Tbl.wf false m.commonsPoison

/-- A run of `n` steps that meets neither a fault nor a refusal. -/
def runsSafely (n : Nat) (s : State) : Prop := ∃ t, core.run n s = .next t

/-- `t` is `s` after a register access that the control path lost (R446): four replays are counted, CTLPAR is raised, and beside the
error record, the event registers and counters of CHK and HST and what they drive, nothing changes. -/
def accessLost (s t : State) : Prop :=
  t.evtBit eChk 7 = true ∧ t.reg64 kChkParreplay = (s.reg64 kChkParreplay + 4) % 2 ^ 64
  ∧ (∀ k, k / 0x10000 ≠ 1 → k / 0x10000 ≠ 3 → t.word k = s.word k)
  ∧ t = { s with regs := t.regs, chk := t.chk, host := t.host, out := t.out }

/-! ## Frames -/

/-- The parts of the state, one for each field of `State`. -/
inductive Zone where
  | pending | hw | pwr | boot | regs | stagedW | mem | alloc | idx | work | nbu | comp | tables | flash | fab | cas | chk | nrg | host
  | mgmt | uptime | out | free
  deriving DecidableEq, Repr

/-- Is a part the same in two states? -/
@[reducible] def Zone.same (p : Zone) (s t : State) : Prop :=
  match p with
  | .pending => t.pending = s.pending
  | .hw => t.hw = s.hw
  | .pwr => t.pwr = s.pwr
  | .boot => t.boot = s.boot
  | .regs => t.regs = s.regs
  | .stagedW => t.stagedW = s.stagedW
  | .mem => t.mem = s.mem
  | .alloc => t.alloc = s.alloc
  | .idx => t.idx = s.idx
  | .work => t.work = s.work
  | .nbu => t.nbu = s.nbu
  | .comp => t.comp = s.comp
  | .tables => t.tables = s.tables
  | .flash => t.flash = s.flash
  | .fab => t.fab = s.fab
  | .cas => t.cas = s.cas
  | .chk => t.chk = s.chk
  | .nrg => t.nrg = s.nrg
  | .host => t.host = s.host
  | .mgmt => t.mgmt = s.mgmt
  | .uptime => t.uptime = s.uptime
  | .out => t.out = s.out
  | .free => t.free = s.free

/-- `t` differs from `s` in the parts of `T` only. -/
def Touches (T : List Zone) (s t : State) : Prop := ∀ p, p ∉ T → p.same s t

/-- The parts of the state that a command may change. -/
def partsOf (c : Instr) : List Zone :=
  match c with
  | .coldPowerOn | .powerLoss =>
    [.pwr, .boot, .regs, .stagedW, .mem, .alloc, .idx, .work, .nbu, .comp, .tables, .flash, .fab, .cas, .chk, .nrg, .host,
     .mgmt, .uptime]
  | .perstAssert | .watchdogReset | .elderWatchdog | .refclkRestore | .pllUnlock | .vwmaxExpiry | .resetThreshold
  | .flushComplete | .thermalTrip | .wake .. | .recover .. | .reset .. =>
    [.pwr, .boot, .regs, .stagedW, .mem, .alloc, .idx, .work, .nbu, .comp, .tables, .flash, .fab, .cas, .chk, .nrg, .host,
     .mgmt, .uptime, .out]
  | .perstRelease .. | .vwarnRelease | .holdupOkDeassert | .holdupOkAssert =>
    [.pwr, .regs]
  | .bootImageVerify .. =>
    [.pwr, .boot, .regs, .mem, .alloc, .work, .out, .free]
  | .bootComplete .. =>
    [.pwr, .regs, .alloc, .flash, .fab, .cas, .chk, .host, .mgmt, .out]
  | .refclkLoss =>
    [.pwr, .regs, .work, .fab, .cas, .chk, .host, .out]
  | .pf0Flr =>
    [.regs, .mem, .alloc, .idx, .work, .nbu, .comp, .tables, .flash, .fab, .cas, .chk, .nrg, .host, .out, .free]
  | .vfFlr .. | .abort .. | .chkwaitExpiry .. | .rendezvousTimeout .. | .stepHang .. =>
    [.regs, .mem, .alloc, .work, .nbu, .comp, .flash, .fab, .cas, .chk, .nrg, .host, .out, .free]
  | .vwarnTaken =>
    [.pwr, .regs, .work, .nbu, .chk, .nrg, .host, .out]
  | .brownoutRecovery =>
    [.pwr, .regs, .nbu, .flash, .chk, .nrg, .host, .out]
  | .pwrLimChange .. | .pfcwdExpiry .. =>
    [.regs, .chk, .host, .out]
  | .holdupRead .. =>
    [.pwr, .regs, .chk, .host, .out]
  | .calibrationUpdate .. =>
    [.regs, .chk, .nrg, .host, .out]
  | .energyWindow .. =>
    [.pwr, .boot, .regs, .stagedW, .mem, .alloc, .idx, .work, .nbu, .comp, .tables, .flash, .fab, .cas, .chk, .nrg, .host,
     .mgmt, .uptime, .out, .free]
  | .idle1Entry .. =>
    [.comp]
  | .createCq .. | .createSq .. | .deleteSq .. | .deleteCq .. | .vfBind .. | .tenantDelete .. | .setQuota ..
  | .quotaStats .. | .setRate .. | .setClass .. | .planStats .. | .fabTstats .. | .tierStats .. | .progressStats .. =>
    [.regs, .work, .host, .out, .free]
  | .tenantCreate .. | .leaseOpen .. | .stepLog .. | .energyStats .. | .setPowerRun .. | .setPowerIdle2 ..
  | .setPowerStandby .. | .dmaTimeout .. =>
    [.regs, .work, .host, .out]
  | .indexCreate .. | .indexDelete .. | .deletionFinish .. =>
    [.regs, .mem, .alloc, .idx, .work, .flash, .host, .out]
  | .indexQuiesce .. | .indexAttach .. =>
    [.regs, .idx, .work, .host, .out]
  | .setHot .. =>
    [.regs, .alloc, .work, .flash, .host, .out, .free]
  | .createTable .. =>
    [.regs, .alloc, .work, .tables, .host, .out, .free]
  | .deleteTable .. =>
    [.regs, .mem, .alloc, .work, .tables, .host, .out]
  | .groupIndex .. =>
    [.regs, .idx, .work, .host, .out, .free]
  | .loadPack .. =>
    [.regs, .mem, .alloc, .work, .host, .out, .free]
  | .packLoadTimeout =>
    [.mem, .alloc, .work]
  | .unloadPlan .. =>
    [.regs, .mem, .alloc, .work, .host, .out]
  | .leaseClose .. | .lingerExpiry .. =>
    [.regs, .mem, .alloc, .work, .comp, .flash, .fab, .cas, .nrg, .host, .out]
  | .connOpen .. | .postRecv .. | .regRegion .. | .segPresent .. | .segAbsent .. =>
    [.regs, .work, .fab, .host, .out, .free]
  | .connClose .. | .deregRegion .. | .writeAdmitTimeout .. | .frameReceive .. | .egressPick .. =>
    [.regs, .work, .fab, .host, .out]
  | .routeMap .. =>
    [.regs, .work, .cas, .host, .out, .free]
  | .groupReset .. | .expel .. | .barrierReset .. =>
    [.pwr, .regs, .mem, .alloc, .work, .nbu, .comp, .flash, .fab, .cas, .chk, .nrg, .host, .out, .free]
  | .casLog .. | .epochDrain =>
    [.regs, .work, .cas, .host, .out]
  | .errLog .. =>
    [.regs, .work, .chk, .host, .out]
  | .search .. | .run .. | .groupRecordSend .. | .ownerAssign .. =>
    [.regs, .work, .fab, .cas, .host, .out]
  | .insert .. | .upsert .. | .delete .. =>
    [.regs, .mem, .alloc, .idx, .work, .flash, .fab, .cas, .chk, .host, .out]
  | .sqTailDoorbell .. | .cqHeadDoorbell .. =>
    [.regs, .host, .out, .free]
  | .cxlLinkTrain .. =>
    [.regs, .host, .out]
  | .hdmCommit | .foreignMctpMessage | .quiesce | .quiesced | .wait .. | .portResetDone .. =>
    [.regs]
  | .cxlMemRead .. =>
    [.regs, .mem, .tables, .chk, .host, .out]
  | .cxlMemWrite .. =>
    [.mem]
  | .getVersion .. | .getCapabilities .. | .negotiateAlgorithms .. | .getDigests .. | .getCertificate .. | .challenge ..
  | .getMeasurements .. =>
    [.mgmt, .out]
  | .regread .. =>
    [.regs, .chk, .host, .out, .free]
  | .regwrite .. | .registerWrite .. | .sqClear .. | .aliasSetWrite .. | .aliasClearWrite .. | .aliasToggleWrite ..
  | .multiwordStagedWrite .. | .scaleRegisterWrite .. | .nbuGo .. =>
    [.regs, .stagedW, .work, .nbu, .fab, .cas, .chk, .host, .out, .free]
  | .health .. | .healthInterval | .flashread .. | .zqCalibration =>
    [.out]
  | .cperread .. =>
    [.chk, .out]
  | .standby .. =>
    [.regs, .mgmt, .out]
  | .flasherase .. =>
    [.boot, .out]
  | .flashwrite .. =>
    [.boot, .out, .free]
  | .arbcommit .. =>
    [.hw, .regs, .out]
  | .portReset .. =>
    [.regs, .stagedW, .work, .fab, .cas, .chk, .host, .out]
  | .gateListEnable .. | .pfcFrame .. | .linkUp .. | .reordertoExpiry .. | .gateListRestart .. =>
    [.regs, .fab]
  | .gateIntervalEnd .. | .deadListExpiry .. | .ackintExpiry .. | .stagingBufferGrant | .rangeLockGrant .. | .ack ..
  | .xrdy .. | .flushed .. | .abortrep .. | .ping .. | .pong .. =>
    [.fab]
  | .slotRelease .. =>
    [.regs, .out, .free]
  | .slotStart .. =>
    [.regs, .work, .nbu, .out, .free]
  | .uNop .. | .uLda .. | .uAdda .. | .uLdc .. | .uLoop .. | .uJmp .. | .uSets .. | .uAnd .. | .uOr .. | .uXor ..
  | .uAndnot .. | .uNot .. | .uSmax .. | .uOnorm .. | .uAclr .. | .uSignal .. | .nbucmd .. =>
    [.regs, .nbu, .out, .free]
  | .uRd .. | .uRdl .. | .uXpop .. | .uMacv .. | .uQk .. | .uAv .. | .uVld .. =>
    [.regs, .alloc, .nbu, .chk, .host, .out, .free]
  | .uWr .. | .uInit .. | .uAccw .. =>
    [.regs, .mem, .nbu, .out, .free]
  | .uCopy .. =>
    [.regs, .mem, .alloc, .nbu, .chk, .host, .out, .free]
  | .uEnd .. =>
    [.regs, .alloc, .work, .nbu, .chk, .host, .out, .free]
  | .refDue .. | .cewarnInterval .. =>
    [.nbu]
  | .forcedPause .. =>
    [.regs, .nbu, .chk, .host, .out]
  | .refreshComplete .. =>
    [.regs, .nbu]
  | .tile .. =>
    [.regs, .mem, .work, .comp, .out, .free]
  | .fill .. | .fillComplete .. | .poolReadTimeout .. | .streamSend .. | .gather .. | .scatter .. | .send .. | .data ..
  | .rdata .. | .applied .. =>
    [.regs, .mem, .alloc, .work, .nbu, .comp, .tables, .flash, .fab, .cas, .chk, .nrg, .host, .out, .free]
  | .release .. | .flagrd .. =>
    [.regs, .mem, .out, .free]
  | .scaleld .. =>
    [.regs, .work, .out, .free]
  | .rmslot .. | .rmseed .. | .branch .. =>
    [.regs, .work, .comp, .out, .free]
  | .tkopen .. | .tkoffer .. | .tkclose .. | .brambleMerge .. =>
    [.regs, .comp, .out, .free]
  | .sloedesc .. | .loadq .. =>
    [.regs, .flash, .out, .free]
  | .fabsend .. =>
    [.regs, .fab, .out, .free]
  | .stepend .. =>
    [.regs, .mem, .alloc, .idx, .work, .nbu, .comp, .flash, .fab, .cas, .chk, .nrg, .host, .out, .free]
  | .resultStands .. =>
    [.regs, .mem, .alloc, .work, .comp, .tables, .flash, .fab, .cas, .nrg, .host, .out, .free]
  | .leaseAdmit =>
    [.regs, .mem, .alloc, .work, .comp]
  | .leaseWaitLimit .. | .batchwaitExpiry .. =>
    [.work]
  | .stepStart .. =>
    [.regs, .mem, .alloc, .work, .comp, .tables, .cas, .chk, .nrg, .host, .out]
  | .merge .. | .compaction .. | .split .. | .listMerge .. | .extentFree .. | .nandProgramComplete ..
  | .nandEraseComplete .. | .victimErase .. =>
    [.regs, .mem, .alloc, .idx, .work, .flash, .fab, .chk, .host, .out]
  | .reclusterPassEnd .. =>
    [.mem, .idx, .work]
  | .sideFullTimeout .. =>
    [.regs, .idx, .work, .fab, .host, .out]
  | .fetch .. | .wbageExpiry .. =>
    [.regs, .flash, .chk, .host, .out]
  | .scan .. =>
    [.regs, .alloc, .flash, .chk, .host, .out, .free]
  | .flashStatusPoll .. =>
    [.flash, .out]
  | .nandReadComplete .. | .foldStart .. | .gcStart .. =>
    [.regs, .alloc, .flash, .chk, .host, .out]
  | .checkpoint =>
    [.regs, .flash]
  | .scrubPass .. =>
    [.regs, .mem, .alloc, .flash, .chk, .host, .out]
  | .hotwinBoundary .. =>
    [.regs, .tables]
  | .pfcRefresh .. =>
    [.regs, .out]
  | .linkDown .. | .rtoExpiry .. | .nak .. | .ownerAnswer .. | .ownerDrop .. | .ownerConflict .. =>
    [.regs, .work, .fab, .cas, .chk, .host, .out]
  | .losttimeExpiry .. | .linkTrainingFailure .. =>
    [.regs, .fab, .chk, .host, .out]
  | .reasmtoExpiry .. =>
    [.regs, .fab, .out]
  | .xrdytoExpiry .. | .reswaitExpiry .. | .read .. | .flush .. | .close .. | .closeack .. | .ownerQuery .. =>
    [.regs, .fab, .host, .out]
  | .connStateFetched .. =>
    [.regs, .work, .fab, .chk, .host, .out, .free]
  | .reply .. | .membtoExpiry .. =>
    [.fab, .cas]
  | .write .. =>
    [.regs, .mem, .alloc, .idx, .work, .tables, .flash, .fab, .cas, .chk, .host, .out]
  | .arrive .. | .go .. | .confirm .. | .gone .. | .ownerFetch .. | .accept .. | .refuse .. | .snapend .. | .caughtup ..
  | .joinAdmit .. =>
    [.regs, .fab, .cas, .host, .out]
  | .barrierRelease =>
    [.pwr, .regs, .fab, .cas, .chk, .host, .out]
  | .releaseDetect =>
    [.pwr, .regs, .mem, .work, .fab, .cas]
  | .bartoExpiry | .retract .. | .verdictTimeout .. | .hello .. =>
    [.regs, .fab, .cas, .chk, .host, .out]
  | .barstuck | .jointoExpiry .. =>
    [.regs, .cas, .chk, .host, .out]
  | .replay .. =>
    [.regs, .mem, .work, .comp, .fab, .cas, .host, .out]
  | .replayTimeout .. =>
    [.regs, .fab, .cas]
  | .rpkeepExpiry .. =>
    [.cas]

/-! ## What every step keeps -/

/-- What a step keeps: memories in their canonical form stay so; what the node has driven stays driven; the part stays the part it is; the
anti-rollback fuses only rise (R549); no free value is drawn twice. -/
structure Keeps (s t : State) : Prop where
  mem  : Mem.wf s.mem = true → Mem.wf t.mem = true
  out  : s.out <:+ t.out
  made : t.hw.variant = s.hw.variant ∧ t.hw.dieRev = s.hw.dieRev ∧ t.hw.serial = s.hw.serial ∧ t.hw.rootRevoked = s.hw.rootRevoked
  arb  : s.hw.arbFuse ≤ t.hw.arbFuse
  free : s.free ≤ t.free

/-! ## Resets -/

/-- Between `s` and `t` the node has been reset with CAUSE and WDSRC, and what column PERST# of R580 keeps is as it was: fuses, boot flash,
the CPER ring, TOP_UPTIME, HBM, the flash devices and the indexes, which are DETACHED. Everything of the rest is gone, the map of the
translation layer among it, which recovery rebuilds (R203). -/
def resetAs (s t : State) (cause wd : Nat) : Prop :=
  t.pwr.phase = .held ∧ t.pwr.cause = cause ∧ t.pwr.wdSrc = wd ∧ t.pwr.resets = satAdd 32 s.pwr.resets 1
  ∧ t.hw = s.hw ∧ t.boot.flash = s.boot.flash ∧ t.chk = s.chk ∧ t.uptime = s.uptime
  ∧ t.mem.hbm = s.mem.hbm ∧ t.mem.hbmPoison = s.mem.hbmPoison ∧ t.flash.map = [] ∧ t.flash.pages = s.flash.pages
  ∧ t.flash.stripes = s.flash.stripes ∧ t.flash.badBlocks = s.flash.badBlocks ∧ t.flash.ckpts = s.flash.ckpts
  ∧ t.idx.hdr = s.idx.hdr ∧ t.idx.dir = s.idx.dir ∧ t.idx.desc.map (·.1) = s.idx.desc.map (·.1)
  ∧ (∀ e ∈ t.idx.desc, e.2.st = .detached)
  ∧ t.regs = [] ∧ t.mem.store = [] ∧ t.mem.commons = [] ∧ t.work = State.reset.work ∧ t.host = State.reset.host
  ∧ t.fab = State.reset.fab ∧ t.cas = State.reset.cas ∧ t.tables = State.reset.tables ∧ t.nbu = [] ∧ t.flash.wbuf = []

/-! ## Host commands -/

/-- The node takes the host command `h` of PF0: it serves, and the command's entry stands at the head of a submission queue that is
enabled, on a completion queue with room in which no entry waits, and no command of the queue waits for work to end (R517, R520,
R522). -/
def State.takes (s : State) (h : HostHdr) : Bool :=
  s.serving && h.fn == 0 && !s.host.pcieOnly && !s.hostWaiting h.fn h.q
  && (Tbl.find s.host.sqs (qKey h.fn h.q)).any (fun sq => sq.enabled && sq.head != sq.tail
    && (Tbl.find s.host.cqs (qKey h.fn sq.cq)).any (fun cq => cq.enabled && !cqFull cq && cq.waiting.isEmpty))

/-- The node takes the tenant command in the queue entry `h` of PF0: it serves, is not quiescing and not in Idle-2, the entry names a live
epoch, and its queue and completion queue stand as for a host command (R426, R494, R517, R520, R523, R557). -/
def State.takesOp (s : State) (h : HostHdr) : Bool :=
  s.serving && h.fn == 0 && !s.host.pcieOnly && !s.flag fTopCtlQuiesce && s.fld fNrgStatePstate == 0 && (s.mapOf h.epoch).isSome
  && (Tbl.find s.host.sqs (qKey h.fn h.q)).any (fun sq => sq.enabled && sq.head != sq.tail
    && (Tbl.find s.host.cqs (qKey h.fn sq.cq)).any (fun cq => cq.enabled && !cqFull cq && cq.waiting.isEmpty))

/-- The state in which a host command runs: its entry fetched. -/
def State.fetched (s : State) (h : HostHdr) : State := (s.fetch h true).getD s

/-- The state in which an update taken from an entry runs: its entry fetched and its request entered. -/
def State.entered (s : State) (h : HostHdr) (op : ReqOp) (d : Desc) (b : List Byte) (errs : List ReadErr) : State :=
  ((s.fetch h false).getD s).addReq (.queue h) op d.c.tenant d.uplan (bIndex b) b .admitWait false errs

/-- What the node has driven between two states, newest first. -/
def drove (s t : State) (new : List Out) : Prop := t.out = new ++ s.out

/-- Between `s` and `t` the node has written the completion entry of `h` with status `st` (R519). -/
def answered (s t : State) (h : HostHdr) (st : Status) : Prop :=
  ∃ new, drove s t new ∧ ∃ q slot phase e, Out.cqe h.fn q slot phase e ∈ new ∧ e.cid = h.cid ∧ e.sqid = h.q ∧ e.status = st

/-- … and before it the result bytes `bs`, if there are any (R517, R519). -/
def answeredWith (s t : State) (h : HostHdr) (st : Status) (bs : List Byte) : Prop :=
  ∃ new, drove s t new ∧ (bs ≠ [] → Out.result h.fn h.q h.cid bs ∈ new)
    ∧ ∃ q slot phase e, Out.cqe h.fn q slot phase e ∈ new ∧ e.cid = h.cid ∧ e.sqid = h.q ∧ e.status = st ∧ e.rbytes = bs.length

/-- … and in the entry the inline result `bs` (R519). -/
def answeredInline (s t : State) (h : HostHdr) (st : Status) (bs : List Byte) : Prop :=
  ∃ new, drove s t new ∧ ∃ q slot phase e, Out.cqe h.fn q slot phase e ∈ new ∧ e.cid = h.cid ∧ e.sqid = h.q ∧ e.status = st
    ∧ e.result = padTo 16 bs

/-! ## Near-bank units -/

/-- The running slot of the currant of `ch` has the micro-op `w` of opcode `op`, which the part has, at its counter, and no pause is due
after it (R128, R144). -/
def State.atOp (s : State) (ch op w : Nat) : Prop :=
  ch < s.nch ∧ s.serving = true ∧ (s.cur ch).rs = .run ∧ s.ustore ch (s.cur ch).pc = w ∧ uOp w = op
  ∧ uReserved s.hw.variant op = false ∧ (uY w && (s.cur ch).refDue) = false

/-- The currant with its counter moved on past a micro-op. -/
def Currant.moved (c : Currant) (e : UEnv) : Currant := { c with pc := (c.pc + 1) % 512, confw := c.confw + e.confw }

/-- … that performed `n` row operations. -/
def Currant.rowed (c : Currant) (e : UEnv) (n : Nat) : Currant := { c.moved e with rowops := c.rowops + n, lastRdl := none }

/-- Nothing has changed but the currant of `ch`, registers and HBM. -/
def onlyCur (ch : Nat) (s t : State) : Prop :=
  (∀ k, k ≠ ch → t.cur k = s.cur k) ∧ t = { s with regs := t.regs, nbu := t.nbu, mem := { s.mem with hbm := t.mem.hbm, hbmPoison := t.mem.hbmPoison } }

/-- Nothing has changed but the currant of `ch` and registers. -/
def onlyCurRegs (ch : Nat) (s t : State) : Prop := (∀ k, k ≠ ch → t.cur k = s.cur k) ∧ t = { s with regs := t.regs, nbu := t.nbu }

/-- No index structure of the elders stands in a range of interleaved offsets (R36). -/
def State.noIndexAt (s : State) (x n : Nat) : Prop := ∀ i, i < n → s.idx.tableByte (x + i) = none

/-- The cells of a row hold the bytes, and so the row reads where no index structure stands in it (log 106). -/
def State.rowHolds (s : State) (ch row : Nat) (bs : List Byte) : Prop :=
  (∀ i, i < 1024 → Tbl.get 0 s.mem.hbm (rowKey ch row + i) = bs.getD i 0)
    ∧ ((∀ i, i < 1024 → (s.keyIlv (rowKey ch row + i)).bind s.idx.tableByte = none) → s.rowData ch row = bs)

/-- The vector files of a currant have the sizes of R120. -/
def Currant.shaped (c : Currant) : Prop :=
  c.buf.length = 4 ∧ (∀ b ∈ c.buf, b.length = 1024) ∧ c.v.length = 4096 ∧ c.sf.length = 256 ∧ c.of_.length = 256 ∧ c.sPois.length = 256

/-! ## Cores -/

/-- The sequencer of the core issues: the lease `x`, numbered `l`, runs its step `p` there, is not frozen and waits for no check, and the core
waits for no line (R234, R296, R308). -/
def State.runsOn (s : State) (core l : Nat) (x : Lease) (p : Step) : Prop :=
  core < s.hw.variant.cores ∧ s.serving = true ∧ s.leaseOf core = some (l, x) ∧ x.step = some p ∧ p.ended = false
  ∧ x.frozen = false ∧ p.waitB = [] ∧ (s.core core).waiting = []

/-- Nothing of the compute arrays has changed but the core. -/
def onlyCore (core : Nat) (s t : State) : Prop := ∀ k, k ≠ core → t.core k = s.core k

/-- No byte of another core's store has changed. -/
def onlyStore (core : Nat) (s t : State) : Prop := ∀ k, k / 2 ^ 21 ≠ core → Tbl.get 0 t.mem.store k = Tbl.get 0 s.mem.store k

/-- The lease `x`, numbered `l`, runs its step `p` while the node serves. -/
def State.inStep (s : State) (l : Nat) (x : Lease) (p : Step) : Prop :=
  s.serving = true ∧ s.lease? l = some x ∧ x.step = some p ∧ p.ended = false

/-- The lease is gone or runs no step. -/
def State.stepless (s : State) (l : Nat) : Prop := ∀ y, s.lease? l = some y → y.step = none

/-- Maintenance of the list `l` of the header `h` runs and nothing waits behind it: the index of `d` and the list are ACTIVE, the header reads
clean, the node is not in a low-power state, a lease of a MAINT plan is admitted, and nothing is deferred (R72, R74, R298, R494). -/
def State.maintains (s : State) (l : Nat) (h : Hdr) (d : Desc) : Prop :=
  s.serving = true ∧ s.hdr? l = some h ∧ s.desc? h.owner = some d ∧ d.st = .active ∧ h.st = .active
  ∧ s.hdrBad l = false ∧ s.fld fNrgStatePstate = 0 ∧ s.maintReady = true ∧ s.idx.deferred = []
  ∧ ∀ r ∈ s.work.reqs, r.st ≠ .sideWait ∧ r.st ≠ .admitWait

/-- The state after a split of the list `l` has read its full vectors, and the slots that stay and that go (R76). -/
def State.splitSides (s : State) (l : Nat) (h : Hdr) (d : Desc) (cs : SplitCents) (errs : List ReadErr) : State × List SlotAt × List SlotAt :=
  let r := s.candVectors d.c errs ((s.liveSlots d.c h).map (fun x => ⟨0, 0, s.slotVid d.c h x, s.slotRec d.c h x, l, h, x⟩))
  let two := fun (z : Cand × Option (List Byte)) =>
    nearSecond d.c (s.copy4 d 1) (vecCodes d.c.cfmt d.c.dim (padTo (d.c.dim / 2) cs.old)) (vecCodes d.c.cfmt d.c.dim (padTo (d.c.dim / 2) cs.new)) z.2
  (r.1, (r.2.filter (fun z => !two z)).map (·.1.at_), (r.2.filter two).map (·.1.at_))

/-- The lowest fine number of the coarse cluster of `l` that is FREE (R76). -/
def State.freeList (s : State) (l : Nat) : Option Nat :=
  ((List.range 64).map (· + 64 * listCoarse l)).find? (fun m => !(s.hdr? m).any (fun g => g.st != .free))

/-- No merge is deferred, and no update waits for a list or for the write buffer. -/
def State.nothingDeferred (s : State) : Prop :=
  s.idx.deferred = [] ∧ ∀ r ∈ s.work.reqs, r.st ≠ .sideWait ∧ r.st ≠ .admitWait

/-! ## Flash -/

/-- What a sloe says of a record it has read (R175, R177, R178): STATUS 0 KEPT with its distance and, where DFLAGS ask, its elements, 1 for one beyond
DMAX, 2 for one that is poisoned or is not the record asked for. -/
def sloeSays (d : SloeDesc) (q bytes : List Byte) (bad : Bool) (flags : Nat) (b e : List Byte) : Prop :=
  ((bad = true ∨ recordGood bytes d.rec_ d.addr d.dim d.vfmt = false) →
    e = [] ∧ b = sloeBytes d (if bad then 0 else leAt bytes 0 8) d.okey f32Inf 2 flags 0)
  ∧ (bad = false → recordGood bytes d.rec_ d.addr d.dim d.vfmt = true →
      (sloeKeeps d (sloeDist d q bytes) = true → b = sloeBytes d (leAt bytes 0 8) d.okey (sloeDist d q bytes) 0 flags e.length
        ∧ e = if bitOf d.dflags 0 then (bytes.drop 24).take (sloeElems d) else [])
      ∧ (sloeKeeps d (sloeDist d q bytes) = false → e = [] ∧ b = sloeBytes d (leAt bytes 0 8) d.okey (sloeDist d q bytes) 1 flags 0))

/-- No core waits, for room or for a line, and no update waits for a list, for the write buffer or for its program. -/
def State.noneWait (s : State) : Prop :=
  (∀ c, (s.core c).waiting = []) ∧ ∀ r ∈ s.work.reqs, r.st ≠ .sideWait ∧ r.st ≠ .admitWait ∧ r.st ≠ .dataWait

/-! ## Fabric -/

/-- A message of a type, under a SEQ and with a payload, waits at a port to leave (R382). -/
def queued (t : State) (mtype seq : Nat) (bs : List Byte) : Prop :=
  ∃ p e, e ∈ (t.port p).egress ∧ e.msg.mtype = mtype ∧ e.msg.seq = seq ∧ e.msg.payload = bs ∧ e.offset = 0

/-- The message of a type stands ready on the connection `c`, which is open and has a live port, expects its SEQ next, holds nothing back and may send
an acknowledgement; the message is outstanding there (R369, R370). -/
def State.stands (s : State) (m : Msg) (t : Nat) (c : Conn) : Prop :=
  s.isReady m t = true ∧ s.conn? m.dconn = some c ∧ c.st = .open_ ∧ s.sprayUp c.rec_.spray ≠ [] ∧ c.next = m.seq ∧ c.held = []

/-- … and its access to the region of `a`, in HBM and all present, meets no other access (R377, R388). -/
def State.reaches (s : State) (m : Msg) (c : Conn) (a : Access) (x : Nat) : Prop :=
  s.access c m = .ok a ∧ a.reg.rec_.rkind = 0 ∧ s.place (a.reg.rec_.base + a.off) = .ilv x ∧ x + a.len ≤ s.ilvSize
  ∧ s.lockTab c.rec_.cgroup = [] ∧ s.fab.lockWait = []

/-! ## Cascade groups -/

/-- A SYS message of a type and kind stands ready (R360, R421, R429, R432, R437). -/
def State.sysReady (s : State) (m : Msg) (t k : Nat) : Prop := s.isReady m t = true ∧ sysKind m = k

/-- The connection `c`, numbered `k`, leads to a node of the group and is open with a live port (R366, R413). -/
def State.leads (s : State) (node k : Nat) (c : Conn) : Prop :=
  s.sysConn node = some k ∧ s.conn? k = some c ∧ c.st = .open_ ∧ s.sprayUp c.rec_.spray ≠ []

/-- A message of a type, with a status and a payload, waits at a port to leave. -/
def queuedAs (t : State) (mtype : Nat) (st : Status) (bs : List Byte) : Prop :=
  ∃ p e, e ∈ (t.port p).egress ∧ e.msg.mtype = mtype ∧ e.msg.status = statusCode st ∧ e.msg.payload = bs ∧ e.offset = 0

/-- A part holds a provisional record of a step, and has not failed (R434). -/
def Part.awaits (p : Part) (tag : Nat) : Prop := p.failed = none ∧ p.prov = true ∧ ∃ z, p.rec_ = some z ∧ z.steptag = tag

end Sys2Proof.Machine
end

