-- ==== Sys2Proof/Certificates/Slice0/Obligations.lean ====
section
/-! DEFINITION. The statements for the provers, family by family. Each says in its docstring which rules of spec/ it formalises; where it
rests on a choice of the model, the docstring names the row of the assumption log. `Part`, `Touches`, `Keeps` and the conditions on states
and operands stand in Sys2Proof/Safety.lean. -/

open Sys2Proof Sys2Proof.Machine

/-! ## Host queues and tenants -/

/-- CREATE_CQ, CREATE_SQ, DELETE_SQ and DELETE_CQ (R516, R519, R521) complete: a well-formed queue comes into being empty, its first pass writing PHASE
1; an idle queue goes; a queue with commands running is disabled and DELETE_SQ waits for them; the queues deleted are not those the command itself
uses. -/
def Obligations.HostQueuesComeAndGo : Prop :=
  ∀ (s : State) (h : HostHdr), s.takes h = true → (∀ w ∈ s.host.waits, ∀ fn q, w.2 ≠ .delSq fn q) →
    (∀ fn q depth ien ring, s.queueOk fn q = true → ringOk depth ring = true → Tbl.find s.host.cqs (qKey fn q) = none →
      ∃ t, exec (.createCq h fn q depth ien ring) s = .next t ∧ answered s t h .ok
        ∧ Tbl.find t.host.cqs (qKey fn q) = some { depth := depth, ring := ring, ien := ien, head := 0, tail := 0, count := 0,
                                                   phase := true, enabled := true, waiting := [] })
    ∧ (∀ fn q depth cq ring, s.queueOk fn q = true → ringOk depth ring = true → Tbl.find s.host.sqs (qKey fn q) = none →
        (Tbl.find s.host.cqs (qKey fn cq)).isSome = true →
      ∃ t, exec (.createSq h fn q depth cq ring) s = .next t ∧ answered s t h .ok
        ∧ Tbl.find t.host.sqs (qKey fn q) = some { depth := depth, cq := cq, ring := ring, head := 0, tail := 0, enabled := true,
                                                   running := [] })
    ∧ (∀ fn q sq, Tbl.find s.host.sqs (qKey fn q) = some sq → (fn, q) ≠ (0, 0) → (fn, q) ≠ (h.fn, h.q) →
        qKey fn q ≠ qKey h.fn h.q →
      ∃ t, exec (.deleteSq h fn q) s = .next t
        ∧ (sq.running = [] → answered s t h .ok ∧ Tbl.find t.host.sqs (qKey fn q) = none)
        ∧ (sq.running ≠ [] → t.out = s.out ∧ t.host.waits = s.host.waits ++ [(h, .delSq fn q)]
            ∧ Tbl.find t.host.sqs (qKey fn q) = some { sq with enabled := false }))
    ∧ (∀ fn q cq, Tbl.find s.host.cqs (qKey fn q) = some cq → (fn, q) ≠ (0, 0) →
        s.host.sqs.any (fun e => e.1 / 64 == fn && e.2.cq == q) = false →
        (∀ sq, Tbl.find s.host.sqs (qKey h.fn h.q) = some sq → qKey h.fn sq.cq ≠ qKey fn q) →
      ∃ t, exec (.deleteCq h fn q) s = .next t ∧ answered s t h .ok ∧ Tbl.find t.host.cqs (qKey fn q) = none)

/-- VF_BIND, TENANT_CREATE, TENANT_DELETE, SET_CLASS, SET_QUOTA, SET_RATE, QUOTA_STATS, PROGRESS_STATS and FAB_TSTATS (R32, R330, R333, R394, R395,
R398, R462, R509, R521) complete with their effect on the bindings and on the tenant's record: a new tenant has no quota, the transient class and
TQUANT 144; limits take effect at once and leave the present use as it is; a policer that stays on keeps its tokens up to the new burst, and a
shaper has the new burst unless its rate falls, which empties it; the statistics answer with the records of the tenant. The layout of FAB_TSTATS is
the model's choice (log 35). -/
def Obligations.TenantsLimitsAndStatistics : Prop :=
  (∀ (s : State) (h : HostHdr) (tenant : Nat), s.takes h = true →
    (∀ vf, vf ≤ s.fld fHstCfgNumvf → (s.tenant? tenant).isSome = true → tenant ≠ 0xFFFF → 1 ≤ vf →
      ∃ t, exec (.vfBind h vf tenant) s = .next t ∧ answered s t h .ok ∧ t.work = s.work
        ∧ t.boundTo vf = some tenant ∧ ∀ k, k ≠ vf → t.boundTo k = s.boundTo k)
    ∧ (∀ vf, vf ≤ s.fld fHstCfgNumvf →
      ∃ t, exec (.vfBind h vf 0xFFFF) s = .next t ∧ answered s t h .ok ∧ t.work = s.work
        ∧ t.boundTo vf = none ∧ ∀ k, k ≠ vf → t.boundTo k = s.boundTo k)
    ∧ (tenant < 4096 → s.tenant? tenant = none →
      ∃ t, exec (.tenantCreate h tenant) s = .next t ∧ answered s t h .ok
        ∧ t.tenant? tenant = some {
            limit := QuotaRec.none, used := QuotaRec.none, resident := false, rate := ⟨0, 0, 0, 0, 144⟩, ptokens := 0, stokens := 0,
            poldrop := 0, shaped := 0, hwm := [], energy := 0, held := 0, prog := Progress.zero }
        ∧ ∀ k, k ≠ tenant → t.tenant? k = s.tenant? k)
    ∧ ((s.tenant? tenant).isSome = true → s.tenantBusy tenant = false →
      ∃ t, exec (.tenantDelete h tenant) s = .next t ∧ answered s t h .ok ∧ t.tenant? tenant = none
        ∧ ∀ k, k ≠ tenant → t.tenant? k = s.tenant? k)
    ∧ (∀ x cls, s.tenant? tenant = some x → cls ≤ 1 → (cls = 1 → s.hw.variant.mac = true) →
      ∃ t, exec (.setClass h tenant cls) s = .next t ∧ answered s t h .ok
        ∧ t.tenant? tenant = some { x with resident := cls == 1 } ∧ ∀ k, k ≠ tenant → t.tenant? k = s.tenant? k))
  ∧ (∀ (s : State) (h : HostHdr) (tenant : Nat) (x : Tenant), s.takes h = true → s.tenant? tenant = some x →
    (∀ q : QuotaRec, (q.flash = 0 ∨ s.hw.variant.flash = true) → q.cores ≤ 192 → q.leases ≤ 256 → q.indexes ≤ 1024 →
      ∃ t, exec (.setQuota h tenant q) s = .next t ∧ answered s t h .ok ∧ t.tenant? tenant = some { x with limit := q }
        ∧ ∀ k, k ≠ tenant → t.tenant? k = s.tenant? k)
    ∧ (∀ r : RateRec, 1 ≤ r.tquant → r.tquant ≤ 4095 →
      ∃ t, exec (.setRate h tenant r) s = .next t ∧ answered s t h .ok
        ∧ (∃ y, t.tenant? tenant = some y ∧ y.rate = r ∧ y.limit = x.limit ∧ y.used = x.used
            ∧ (x.rate.prate ≠ 0 → r.prate ≠ 0 → y.ptokens = min x.ptokens (r.pburst * 8192))
            ∧ (r.srate < x.rate.srate → y.stokens = 0) ∧ (x.rate.srate ≤ r.srate → y.stokens = r.sburst * 8192))
        ∧ ∀ k, k ≠ tenant → t.tenant? k = s.tenant? k)
    ∧ (64 ≤ h.rlen →
      ∃ t, exec (.quotaStats h tenant) s = .next t ∧ answeredWith s t h .ok (quotaBytes tenant x.used) ∧ t.work = s.work)
    ∧ (tenant ≠ 0xFFFF → 48 ≤ h.rlen →
      ∃ t, exec (.progressStats h tenant) s = .next t ∧ t.work = s.work ∧ answeredWith s t h .ok (leBytes 8 x.prog.commit
        ++ leBytes 8 x.prog.replay ++ leBytes 8 x.prog.lost ++ leBytes 8 x.prog.stall ++ leBytes 8 x.prog.ballast
        ++ leBytes 8 x.prog.idle))
    ∧ (∀ clear, 208 ≤ h.rlen →
      ∃ t, exec (.fabTstats h tenant clear) s = .next t ∧ answeredWith s t h .ok (leBytes 8 x.poldrop ++ leBytes 8 x.shaped
          ++ (List.range 48).flatMap (fun i => leBytes 4 (Tbl.get 0 x.hwm i)))
        ∧ t.tenant? tenant = some (if clear then { x with poldrop := 0, shaped := 0, hwm := [] } else x)))

/-! ## Power-up, resets and supplies -/

/-- COLD_POWER_ON, POWER_LOSS, PERST_RELEASE, PERST_ASSERT, WATCHDOG_RESET, ELDER_WATCHDOG, REFCLK_RESTORE, PLL_UNLOCK and REFCLK_LOSS (R208, R497,
R559, R579, R580, R582, R584): a cold power-on leaves fuses, boot flash and the flash devices, of which the map is rebuilt, and clears memory,
indexes, error records and counters; PERST# flushes the write buffer first where there is a translation layer, leaves what R580 keeps, and counts in
RESETS; a failed group 7 of the self-test stops the start with BOOTCODE 0x0A; each watchdog reset has CAUSE 2 and its WDSRC, after the flush, which
keeps the source; a lost reference raises CLKLOSS. Readings that the model chose: log 44. -/
def Obligations.RailsPerstAndWatchdogs : Prop :=
  (∀ s : State,
    (s.pwr.phase = .off → ∃ t, exec .coldPowerOn s = .next t ∧ t.pwr.phase = .held ∧ t.pwr.perst = true ∧ t.regs = []
      ∧ t.mem = State.reset.mem ∧ t.idx = State.reset.idx ∧ t.chk = State.reset.chk ∧ t.uptime = 0 ∧ t.pwr.resets = 0 ∧ t.hw = s.hw
      ∧ t.boot.flash = s.boot.flash ∧ t.flash.map = [] ∧ t.flash.pages = s.flash.pages ∧ t.flash.stripes = s.flash.stripes
      ∧ t.flash.wbuf = [])
    ∧ (∃ t, exec .powerLoss s = .next t ∧ t.pwr.phase = .off ∧ t.regs = [] ∧ t.mem = State.reset.mem ∧ t.work = State.reset.work
      ∧ t.hw = s.hw ∧ t.boot.flash = s.boot.flash ∧ t.flash.pages = s.flash.pages ∧ t.flash.stripes = s.flash.stripes)
    ∧ (∀ ok, s.pwr.phase = .held → s.pwr.refclk = true → ∃ t, exec (.perstRelease ok) s = .next t ∧ t.pwr.perst = false
      ∧ t.pwr.phase = (if ok then .stage1 else .failed) ∧ t.fld fNrgStateVwarn = b2n s.pwr.vwarn
      ∧ (ok = false → t.fld fTopStatusBootfail = 1 ∧ t.fld fTopStatusBootcode = 0x0A ∧ t.fld fSecStateBistgrp = 7))
    ∧ (s.pwr.perst = false → s.pwr.phase = .standby → s.pwr.flushing = none →
      ∃ t, exec .perstAssert s = .next t ∧ t.pwr.perst = true ∧ resetAs s t 3 0)
    ∧ (s.pwr.perst = false → s.pwr.phase = .running → s.pwr.flushing = none → s.hw.variant.flash = false →
      ∃ t, exec .perstAssert s = .next t ∧ t.pwr.perst = true ∧ resetAs s t 1 0)
    ∧ (s.pwr.perst = false → s.pwr.phase = .running → s.pwr.flushing = none → s.hw.variant.flash = true →
      ∃ t, exec .perstAssert s = .next t ∧ t.pwr.perst = true ∧ t.pwr.flushing = some .perst ∧ t.pwr.phase = .running
        ∧ t.mem = s.mem ∧ t.idx = s.idx ∧ t.work = s.work))
  ∧ (∀ s : State, s.pwr.phase = .running → s.pwr.perst = false → s.pwr.flushing = none →
    (s.hw.variant.flash = false →
      (∃ t, exec .watchdogReset s = .next t ∧ resetAs s t 2 0)
      ∧ (∃ t, exec .elderWatchdog s = .next t ∧ resetAs s t 2 3)
      ∧ (s.pwr.refclk = false → ∃ t, exec .refclkRestore s = .next t ∧ t.pwr.refclk = true ∧ resetAs s t 2 1)
      ∧ (s.pwr.refclk = true → s.flag fNrgClkCorelock = true → ∃ t, exec .pllUnlock s = .next t ∧ t.pwr.phase = .held
          ∧ t.pwr.cause = 2 ∧ t.pwr.wdSrc = 2 ∧ t.pwr.resets = satAdd 32 s.pwr.resets 1 ∧ t.mem.hbm = s.mem.hbm ∧ t.regs = []))
    ∧ (s.hw.variant.flash = true →
      (∃ t, exec .watchdogReset s = .next t ∧ t.pwr.flushing = some (.watchdog 0) ∧ t.mem = s.mem ∧ t.work = s.work)
      ∧ (∃ t, exec .elderWatchdog s = .next t ∧ t.pwr.flushing = some (.watchdog 3) ∧ t.mem = s.mem ∧ t.work = s.work)
      ∧ (s.pwr.refclk = false → ∃ t, exec .refclkRestore s = .next t ∧ t.pwr.refclk = true
          ∧ t.pwr.flushing = some (.watchdog 1) ∧ t.mem = s.mem ∧ t.work = s.work)
      ∧ (s.pwr.refclk = true → s.flag fNrgClkCorelock = true → ∃ t, exec .pllUnlock s = .next t
          ∧ t.pwr.flushing = some (.watchdog 2) ∧ t.mem = s.mem ∧ t.work = s.work))
    ∧ (s.pwr.refclk = true → ∃ t, exec .refclkLoss s = .next t ∧ t.pwr.refclk = false ∧ t.evtBit eNrg 5 = true ∧ t.mem = s.mem
        ∧ t.nbu = s.nbu))

/-- VWARN_TAKEN, VWARN_RELEASE and BROWNOUT_RECOVERY (R487, R490) on a running node: the hold raises VWARN, sets the core clock's divisor to 48, stops
ballast and, where there is a translation layer, arms the flush; the release lets the wait for the recovery begin; the recovery sets the divisor to
6, disarms the flush, raises VWRECOVER and leaves the held leases waiting for the planner's release. None of them changes a memory, an index, a plan
or a tenant's record. Readings that the model chose: log 43 and 66. -/
def Obligations.BrownoutHoldAndRecovery : Prop :=
  ∀ s : State, s.pwr.phase = .running → s.lastFlush = false →
    (s.pwr.vwarn = false → ∃ t, exec .vwarnTaken s = .next t ∧ t.pwr.vwarn = true ∧ t.fld fNrgStateVwarn = 1
      ∧ (s.fld fNrgStatePstate ≠ 4 → s.fld fNrgStatePstate ≠ 5 → t.fld fNrgStatePstate = 1) ∧ t.fld fNrgClkCdiv = 48
      ∧ t.fld fNrgStateBalcores = 0 ∧ t.evtBit eNrg 0 = true ∧ (s.hw.variant.flash = true → t.fld fFtlStateFlusharm = 1)
      ∧ t.mem = s.mem ∧ t.idx = s.idx ∧ t.work.plans = s.work.plans ∧ t.work.tenants = s.work.tenants)
    ∧ (s.pwr.vwarn = true → ∃ t, exec .vwarnRelease s = .next t ∧ t.pwr.vwarn = false ∧ t.pwr.vwRecover = true
      ∧ t.fld fNrgStateVwarn = 0 ∧ t.work = s.work ∧ t.mem = s.mem ∧ t.idx = s.idx)
    ∧ (s.pwr.vwarn = false → s.pwr.vwRecover = true → ∃ t, exec .brownoutRecovery s = .next t ∧ t.pwr.vwRecover = false
      ∧ t.fld fNrgClkCdiv = 6 ∧ t.evtBit eNrg 1 = true
      ∧ (s.hw.variant.flash = true → s.flash.wbuf = [] → s.flash.fetches = [] → t.fld fFtlStateFlusharm = 0)
      ∧ t.nrg.vwHeld = [] ∧ t.nrg.heldOrder = s.nrg.heldOrder ++ s.nrg.vwHeld ∧ t.work = s.work ∧ t.mem = s.mem ∧ t.idx = s.idx)

/-- VWMAX_EXPIRY, RESET_THRESHOLD, FLUSH_COMPLETE and THERMAL_TRIP (R207, R208, R491, R605): at the threshold a node with a translation layer flushes on
hold-up energy and one without stops at once; a completed flush writes FLUSHEND into each copy of the journal whose channel serves, and goes on with
what it was for; a thermal trip asserts THERMTRIP# and stops the node, after the flush where there is a translation layer, but changes nothing else
in a hold or a flush. Readings that the model chose: log 42 and 66. -/
def Obligations.ThresholdFlushAndTrip : Prop :=
  ∀ s : State,
    (s.pwr.phase = .running → s.lastFlush = false → s.pwr.perst = false → s.hw.variant.flash = false →
      (∃ t, exec .resetThreshold s = .next t ∧ t.pwr.phase = .stopped ∧ t.mem.hbm = s.mem.hbm ∧ t.regs = [])
      ∧ (s.pwr.vwarn = true → ∃ t, exec .vwmaxExpiry s = .next t ∧ t.pwr.phase = .stopped ∧ t.mem.hbm = s.mem.hbm ∧ t.regs = []))
    ∧ (s.pwr.phase = .running → s.lastFlush = false → s.hw.variant.flash = true →
      (∃ t, exec .resetThreshold s = .next t ∧ t.pwr.flushing = some .holdup ∧ t.mem = s.mem ∧ t.idx = s.idx)
      ∧ (s.pwr.vwarn = true → ∃ t, exec .vwmaxExpiry s = .next t ∧ t.pwr.flushing = some .holdup ∧ t.mem = s.mem ∧ t.idx = s.idx))
    ∧ (s.flash.wbuf = [] → s.pwr.flushing = some .perst →
      ∃ t, exec .flushComplete s = .next t ∧ resetAs s t 1 0
        ∧ (s.jUp 0 = true → (t.flash.journal.1.getLast?.map (·.jtype)) = some .flushend)
        ∧ (s.jUp 1 = true → (t.flash.journal.2.getLast?.map (·.jtype)) = some .flushend))
    ∧ (s.flash.wbuf = [] → s.pwr.flushing = some .holdup → s.pwr.perst = false →
      ∃ t, exec .flushComplete s = .next t ∧ t.pwr.phase = .stopped
        ∧ (s.jUp 0 = true → (t.flash.journal.1.getLast?.map (·.jtype)) = some .flushend)
        ∧ (s.jUp 1 = true → (t.flash.journal.2.getLast?.map (·.jtype)) = some .flushend))
    ∧ (s.pwr.phase = .running → s.powerHeld = false → s.pwr.flushing = none →
      (s.pwr.perst = false → s.hw.variant.flash = false →
        ∃ t, exec .thermalTrip s = .next t ∧ t.pwr.thermtrip = true ∧ t.pwr.phase = .stopped)
      ∧ (s.hw.variant.flash = true →
        ∃ t, exec .thermalTrip s = .next t ∧ t.pwr.thermtrip = true ∧ t.pwr.flushing = some .thermal ∧ t.mem = s.mem))
    ∧ (s.pwr.phase = .running → (s.powerHeld = true ∨ s.pwr.flushing.isSome = true) →
      exec .thermalTrip s = .next { s with pwr := { s.pwr with thermtrip := true } })

/-! ## Energy -/

/-- PWR_LIM_CHANGE, HOLDUP_OK_DEASSERT, HOLDUP_OK_ASSERT, HOLDUP_READ and CALIBRATION_UPDATE (R474 to R476, R484): a new pin code raises LIMIT and sets
the live limit; the store's energy is half its capacitance times the difference of the squares, in mJ, and zero while HOLDUP_OK is deasserted or
below HUVMIN; a second failed read in a row raises TELEMERR and multiplies the last good factor by 1.25. Readings that the model chose: log 8 and
66. -/
def Obligations.LimitsAndHoldUpStore : Prop :=
  ∀ s : State, s.pwr.phase = .running →
    (∀ code, code < 8 → s.fld fNrgLimitPincode ≠ code → ∃ t, exec (.pwrLimChange code) s = .next t
      ∧ t.fld fNrgLimitPincode = code ∧ t.evtBit eNrg 7 = true
      ∧ t.fld fNrgLimitLive = min (s.fld fNrgCfgAllow) (min (s.fld fNrgCfgAllow * [15, 35, 50, 60, 70, 80, 90, 100].getD code 0 / 100)
          (max (s.fld fNrgLimitLimreg) (s.fld fNrgCfgAllow * 15 / 100))))
    ∧ (∃ t, exec .holdupOkDeassert s = .next t ∧ t.pwr.holdupOk = false ∧ t.fld fNrgHoldupHoldupok = 0 ∧ t.fld fNrgEavail = 0)
    ∧ (∃ t, exec .holdupOkAssert s = .next t ∧ t.pwr.holdupOk = true ∧ t.fld fNrgHoldupHoldupok = 1
        ∧ t.fld fNrgEavail = s.fld fNrgEavail)
    ∧ (∀ v, v < 65536 → ∃ t, exec (.holdupRead (some v)) s = .next t ∧ t.fld fNrgHoldupHuvnow = v ∧ t.fld fNrgHoldupHuvalid = 1
        ∧ t.pwr.huFails = 0
        ∧ t.fld fNrgEavail = if s.pwr.holdupOk = true ∧ s.fld fNrgHoldupHuvmin < v then
            s.fld fNrgHoldupHucap * (v * v - s.fld fNrgHoldupHuvmin * s.fld fNrgHoldupHuvmin) / 20000000 else 0)
    ∧ (∃ t, exec (.holdupRead none) s = .next t ∧ t.fld fNrgHoldupHuvalid = 0 ∧ t.fld fNrgEavail = 0
        ∧ t.pwr.huFails = s.pwr.huFails + 1 ∧ (s.pwr.huFails = 1 → t.evtBit eNrg 4 = true))
    ∧ (∀ r f, ((s.boot.image.map (·.pmbus)).getD [])[r]?.isSome = true → ∃ t, exec (.calibrationUpdate r (some f)) s = .next t
        ∧ Tbl.get 1000 t.nrg.factor r = f ∧ Tbl.get 0 t.nrg.telFails r = 0)
    ∧ (∀ r, ((s.boot.image.map (·.pmbus)).getD [])[r]?.isSome = true → Tbl.get 0 s.nrg.telFails r = 1 →
        ∃ t, exec (.calibrationUpdate r none) s = .next t ∧ t.evtBit eNrg 4 = true
        ∧ Tbl.get 1000 t.nrg.factor r = Tbl.get 1000 s.nrg.factor r * 5 / 4)

/-- ENERGY_WINDOW, IDLE1_ENTRY, and SET_POWER RUN, IDLE2 and STANDBY (R477, R493, R494, R521): the boundary sets the draw, pcap and pmin of the next
window by the formulas of R477, in µJ per window; an idle core gates its clock, and one that holds a lease does not; AUTOWAKE is stored; RUN on a
node that runs completes at once, and the others wait for their state. The order of completion is the model's reading of R521. Readings that the
model chose: log 43, 74 and 127. -/
def Obligations.WindowIdle1AndSetPower : Prop :=
  (∀ s : State, s.serving = true →
    (∀ w : WindowMeas, s.mgmt.stbyReq = none → (∀ x ∈ s.host.waits, ∀ k, x.2 ≠ .setPower k) →
      ∃ t, exec (.energyWindow w) s = .next t ∧ t.nrg.draw = w.draw ∧ t.nrg.ebase = w.ebase
        ∧ t.nrg.pcap = (if 100 * w.draw ≤ 100 * s.liveLimit
            then min (100 * s.liveLimit) (100 * w.draw + 10 * s.fld fNrgCfgSlewup)
            else max (100 * s.liveLimit) (100 * w.draw - 10 * s.fld fNrgCfgSlewdn))
        ∧ t.nrg.pmin = 100 * w.draw - 10 * s.fld fNrgCfgSlewdn)
    ∧ (∀ c, c < s.hw.variant.cores → s.fld (fCoreStateLease c) = 0xFFFF → s.flag (fCoreStateBallaston c) = false →
      ∃ t, exec (.idle1Entry c) s = .next t ∧ (t.core c).gated = true ∧ (∀ k, k ≠ c → t.core k = s.core k) ∧ t.regs = s.regs)
    ∧ (∀ c, c < s.hw.variant.cores → s.fld (fCoreStateLease c) ≠ 0xFFFF → exec (.idle1Entry c) s = .next s))
  ∧ (∀ (s : State) (h : HostHdr) (aw : Bool), s.takes h = true →
    (s.fld fNrgStatePstate ≠ 4 → s.fld fNrgStatePstate ≠ 5 →
      ∃ t, exec (.setPowerRun h aw) s = .next t ∧ answered s t h .ok ∧ t.fld fNrgStateAutowake = b2n aw ∧ t.work = s.work)
    ∧ (s.fld fNrgStatePstate = 4 →
      ∃ t, exec (.setPowerRun h aw) s = .next t ∧ t.out = s.out ∧ t.fld fNrgStatePstate = 5
        ∧ t.host.waits = s.host.waits ++ [(h, .setPower 0)])
    ∧ (s.fld fNrgStatePstate ≠ 4 →
      ∃ t, exec (.setPowerIdle2 h aw) s = .next t ∧ t.out = s.out ∧ t.fld fNrgStateAutowake = b2n aw
        ∧ t.host.waits = s.host.waits ++ [(h, .setPower 1)] ∧ t.work = s.work)
    ∧ (∃ t, exec (.setPowerStandby h aw) s = .next t ∧ t.out = s.out ∧ t.fld fNrgStateAutowake = b2n aw
        ∧ t.host.waits = s.host.waits ++ [(h, .setPower 2)] ∧ t.work = s.work))

/-! ## Boot, security and management -/

/-- BOOT_IMAGE_VERIFY (R559, R564): an image that fails one of checks 1 to 7 stops the boot with BOOTFAIL set, the BOOTCODE of the first check that
fails, and BUSY and TOP_RESETCAUSE.CAUSE shown as they stand; a CONFIG that is refused stops it with 0x08, a MAINT section that is refused with
0x09. One that passes every check is the running image, with VERIFIED set and FWVER shown, and its maintenance plans are loaded for SYSTEM. Readings
that the model chose: log 45, 46 and 122. -/
def Obligations.BootImageVerified : Prop :=
  ∀ (s : State) (e : ImageEnv) (i : BootImage), s.pwr.phase = .stage1 → s.pwr.bootStalled = false → i = imageOf s.hw s.boot e →
    (∀ code, imageFault s.hw i = some code → ∃ t, exec (.bootImageVerify e) s = .next t ∧ t.pwr.phase = .failed
      ∧ t.fld fTopStatusBootfail = 1 ∧ t.fld fTopStatusBootcode = code ∧ t.fld fTopStatusBusy = s.fld fTopStatusBusy
      ∧ t.fld fTopResetcauseCause = s.pwr.cause % 16 ∧ t.mem = s.mem ∧ t.work = s.work)
    ∧ (imageFault s.hw i = none → (s.bootPrep i).applyConfig i.config = none → ∃ t, exec (.bootImageVerify e) s = .next t
      ∧ t.pwr.phase = .failed ∧ t.fld fTopStatusBootfail = 1 ∧ t.fld fTopStatusBootcode = 0x08 ∧ t.mem = s.mem ∧ t.work = s.work)
    ∧ (∀ c, imageFault s.hw i = none → (s.bootPrep i).applyConfig i.config = some c → c.imageRuns i = none →
      ∃ t, exec (.bootImageVerify e) s = .next t ∧ t.pwr.phase = .failed ∧ t.fld fTopStatusBootfail = 1
        ∧ t.fld fTopStatusBootcode = 0x09 ∧ t.mem = s.mem ∧ t.work = s.work)
    ∧ (∀ c t, imageFault s.hw i = none → (s.bootPrep i).applyConfig i.config = some c → c.imageRuns i = some t →
      exec (.bootImageVerify e) s = .next t ∧ t.pwr.phase = .verified ∧ t.boot.image = some i
        ∧ t.fld fTopFwverFwver = i.fwver % 2 ^ 32 ∧ t.fld fSecStateVerified = 1
        ∧ ∀ k p, i.maint.plans[k]? = some p → ∃ x, t.plan? (maintFirst i.maint + k) = some x ∧ x.hdr = p ∧ x.owner = 0xFFFF)

/-- The order of the checks of R564: each clause names the first check that fails, with its BOOTCODE; an image that passes all of them has none. -/
def Obligations.BootChecksInOrder : Prop :=
  ∀ (hw : Hw) (i : BootImage),
    let c1 := i.deviceOk && i.magicOk
    let c2 := i.format == 1 && decide (1 ≤ i.nsect) && decide (i.nsect ≤ 32) && decide (i.imglen ≤ i.devSize) && i.boundsOk
    let c3 := i.rootKeyOk && decide (i.rootslot < 4) && !bitOf hw.rootRevoked i.rootslot
    let c6 := bitOf i.variants (hw.variant.code - 1) && (i.bindser == 0 || i.bindser == hw.serial)
    (c1 = false → imageFault hw i = some 0x01)
    ∧ (c1 = true → c2 = false → imageFault hw i = some 0x02)
    ∧ (c1 = true → c2 = true → c3 = false → imageFault hw i = some 0x03)
    ∧ (c1 = true → c2 = true → c3 = true → i.sigOk = false → imageFault hw i = some 0x04)
    ∧ (c1 = true → c2 = true → c3 = true → i.sigOk = true → i.arb < hw.arbFuse → imageFault hw i = some 0x05)
    ∧ (c1 = true → c2 = true → c3 = true → i.sigOk = true → hw.arbFuse ≤ i.arb → c6 = false → imageFault hw i = some 0x06)
    ∧ (c1 = true → c2 = true → c3 = true → i.sigOk = true → hw.arbFuse ≤ i.arb → c6 = true →
      (i.digestsOk = false → imageFault hw i = some 0x07)
      ∧ (i.digestsOk = true → typesOk hw.variant i.types = false → imageFault hw i = some 0x02)
      ∧ (i.digestsOk = true → typesOk hw.variant i.types = true → imageFault hw i = none))

/-- BOOT_COMPLETE (R516, R578, R584): with every self-test group passed the node opens PF0's admin queues as QUEUES gives them, clears BUSY, sets READY
and BOOTDONE, and sends an unsolicited WAKE; a link with no spare lane stops it with BOOTCODE 0x0A. Readings that the model chose: log 47, 113 and
125. -/
def Obligations.BootOpensTheNode : Prop :=
  ∀ (s : State) (i : BootImage), s.pwr.phase = .verified → s.pwr.bootStalled = false → s.boot.image = some i →
    (∃ t, exec (.bootComplete []) s = .next t ∧ t.pwr.phase = .running ∧ t.fld fTopStatusBusy = 0 ∧ t.fld fTopStatusReady = 1
      ∧ t.evtBit eTop 0 = true ∧ (∃ more, t.out = more ++ s.out ∧ Out.mgmt 0x06 0 .ok [] ∈ more)
      ∧ (∃ q, Tbl.find t.host.sqs 0 = some q ∧ q.depth = i.queues.sqDepth ∧ q.ring = i.queues.sqRing ∧ q.head = 0 ∧ q.tail = 0
          ∧ q.enabled = true)
      ∧ (∃ q, Tbl.find t.host.cqs 0 = some q ∧ q.depth = i.queues.cqDepth ∧ q.ring = i.queues.cqRing ∧ q.enabled = true))
    ∧ (∃ t, exec (.bootComplete [⟨4, 1, none⟩]) s = .next t ∧ t.pwr.phase = .failed ∧ t.fld fTopStatusBootfail = 1
      ∧ t.fld fTopStatusBootcode = 0x0A ∧ t.fld fSecStateBistgrp = 4)

/-- REGREAD, REGWRITE, HEALTH, HEALTH_INTERVAL, CPERREAD, STANDBY, WAKE and FOREIGN_MCTP_MESSAGE (R465, R493, R536, R572, R573): each request is
answered with its kind and MSEQ, a register read that the control path loses with all ones (R446); a record read moves the secure master's mark
only; a request that Standby is asked of waits for it; a dropped message raises MSGERR. Readings that the model chose: log 14, 48 and 64. -/
def Obligations.ManagementMessages : Prop :=
  ∀ (s : State) (q : Nat), s.mgmtUp = true →
    (∀ a, a % 4 = 0 → a < 0x4000000 → exec (.regread q a 0) s =
      .next { s with out := .mgmt 0x01 q .ok (leBytes 4 (s.busRead .secure a).toNat) :: s.out })
    ∧ (∀ a x t, s.busWrite .secure a x = .next t → exec (.regwrite q a x 0) s =
        .next { t with out := .mgmt 0x02 q .ok [] :: t.out })
    ∧ (s.fld fTopStatusBusy = 0 → ∀ a (x : W32) par, 0 < par →
        (par ≤ 4 → exec (.regread q a par) s = exec (.regread q a 0) (s.count kChkParreplay par)
          ∧ exec (.regwrite q a x par) s = exec (.regwrite q a x 0) (s.count kChkParreplay par))
        ∧ (4 < par → (a % 4 = 0 → a < 0x4000000 → ∃ t, exec (.regread q a par) s =
              .next { t with out := .mgmt 0x01 q .ok (leBytes 4 0xFFFFFFFF) :: t.out } ∧ accessLost s t)
          ∧ ∃ t, exec (.regwrite q a x par) s = .next { t with out := .mgmt 0x02 q .ok [] :: t.out } ∧ accessLost s t))
    ∧ exec (.health q) s = .next { s with out := .mgmt 0x03 q .ok (leBytes 8 (s.reg64 0x30) ++ leBytes 8 (s.reg64 0x30010)
        ++ leBytes 8 (s.reg64 0x20020) ++ leBytes 8 (s.reg64 0x58)) :: s.out }
    ∧ (s.fld fMgtCfgHealthint ≠ 0 → exec .healthInterval s = .next { s with out := .mgmt 0x03 0 .ok (leBytes 8 (s.reg64 0x30)
        ++ leBytes 8 (s.reg64 0x30010) ++ leBytes 8 (s.reg64 0x20020) ++ leBytes 8 (s.reg64 0x58)) :: s.out })
    ∧ (∀ c, s.chk.ring.find? (fun r => decide (s.chk.secMark ≤ r.rseq)) = some c → exec (.cperread q) s =
        .next { s with chk := { s.chk with secMark := c.rseq + 1 }, out := .mgmt 0x04 q .ok (cperRecord c) :: s.out })
    ∧ (s.chk.ring.find? (fun r => decide (s.chk.secMark ≤ r.rseq)) = none → exec (.cperread q) s =
        .next { s with out := .mgmt 0x04 q .notFound [] :: s.out })
    ∧ (s.serving = true → ∃ t, exec (.standby q) s = .next t ∧ t.mgmt.stbyReq = some q ∧ t.evtBit eMgt 1 = true ∧ t.out = s.out
        ∧ t.work = s.work)
    ∧ (s.pwr.phase = .standby → ∃ t, exec (.wake q) s = .next t ∧ resetAs s t 3 0 ∧ t.mgmt.wakeReq = some q ∧ t.out = s.out)
    ∧ (s.pwr.phase ≠ .standby → exec (.wake q) s = .next { s with out := .mgmt 0x06 q .ok [] :: s.out })
    ∧ (∃ t, exec .foreignMctpMessage s = .next t ∧ t.evtBit eMgt 2 = true ∧ t.out = s.out ∧ t.mem = s.mem)

/-- RECOVER, FLASHREAD, FLASHERASE, FLASHWRITE, RESET and ARBCOMMIT (R566, R573, R574): in recovery the boot flash is read, erased by 64 KiB and, where
it is erased, written; RECOVER holds the node for recovery, on a part with flash after the flush; outside it the three answer NODE_BUSY and change
nothing; RESET ends a recovery as PERST# does; ARBCOMMIT raises the fuses to the ARB of the running image and never lowers them. An erased byte
reads 0xFF: log 4. -/
def Obligations.RecoveryAndBootFlash : Prop :=
  ∀ (s : State) (q : Nat),
    (s.pwr.phase = .running → s.lastFlush = false → s.flag fTopStatusBusy = false → s.hw.variant.flash = false →
      ∃ t, exec (.recover q) s = .next t ∧ t.pwr.phase = .recovery ∧ t.fld fSecStateRecovery = 1 ∧ t.fld fTopStatusBusy = 1
        ∧ t.evtBit eMgt 0 = true ∧ t.out = .mgmt 0x07 q .ok [] :: s.out ∧ t.boot = s.boot)
    ∧ (s.pwr.phase = .running → s.lastFlush = false → s.flag fTopStatusBusy = false → s.hw.variant.flash = true →
      ∃ t, exec (.recover q) s = .next t ∧ t.pwr.flushing = some .recover ∧ t.mgmt.recoverReq = some q ∧ t.boot = s.boot)
    ∧ (s.pwr.phase = .recovery → ∀ a n, 1 ≤ n → n ≤ 256 → exec (.flashread q a n) s = .next { s with
        out := .mgmt 0x08 q .ok ((List.range n).map (fun i => Tbl.get 0xFF s.boot.flash (a + i))) :: s.out })
    ∧ (s.pwr.phase = .recovery → ∀ a, a % 65536 = 0 → ∃ t, exec (.flasherase q a) s = .next t ∧ t.out = .mgmt 0x09 q .ok [] :: s.out
        ∧ ∀ k, Tbl.get 0xFF t.boot.flash k = if a ≤ k ∧ k < a + 65536 then 0xFF else Tbl.get 0xFF s.boot.flash k)
    ∧ (s.pwr.phase = .recovery → ∀ a data, a % 256 = 0 → 1 ≤ data.length → data.length ≤ 256 →
        (∀ i, i < data.length → Tbl.get 0xFF s.boot.flash (a + i) = 0xFF) →
        ∃ t, exec (.flashwrite q a data) s = .next t ∧ t.out = .mgmt 0x0A q .ok [] :: s.out
          ∧ ∀ k, Tbl.get 0xFF t.boot.flash k = if a ≤ k ∧ k < a + data.length then data.getD (k - a) 0 else Tbl.get 0xFF s.boot.flash k)
    ∧ (s.mgmtUp = true → s.pwr.phase ≠ .recovery → ∀ a n data,
        exec (.flashread q a n) s = .next { s with out := .mgmt 0x08 q .nodeBusy [] :: s.out }
        ∧ exec (.flasherase q a) s = .next { s with out := .mgmt 0x09 q .nodeBusy [] :: s.out }
        ∧ exec (.flashwrite q a data) s = .next { s with out := .mgmt 0x0A q .nodeBusy [] :: s.out })
    ∧ (s.pwr.phase = .recovery → ∃ t, exec (.reset q) s = .next t ∧ resetAs s t 1 0 ∧ t.out = s.out)
    ∧ (∀ i, s.mgmtUp = true → s.boot.image = some i → ∃ t, exec (.arbcommit q) s = .next t
        ∧ t.hw = { s.hw with arbFuse := max s.hw.arbFuse i.arb }
        ∧ t.out = .mgmt 0x0C q .ok (leBytes 1 (max s.hw.arbFuse i.arb)) :: s.out)

/-- The SPDM requests (R570, R571): on a transport that answers, a request that comes in its place is answered, both join that transport's transcript,
and the other transport is not disturbed; measurement 4 is the digest of CONFIG; a transport whose algorithms are not negotiated answers
UnexpectedRequest. The response codes and payloads are the model's (log 49). -/
def Obligations.SpdmExchange : Prop :=
  ∀ (s : State) (tr other : SpdmTr) (nonce : List Byte), s.spdmUp tr = true → other ≠ tr →
    (∃ t, exec (.getVersion tr) s = .next t ∧ (t.spdm tr).version = true ∧ (t.spdm tr).algs = false ∧ t.spdm other = s.spdm other
      ∧ t.out = .spdm tr 0x04 [0, 1, 0, 0x13] :: s.out ∧ (t.spdm tr).transcript = [0x84, 0, 1, 0, 0x13])
    ∧ ((s.spdm tr).version = true → ∃ t, exec (.getCapabilities tr) s = .next t ∧ (t.spdm tr).caps = true
        ∧ t.spdm other = s.spdm other ∧ ∃ p, t.out = .spdm tr 0x61 p :: s.out
          ∧ (t.spdm tr).transcript = (s.spdm tr).transcript ++ [0xE1] ++ p)
    ∧ ((s.spdm tr).version = true → (s.spdm tr).caps = true → ∃ t, exec (.negotiateAlgorithms tr true true) s = .next t
        ∧ (t.spdm tr).algs = true ∧ t.spdm other = s.spdm other ∧ ∃ p, t.out = .spdm tr 0x63 p :: s.out
          ∧ (t.spdm tr).transcript = (s.spdm tr).transcript ++ [0xE3] ++ p)
    ∧ ((s.spdm tr).algs = true →
        (∃ t p, exec (.getDigests tr) s = .next t ∧ t.out = .spdm tr 0x01 p :: s.out ∧ t.spdm other = s.spdm other
          ∧ (t.spdm tr).transcript = (s.spdm tr).transcript ++ [0x81] ++ p)
        ∧ (∀ off len, ∃ t p, exec (.getCertificate tr 0 off len) s = .next t ∧ t.out = .spdm tr 0x02 p :: s.out
          ∧ t.spdm other = s.spdm other ∧ (t.spdm tr).transcript = (s.spdm tr).transcript ++ [0x82] ++ p)
        ∧ (∃ t p, exec (.challenge tr 0 nonce) s = .next t ∧ t.out = .spdm tr 0x03 p :: s.out ∧ t.spdm other = s.spdm other
          ∧ (t.spdm tr).transcript = (s.spdm tr).transcript ++ 0x83 :: nonce ++ p)
        ∧ (∃ t, exec (.getMeasurements tr 4 false nonce) s = .next t ∧ t.out = .spdm tr 0x60 (4 :: s.secDigest 2) :: s.out
          ∧ t.spdm other = s.spdm other
          ∧ (t.spdm tr).transcript = (s.spdm tr).transcript ++ 0xE0 :: 4 :: nonce ++ 4 :: s.secDigest 2)
        ∧ (∃ t, exec (.getMeasurements tr 0 false nonce) s = .next t ∧ t.out = .spdm tr 0x60 [8] :: s.out
          ∧ t.spdm other = s.spdm other ∧ (t.spdm tr).transcript = (s.spdm tr).transcript ++ 0xE0 :: 0 :: nonce ++ [8]))
    ∧ ((s.spdm tr).algs = false → exec (.getDigests tr) s = .next { s with out := .spdm tr 0x7F [4] :: s.out })

/-! ## Registers -/

/-- R538: recording an event sets its bit, keeps every other event bit and advances SEQ by one modulo 256, whether the bit was set or not; for FAB_HWM
SEQ advances exactly when the mark rises; a clear never changes SEQ. -/
def Obligations.SequenceNumbersAdvance : Prop :=
  (∀ (s : State) (a b : Nat), b < 24 → (s.event a b).evtBit a b = true ∧ evtSeq ((s.event a b).word a) = (evtSeq (s.word a) + 1) % 256
      ∧ (∀ c, c < 24 → c ≠ b → (s.event a b).evtBit a c = s.evtBit a c) ∧ ∀ k, k ≠ a → (s.event a b).word k = s.word k)
  ∧ (∀ (w : W32) (v : Nat), (w.toNat % 2 ^ 24 < min v (2 ^ 24 - 1) → evtSeq (hwmRaise w v) = (evtSeq w + 1) % 256
        ∧ (hwmRaise w v).toNat % 2 ^ 24 = min v (2 ^ 24 - 1))
      ∧ (min v (2 ^ 24 - 1) ≤ w.toNat % 2 ^ 24 → hwmRaise w v = w))
  ∧ (∀ (w x y : W32), sqClear w x = some y → evtSeq y = evtSeq w)

/-- SQ_CLEAR (R539): when bits [31:24] of the value are the register's SEQ, each bit of an event status register written as one is cleared and each
written as zero stays, and the mark of FAB_HWM becomes zero whatever the other bits hold; SEQ stays. Otherwise nothing changes but TOP_SQSTALE,
which counts. Nothing outside the registers changes. -/
def Obligations.EventRegistersClear : Prop :=
  ∀ (s : State) (req : Requester) (a : Nat) (x : W32), s.fld fTopStatusBusy = 0 →
    (∀ r, s.regOf a = some r → x.toNat &&& regMask r (fun c => c == .wb) = 0) →
    ((a ∈ [eTop, eHst, eNrg, eChk, eSec, eMgt, eCas, eTra] ∨ (∃ p, p < s.hw.variant.ports ∧ a = ePort p)
        ∨ (s.hw.variant.flash = true ∧ (a = eFtl ∨ ∃ c, c < 32 ∧ a = eFce c)) ∨ (∃ c, c < s.hw.variant.cores ∧ a = eCore c)
        ∨ (∃ c, c < s.hw.variant.channels ∧ a = eNbu c)) → evtSeq x = evtSeq (s.word a) →
      ∃ t, exec (.sqClear req a x 0) s = .next t ∧ evtSeq (t.word a) = evtSeq (s.word a)
        ∧ (∀ b, b < 24 → t.evtBit a b = (s.evtBit a b && !bitOf x.toNat b)) ∧ (∀ k, k ≠ a → t.word k = s.word k)
        ∧ t = { s with regs := t.regs })
    ∧ (∀ p c, p < s.hw.variant.ports → c < 8 → a = portBase p + 0x80 + 4 * c → evtSeq x = evtSeq (s.word a) →
      ∃ t, exec (.sqClear req a x 0) s = .next t ∧ evtSeq (t.word a) = evtSeq (s.word a) ∧ (t.word a).toNat % 2 ^ 24 = 0
        ∧ (∀ k, k ≠ a → t.word k = s.word k) ∧ t = { s with regs := t.regs })
    ∧ ((a ∈ [eTop, eHst, eNrg, eChk, eSec, eMgt, eCas, eTra] ∨ (∃ p, p < s.hw.variant.ports ∧ a = ePort p)
        ∨ (s.hw.variant.flash = true ∧ (a = eFtl ∨ ∃ c, c < 32 ∧ a = eFce c)) ∨ (∃ c, c < s.hw.variant.cores ∧ a = eCore c)
        ∨ (∃ c, c < s.hw.variant.channels ∧ a = eNbu c)
        ∨ (∃ p c, p < s.hw.variant.ports ∧ c < 8 ∧ a = portBase p + 0x80 + 4 * c)) → evtSeq x ≠ evtSeq (s.word a) →
      ∃ t, exec (.sqClear req a x 0) s = .next t ∧ t.reg64 0x80 = (s.reg64 0x80 + 1) % 2 ^ 64
        ∧ (∀ k, k ≠ 0x80 → k ≠ 0x84 → t.word k = s.word k) ∧ t = { s with regs := t.regs })

/-- REGISTER_WRITE, MULTIWORD_STAGED_WRITE and the three alias writes (R536, R542 to R545): a one-word register takes its value at once; the low word of
a register of two words is only staged and the high word commits both, the fields that the requester cannot write as they were; a set, clear or
toggle write changes the bits that are one; a write of a one to a reserved bit is a host error, which leaves a free value in what the requester
writes there and nothing else changed (log 94). A word that failed parity at most four times is written after as many replays, which PARREPLAY
counts; one that failed more often is dropped and CTLPAR is raised (R446). Readings that the model chose: log 64 and 94. -/
def Obligations.RegisterWrites : Prop :=
  ∀ (s : State) (req : Requester), s.fld fTopStatusBusy = 0 →
    (∀ c (x : W32), c < s.hw.variant.cores → x.toNat < 128 → 8 ≤ bits x.toNat 2 5 → bits x.toNat 2 5 ≤ 24 →
      ∃ t, exec (.registerWrite req (coreBase c + 8) x 0) s = .next t ∧ t.word (coreBase c + 8) = x
        ∧ (∀ k, k ≠ coreBase c + 8 → t.word k = s.word k) ∧ t = { s with regs := t.regs })
    ∧ (∀ x : W32, x.toNat < 2 ^ 16 →
        (∃ t, exec (.multiwordStagedWrite req 0x20010 x 0) s = .next t ∧ t = { s with stagedW := t.stagedW }
          ∧ Tbl.find t.stagedW (stageKey req 0x20010) = some x)
        ∧ (Tbl.find s.stagedW (stageKey req 0x20010) = some x →
            ∃ t, exec (.multiwordStagedWrite req 0x20014 0 0) s = .next t ∧ t.fld fNrgLimitLimreg = x.toNat
              ∧ t.fld fNrgLimitPincode = s.fld fNrgLimitPincode ∧ t.fld fNrgLimitLive = s.fld fNrgLimitLive
              ∧ Tbl.find t.stagedW (stageKey req 0x20010) = none))
    ∧ (∃ t, exec (.aliasSetWrite req 0x4038 1 0) s = .next t ∧ t.fld fTopCtlQuiesce = 1 ∧ t.stagedW = s.stagedW)
    ∧ (∃ t, exec (.aliasClearWrite req 0x8038 1 0) s = .next t ∧ t.fld fTopCtlQuiesce = 0 ∧ t.fld fTopStatusQuiesced = 0)
    ∧ (∃ t, exec (.aliasToggleWrite req 0xC038 1 0) s = .next t ∧ t.fld fTopCtlQuiesce = 1 - s.fld fTopCtlQuiesce)
    ∧ (∃ t, exec (.registerWrite req 0x38 2 0) s = .next t ∧ t.fld fTopCtlQuiesce = s.freeNow % 2
        ∧ t = { s with regs := t.regs, out := .unpredictable 536 s.freeNow :: s.out, free := s.free + 1 })
    ∧ (∃ t, exec (.aliasSetWrite req 0x4038 3 0) s = .next t ∧ t.fld fTopCtlQuiesce = s.freeNow % 2
        ∧ t = { s with regs := t.regs, out := .unpredictable 544 s.freeNow :: s.out, free := s.free + 1 })
    ∧ (∀ (f : Nat → W32 → Nat → Instr) a (x : W32) par, 0 < par →
        (f = .registerWrite req ∧ a % 0x10000 < 0x4000) ∨ (f = .sqClear req ∧ a % 0x10000 < 0x4000 ∧ (s.regOf a).any (·.sq) = true)
          ∨ (f = .multiwordStagedWrite req ∧ a % 0x10000 < 0x4000 ∧ (s.regOf a).any (fun r => r.staged req) = true)
          ∨ (f = .aliasSetWrite req ∧ a % 0x10000 / 0x4000 = 1) ∨ (f = .aliasClearWrite req ∧ a % 0x10000 / 0x4000 = 2)
          ∨ (f = .aliasToggleWrite req ∧ a % 0x10000 / 0x4000 = 3) →
        (par ≤ 4 → exec (f a x par) s = exec (f a x 0) (s.count kChkParreplay par))
        ∧ (4 < par → ∃ t, exec (f a x par) s = .next t ∧ accessLost s t))

/-- QUIESCE, QUIESCED, SCALE_REGISTER_WRITE, PORT_RESET and PORT_RESET_DONE (R274, R276, R399, R402, R556, R557): the node reports QUIESCED when no
request is outstanding; the host writes a scale register of a core that no lease holds, whose OVF it only clears; a port reset drops the link, its
contexts and staged data, and RESET reads one until the reset is done. A scale register write that the control path loses changes no scale register
(R446). Readings that the model chose: log 64 and 65. -/
def Obligations.QuiesceScaleAndPortReset : Prop :=
  ∀ s : State, s.serving = true →
    (∃ t, exec .quiesce s = .next t ∧ t.fld fTopCtlQuiesce = 1 ∧ t.work = s.work)
    ∧ (s.flag fTopCtlQuiesce = true → s.work.reqs = [] → s.flag fTopStatusQuiesced = false →
        ∃ t, exec .quiesced s = .next t ∧ t.fld fTopStatusQuiesced = 1 ∧ t.evtBit eTop 1 = true)
    ∧ (∀ c i (x : W32), c < s.hw.variant.cores → i < 512 → s.fld (fCoreStateLease c) = 0xFFFF → bits x.toNat 12 8 ≠ 0xFF →
        bits x.toNat 22 2 = 0 → ∃ t, exec (.scaleRegisterWrite c i x 0) s = .next t ∧ t = { s with regs := t.regs }
        ∧ t.word (coreBase c + 0x1000 + 4 * i) = BitVec.ofNat 32
            (putBits x.toNat 21 1 (b2n (bitOf x.toNat 21 && bitOf (s.word (coreBase c + 0x1000 + 4 * i)).toNat 21))))
    ∧ (∀ c i (x : W32) par, c < s.hw.variant.cores → i < 512 → 0 < par →
        (par ≤ 4 → exec (.scaleRegisterWrite c i x par) s = exec (.scaleRegisterWrite c i x 0) (s.count kChkParreplay par))
        ∧ (4 < par → ∃ t, exec (.scaleRegisterWrite c i x par) s = .next t ∧ accessLost s t))
    ∧ (∀ p, p < s.hw.variant.ports → s.flag (fFabPcfgReset p) = false → ∃ t, exec (.portReset p) s = .next t
        ∧ t.fld (fFabPcfgReset p) = 1 ∧ t.fld (fFabPcfgLinkup p) = 0 ∧ (t.port p).up = false ∧ (t.port p).ctxs = [] ∧ (t.port p).egress = [])
    ∧ (∀ p, p < s.hw.variant.ports → ∃ t, exec (.portResetDone p) s = .next t ∧ t.fld (fFabPcfgReset p) = 0 ∧ t.fab = s.fab)

/-! ## Near-bank units -/

/-- NBU_GO, SLOT_RELEASE and SLOT_START (R124, R125, R126, R128, R140, R577): one GO write readies its slots as one group behind the groups that wait; a
slot that needs MAC lanes that the variant lacks completes at once with NOT_PRESENT; a GO for a slot that is ready, running or paused is a host
error that leaves the slot's state (log 94); an idle currant starts the next slot in order with the registers of its slot, and the first slot of a
group of another lease finds the buffers, the heap and the accumulators cleared; writing SSTATE returns a DONE slot to IDLE, and is a host error
that changes no slot for one that is ready, running or paused. Readings that the model chose: log 26, 94 and 95. -/
def Obligations.NearBankSlotsRunInOrder : Prop :=
  ∀ (s : State) (ch : Nat), ch < s.nch → s.serving = true →
    (∀ mask, mask < 2 ^ 16 → mask ≠ 0 → s.flag (fNbuCtlEnable ch) = true → s.flag (fNbuCtlDrain ch) = false →
      (∀ k ∈ maskBits 16 mask, s.slotAbsent ch k = false ∧ (s.sstate ch k = 0 ∨ s.sstate ch k = 4)) →
      ∃ t, exec (.nbuGo ch mask) s = .next t ∧ (t.cur ch).groups = (s.cur ch).groups ++ [maskBits 16 mask] ∧ onlyCurRegs ch s t
        ∧ ∀ k ∈ maskBits 16 mask, t.sstate ch k = 1)
    ∧ (∀ k, k < 16 → s.flag (fNbuCtlEnable ch) = true → s.flag (fNbuCtlDrain ch) = false → s.slotAbsent ch k = true →
        (s.sstate ch k = 0 ∨ s.sstate ch k = 4) →
        ∃ t, exec (.nbuGo ch (2 ^ k)) s = .next t ∧ t.sstate ch k = 4 ∧ t.slotGet ch k 4 1 = statusCode .notPresent
          ∧ t.evtBit (eNbu ch) 3 = true ∧ (t.cur ch).groups = (s.cur ch).groups)
    ∧ (∀ mask k, mask < 2 ^ 16 → s.flag (fNbuCtlEnable ch) = true → s.flag (fNbuCtlDrain ch) = false → k ∈ maskBits 16 mask →
        (s.sstate ch k = 1 ∨ s.sstate ch k = 2 ∨ s.sstate ch k = 3) →
        ∃ t, exec (.nbuGo ch mask) s = .next t ∧ Out.unpredictable 124 s.freeNow ∈ t.out ∧ t.sstate ch k = s.sstate ch k)
    ∧ (∀ k, k < 16 → s.sstate ch k = 4 →
        ∃ t, exec (.slotRelease ch k) s = .next t ∧ t.sstate ch k = 0 ∧ t = { s with regs := t.regs })
    ∧ (∀ k, k < 16 → (s.sstate ch k = 1 ∨ s.sstate ch k = 2 ∨ s.sstate ch k = 3) →
        exec (.slotRelease ch k) s = .next { s with out := .unpredictable 124 s.freeNow :: s.out, free := s.free + 1 })
    ∧ (∀ qwait k r gs first, (s.cur ch).rs = .idle → s.powerHeld = false → s.flag (fNbuCtlEnable ch) = true →
        (s.cur ch).nextSlot = some (k, r, gs, first) → k < 16 →
        (s.nbuRange (s.slotGet ch k 6 2)).1 ≤ s.slotGet ch k 0 2 % 512 → s.slotGet ch k 0 2 % 512 < (s.nbuRange (s.slotGet ch k 6 2)).2 →
        ∃ t, exec (.slotStart ch qwait) s = .next t ∧ t.sstate ch k = 2
          ∧ t = { s with regs := t.regs, nbu := t.nbu, work := { s.work with reqs := t.work.reqs } }
          ∧ (∀ j, j ≠ ch → t.cur j = s.cur j)
          ∧ (t.cur ch).rs = .run ∧ (t.cur ch).slot = k ∧ (t.cur ch).pc = s.slotGet ch k 0 2 % 512 ∧ (t.cur ch).group = r
          ∧ (t.cur ch).groups = gs ∧ (t.cur ch).limit = s.slotGet ch k 0x30 4 % 2 ^ 24 ∧ (t.cur ch).passcnt = 0
          ∧ (∀ i, i < 8 → (t.cur ch).areg i = s.slotGet ch k (8 + 4 * i) 4 % 2 ^ 28)
          ∧ (first = true → s.slotGet ch k 6 2 ≠ (s.cur ch).lastLease →
              (t.cur ch).buf = List.replicate 4 (zeros 1024) ∧ (t.cur ch).heap = [] ∧ (t.cur ch).qwait = qwait + 8
              ∧ (t.cur ch).sf = List.replicate 256 0 ∧ (t.cur ch).of_ = List.replicate 256 0)
          ∧ (first = false ∨ s.slotGet ch k 6 2 = (s.cur ch).lastLease →
              (t.cur ch).buf = (s.cur ch).buf ∧ (t.cur ch).sf = (s.cur ch).sf ∧ (t.cur ch).qwait = qwait))

/-- REF_DUE, FORCED_PAUSE, REFRESH_COMPLETE and CEWARN_INTERVAL (R144, R145, R146, R155): with a slot running a refresh becomes due and waits for a
yield point; a forced pause stops the slot, counts and raises FORCED; the refresh ends the pause, the paused cycles count, and nothing else of the
currant changes; a new interval counts corrected errors from zero. -/
def Obligations.RefreshPausesSlots : Prop :=
  ∀ (s : State) (ch : Nat), ch < s.nch → s.serving = true →
    (∃ t, exec (.refDue ch) s = .next t ∧ onlyCurRegs ch s t
      ∧ t.cur ch = (if (s.cur ch).rs = .run then { s.cur ch with refDue := true } else s.cur ch))
    ∧ ((s.cur ch).rs = .run → (s.cur ch).refDue = true → (s.cur ch).slot < 16 →
        ∃ t, exec (.forcedPause ch) s = .next t ∧ t.cur ch = { s.cur ch with rs := .paused } ∧ t.sstate ch (s.cur ch).slot = 3
          ∧ t.evtBit (eNbu ch) 2 = true ∧ t.reg64 (kNbuForcepause ch) = (s.reg64 (kNbuForcepause ch) + 1) % 2 ^ 64 ∧ t.mem = s.mem)
    ∧ (∀ cyc, (s.cur ch).rs = .paused → (s.cur ch).slot < 16 → s.powerHeld = false →
        ∃ t, exec (.refreshComplete ch cyc) s = .next t ∧ onlyCurRegs ch s t ∧ t.sstate ch (s.cur ch).slot = 2
          ∧ t.cur ch = { s.cur ch with rs := .run, refDue := false, pausec := (s.cur ch).pausec + cyc }
          ∧ t.reg64 (kNbuPausecyc ch) = (s.reg64 (kNbuPausecyc ch) + cyc) % 2 ^ 64)
    ∧ (∃ t, exec (.cewarnInterval ch) s = .next t ∧ onlyCurRegs ch s t
        ∧ t.cur ch = { s.cur ch with ceCount := 0, ceWarned := false })

/-- The control micro-ops NOP, LDA, ADDA, LDC, LOOP, JMP, SETS, SIGNAL and ACLR (R130, R144): each does to the currant what the table says and nothing
more, address sums wrapping at 28 bits and counters at 16; at a yield point with a refresh due the slot pauses after the micro-op. A jump out of the
plan's range, a reserved FN of SETS and a reserved opcode are host errors after which the slot goes on (log 94). Readings that the model chose: log
94. -/
def Obligations.ControlMicroOps : Prop :=
  ∀ (s : State) (ch : Nat) (e : UEnv) (w : Nat) (c : Currant), c = (s.cur ch).moved e →
    (s.atOp ch 0x00 w → ∃ t, exec (.uNop ch e) s = .next t ∧ t.cur ch = c ∧ onlyCurRegs ch s t)
    ∧ (s.atOp ch 0x01 w → ∃ t, exec (.uLda ch e) s = .next t ∧ onlyCurRegs ch s t
        ∧ t.cur ch = { c with a := c.a.set (uRa w) (if bitOf (uFn w) 0 then (c.areg (uRb w) + uImm w) % 2 ^ 28 else uImm w) })
    ∧ (s.atOp ch 0x02 w → ∃ t, exec (.uAdda ch e) s = .next t ∧ onlyCurRegs ch s t
        ∧ t.cur ch = { c with a := c.a.set (uRa w) ((c.areg (uRa w) + uImm w) % 2 ^ 28) })
    ∧ (s.atOp ch 0x03 w → ∃ t, exec (.uLdc ch e) s = .next t ∧ onlyCurRegs ch s t
        ∧ t.cur ch = { c with c := c.c.set (uRa w % 4) (uCnt w) })
    ∧ (∀ n, s.atOp ch 0x04 w → c.c.getD (uRa w % 4) 0 = n → n < 2 ^ 16 →
        (s.nbuRange (s.slotGet ch c.slot 6 2)).1 ≤ uImm w % 512 → uImm w % 512 < (s.nbuRange (s.slotGet ch c.slot 6 2)).2 →
        ∃ t, exec (.uLoop ch e) s = .next t ∧ onlyCurRegs ch s t
          ∧ t.cur ch = { c with c := c.c.set (uRa w % 4) (if n = 0 then 0xFFFF else n - 1), pc := if n = 1 then c.pc else uImm w % 512 })
    ∧ (s.atOp ch 0x05 w → (s.nbuRange (s.slotGet ch c.slot 6 2)).1 ≤ uImm w % 512 →
        uImm w % 512 < (s.nbuRange (s.slotGet ch c.slot 6 2)).2 →
        ∃ t, exec (.uJmp ch e) s = .next t ∧ t.cur ch = { c with pc := uImm w % 512 } ∧ onlyCurRegs ch s t)
    ∧ (s.atOp ch 0x05 w → (uImm w % 512 < (s.nbuRange (s.slotGet ch c.slot 6 2)).1 ∨ (s.nbuRange (s.slotGet ch c.slot 6 2)).2 ≤ uImm w % 512) →
        ∃ t, exec (.uJmp ch e) s = .next t ∧ t.cur ch = { c with pc := uImm w % 512 }
          ∧ t.out = .unpredictable 128 s.freeNow :: s.out)
    ∧ (s.atOp ch 0x06 w → uFn w ≤ 1 → ∃ t, exec (.uSets ch e) s = .next t ∧ onlyCurRegs ch s t
        ∧ t.cur ch = (if uFn w = 0 then { c with scanpos := uImm w, side := bitOf (uCnt w) 0 } else { c with limit := uImm w }))
    ∧ (s.atOp ch 0x06 w → 2 ≤ uFn w → ∃ t, exec (.uSets ch e) s = .next t ∧ t.cur ch = c
        ∧ t.out = .unpredictable 130 s.freeNow :: s.out)
    ∧ (s.atOp ch 0x27 w → ∃ t, exec (.uAclr ch e) s = .next t ∧ onlyCurRegs ch s t
        ∧ t.cur ch = { c with sf := List.replicate 256 0, sPois := List.replicate 256 false, sInt := List.replicate 256 false
                              of_ := List.replicate 256 0
                              oPois := List.replicate 256 false, m := 0xFF800000, l := 0, mlPois := false })
    ∧ (s.atOp ch 0x30 w → ∃ t, exec (.uSignal ch e) s = .next t ∧ t.cur ch = c ∧ t.mem = s.mem
        ∧ t.out = Out.nbuSignal ch (uImm w % 0x10000) (s.slotGet ch c.slot 0x40 8) :: s.out)
    ∧ (ch < s.nch → s.serving = true → (s.cur ch).rs = .run → (s.cur ch).refDue = true → s.ustore ch (s.cur ch).pc = w → uOp w = 0 →
        uY w = true → (s.cur ch).slot < 16 → ∃ t, exec (.uNop ch e) s = .next t ∧ t.cur ch = { c with rs := .paused }
          ∧ t.sstate ch c.slot = 3 ∧ onlyCurRegs ch s t)
    ∧ (ch < s.nch → s.serving = true → (s.cur ch).rs = .run → s.ustore ch (s.cur ch).pc = w → uReserved s.hw.variant (uOp w) = true →
        ∃ t, exec (.uNop ch e) s = .next t ∧ t.cur ch = { s.cur ch with pc := ((s.cur ch).pc + 1) % 512 }
          ∧ t.out = .unpredictable 128 s.freeNow :: s.out)

/-- The row and buffer micro-ops RD, WR, COPY, INIT, RDL, VLD, AND, OR, XOR, ANDNOT and NOT (R119, R130, R132, R148, R149, R150) on rows that ECC reads
clean: the row, the buffers, the pass word and the poison bits are what the table says; poison goes with its line; a written row covers 1,024 bytes
of its channel and nothing else, and reads back where no index structure stands (log 106); a reserved function is a host error that leaves a free
value (log 94); and a row with an uncorrectable error reaches the buffer with every line poisoned, counts and raises UE, while memory keeps the row.
Readings that the model chose: log 18, 94 and 106. -/
def Obligations.RowAndBufferMicroOps : Prop :=
  ∀ (s : State) (ch : Nat) (e : UEnv) (w : Nat) (c : Currant), c = (s.cur ch).moved e → e.ecc = .clean →
    (∀ r, s.atOp ch 0x08 w → r = rowOf (uLine c w) → r < rowsPerChannel → ∃ t, exec (.uRd ch e) s = .next t ∧ onlyCurRegs ch s t
      ∧ t.cur ch = { (s.cur ch).rowed e 1 with buf := c.buf.set (uBd w) (s.rowData ch r), bufPois := c.bufPois.set (uBd w) (s.rowPois ch r .clean) })
    ∧ (∀ r, s.atOp ch 0x08 w → r = rowOf (uLine c w) → r < rowsPerChannel → ∃ t, exec (.uRd ch { e with ecc := .uncorrectable }) s = .next t
        ∧ (t.cur ch).bufPois = c.bufPois.set (uBd w) (List.replicate 16 true) ∧ t.evtBit (eNbu ch) 0 = true ∧ t.mem = s.mem
        ∧ t.reg64 (kNbuUecnt ch) = (s.reg64 (kNbuUecnt ch) + 1) % 2 ^ 64)
    ∧ (∀ r, s.atOp ch 0x09 w → r = rowOf (uLine c w) → r < rowsPerChannel → (c.buf.getD (uBs w) []).length = 1024 →
        (c.bufPois.getD (uBs w) []).length = 16 → ∃ t, exec (.uWr ch e) s = .next t ∧ t.cur ch = (s.cur ch).rowed e 1 ∧ onlyCur ch s t
          ∧ t.rowHolds ch r (c.buf.getD (uBs w) []) ∧ t.rowPois ch r .clean = c.bufPois.getD (uBs w) []
          ∧ ∀ a, a < rowKey ch r ∨ rowKey ch r + 1024 ≤ a → Tbl.get 0 t.mem.hbm a = Tbl.get 0 s.mem.hbm a)
    ∧ (∀ r d, s.atOp ch 0x0A w → r = rowOf (c.areg (uRa w)) → d = rowOf ((c.areg (uRb w) + uImm w) % 2 ^ 28) → r < rowsPerChannel →
        d < rowsPerChannel → ∃ t, exec (.uCopy ch e) s = .next t ∧ t.cur ch = (s.cur ch).rowed e 2 ∧ onlyCur ch s t
          ∧ t.rowHolds ch d (s.rowData ch r) ∧ t.rowPois ch d .clean = s.rowPois ch r .clean)
    ∧ (∀ r, s.atOp ch 0x0B w → r = rowOf (uLine c w) → r < rowsPerChannel → uFn w ≤ 2 → ∃ t, exec (.uInit ch e) s = .next t
        ∧ t.cur ch = (s.cur ch).rowed e 1 ∧ onlyCur ch s t ∧ t.rowPois ch r .clean = List.replicate 16 false
        ∧ t.rowHolds ch r (if uFn w = 0 then zeros 1024 else if uFn w = 1 then List.replicate 1024 0xFF
            else (List.replicate 128 (leBytes 8 (s.reg64 (nbuBase ch + 0x28)))).flatten))
    ∧ (∀ r, s.atOp ch 0x0B w → 3 ≤ uFn w → r = rowOf (uLine c w) → r < rowsPerChannel → ∃ t, exec (.uInit ch e) s = .next t
        ∧ t.cur ch = (s.cur ch).rowed e 1 ∧ t.rowHolds ch r (leBytes 1024 s.freeNow) ∧ t.out = .unpredictable 130 s.freeNow :: s.out)
    ∧ (∀ l x bad, s.atOp ch 0x0C w → l = uLine c w → rowOf l < rowsPerChannel → x = fromLe (s.chRead ch (64 * l) 64) → uFn w % 8 ≤ 4 →
        bad = (decide (c.lastRdl = some (rowOf l, true)) || (s.rowPois ch (rowOf l) .clean).getD (l % 16) false) →
        ∃ t, exec (.uRdl ch e) s = .next t ∧ onlyCurRegs ch s t
          ∧ (t.cur ch).lastRdl = some (rowOf l, decide (c.lastRdl = some (rowOf l, true)))
          ∧ (t.cur ch).rowops = c.rowops + (if c.lastRdl.any (fun r => r.1 == rowOf l) then 0 else 1)
          ∧ (t.cur ch).psPois = ((decide (2 ≤ uFn w % 8) && c.psPois) || bad)
          ∧ (t.cur ch).ps = (if uFn w % 8 = 0 then x else if uFn w % 8 = 1 then 2 ^ 512 - 1 - x else if uFn w % 8 = 2 then c.ps &&& x
              else if uFn w % 8 = 3 then c.ps ||| x else c.ps &&& (2 ^ 512 - 1 - x)))
    ∧ (s.atOp ch 0x0C w → rowOf (uLine c w) < rowsPerChannel → 5 ≤ uFn w % 8 → ∃ t, exec (.uRdl ch e) s = .next t
        ∧ (t.cur ch).ps = s.freeNow % 2 ^ 512 ∧ t.out = .unpredictable 132 s.freeNow :: s.out ∧ t.mem = s.mem)
    ∧ (∀ r, s.atOp ch 0x26 w → r = rowOf (uLine c w) → r < rowsPerChannel → c.v.length = 4096 → c.vPois.length = 64 →
        ∃ t, exec (.uVld ch e) s = .next t ∧ onlyCurRegs ch s t
          ∧ ((t.cur ch).vPois.drop (16 * (uFn w % 4))).take 16 = s.rowPois ch r .clean
          ∧ ((t.cur ch).v.drop (1024 * (uFn w % 4))).take 1024 = s.rowData ch r ∧ (t.cur ch).v.length = 4096)
    ∧ (∀ i o g, (i, o, g) ∈ [(Instr.uAnd ch e, 0x10, fun x y : Byte => x &&& y), (Instr.uOr ch e, 0x11, fun x y => x ||| y),
          (Instr.uXor ch e, 0x12, fun x y => x ^^^ y), (Instr.uAndnot ch e, 0x13, fun x y => x &&& ~~~y)] → s.atOp ch o w →
        ∃ t, exec i s = .next t ∧ onlyCurRegs ch s t
          ∧ t.cur ch = { c with buf := c.buf.set (uBd w) (List.zipWith g (c.buf.getD (uBs w) []) (c.buf.getD (uBt w) []))
                                bufPois := c.bufPois.set (uBd w) (List.zipWith or (c.bufPois.getD (uBs w) []) (c.bufPois.getD (uBt w) [])) })
    ∧ (s.atOp ch 0x14 w → ∃ t, exec (.uNot ch e) s = .next t ∧ onlyCurRegs ch s t
        ∧ t.cur ch = { c with buf := c.buf.set (uBd w) ((c.buf.getD (uBs w) []).map (fun x => ~~~x))
                              bufPois := c.bufPois.set (uBd w) (c.bufPois.getD (uBs w) []) })

/-- XPOP, MACV, QK, SMAX, AV, ONORM, ACCW and END (R126, R133 to R137, R150, R151): the sketch scan moves SCANPOS by the sketches of the row, keeps at
most 32 entries in ascending (d, pos) and counts each slot once at most; the lanes put their sums where the table says; the SMAX of more scores than
the file holds is a host error that leaves free values (log 94); the row ACCW writes holds the converted file; END sets the slot DONE, with POISON
exactly where MAC work met poison. Readings that the model chose: log 94 and 96. -/
def Obligations.ScanAndLaneMicroOps : Prop :=
  ∀ (s : State) (ch : Nat) (e : UEnv) (w : Nat) (c : Currant), c = (s.cur ch).moved e → c.shaped →
    (s.atOp ch 0x18 w → rowOf (uLine c w) < rowsPerChannel → ∃ t, exec (.uXpop ch e) s = .next t
      ∧ (t.cur ch).scanpos = (c.scanpos + 8192 / (128 * 2 ^ (uFn w % 4))) % 2 ^ 24
      ∧ (t.cur ch).passcnt + (t.cur ch).poiscnt ≤ c.passcnt + c.poiscnt + 8192 / (128 * 2 ^ (uFn w % 4))
      ∧ (c.heap.length ≤ 32 → (t.cur ch).heap.length ≤ 32)
      ∧ (c.heap.Pairwise (fun x y => heapLt y x = false) → (t.cur ch).heap.Pairwise (fun x y => heapLt y x = false))
      ∧ (c.limit ≤ c.scanpos → c.scanpos + 64 < 2 ^ 24 → (t.cur ch).heap = c.heap ∧ (t.cur ch).passcnt = c.passcnt))
    ∧ (∀ r, s.atOp ch 0x20 w → r = rowOf (uLine c w) → r < rowsPerChannel → e.ecc = .clean → uFn w / 4 = 0 →
        ∃ t z, exec (.uMacv ch e) s = .next t ∧ onlyCurRegs ch s t
          ∧ z = (c.sf.getD (uCnt w % 256) 0).toInt + dotInt (s.rowData ch r) ((c.v.drop (1024 * (uFn w % 4))).take 1024) 1024
          ∧ (t.cur ch).sf = c.sf.set (uCnt w % 256) (BitVec.ofInt 32 (max (-2 ^ 31) (min (2 ^ 31 - 1) z)))
          ∧ (t.cur ch).ovf = (c.ovf || decide (z < -2 ^ 31) || decide (2 ^ 31 - 1 < z)))
    ∧ (∀ r j, s.atOp ch 0x21 w → r = rowOf (uLine c w) → r < rowsPerChannel → e.ecc = .clean → uFn w / 4 ≤ 2 → uFn w % 4 ≤ 2 →
        j < 1024 / headDim w → ∃ t, exec (.uQk ch e) s = .next t ∧ onlyCurRegs ch s t
          ∧ (t.cur ch).sf.getD ((uCnt w % 256 + j) % 256) 0
              = BitVec.ofNat 32 (qkScore w (s.slotGet ch c.slot 0x38 4) (s.rowData ch r) c.v j))
    ∧ (s.atOp ch 0x22 w → uCnt w % 256 + uImm w ≤ 256 → ∃ t, exec (.uSmax ch e) s = .next t ∧ onlyCurRegs ch s t
        ∧ (t.cur ch).m.toNat = (((c.sf.drop (uCnt w % 256)).take (uImm w)).map (·.toNat)).foldl fmax c.m.toNat % 2 ^ 32
        ∧ (t.cur ch).sf.length = 256 ∧ ∀ k, k < uCnt w % 256 ∨ uCnt w % 256 + uImm w ≤ k → (t.cur ch).sf.getD k 0 = c.sf.getD k 0)
    ∧ (s.atOp ch 0x22 w → 256 < uCnt w % 256 + uImm w → ∃ t, exec (.uSmax ch e) s = .next t ∧ (t.cur ch).m = BitVec.ofNat 32 s.freeNow
        ∧ t.out = .unpredictable 137 s.freeNow :: s.out ∧ t.mem = s.mem)
    ∧ (∀ r, s.atOp ch 0x23 w → r = rowOf (uLine c w) → r < rowsPerChannel → e.ecc = .clean → uFn w / 4 ≤ 2 → uFn w % 4 ≤ 2 →
        ∃ t, exec (.uAv ch e) s = .next t ∧ onlyCurRegs ch s t ∧ (∀ k, headDim w ≤ k → (t.cur ch).of_.getD k 0 = c.of_.getD k 0)
          ∧ ∀ i, i < headDim w → (t.cur ch).of_.getD i 0 = BitVec.ofNat 32 ((List.range (1024 / headDim w)).foldl (fun x j =>
              fadd x (fmul (c.sf.getD ((uCnt w % 256 + j) % 256) 0).toNat
                (elemF32 (macFmt w) (leAt (s.rowData ch r) (headDim w * j + i) 1)))) (c.of_.getD i 0).toNat))
    ∧ (s.atOp ch 0x24 w → uFn w % 4 ≤ 2 → ∃ t, exec (.uOnorm ch e) s = .next t ∧ onlyCurRegs ch s t
        ∧ ∀ i, (t.cur ch).of_.getD i 0 = if i < headDim w then BitVec.ofNat 32 (fdiv (c.of_.getD i 0).toNat c.l.toNat)
            else c.of_.getD i 0)
    ∧ (∀ r, s.atOp ch 0x25 w → r = rowOf (uLine c w) → r < rowsPerChannel → ∃ t, exec (.uAccw ch e) s = .next t ∧ onlyCur ch s t
        ∧ t.rowHolds ch r (padTo 1024 ((if bitOf (uFn w) 0 then c.of_.map (fun x => (x, false)) else c.sf.zip c.sInt).flatMap
            (fun x => accwEntry (uFn w / 4) (s.slotGet ch c.slot 0x38 4) x.2 x.1))))
    ∧ (s.atOp ch 0x3F w → bitOf (s.slotGet ch c.slot 2 1) 1 = false → c.slot < 16 → ∃ t, exec (.uEnd ch e) s = .next t
        ∧ (t.cur ch).rs = .idle ∧ t.sstate ch c.slot = 4 ∧ t.slotGet ch c.slot 0x48 4 = c.passcnt % 2 ^ 32
        ∧ t.slotGet ch c.slot 4 1 = statusCode (if c.accPois then .poison else .ok)
        ∧ (bitOf (s.slotGet ch c.slot 2 1) 2 = true → t.out = Out.nbuDone ch (s.slotGet ch c.slot 0x40 8)
            (if c.accPois then .poison else .ok) c.passcnt c.poiscnt :: s.out))

/-- The files of a currant keep their sizes (R120) under every command. -/
def Obligations.NearBankFilesKeepTheirSizes : Prop :=
  ∀ (c : Instr) (s t : State), (∀ ch, (s.cur ch).shaped) → exec c s = .next t → ∀ ch, (t.cur ch).shaped

/-! ## Objects of the host -/

/-- INDEX_CREATE, INDEX_DELETE, the end of a deletion, INDEX_QUIESCE, INDEX_ATTACH, SET_HOT and GROUP_INDEX (R7, R79, R84, R181, R185, R414, R583, R611,
R612): a creation that passes its checks builds the index, BUILDING, empty and with its plans, where the memory has room for it, and answers
NO_RESOURCE with the indexes as they were where it has none; a deletion waits until no request uses the index; a seal is taken with the next SEALSEQ
and lets a DETACHED index be attached if it still fits; HOT is set for the units named and no others; a master keeps the mask of a group index.
Readings that the model chose: log 11, 22, 87 and 120. -/
def Obligations.IndexesComeAndGo : Prop :=
  ∀ (s : State) (h : HostHdr), s.takes h = true →
    (∀ c splan uplan, (c.store = 0 → s.hw.variant.flash = true) → (s.tenant? c.tenant).isSome = true → s.desc? c.index = none →
      createOk c = true → s.shapePlan splan 1 (createFill c) = true → s.shapePlan uplan 5 (createFill c) = true →
      s.canCharge c.tenant (indexCharge (createFill c)) = true →
      ((s.fetched h).buildIndex (createFill c) splan uplan = none →
        ∃ t, exec (.indexCreate h c splan uplan) s = .next t ∧ answered s t h .noResource ∧ t.idx = s.idx)
      ∧ (∀ v, (s.fetched h).buildIndex (createFill c) splan uplan = some v →
        ∃ t, exec (.indexCreate h c splan uplan) s = .next t ∧ answered s t h .ok ∧ t.idx = v.idx ∧ t.mem = v.mem
          ∧ (∀ k, k ≠ c.index → t.desc? k = s.desc? k) ∧ ∃ d, t.desc? c.index = some d ∧ d.st = .building
          ∧ d.c = createFill c ∧ d.splan = splan ∧ d.uplan = uplan ∧ d.live = 0 ∧ d.sealValid = false))
    ∧ (∀ c splan uplan, c.store = 0 → s.hw.variant.flash = false → ∃ t, exec (.indexCreate h c splan uplan) s = .next t
        ∧ answered s t h .notPresent ∧ t.idx = s.idx)
    ∧ (∀ n d, s.desc? n = some d → d.st ≠ .deleting → ∃ t, exec (.indexDelete h n) s = .next t ∧ t.out = s.out
        ∧ t.desc? n = some { d with st := .deleting } ∧ t.host.waits = s.host.waits ++ [(h, .delIndex n)])
    ∧ (∀ n d, s.desc? n = some d → d.st = .deleting → s.indexInUse n = false → ∃ t, exec (.deletionFinish n) s = .next t
        ∧ t.desc? n = none ∧ (∀ k, k ≠ n → (t.desc? k).isSome = (s.desc? k).isSome) ∧ ∀ w, (w, HostWait.delIndex n) ∉ t.host.waits)
    ∧ (∀ n d, s.desc? n = some d → d.st = .active → ∃ t, exec (.indexQuiesce h n) s = .next t
        ∧ answeredInline s t h .ok (leBytes 4 ((d.sealSeq + 1) % 2 ^ 32))
        ∧ t.desc? n = some { d with sealDig := s.sealOf d, sealSeq := (d.sealSeq + 1) % 2 ^ 32, sealValid := true })
    ∧ (∀ n d splan uplan, s.desc? n = some d → d.st = .detached →
        ((d.sealValid = false ∨ s.sealOf d ≠ d.sealDig) → ∃ t, exec (.indexAttach h n splan uplan) s = .next t
          ∧ answered s t h .checkFail ∧ t.idx = s.idx)
        ∧ (d.sealValid = true → s.sealOf d = d.sealDig → (s.tenant? d.c.tenant).isSome = true →
            s.canCharge d.c.tenant (s.indexTotal n d) = true → s.shapePlan splan 1 d.c = true → s.shapePlan uplan 5 d.c = true →
            ∃ t, exec (.indexAttach h n splan uplan) s = .next t ∧ answeredInline s t h .ok (leBytes 4 d.sealSeq)
              ∧ t.desc? n = some { d with st := .active, splan := splan, uplan := uplan, charged := true }))
    ∧ (∀ ns hot first count len, s.hw.variant.flash = true → Tbl.find s.flash.nsLen ns = some len → first + count ≤ len → len ≤ 2 ^ 32 →
        ∃ t, exec (.setHot h ns hot first count) s = .next t ∧ answered s t h .ok
          ∧ (∀ i, i < count → t.mapEnt ns (first + i) = { s.mapEnt ns (first + i) with hot := hot })
          ∧ ∀ u, u < 2 ^ 32 → u < first ∨ first + count ≤ u → t.mapEnt ns u = s.mapEnt ns u)
    ∧ (∀ n mask, (s.desc? n).isSome = true → s.role = 2 → mask < 2 ^ s.fld fCasCfgNmemb → ∃ t, exec (.groupIndex h n mask) s = .next t
        ∧ answered s t h .ok ∧ Tbl.get 0 t.idx.groupMask n = mask ∧ ∀ k, t.desc? k = s.desc? k)

/-- CREATE_TABLE, DELETE_TABLE, LOAD_PACK, PACK_LOAD_TIMEOUT and UNLOAD_PLAN (R288 to R292, R331, R338, R521, R609): a part that is not the last answers
with the bytes received so far, which are kept; a part that does not go on with the load in progress answers BAD_ARG; the last part loads every plan
of the pack in order, or none of them where a check fails, which names its status, or memory has no room; a plan with an open lease stays. Readings
that the model chose: log 11, 121 and 122. -/
def Obligations.TablesAndPlansComeAndGo : Prop :=
  ∀ (s : State) (h : HostHdr), s.takes h = true →
    (∀ d : TableDesc, (s.tenant? d.tenant).isSome = true → tableOk d = true → Tbl.find s.tables.descs d.table = none →
      s.areaMeets d.base (roundUp (s.localRows d * d.rowbytes) 4096) = false → s.canCharge d.tenant (tableCharge d) = true →
      ∃ t, exec (.createTable h d) s = .next t ∧ answered s t h .ok ∧ t.mem = s.mem
        ∧ Tbl.find t.tables.descs d.table = some { d with hotth := if d.hotth = 0 then 65536 else d.hotth
                                                          hotwin := if d.hotwin = 0 then 10000 else d.hotwin })
    ∧ (∀ n d, Tbl.find s.tables.descs n = some d → ∃ t, exec (.deleteTable h n) s = .next t ∧ answered s t h .ok
        ∧ Tbl.find t.tables.descs n = none ∧ (∀ k, k ≠ n → Tbl.find t.tables.descs k = Tbl.find s.tables.descs k)
        ∧ ∀ e ∈ t.tables.hot, e.table ≠ n)
    ∧ (∀ (part : PackPart) pk, part.offset ≠ 0 → s.loadNext h part = false → ∃ t, exec (.loadPack h part pk) s = .next t
        ∧ answered s t h .badArg ∧ t.work = s.work)
    ∧ (∀ (part : PackPart) (pk : PackBytes) got b, (part.offset = 0 ∨ s.loadNext h part = true) →
        got = (if part.offset = 0 then [] else (s.work.load.map (·.bytes)).getD []) ++ pk.bytes →
        (256 ≤ got.length → got.length ≤ leAt got 8 8) → part.last = false →
        (s.loadEnd.areaTake got.length).map (·.1) = some b → ∃ t, exec (.loadPack h part pk) s = .next t
          ∧ answeredInline s t h .ok (leBytes 8 got.length) ∧ t.work.plans = s.work.plans
          ∧ t.work.load = some ⟨h.fn, h.q, part.first, part.owner, got, b⟩)
    ∧ (∀ (part : PackPart) (pk : PackBytes) got pack, (part.offset = 0 ∨ s.loadNext h part = true) →
        got = (if part.offset = 0 then [] else (s.work.load.map (·.bytes)).getD []) ++ pk.bytes →
        (256 ≤ got.length → got.length ≤ leAt got 8 8) → part.last = true → pack = packOf got pk.sigOk →
        (∀ st, s.packFault part.first part.owner got.length pack = some st → ∃ t, exec (.loadPack h part pk) s = .next t
          ∧ answered s t h st ∧ t.work = { s.work with load := none } ∧ t.mem.hbm = s.mem.hbm)
        ∧ (s.packFault part.first part.owner got.length pack = none → pack.plans.all planRanges = true → pack.zerosOk = true →
            s.canCharge part.owner (packCharge pack.nplans) = true →
            ((s.fetched h).loadEnd.placePlans part.owner part.first part.first pack.plans = none → ∃ t, exec (.loadPack h part pk) s = .next t
              ∧ answered s t h .retryLater ∧ t.work.plans = s.work.plans ∧ t.work.load = none)
            ∧ (∀ v, (s.fetched h).loadEnd.placePlans part.owner part.first part.first pack.plans = some v →
              ∃ t, exec (.loadPack h part pk) s = .next t ∧ answered s t h .ok ∧ t.work.load = none ∧ t.mem = v.mem
              ∧ ∀ i p, pack.plans[i]? = some p →
                ∃ x, t.plan? (part.first + i) = some x ∧ x.owner = part.owner ∧ x.pack = part.first ∧ x.hdr = p)))
    ∧ (∃ t, exec .packLoadTimeout s = .next t ∧ t.work = { s.work with load := none } ∧ t.mem.hbm = s.mem.hbm ∧ t.out = s.out)
    ∧ (∀ n p, s.plan? n = some p →
        (s.planOpen n ≠ 0 → ∃ t, exec (.unloadPlan h n) s = .next t ∧ answered s t h .planBusy ∧ t.work = s.work)
        ∧ (s.planOpen n = 0 → (∀ e ∈ s.idx.desc, e.2.st = .building ∨ e.2.st = .active → e.2.splan ≠ n ∧ e.2.uplan ≠ n) → ∃ t, exec (.unloadPlan h n) s = .next t
            ∧ answered s t h .ok ∧ t.plan? n = none ∧ ∀ k, k ≠ n → t.plan? k = s.plan? k))

/-- LEASE_OPEN, LEASE_CLOSE, STEP_LOG, PLAN_STATS, TIER_STATS, ENERGY_STATS, CAS_LOG and ERR_LOG (R298, R303, R318, R332, R352, R425, R465, R483, R576):
opening answers the number of a waiting lease of the plan or the status that refuses it; closing an idle lease frees its cores and zeroes their
stores; the statistics answer their totals; the logs answer with the oldest unread records that fit and move their reader's mark. Readings that the
model chose: log 35, 41 and 76. -/
def Obligations.LeasesAndLogs : Prop :=
  ∀ (s : State) (h : HostHdr), s.takes h = true →
    (∀ plan, (∀ l u, s.openLease plan = .ok (l, u) → ∃ t x, exec (.leaseOpen h plan) s = .next t ∧ answeredInline s t h .ok (leBytes 2 l)
        ∧ t.lease? l = some x ∧ x.plan = plan ∧ x.st = .waiting ∧ x.cores = [] ∧ s.lease? l = none
        ∧ ∀ k, k ≠ l → t.lease? k = s.lease? k)
      ∧ (∀ st, (s.plan? plan).isSome = true → s.openLease plan = .error st → ∃ t, exec (.leaseOpen h plan) s = .next t
          ∧ answered s t h st ∧ t.work = s.work))
    ∧ (∀ l x, s.lease? l = some x → x.closeReq = none → x.queue = [] → x.step = none → x.past = [] →
        ∃ t, exec (.leaseClose h l) s = .next t ∧ answered s t h .ok ∧ t.lease? l = none
          ∧ (∀ c ∈ x.cores, t.fld (fCoreStateLease c) = 0xFFFF) ∧ ∀ k, k / 2 ^ 21 ∈ x.cores → Tbl.get 0 t.mem.store k = 0)
    ∧ ((s.work.nodeTotals.flatMap (leBytes 8)).length ≤ h.rlen → ∃ t, exec (.planStats h 0xFFFF) s = .next t
        ∧ answeredWith s t h .ok (s.work.nodeTotals.flatMap (leBytes 8)) ∧ t.work = s.work)
    ∧ (∀ l x, s.lease? l = some x → l ≠ 0xFFFF → (x.totals.flatMap (leBytes 8)).length ≤ h.rlen → ∃ t, exec (.planStats h l) s = .next t
        ∧ answeredWith s t h .ok (x.totals.flatMap (leBytes 8)) ∧ t.work = s.work)
    ∧ (∃ t n, exec (.stepLog h) s = .next t ∧ n = min s.work.stepUnread (h.rlen / 96) ∧ t.work.stepLog = s.work.stepLog
        ∧ t.work.stepUnread = s.work.stepUnread - n ∧ answeredWith s t h .ok
          (((s.work.stepLog.drop (s.work.stepLog.length - s.work.stepUnread)).take n).flatMap StepRec.bytes))
    ∧ ((s.tables.counters.flatMap (leBytes 8)).length ≤ h.rlen → ∃ t, exec (.tierStats h) s = .next t
        ∧ answeredWith s t h .ok (s.tables.counters.flatMap (leBytes 8)) ∧ t.tables = s.tables)
    ∧ (∃ t, exec (.energyStats h) s = .next t ∧ t.work = s.work ∧ answeredWith s t h .ok
        ((s.work.tenants.take (h.rlen / 24)).flatMap (fun e => leBytes 8 e.1 ++ leBytes 8 e.2.energy ++ leBytes 8 e.2.held)))
    ∧ (∃ t n, exec (.casLog h) s = .next t ∧ n = min s.cas.unread (h.rlen / 32) ∧ t.cas = { s.cas with unread := s.cas.unread - n }
        ∧ answeredWith s t h .ok (((s.cas.ring.drop (s.cas.ring.length - s.cas.unread)).take n).flatMap StragRec.bytes))
    ∧ (∃ t rs, exec (.errLog h) s = .next t ∧ rs = (s.chk.ring.filter (fun c => decide (s.chk.hostMark ≤ c.rseq))).take (h.rlen / 328)
        ∧ answeredWith s t h .ok (rs.flatMap cperRecord) ∧ t.chk.ring = s.chk.ring ∧ t.chk.secMark = s.chk.secMark
        ∧ (rs = [] → t.chk.hostMark = s.chk.hostMark) ∧ ∀ c, rs.getLast? = some c → t.chk.hostMark = c.rseq + 1)

/-- CONN_OPEN, CONN_CLOSE, POST_RECV, REG_REGION, DEREG_REGION, SEG_PRESENT, SEG_ABSENT and ROUTE_MAP (R334, R366 to R368, R374, R375, R377, R380, R381,
R426): a well-formed connection opens with the sequence numbers given; an open one drains; a posted buffer goes to the tail of the queue; a region
is reachable until its deregistration completes; a newer map makes the live one the old one, a third waits, and one that takes a tenant past its
quota is refused. Readings that the model chose: log 7. -/
def Obligations.ConnectionsRegionsAndMaps : Prop :=
  ∀ (s : State) (h : HostHdr), s.takes h = true → s.host.waits = [] →
    (∀ c : ConnRec, c.homeport < s.hw.variant.ports → c.spray < 2 ^ s.hw.variant.ports → (c.ckind = 0 → (s.tenant? c.tenant).isSome = true) →
      s.connOk c = true → ∃ t x, exec (.connOpen h c) s = .next t ∧ answered s t h .ok ∧ t.conn? c.conn = some x ∧ x.rec_ = c
        ∧ x.st = .open_ ∧ x.txSeq = c.iseq ∧ x.next = c.irseq ∧ x.cached = true ∧ x.sent = [] ∧ x.infl = [])
    ∧ (∀ n c, s.conn? n = some c → c.st = .open_ → c.infl = [] → ∃ t x, exec (.connClose h n) s = .next t ∧ answered s t h .ok
        ∧ t.conn? n = some x ∧ x.st = .draining ∧ x.closing = true ∧ x.sent.any (fun y => y.mtype == mClose) = true)
    ∧ (∀ n c r key offset length i, s.conn? n = some c → c.st = .open_ → s.regionBy key = some r → c.freeIdx = some i →
        r.rec_.tenant = c.rec_.tenant → bitOf r.rec_.rights 2 = true → offset + length ≤ r.rec_.length →
        ∃ t x b, exec (.postRecv h n key offset length) s = .next t ∧ answered s t h .ok ∧ t.conn? n = some x ∧ x.recv = c.recv ++ [b]
          ∧ b.key = key ∧ b.offset = offset ∧ b.len = length ∧ b.idx = i ∧ b.grant = none
          ∧ b.gen = (match Tbl.find c.gens i with | some g => (g + 1) % 2 ^ 32 | none => 0))
    ∧ (∀ r : RegionRec, (r.tenant = 0xFFFF ∨ (s.tenant? r.tenant).isSome = true) → s.regionOk r = true → s.exportMeets r = false →
        ∃ t, exec (.regRegion h r) s = .next t ∧ answered s t h .ok ∧ t.regionBy r.key = some ⟨r, []⟩
          ∧ ∀ k, k ≠ r.key % 2 ^ 16 → Tbl.find t.fab.regions k = Tbl.find s.fab.regions k)
    ∧ (∀ key r, s.regionBy key = some r → s.inFlight (key % 2 ^ 16) none = false → ∃ t, exec (.deregRegion h key) s = .next t
        ∧ answered s t h .ok ∧ t.regionBy key = none)
    ∧ (∀ key r seg, s.regionBy key = some r → segOk r seg = true →
        (∃ t x, exec (.segPresent h key seg) s = .next t ∧ answered s t h .ok ∧ t.regionBy key = some x ∧ x.rec_ = r.rec_
          ∧ Tbl.get false x.present seg = true)
        ∧ (s.inFlight (key % 2 ^ 16) (some seg) = false → ∃ t x, exec (.segAbsent h key seg) s = .next t ∧ answered s t h .ok
            ∧ t.regionBy key = some x ∧ x.rec_ = r.rec_ ∧ Tbl.find x.present seg = none))
    ∧ (∀ epoch es past, es.all regionEntOk = true → distinctRegions es = true → es.length ≤ 4096 → epoch < 2 ^ 16 →
        (∀ e ∈ es, e.kind ≠ 0 → e.owner ≠ 0xFFFF → (s.tenant? e.owner).isSome = true) → s.cas.heldMap = none →
        (∀ m, s.cas.newMap = some m → epochNewer epoch m.epoch = true) →
        past = s.work.tenants.any (fun e => decide (e.2.limit.pool < mapUse (⟨epoch, es⟩ :: s.cas.newMap.toList) e.1 1)
          || decide (e.2.limit.hostmem < mapUse (⟨epoch, es⟩ :: s.cas.newMap.toList) e.1 2)) →
        ∃ t, exec (.routeMap h epoch es) s = .next t ∧ t.fab = s.fab
        ∧ (s.cas.oldMap ≠ none → t.out = s.out ∧ t.cas = { s.cas with heldMap := some ⟨h, ⟨epoch, es⟩⟩ } ∧ t.fld fCasEpochHeld = 1)
        ∧ (s.cas.oldMap = none → past = true → answered s t h .quota ∧ t.cas.newMap = s.cas.newMap ∧ t.cas.oldMap = none)
        ∧ (s.cas.oldMap = none → past = false → answered s t h .ok ∧ t.cas.newMap = some ⟨epoch, es⟩ ∧ t.cas.oldMap = s.cas.newMap
            ∧ t.fld fCasEpochNew = epoch ∧ t.fld fCasEpochNewlive = 1))

/-- PF0_FLR, VF_FLR and GROUP_RESET (R435, R526, R580, R582): the function-level reset of PF0 removes tenants, the plans of tenants, connections,
regions, tables, bindings and requests, clears core stores and near-bank units, detaches every index, leaves pins, boot flash and fuses, and sets
BOOTDONE; that of a VF removes its queues and binding and leaves the other bindings and the indexes; a master's GROUP_RESET drops the provisional
steps, releases STEP_RDY#, and completes at once where every other member is ABSENT and no step ran here; else it waits for the answers. Readings
that the model chose: log 50, 60 and 68. -/
def Obligations.FunctionAndGroupResets : Prop :=
  ∀ s : State, s.serving = true →
    (∃ t, exec .pf0Flr s = .next t ∧ t.work.tenants = [] ∧ (∀ e ∈ t.work.plans, s.maintPlan e.1 = true) ∧ t.work.reqs = []
      ∧ t.work.load = none ∧ t.host.binds = [] ∧ t.host.waits = [] ∧ t.fab.conns = [] ∧ t.fab.regions = [] ∧ t.tables.descs = []
      ∧ t.nbu = [] ∧ t.mem.store = [] ∧ (∀ e ∈ t.idx.desc, e.2.st = .detached) ∧ t.idx.desc.map (·.1) = s.idx.desc.map (·.1)
      ∧ t.evtBit eTop 0 = true ∧ t.hw = s.hw ∧ t.boot = s.boot ∧ t.pwr = s.pwr)
    ∧ (∀ vf, 1 ≤ vf → vf ≤ s.fld fHstCfgNumvf → vf < 64 → ∃ t, exec (.vfFlr vf) s = .next t ∧ t.boundTo vf = none
        ∧ (∀ q, q < 64 → Tbl.find t.host.sqs (qKey vf q) = none ∧ Tbl.find t.host.cqs (qKey vf q) = none)
        ∧ (∀ k, k ≠ vf → t.boundTo k = s.boundTo k) ∧ t.idx = s.idx)
    ∧ (∀ h, s.takes h = true → s.role = 2 → ∃ t, exec (.groupReset h) s = .next t ∧ t.cas.provs = [] ∧ t.pwr.stepRdyLow = false
        ∧ ((∀ e ∈ s.cas.members, e.1 ≠ s.fld fCasCfgPos → e.2.st = .absent) → t.cas.resetWait = none ∧ t.cas.stuck = false
            ∧ ((∀ e ∈ s.work.leases, e.2.step = none) → answered s t h .ok))
        ∧ ((∃ e ∈ s.cas.members, e.1 ≠ s.fld fCasCfgPos ∧ e.2.st ≠ .absent) → t.cas.resetWait = some h))

/-! ## Requests -/

/-- SEARCH and RUN (R83, R298, R331, R364): a SEARCH whose body fails a check completes with the status of the first failed check and has no effect on
memory, indexes or work; a SEARCH or RUN that passes, on a node that forwards it to no group, takes its place at the tail of a lease's queue, from a
queue entry and, for SEARCH, from a CMD alike. Readings that the model chose: log 32. -/
def Obligations.RequestsQueueOnLeases : Prop :=
  ∀ (s : State),
    (∀ h b st, s.takesOp h = true → s.searchChecks b h.tenant = .error st → ∃ t, exec (.search (.queue h) b) s = .next t
      ∧ answeredWith s t h st ((SearchRec.fail st (bK b) (bIndex b) (bTenant b) h.epoch 0 h.cid).bytes false)
      ∧ t.idx = s.idx ∧ t.mem = s.mem ∧ t.work = s.work)
    ∧ (∀ h b d l v, s.takesOp h = true → s.searchChecks b h.tenant = .ok d → s.groupOf (bIndex b) = 0 → s.leaseFor d.splan = .ok (l, v) →
        ∃ t, exec (.search (.queue h) b) s = .next t ∧ t.out = s.out ∧ t.mem = s.mem ∧ t.idx = s.idx
          ∧ (∃ r ∈ t.work.reqs, r.id = s.work.nextReq ∧ r.src = .queue h ∧ r.op = .search ∧ r.body = b ∧ r.st = .queued ∧ r.lease = l
              ∧ r.index = bIndex b)
          ∧ ∃ x, t.lease? l = some x ∧ x.queue.getLast? = some s.work.nextReq)
    ∧ (∀ m b d l v, s.isReady m mCmd = true → m.opc = 1 → s.flag fTopCtlQuiesce = false → s.fld fNrgStatePstate = 0 →
        s.sysMsg m = false → b = m.payload ++ s.bulkOf m → s.searchChecks b m.tenant = .ok d → s.groupOf (bIndex b) = 0 →
        s.leaseFor d.splan = .ok (l, v) → ∃ t, exec (.search (.conn m) []) s = .next t ∧ t.out = s.out ∧ t.mem = s.mem ∧ t.idx = s.idx
          ∧ (∃ r ∈ t.work.reqs, r.id = s.work.nextReq ∧ r.src = .conn m ∧ r.op = .search ∧ r.body = b ∧ r.st = .queued ∧ r.lease = l)
          ∧ ∃ x, t.lease? l = some x ∧ x.queue.getLast? = some s.work.nextReq)
    ∧ (∀ h b p l v, s.takesOp h = true → bTenant b = h.tenant → h.tenant < 4096 → s.plan? (rPlan b) = some p → p.owner = bTenant b →
        p.hdr.kind = 7 → rInlen b ≤ p.hdr.inlen → 16 + rInlen b ≤ b.length → s.canCharge p.owner outreqCharge = true →
        s.leaseFor (rPlan b) = .ok (l, v) → s.runMask p.owner = 0 → ∃ t, exec (.run (.queue h) b true []) s = .next t ∧ t.out = s.out ∧ t.mem = s.mem
          ∧ (∃ r ∈ t.work.reqs, r.id = s.work.nextReq ∧ r.src = .queue h ∧ r.op = .run ∧ r.body = b ∧ r.st = .queued ∧ r.lease = l
              ∧ r.plan = rPlan b)
          ∧ ∃ x, t.lease? l = some x ∧ x.queue.getLast? = some s.work.nextReq)

/-- INSERT, UPSERT and DELETE (R26, R28, R29, R30, R363): an update whose body fails a check completes with the status of that check and changes no
index, no memory and no request; an INSERT or UPSERT that no earlier update to its ID and no write waiting for the cap precedes does its writes at
once and completes with OK when they succeed; an INSERT of a live ID completes with ID_EXISTS and a DELETE of one that is not live with NOT_FOUND,
and index, memory and flash are as they were; a DELETE of a live ID completes with OK, counts it out of the live items and leaves its directory
entry DELETED; an UPSERT of an ID that is not live does what an INSERT does; and an INSERT or UPSERT of such an ID that ends with OK leaves one live
item more and the published side length of one list one higher. Readings that the model chose: log 71 and 109. -/
def Obligations.UpdatesRun : Prop :=
  ∀ (s : State),
    (∀ h b errs c op, (c, op) ∈ [(Instr.insert (.queue h) ⟨b, errs⟩, ReqOp.insert), (.upsert (.queue h) ⟨b, errs⟩, .upsert),
        (.delete (.queue h) b, .delete)] →
      s.takesOp h = true → s.cas.join.joiner = none → (∀ q ∈ s.work.reqs, q.id ≠ s.work.nextReq) →
      (∀ q ∈ s.work.reqs, q.index = bIndex b → uVid q.body ≠ uVid b) →
      (∀ st, s.updateChecks op b h.tenant = .error st → ∃ t, exec c s = .next t ∧ answered s t h st ∧ t.idx = s.idx ∧ t.mem = s.mem
        ∧ t.work = s.work)
      ∧ (∀ d, s.updateChecks op b h.tenant = .ok d → s.groupOf (bIndex b) = 0 → s.descBad (bIndex b) = false →
          (op ≠ .delete → ∀ u, (∀ q ∈ s.work.reqs, q.capWait = false) →
            (s.entered h op d b errs).runPut (bIndex b) d op b errs = .done u .ok → u.host = (s.entered h op d b errs).host →
            ∃ t, exec c s = .next t ∧ answered s t h .ok
              ∧ t.idx = u.idx ∧ t.mem = u.mem ∧ t.flash = u.flash ∧ t.work.reqs = s.work.reqs)
          ∧ (∀ k l x, s.lookup (bIndex b) d (uVid b) = .found k l x →
            (op = .insert → ∃ t, exec c s = .next t ∧ answered s t h .idExists ∧ t.idx = s.idx ∧ t.mem = s.mem ∧ t.flash = s.flash
              ∧ t.work.reqs = s.work.reqs)
            ∧ (op = .delete → (s.hdr? l).isSome = true → ∃ t e, exec c s = .next t ∧ answered s t h .ok ∧ t.desc? (bIndex b) = some e
                ∧ e.live = d.live - 1 ∧ (Tbl.get dirEmpty t.idx.dir k).dst = .deleted ∧ t.work.reqs = s.work.reqs))
          ∧ (s.lookup (bIndex b) d (uVid b) = .none_ → op = .delete →
            ∃ t, exec c s = .next t ∧ answered s t h .notFound ∧ t.idx = s.idx ∧ t.mem = s.mem ∧ t.flash = s.flash
              ∧ t.work.reqs = s.work.reqs)))
    ∧ (∀ n d b errs, s.lookup n d (uVid b) = .none_ → s.runPut n d .upsert b errs = s.runPut n d .insert b errs)
    ∧ (∀ n d b errs op u, s.desc? n = some d → s.lookup n d (uVid b) = .none_ → s.runPut n d op b errs = .done u .ok →
        (∃ e, u.desc? n = some e ∧ e.live = d.live + 1)
        ∧ ∃ l h g, s.hdr? l = some h ∧ u.hdr? l = some g ∧ g.scount = h.scount + 1)

/-- ABORT (R386, R387, R521): a queued request is caught: it leaves the node and its lease's queue, and index and memory are as they were; for a command
that does not exist the first byte of RESULT is NOT_FOUND's code and for one that its own meaning runs on TOO_LATE's, with the work as it was; an
ABORT message of a tag that its connection knows nothing of is taken, and nothing changes but the fabric. Readings that the model chose: log 76. -/
def Obligations.AbortsCatchWaitingRequests : Prop :=
  ∀ (s : State),
    (∀ h cid r, s.takesOp h = true → s.work.reqs = [r] → r.forwarded = false → r.st = .queued →
      (∃ g, r.src = .queue g ∧ g.fn = h.fn ∧ g.cid = cid) → ∃ t, exec (.abort (.queue h cid)) s = .next t ∧ t.work.reqs = []
      ∧ (∀ x, t.lease? r.lease = some x → r.id ∉ x.queue) ∧ t.idx = s.idx ∧ t.mem = s.mem)
    ∧ (∀ h cid, s.takesOp h = true → s.work.reqs = [] → s.host.waits = [] → ∃ t, exec (.abort (.queue h cid)) s = .next t
        ∧ answeredInline s t h .ok [0x16] ∧ t.work = s.work)
    ∧ (∀ h cid w, s.takesOp h = true → s.work.reqs = [] → w ∈ s.host.waits → w.1.fn = h.fn → w.1.cid = cid →
        (∀ v ∈ s.host.waits, ∀ fn q, v.2 ≠ .delSq fn q) → ∃ t, exec (.abort (.queue h cid)) s = .next t
        ∧ answeredInline s t h .ok [0x03] ∧ t.work = s.work)
    ∧ (∀ m c, s.isReady m mAbort = true → s.conn? m.dconn = some c → c.infl = [] → c.held = [] → s.replayTag m.dconn m.tag = none →
        s.rdataHeld m.dconn m.tag = none → ∃ t, exec (.abort (.conn m)) s = .next t ∧ t = { s with fab := t.fab }
        ∧ t.fab.ready = s.fab.ready.erase m)

/-! ## The host port -/

/-- SQ_TAIL_DOORBELL, CQ_HEAD_DOORBELL, DMA_TIMEOUT, CXL_LINK_TRAIN, HDM_COMMIT, CXL_MEM_READ and CXL_MEM_WRITE (R351, R453, R455, R505, R508, R511,
R513, R515, R516, R520, R523): a doorbell moves its end of the ring, a head doorbell makes room for the entries the host has taken, and an entry
that waited is then written; a value outside the ring leaves the machine going on from a host error on PF0, and on a VF a tail so disables the
submission queue, counts and raises QERR; a doorbell of a queue that does not exist changes nothing; a failed transfer counts, raises DMAERR and
completes the command with BOUNDS; the link comes up at its width and rate, other than x16 at 64 GT/s with LINKDEG; the decoder is committed; a
write of a line of the window reads back, clears its poison and changes the bytes of no other line of the window; a write of one byte of a line
leaves the others; a read of a clean line drives its bytes, and one that fails ECC a poisoned line. Readings that the model chose: log 13 and 106. -/
def Obligations.DoorbellsLinkAndWindow : Prop :=
  (∀ (s : State) (fn q value : Nat), s.serving = true →
    (∀ sq, Tbl.find s.host.sqs (qKey fn q) = some sq → sq.enabled = true → value < sq.depth →
      ∃ t, exec (.sqTailDoorbell fn q value) s = .next t ∧ Tbl.find t.host.sqs (qKey fn q) = some { sq with tail := value }
        ∧ t = { s with host := t.host } ∧ ∀ k, k ≠ qKey fn q → Tbl.find t.host.sqs k = Tbl.find s.host.sqs k)
    ∧ (∀ sq, Tbl.find s.host.sqs (qKey fn q) = some sq → sq.enabled = true → sq.depth ≤ value →
        (fn = 0 → exec (.sqTailDoorbell fn q value) s = .next (s.hostErr 523))
        ∧ (fn ≠ 0 → ∃ t, exec (.sqTailDoorbell fn q value) s = .next t
            ∧ Tbl.find t.host.sqs (qKey fn q) = some { sq with enabled := false } ∧ t.evtBit eHst 1 = true
            ∧ t.reg64 kHstQerrs = (s.reg64 kHstQerrs + 1) % 2 ^ 64))
    ∧ (Tbl.find s.host.sqs (qKey fn q) = none → exec (.sqTailDoorbell fn q value) s = .next s)
    ∧ (Tbl.find s.host.cqs (qKey fn q) = none → exec (.cqHeadDoorbell fn q value) s = .next s)
    ∧ (∀ cq, Tbl.find s.host.cqs (qKey fn q) = some cq → cq.enabled = true → cq.depth ≤ value → fn = 0 →
        exec (.cqHeadDoorbell fn q value) s = .next (s.hostErr 523))
    ∧ (∀ cq, Tbl.find s.host.cqs (qKey fn q) = some cq → cq.enabled = true → value < cq.depth →
        (value + cq.depth - cq.head) % cq.depth ≤ cq.count → cq.waiting = [] → s.host.evtq = [] →
        ∃ t, exec (.cqHeadDoorbell fn q value) s = .next t ∧ t = { s with host := t.host }
          ∧ Tbl.find t.host.cqs (qKey fn q)
              = some { cq with head := value, count := cq.count - (value + cq.depth - cq.head) % cq.depth })
    ∧ (∀ cq e, Tbl.find s.host.cqs (qKey fn q) = some cq → cq.enabled = true → value < cq.depth → cq.waiting = [e] → s.host.evtq = [] →
        (value + cq.depth - cq.head) % cq.depth ≤ cq.count → 0 < (value + cq.depth - cq.head) % cq.depth → cq.count ≤ cq.depth →
        ∃ t, exec (.cqHeadDoorbell fn q value) s = .next t ∧ t.out = Out.cqe fn q cq.tail cq.phase e :: s.out
          ∧ ∃ c, Tbl.find t.host.cqs (qKey fn q) = some c ∧ c.waiting = [] ∧ c.head = value
            ∧ c.tail = (if cq.tail + 1 = cq.depth then 0 else cq.tail + 1)
            ∧ c.phase = (if cq.tail + 1 = cq.depth then !cq.phase else cq.phase))
    ∧ (∀ h, s.takes h = true → ∃ t, exec (.dmaTimeout h) s = .next t ∧ answered s t h .bounds ∧ t.evtBit eHst 2 = true
        ∧ t.reg64 kHstDmaerrs = (s.reg64 kHstDmaerrs + 1) % 2 ^ 64 ∧ t.work = s.work))
  ∧ (∀ s : State,
    (∀ width rate, s.pwr.phase ≠ .off → width = 16 ∨ width = 8 ∨ width = 4 → rate ≤ 2 → ∃ t, exec (.cxlLinkTrain width rate) s = .next t
      ∧ t.fld fHstLinkWidth = width ∧ t.fld fHstLinkRate = rate ∧ t.fld fHstLinkLinkup = 1 ∧ t.host.pcieOnly = (rate == 2)
      ∧ (¬(width = 16 ∧ rate = 0) → t.evtBit eHst 0 = true) ∧ t.mem = s.mem)
    ∧ (s.serving = true → s.fld fHstCfgHdmsize ≠ 0 → ∃ t, exec .hdmCommit s = .next t ∧ t.fld fHstLinkHdmcommit = 1
        ∧ t = { s with regs := t.regs })
    ∧ (∀ off, s.hdmReach off = true → s.hdmBytes ≤ s.ilvSize →
        (∀ bs, bs.length = 64 → ∃ t, exec (.cxlMemWrite off (bs.map some)) s = .next t ∧ t = { s with mem := t.mem }
          ∧ (s.noIndexAt (s.hdmAt off) 64 → t.ilvRead (t.hdmAt off) 64 = bs) ∧ t.ilvPois (t.hdmAt off) 64 = false
          ∧ ∀ o, s.hdmReach o = true → o ≠ off → t.ilvRead (t.hdmAt o) 64 = s.ilvRead (s.hdmAt o) 64)
        ∧ (∀ i b, i < 64 → ∃ t, exec (.cxlMemWrite off ((List.range 64).map (fun k => if k = i then some b else none))) s = .next t
            ∧ (s.noIndexAt (s.hdmAt off) 64 → t.ilvRead (t.hdmAt off) 64 = (s.ilvRead (s.hdmAt off) 64).set i b))
        ∧ (∃ t, exec (.cxlMemRead off .clean) s = .next t ∧ t = { s with out := t.out }
            ∧ t.out = Out.memData (s.ilvRead (s.hdmAt off) 64) (s.ilvPois (s.hdmAt off) 64) :: s.out)
        ∧ (∃ t r, exec (.cxlMemRead off .uncorrectable) s = .next t ∧ t.mem.hbm = s.mem.hbm ∧ t.ilvPois (t.hdmAt off) 64 = true
            ∧ t.out = Out.memData (s.ilvRead (s.hdmAt off) 64) true :: r)))

/-! ## Cores -/

/-- TILE (R227, R229, R234, R235, R239, R269, R270, R308): a tile that breaks a rule leaves memory, the tables and every other core as they were, and
drives a free value under the rule; a tile that meets an EMPTY line leaves memory as it is, freezes the lease on all its cores and waits in its
core; a tile whose feeders are FILLED, in a lease that is not held, runs, counts and touches no other core and no other store: an INT8 MAC tile from
zero leaves in each cell of an array in use the sum of the products, saturated at every step, a tile without a drain leaves memory as it is, and a
RAW32 drain of array 0 writes its accumulators little-endian into FILLED lines. Readings that the model chose: log 20. -/
def Obligations.TilesAccumulate : Prop :=
  ∀ (s : State) (core l : Nat) (x : Lease) (p : Step) (d : TileDesc), s.runsOn core l x p →
    (∀ r e, s.tileBad core d = some r → ∃ t v, exec (.tile core d e) s = .next t ∧ t.mem = s.mem ∧ t.tables = s.tables ∧ onlyCore core s t
      ∧ t.out = Out.unpredictable r v :: s.out)
    ∧ (∀ e, s.tileBad core d = none → s.tileEmpty core d = true → ∃ t, exec (.tile core d e) s = .next t
        ∧ t.core core = { s.core core with waiting := [.tile core d e] } ∧ t.mem = s.mem ∧ onlyCore core s t
        ∧ (∀ c ∈ x.cores, t.fld (fCoreStateFrozen c) = 1) ∧ ∃ y, t.lease? l = some y ∧ y.frozen = true)
    ∧ (s.tileBad core d = none → s.tileEmpty core d = false → x.held = false →
        ∃ t, exec (.tile core d ⟨[], []⟩) s = .next t ∧ onlyCore core s t ∧ onlyStore core s t
        ∧ (t.core core).lastDrain = some d.drain ∧ (t.core core).tileNo = (s.core core).tileNo + 1
        ∧ t.reg64 (kCoreTiles core) = (s.reg64 (kCoreTiles core) + 1) % 2 ^ 64
        ∧ (∀ a i j, a < 4 → bitOf d.amask a = true → i < 128 → j < 128 → d.fmt = 3 → d.cell = 0 → d.acc = 0 →
            ((t.core core).acc.getD a []).getD (128 * i + j) 0 = (List.range d.k).foldl (fun z k => max (-2 ^ 31) (min (2 ^ 31 - 1)
              (z + elemInt 3 (elemAt 3 (s.wave core 3 (d.abase.getD a 0) d.astride k) i)
                * elemInt 3 (elemAt 3 (s.wave core 3 d.wbase d.wstride k) j)))) 0)
        ∧ (d.drain = 0 → t.mem = s.mem)
        ∧ (d.drain = 1 → d.amask = 1 → d.fmt = 3 → t.storeRead core d.dbase 65536
            = ((t.core core).acc.getD 0 []).flatMap (fun v => leBytes 4 (unsigned 32 v)) ∧ t.storeFull core d.dbase 65536 = true))

/-- FILL, FILL_COMPLETE, POOL_READ_TIMEOUT, STREAM_SEND and RELEASE (R234, R247, R296, R336, R351, R374, R450): a transfer that is not line-aligned is a
host error that moves nothing; a fill from memory of the package within its bounds stands until its data land; data without check values that land
become FILLED lines with the bytes and the poison of their source, the fill is over and no other store changes; a stack error poisons every line of
the fill, and so does a timeout of pool or host memory; a send from EMPTY lines waits, with the lease frozen on all its cores; a send from FILLED
lines to interleaved memory, in a lease that is not held, writes their bytes there and changes no core store; a plan posts a receive buffer on a
connection of its tenant; released lines are EMPTY, and no other line changes. Readings that the model chose: log 17 and 135. -/
def Obligations.FillsAndSends : Prop :=
  ∀ (s : State) (core l : Nat) (x : Lease) (p : Step) (f : Xfer), s.runsOn core l x p → storeOk f.local_ f.len = true → 0 < f.len →
    (∀ e, f.addr % 64 ≠ 0 → exec (.fill core f) s = .next ((s.hostErr 296).cyc core 1)
      ∧ exec (.streamSend core ⟨f, e, none⟩) s = .next ((s.hostErr 296).cyc core 1))
    ∧ (f.addr % 64 = 0 → s.bound x p f.addr f.len false = .ok → (∀ r off, s.place f.addr ≠ .region r off) →
        ∃ t, exec (.fill core f) s = .next t ∧ t.core core = { s.core core with fills := (s.core core).fills ++ [f] } ∧ t.mem = s.mem
          ∧ onlyCore core s t ∧ t.work = s.work)
    ∧ (∀ bs pois, (∀ c ∈ x.cores, (s.core c).waiting = []) → s.fillOf core f.id = some (l, x, p, f) → s.readStarted core f.id = true →
        s.source x f.addr f.len = some (bs, pois) → s.sourceChecks x f = [] → f.len % 64 = 0 →
        (∃ t, exec (.fillComplete core f.id ⟨[], false, ⟨true, true, 0, []⟩⟩) s = .next t ∧ t.storeRead core f.local_ f.len = bs
          ∧ t.storeFull core f.local_ f.len = true ∧ onlyStore core s t ∧ (∀ y ∈ (t.core core).fills, y.id ≠ f.id)
          ∧ ∀ i, i < linesIn f.len → t.storePois core (f.local_ + 64 * i) 64 = pois.getD i false)
        ∧ ((∃ y, s.place f.addr = .ilv y) → ∃ t, exec (.fillComplete core f.id ⟨[], true, ⟨true, true, 0, []⟩⟩) s = .next t
            ∧ t.storeFull core f.local_ f.len = true ∧ t.mem.hbm = s.mem.hbm
            ∧ ∀ i, i < linesIn f.len → t.storePois core (f.local_ + 64 * i) 64 = true))
    ∧ (∀ e off, (∀ c ∈ x.cores, (s.core c).waiting = []) → s.fillOf core f.id = some (l, x, p, f) →
        s.regionOf p.epoch f.addr = some (e, off) → e.kind ≠ 3 → s.readStarted core f.id = true →
        ∃ t, exec (.poolReadTimeout core f.id) s = .next t ∧ t.storeFull core f.local_ f.len = true ∧ onlyStore core s t
          ∧ ∀ i, i < linesIn f.len → t.storePois core (f.local_ + 64 * i) 64 = true)
    ∧ (∀ e, f.addr % 64 = 0 → s.storeFull core f.local_ f.len = false → ∃ t, exec (.streamSend core ⟨f, e, none⟩) s = .next t ∧ t.mem = s.mem
        ∧ (t.core core).waiting = [.streamSend core ⟨f, e, none⟩] ∧ ∀ c ∈ x.cores, t.fld (fCoreStateFrozen c) = 1)
    ∧ (∀ y, f.addr % 64 = 0 → s.storeFull core f.local_ f.len = true → x.held = false → s.bound x p f.addr f.len true = .ok →
        s.place f.addr = .ilv y → y + f.len ≤ s.ilvSize → ∃ t, exec (.streamSend core ⟨f, ⟨true, true, 0, []⟩, none⟩) s = .next t
          ∧ (s.noIndexAt y f.len → t.ilvRead y f.len = s.storeRead core f.local_ f.len) ∧ t.mem.store = s.mem.store)
    ∧ (∀ e b c r i, s.conn? b.conn = some c → s.keyed b.key x.owner = some r → c.freeIdx = some i → c.st ≠ .closed → c.rec_.tenant = x.owner →
        postOk c r b.offset b.len = true → b.line < 2 ^ 15 → ∃ t, exec (.streamSend core ⟨f, e, some b⟩) s = .next t ∧ t.mem = s.mem
          ∧ t.work = s.work ∧ t.conn? b.conn = some (c.post i b.key b.offset b.len (some ⟨l, x.arrival, posOf x core, b.line⟩)))
    ∧ (∀ first count, first + count ≤ 2 ^ 15 → ∃ t, exec (.release core first count) s = .next t ∧ t.mem.store = s.mem.store
        ∧ ∀ n, Tbl.get false t.mem.storeFilled n
          = (Tbl.get false s.mem.storeFilled n && !(decide (core * 2 ^ 15 + first ≤ n) && decide (n < core * 2 ^ 15 + first + count))))

/-- SCALELD, RMSLOT, RMSEED, FLAGRD, WAIT and BRANCH (R235, R274, R276, R278, R296, R311): the scale registers take SCALE and RMAX and keep OVF and
SATCNT; the current slot and the seeds are set, and an array or slot that does not exist is a host error that sets none; the flags are read in
place; a branch on a FILLED word takes its arm from bit 0 of it; a WAIT changes registers only. SCALELD takes 8 core cycles, RMSLOT one and WAIT its
count. Readings that the model chose: log 23. -/
def Obligations.ScalesSlotsAndBranches : Prop :=
  ∀ (s : State) (core l : Nat) (x : Lease) (p : Step), s.runsOn core l x p →
    (∀ base addr, storeOk addr 512 = true → base ≤ 384 → (∀ i, i < 128 → bits (leAt (s.storeRead core (addr + 4 * i) 4) 0 4) 12 8 ≠ 0xFF) →
      ∃ t, exec (.scaleld core base addr) s = .next t ∧ t.mem = s.mem ∧ onlyCore core s t
        ∧ (∀ i, i < 128 → bits (t.word (scaleAddr core (base + i))).toNat 0 21 = leAt (s.storeRead core (addr + 4 * i) 4) 0 4 % 2 ^ 21
            ∧ bits (t.word (scaleAddr core (base + i))).toNat 21 11 = bits (s.word (scaleAddr core (base + i))).toNat 21 11)
        ∧ t.reg64 (coreBase core + 0x20) = (s.reg64 (coreBase core + 0x20) + 8) % 2 ^ 64)
    ∧ (∀ array slot, array ≤ 3 → slot ≤ 15 → ∃ t, exec (.rmslot core array slot) s = .next t ∧ onlyCore core s t ∧ t.mem = s.mem
        ∧ t.core core = { s.core core with curSlot := (s.core core).curSlot.set array slot }
        ∧ t.reg64 (coreBase core + 0x20) = (s.reg64 (coreBase core + 0x20) + 1) % 2 ^ 64)
    ∧ (∀ array slot, 3 < array ∨ 15 < slot → ∃ t, exec (.rmslot core array slot) s = .next t ∧ t.comp = s.comp ∧ t.mem = s.mem
        ∧ t.out = Out.unpredictable 278 s.freeNow :: s.out)
    ∧ (∀ array addr, array ≤ 3 → storeOk addr 64 = true → ∃ t, exec (.rmseed core array addr) s = .next t ∧ onlyCore core s t
        ∧ t.mem = s.mem ∧ ∀ i, i < 16 → (Tbl.get rmReset (t.core core).rm (16 * array + i)).seed
            = leAt (s.storeRead core (addr + 4 * i) 4) 0 4)
    ∧ (∀ base addr, storeOk addr 512 = true → base ≤ 384 → ∃ t, exec (.flagrd core base addr) s = .next t ∧ onlyStore core s t
        ∧ t.work = s.work ∧ ∀ i, i < 128 → leAt (t.storeRead core (addr + 4 * i) 4) 0 4
            = (s.word (scaleAddr core (base + i))).toNat &&& 0xFF200000)
    ∧ (∀ n, ∃ t, exec (.wait core n) s = .next t ∧ t = { s with regs := t.regs }
        ∧ t.reg64 (coreBase core + 0x20) = (s.reg64 (coreBase core + 0x20) + n) % 2 ^ 64)
    ∧ (∀ pos addr, s.lease? l = some x → (∀ c ∈ x.cores, (s.core c).waiting = []) → pos < x.cores.length → addr % 4 = 0 → addr + 4 ≤ 2 ^ 21 →
        s.storeFull (x.cores.getD pos 0) (addr / 64 * 64) 64 = true → s.storePois (x.cores.getD pos 0) addr 4 = false → x.held = false →
        ∃ t q, exec (.branch l pos addr) s = .next t ∧ t.mem = s.mem ∧ (t.lease? l).bind (·.step) = some q
          ∧ q.arms = p.arms ++ [bitOf (leAt (s.storeRead (x.cores.getD pos 0) addr 4) 0 4) 0])

/-- GATHER and SCATTER (R341, R342, R343, R347): a gather of one row brings the row, the count and the FILLED line, and leaves HBM and every other store
as they are; an index beyond the table ends the step; a scatter from FILLED lines, in a lease that is not held, stages a row for each index, fills
its line, and leaves HBM as it is. Readings that the model chose: log 17. -/
def Obligations.GathersAndScatters : Prop :=
  ∀ (s : State) (core l : Nat) (x : Lease) (p : Step) (pl : Plan) (g : GsCmd) (d : TableDesc), s.runsOn core l x p →
    s.plan? x.plan = some pl → Tbl.find s.tables.descs g.table = some d → d.table = g.table → d.tenant = x.owner →
    s.storePois core g.idxaddr (8 * g.nidx) = false → (bitOf d.tflags 0 = true → p.group = true) →
    (∀ r y remote, g.table ∈ pl.hdr.tablesRd → gsBad g d.rowbytes false = false → g.gmode = 0 → g.nidx = 1 → s.gsIndices core g = [r] →
      r < d.rows → s.rowFor core p d remote r = some y → y.bytes.length = d.rowbytes →
      (g.cntaddr + 4 ≤ g.dataddr ∨ g.dataddr + d.rowbytes ≤ g.cntaddr) →
      ∃ t, exec (.gather core g remote) s = .next t ∧ t.storeRead core g.dataddr d.rowbytes = y.bytes
        ∧ t.storeRead core g.cntaddr 4 = leBytes 4 1 ∧ t.storeFull core (64 * g.line) 64 = true ∧ onlyStore core s t
        ∧ t.mem.hbm = s.mem.hbm ∧ t.work = s.work)
    ∧ (∀ remote, g.table ∈ pl.hdr.tablesRd → gsBad g ((if g.gmode = 0 then g.nidx else 1) * d.rowbytes) (g.gmode == 1) = false →
        (∃ i ∈ s.gsIndices core g, d.rows ≤ i) → ∃ t, exec (.gather core g remote) s = .next t ∧ t.stepless l)
    ∧ (∀ remote, g.table ∈ pl.hdr.tablesWr → gsBad g (g.nidx * d.rowbytes) false = false → (g.gmode = 1 → d.tfmt ≠ 10) →
        s.storeFull core g.dataddr (g.nidx * d.rowbytes) = true → (∀ i ∈ s.gsIndices core g, i < d.rows) → x.held = false →
        ∃ t q ins, exec (.scatter core g remote) s = .next t ∧ (t.lease? l).bind (·.step) = some q ∧ q.staged = p.staged ++ ins
          ∧ ins.map (·.row) = s.gsIndices core g ∧ t.mem.hbm = s.mem.hbm ∧ onlyStore core s t
          ∧ t.storeFull core (64 * g.line) 64 = true)

/-- TKOPEN, TKOFFER, TKCLOSE and BRAMBLE_MERGE (R250 to R254, R263): an offer keeps a selector within its capacity and in selection order, and one that
is not a number only counts; a selector opens empty, an offer on it counts and is taken, and a capacity out of range is a host error; a close gives
the held entries and the trailer to the context of the leaf stage and frees the selector; a merge unit takes upstream entries in order and counts
them, and with the last of them its context delivers its result and trailer and is free. Readings that the model chose: log 94. -/
def Obligations.SelectorsAndMergeUnits : Prop :=
  (∀ (t : Topk) (e : TkEntry), (t.held.length ≤ t.cap → 0 < t.cap → (t.offer e).held.length ≤ t.cap)
    ∧ (isNan e.dist = true → t.offer e = { t with nans := t.nans + 1 })
    ∧ (t.held.Pairwise (fun a b => tkLt t.maxMode b a = false) → (t.offer e).held.Pairwise (fun a b => tkLt t.maxMode b a = false))
    ∧ ∀ a ∈ (t.offer e).held, a = e ∨ a ∈ t.held)
  ∧ (∀ (s : State) (core l : Nat) (x : Lease) (p : Step), s.runsOn core l x p →
      (∀ k mm, 1 ≤ k → k ≤ 1024 → ∃ t, exec (.tkopen core k mm) s = .next t ∧ onlyCore core s t ∧ t.mem = s.mem
        ∧ (t.core core).sel = some ⟨k, mm, [], 0, 0, 0, []⟩)
      ∧ (∀ k mm, k = 0 ∨ 1024 < k → ∃ t, exec (.tkopen core k mm) s = .next t ∧ onlyCore core s t ∧ t.mem = s.mem
          ∧ t.out = Out.unpredictable 250 s.freeNow :: s.out)
      ∧ (∀ e u, (s.core core).sel = some u → ∃ t, exec (.tkoffer core e) s = .next t ∧ onlyCore core s t ∧ t.mem = s.mem
          ∧ (t.core core).sel = some (u.offer e) ∧ t.reg64 (kCoreTopkoff core) = (s.reg64 (kCoreTopkoff core) + 1) % 2 ^ 64)
      ∧ (∀ ctx u, (s.core core).sel = some u → x.ctxBase.getD 1 0 + ctx ≤ 3 → ∃ t, exec (.tkclose core ctx) s = .next t
          ∧ onlyCore core s t ∧ (t.core core).sel = none ∧ t.out = s.out
          ∧ Tbl.find t.comp.brm (4 * (6 + core / 8) + (x.ctxBase.getD 1 0 + ctx))
            = some ((u.held.foldl Topk.offer ((Tbl.find s.comp.brm (4 * (6 + core / 8) + (x.ctxBase.getD 1 0 + ctx))).getD
                (Topk.fresh u.cap u.maxMode))).take u.trailer)))
  ∧ (∀ (s : State) (unit ctx : Nat) (o : CtxOpen) (es : List TkEntry) (up : Trailer) (k : Topk), s.serving = true →
      unitPresent s.hw.variant unit = true → ctx ≤ 3 → 1 ≤ o.cap → o.cap ≤ 16384 →
      k = (es.foldl Topk.offer ((Tbl.find s.comp.brm (4 * unit + ctx)).getD (Topk.fresh o.cap o.maxMode))).take up →
      (∃ t, exec (.brambleMerge unit ctx o es ⟨up, false⟩) s = .next t ∧ Tbl.find t.comp.brm (4 * unit + ctx) = some k
        ∧ t.out = s.out ∧ t.mem = s.mem ∧ t.reg64 (unitReg unit 1) = (s.reg64 (unitReg unit 1) + es.length) % 2 ^ 64)
      ∧ (∃ t, exec (.brambleMerge unit ctx o es ⟨up, true⟩) s = .next t ∧ Tbl.find t.comp.brm (4 * unit + ctx) = none
        ∧ t.out = Out.topk unit ctx k.held k.trailer :: s.out ∧ t.mem = s.mem
        ∧ t.reg64 (unitReg unit 1) = (s.reg64 (unitReg unit 1) + es.length) % 2 ^ 64))

/-- NBUCMD, SLOEDESC and FABSEND (R6, R124, R171, R296, R301): a slot that is idle or done, on an enabled currant that is not draining, is written with
its entry relocated and its lease set and becomes READY behind the groups that wait, unless it needs lanes the part lacks; a descriptor with stated
values enters the dispatcher with its queue slot relocated, and on the part without flash it completes with NOT_PRESENT and changes nothing; a
message of the lease's tenant on an open connection is kept unanswered under the connection's sequence number. -/
def Obligations.CommandsToOtherUnits : Prop :=
  ∀ (s : State) (core l : Nat) (x : Lease) (p : Step), s.runsOn core l x p →
    (∀ ch slot bs, ch < s.nch → slot ≤ 15 → s.sstate ch slot = 0 ∨ s.sstate ch slot = 4 → s.flag (fNbuCtlEnable ch) = true →
      s.flag (fNbuCtlDrain ch) = false → (s.slotWrite ch slot bs x.nbuBase l).slotAbsent ch slot = false →
      ∃ t, exec (.nbucmd core ch slot bs) s = .next t ∧ t.sstate ch slot = 1
        ∧ t.slotGet ch slot 0 2 = (leAt bs 0 2 + x.nbuBase) % 512 ∧ t.slotGet ch slot 6 2 = l % 2 ^ 16
        ∧ (t.cur ch).groups = (s.cur ch).groups ++ [[slot]] ∧ onlyCurRegs ch s t)
    ∧ (∀ d : SloeDesc, s.hw.variant.flash = true → sloeStated d = true → ∃ t, exec (.sloedesc core d) s = .next t
        ∧ t.flash = { s.flash with disp := s.flash.disp ++ [{ d with qslot := x.qBase + d.qslot, lease := l }] } ∧ t.mem = s.mem)
    ∧ (∀ d : SloeDesc, s.hw.variant.flash = false → exec (.sloedesc core d) s
        = .next { s with out := .descDone core d.tag .notPresent :: s.out })
    ∧ (∀ conn opc bs c, s.conn? conn = some c → c.st = .open_ → c.rec_.tenant = x.owner → ∃ t y z,
        exec (.fabsend core conn opc bs) s = .next t ∧ t.conn? conn = some y ∧ y.txSeq = (c.txSeq + 1) % 2 ^ 32 ∧ y.sent = c.sent ++ [z]
          ∧ z.seq = c.txSeq ∧ z.mtype = (if opc = 0 then mSend else mCmd) ∧ z.msg.payload = bs ∧ z.acked = false ∧ t.mem = s.mem)

/-! ## Steps and maintenance -/

/-- STEPEND (R317, R318, R457, R461): in a step of good status without poison, a first run in which no tile failed ends the step, which waits for its
result to stand, with a record of its tag, status OK and the cycles of its cores, and those cycles are counted as committed; a first run with a
failed tile runs the step again on the same cores and writes no record; a second run without a failure lets the step end; of a second run with one,
positions wait while no healthy core is free for them, and one that finds a core moves there and the third run starts. A step that met poison ends
with a record of POISON and waits for no result. Readings that the model chose: log 28 and 73. -/
def Obligations.StepEndDecides : Prop :=
  ∀ (s : State) (l : Nat) (x : Lease) (p : Step) (pl : Plan) (m : StepMeas), s.inStep l x p → s.plan? x.plan = some pl → x.frozen = false →
    (∀ c ∈ x.cores, c < s.hw.variant.cores ∧ (s.core c).waiting = []) → x.cores.Nodup → p.waitB = [] → s.role = 0 → p.replayed = false →
    p.provSent = false → (p.status = .ok →
      (p.run = 1 → p.fails = [] → ∃ t y q r, exec (.stepend l m) s = .next t ∧ t.lease? l = some y ∧ y.step = none
        ∧ y.past = x.past ++ [q] ∧ q = { p with ended := true, rmax := q.rmax } ∧ t.work.stepLog.getLast? = some r
        ∧ r.steptag = s.stepTag l p.seq ∧ r.status = .ok ∧ r.reexec = false
        ∧ r.adv = (x.cores.map (fun c => (s.reg64 (coreBase c + 0x20) + 1) % 2 ^ 64)).foldl max 0
        ∧ t.reg64 kChkCommit = (s.reg64 kChkCommit
            + (x.cores.map (fun c => (s.reg64 (coreBase c + 0x20) + 1) % 2 ^ 64)).foldl (· + ·) 0) % 2 ^ 64)
      ∧ (p.run = 1 → p.fails ≠ [] → ∃ t y q, exec (.stepend l m) s = .next t ∧ t.lease? l = some y ∧ y.step = some q ∧ q.run = 2
          ∧ q.prevFails = p.fails ∧ q.fails = [] ∧ q.staged = [] ∧ y.cores = x.cores ∧ y.past = x.past ∧ t.work.stepLog = s.work.stepLog)
      ∧ (p.run = 2 → p.fails = [] → ∃ t y q, exec (.stepend l m) s = .next t ∧ t.lease? l = some y ∧ y.step = none
          ∧ y.past = x.past ++ [q] ∧ q = { p with ended := true, rmax := q.rmax })
      ∧ (p.run = 2 → p.fails ≠ [] → (∀ f ∈ p.fails, s.spareCore pl.hdr.dies (x.cores.getD f.pos 0) = none) →
          ∃ t y q, exec (.stepend l m) s = .next t ∧ t.lease? l = some y ∧ y.step = some q ∧ q.run = 2 ∧ q.waitB ≠ []
            ∧ y.past = x.past ∧ t.work.stepLog = s.work.stepLog)
      ∧ (∀ pos b, p.run = 2 → p.fails ≠ [] → (∀ f ∈ p.fails, f.pos = pos) → s.spareCore pl.hdr.dies (x.cores.getD pos 0) = some b →
          ∃ t y q, exec (.stepend l m) s = .next t ∧ t.lease? l = some y ∧ y.step = some q ∧ q.run = 3 ∧ y.cores = setAt x.cores pos b
            ∧ y.past = x.past ∧ t.work.stepLog = s.work.stepLog))
    ∧ (p.status = .poison → x.st = .open_ → ∃ t y r, exec (.stepend l m) s = .next t ∧ t.lease? l = some y ∧ y.step = none ∧ y.past = x.past
        ∧ t.work.stepLog.getLast? = some r ∧ r.status = .poison)

/-- CHKWAIT_EXPIRY, RENDEZVOUS_TIMEOUT, STEP_HANG, RESULT_STANDS, LINGER_EXPIRY and BATCHWAIT_EXPIRY (R281, R302, R303, R313, R316, R458, R479): a
position that found no healthy core makes its core SUSPECT and ends the step, and without such a position nothing changes; a timeout at a rendezvous
other than the barrier's at which the lease is frozen, unheld and in a plan with a TIMEOUT, ends the step with a record of TIER_TIMEOUT and the
number of the rendezvous; a hang ends the step and closes a lease that waits for no result; when the oldest result stands its requests have left the
node and its place; an idle lease closes and its cores are without a lease; a partial batch may start. -/
def Obligations.StepsEndAndLeasesClose : Prop :=
  ∀ (s : State) (l : Nat) (x : Lease), (∀ c ∈ x.cores, c < s.hw.variant.cores) → (∀ r ∈ s.work.reqs, ∃ h, r.src = .queue h) →
    (∀ p m, s.inStep l x p → p.waitB ≠ [] → p.meas = some m → p.replayed = false → p.provSent = false → ∃ t, exec (.chkwaitExpiry l) s = .next t
      ∧ t.stepless l ∧ ∀ pos ∈ p.waitB, pos < x.cores.length → t.fld (fCoreStateSuspect (x.cores.getD pos 0)) = 1)
    ∧ (∀ p, s.inStep l x p → p.waitB = [] → exec (.chkwaitExpiry l) s = .next s)
    ∧ (∀ p pl rdv m, s.inStep l x p → s.plan? x.plan = some pl → x.held = false → x.frozen = true → s.timedRdv x p rdv = true →
        pl.hdr.timeout ≠ 0 → p.replayed = false →
        p.provSent = false → ∃ t r, exec (.rendezvousTimeout l rdv m) s = .next t ∧ t.stepless l ∧ t.work.stepLog.getLast? = some r
        ∧ r.status = .tierTimeout ∧ r.tordv = rdv ∧ r.steptag = s.stepTag l p.seq)
    ∧ (∀ p m, s.inStep l x p → x.past = [] → holdTaken x = false → p.replayed = false → p.provSent = false →
        ∃ t, exec (.stepHang l m) s = .next t ∧ t.lease? l = none)
    ∧ (∀ p rest, s.serving = true → s.lease? l = some x → x.past = p :: rest → p.replayed = false → s.cas.provs = [] →
        ∃ t, exec (.resultStands l) s = .next t ∧ (∀ id ∈ p.reqs, t.req? id = none) ∧ ∀ y, t.lease? l = some y → y.past = rest)
    ∧ (s.serving = true → s.lease? l = some x → x.st = .open_ → x.queue = [] → x.step = none → x.past = [] →
        ∃ t, exec (.lingerExpiry l) s = .next t ∧ t.lease? l = none ∧ (∀ c ∈ x.cores, t.fld (fCoreStateLease c) = 0xFFFF))
    ∧ (s.serving = true → s.lease? l = some x → x.queue ≠ [] → ∃ t, exec (.batchwaitExpiry l) s = .next t
        ∧ t.lease? l = some { x with batchOk := true } ∧ t = { s with work := t.work })

/-- LEASE_ADMIT, LEASE_WAIT_LIMIT and STEP_START (R299, R300, R302, R304, R478): the one waiting lease of a node that runs no step takes healthy free
cores, which then name it, when its resources are free; a lease that waited too long is marked; on a node with no role, a step of an open lease
whose cores are good starts with its batch at run 1, with the next sequence number and with the errors that its reads will meet, and the figure of
its plan counts, when the planner admits that figure; otherwise only the deferral is counted. A lease before it whose step fits goes first. Readings
that the model chose: log 11, 26, 30, 80 and 97. -/
def Obligations.LeasesAreAdmittedAndStepsStart : Prop :=
  ∀ (s : State) (l : Nat) (x : Lease), s.serving = true → s.lease? l = some x →
    (∀ u, s.waitOrder = [(l, x)] → (∀ e ∈ s.work.leases, e.2.step = none) → s.tryAdmit l = some u → ∃ y, exec .leaseAdmit s = .next u
      ∧ u.lease? l = some y ∧ y.st = .open_ ∧ y.plan = x.plan ∧ y.queue = x.queue
      ∧ ∀ c ∈ y.cores, s.coreFree c = true ∧ u.fld (fCoreStateLease c) = l % 2 ^ 16)
    ∧ (x.st = .waiting → ∃ t, exec (.leaseWaitLimit l) s = .next t ∧ t.lease? l = some { x with overdue := true } ∧ t = { s with work := t.work })
    ∧ (∀ pl b errs, s.plan? x.plan = some pl → b = s.batch x pl.hdr.qbatch → s.cas.provs = [] → x.st = .open_ → x.step = none → x.past = [] →
        batchReady x pl.hdr b = true → s.role = 0 → s.stepBefore x = false → (∀ c ∈ x.cores, s.flag (fCoreStateQuar c) = false ∧ s.flag (fCoreStateSuspect c) = false) →
        (s.admits pl.admitFigure = true → ∃ t y p, exec (.stepStart l errs) s = .next t ∧ t.lease? l = some y ∧ y.step = some p ∧ p.run = 1
          ∧ p.reqs = b ∧ p.seq = x.nextSeq ∧ p.status = .ok ∧ p.fails = [] ∧ p.errs = errs ∧ (∀ id ∈ b, id ∉ y.queue) ∧ y.cores = x.cores
          ∧ t.nrg.eplan = s.nrg.eplan + pl.admitFigure)
        ∧ (s.admits pl.admitFigure = false → ∃ t, exec (.stepStart l errs) s = .next t ∧ t = { s with regs := t.regs }
            ∧ t.reg64 kNrgAdmitdefer = (s.reg64 kNrgAdmitdefer + 1) % 2 ^ 64))
    ∧ (∀ pl errs, s.plan? x.plan = some pl → s.cas.provs = [] → s.stepBefore x = true → exec (.stepStart l errs) s = .next s)

/-- MERGE, COMPACTION, SPLIT and LIST_MERGE (R57, R72 to R77): below its threshold maintenance changes nothing; a merge or compaction that finds room
publishes a list of the next generation without side entries and tombstones that counts the live slots, leaves directory and other headers, and
retires the old extents; one that finds none changes no header and no memory and counts the deferral; a split in a cluster without a pair to join
counts a deferral when no list number is free, and where there is one and room parts the live slots over two active lists of the cluster; a list
merge that finds room leaves a forward to the list that counts the live slots of both, and one that finds none changes nothing. Readings that the
model chose: log 11, 75, 114 to 119. -/
def Obligations.MaintenanceKeepsEntries : Prop :=
  ∀ (s : State) (l : Nat) (h : Hdr) (d : Desc), s.maintains l h d →
    (h.scount < d.c.mergeth → exec (.merge l) s = .next s)
    ∧ (∀ c, (c = .merge l ∧ d.c.mergeth ≤ h.scount) ∨ (c = .compaction l ∧ h.mcount ≠ 0 ∧ d.c.compth * h.mcount ≤ h.tombs * 256) →
        (∀ g u, s.rebuild d.c h h.home (roundUp (s.liveSlots d.c h).length 64) = some (g, u) → ∃ t k, exec c s = .next t ∧ t.hdr? l = some k
          ∧ k.st = .active ∧ k.gen = (h.gen + 1) % 65536 ∧ k.mcount = (s.liveSlots d.c h).length ∧ k.scount = 0 ∧ k.tombs = 0 ∧ k.owner = h.owner
          ∧ t.idx.dir = s.idx.dir ∧ (∀ m, m ≠ l → t.hdr? m = s.hdr? m)
          ∧ ∃ e, t.alloc.retired.getLast? = some e ∧ e.list = l ∧ e.gen = h.gen ∧ e.index = h.owner)
        ∧ (s.rebuild d.c h h.home (roundUp (s.liveSlots d.c h).length 64) = none → ∃ t e, exec c s = .next t ∧ t.idx.hdr = s.idx.hdr
            ∧ t.mem = s.mem ∧ t.desc? h.owner = some e ∧ e.mdefer = satAdd 32 d.mdefer 1))
    ∧ (∀ cs errs, h.livec ≤ d.c.splitth → exec (.split l cs errs) s = .next s)
    ∧ (∀ cs errs, d.c.splitth < h.livec →
        (∀ m k e, listCoarse m = listCoarse l → s.maintOf m = some (k, e) → e.c.jointh ≤ k.livec) →
        (s.freeList l = none → ∃ t e, exec (.split l cs errs) s = .next t ∧ t.idx.hdr = s.idx.hdr ∧ t.mem = s.mem
          ∧ t.desc? h.owner = some e ∧ e.sdefer = satAdd 32 d.sdefer 1)
        ∧ (∀ m r x1 x2 g1 t1 g2 t2, s.freeList l = some m → s.splitSides l h d cs errs = (r, x1, x2) →
            r.rebuild d.c h h.home (roundUp x1.length 64) = some (g1, t1) →
            t1.rebuild d.c (s.freshHdr m h) h.home (roundUp x2.length 64) = some (g2, t2) →
            ∃ t k1 k2, exec (.split l cs errs) s = .next t ∧ t.hdr? l = some k1 ∧ t.hdr? m = some k2 ∧ k1.st = .active ∧ k2.st = .active
              ∧ k1.mcount = x1.length ∧ k2.mcount = x2.length ∧ k1.mcount + k2.mcount = (s.liveSlots d.c h).length
              ∧ k1.scount = 0 ∧ k2.scount = 0 ∧ k2.owner = h.owner ∧ listCoarse m = listCoarse l))
    ∧ (∀ b hb, s.maintOf b = some (hb, d) → b ≠ l → hb.owner = h.owner → listCoarse l = listCoarse b → h.livec < d.c.jointh →
        (∀ g u, s.rebuild d.c hb hb.home (roundUp ((s.liveSlots d.c hb).length + (s.liveSlots d.c h).length) 64) = some (g, u) →
          ∃ t ka kb, exec (.listMerge l b) s = .next t ∧ t.hdr? l = some ka ∧ t.hdr? b = some kb ∧ ka.st = .forward ∧ ka.succ = b
            ∧ ka.fepoch = d.epoch ∧ kb.st = .active ∧ kb.mcount = (s.liveSlots d.c hb).length + (s.liveSlots d.c h).length
            ∧ kb.scount = 0 ∧ kb.tombs = 0)
        ∧ (s.rebuild d.c hb hb.home (roundUp ((s.liveSlots d.c hb).length + (s.liveSlots d.c h).length) 64) = none →
            exec (.listMerge l b) s = .next s))

/-- RECLUSTER_PASS_END, EXTENT_FREE and SIDE_FULL_TIMEOUT (R57, R70, R73, R77): on an admitted maintenance lease EPOCH advances by one, a dead list and
a forward that is no longer valid become FREE, no clean adjacency record of the index's lists names them any longer, and an active list keeps its
header; a retired extent is freed when no query that read its generation is left, and only then; an update that waited for a merge leaves the node,
and SIDEFULL of its index counts it. Readings that the model chose: log 75, 114 and 118. -/
def Obligations.PassesAndRetiredExtents : Prop :=
  ∀ (s : State), s.serving = true →
    (∀ n d, s.desc? n = some d → d.st = .active → s.descBad n = false → s.maintReady = true → (s.idx.hdr.map (·.1)).Nodup →
      ∃ t e, exec (.reclusterPassEnd n) s = .next t
      ∧ t.desc? n = some e ∧ e.epoch = (d.epoch + 1) % 65536 ∧ t.mem.hbm = s.mem.hbm ∧ t.alloc = s.alloc
      ∧ ∀ l h, s.hdr? l = some h → h.owner = n →
          (h.st = .dead ∨ (h.st = .forward ∧ 1 < ((d.epoch + 1) % 65536 + 65536 - h.fepoch) % 65536) → (∃ g, t.hdr? l = some g ∧ g.st = .free)
            ∧ ∀ m k a, s.hdr? m = some k → k.owner = n → s.adjBad m = false → Tbl.find t.idx.adj m = some a → ∀ y ∈ a.nbs, y.1 ≠ l)
          ∧ (h.st = .active → t.hdr? l = some h))
    ∧ (∀ l gen, s.genInUse l gen = true → exec (.extentFree l gen) s = .next s)
    ∧ (∀ l gen, s.genInUse l gen = false → s.nothingDeferred → ∃ t, exec (.extentFree l gen) s = .next t ∧ t.idx.hdr = s.idx.hdr
        ∧ t.work = s.work ∧ t.alloc.retired = s.alloc.retired.filter (fun e => !(e.list == l && e.gen == gen)))
    ∧ (∀ id r h, s.req? id = some r → r.st = .sideWait → r.src = .queue h → s.work.reqs.filter (fun q => q.id != id) = [] →
        ∃ t, exec (.sideFullTimeout id) s = .next t ∧ t.work.reqs = [] ∧ t.idx.hdr = s.idx.hdr ∧ t.mem = s.mem
          ∧ ∀ d, s.desc? r.index = some d → ∃ e, t.desc? r.index = some e ∧ e.sidefull = satAdd 32 d.sidefull 1)

/-! ## Flash and memory upkeep -/

/-- LOADQ, FETCH, FLASH_STATUS_POLL, NAND_READ_COMPLETE and SCAN (R166, R169, R171, R174 to R179): a query that fits goes into its slot of the sloes; of
a descriptor that waits, a record all in the write buffer gives its result at once, one with a sector that is not mapped is POISONED, and any other
keeps record and query as they stand and leaves every die that it reads under a command, one that was free under the read of its page; the poll
reports a die ready; the last read, without an error of its bytes, of the one FETCH under way then gives the result of a record of the fast path and
frees the die, and of a FETCH that was aborted gives nothing; a scan whose dies are free ends with SCANEND, which counts records kept and poisoned,
no more than it was given. Readings that the model chose: log 51, 52, 63, 103 and 110. -/
def Obligations.DescriptorsReadRecords : Prop :=
  ∀ (s : State) (d : SloeDesc) (c : Nat) (r : List Byte × Bool) (q : List Byte × Bool), s.sloesRun = true →
    c = s.sloeAt d.ns (d.rec_ * d.rlen) → r = s.nsRead d.ns (d.rec_ * d.rlen) d.rlen → q = s.querySlot d →
    (d ∈ s.waitDisp → d.op = 1 → sloeElems d ≤ 8192 → ∀ ks, (List.range (sloeElems d)).mapM (fun i => s.hbmKey (d.addr + i)) = some ks →
      ∃ t, exec (.loadq d) s = .next t ∧ t = {
        s with regs := t.regs
               flash := { s.flash with
                 qslots := Tbl.set s.flash.qslots d.qslot (ks.map s.hbmByte, ks.any (fun k => Tbl.get false s.mem.hbmPoison (k / 64)))
                 disp := s.flash.disp.erase d } })
    ∧ (d ∈ s.waitDisp → d.op = 2 → s.mapBad d.ns (d.rec_ * d.rlen) d.rlen = false →
        (s.recParts d.ns (d.rec_ * d.rlen) d.rlen = some [] → ∃ t b e, exec (.fetch d) s = .next t ∧ t.out = .sloe d.dest b e :: s.out
          ∧ sloeSays d q.1 r.1 (r.2 || q.2) 4 b e ∧ t.flash = { s.flash with disp := s.flash.disp.erase d } ∧ t.mem = s.mem)
        ∧ (s.recParts d.ns (d.rec_ * d.rlen) d.rlen = none → ∃ t, exec (.fetch d) s = .next t
          ∧ t.out = .sloe d.dest (sloeBytes d 0 d.okey f32Inf 2 0 0) [] :: s.out ∧ t.flash = { s.flash with disp := s.flash.disp.erase d })
        ∧ (∀ x ps, s.recParts d.ns (d.rec_ * d.rlen) d.rlen = some (x :: ps) → ∃ t f, exec (.fetch d) s = .next t
            ∧ t.flash.fetches = s.flash.fetches ++ [f] ∧ f.d = d ∧ f.query = q.1 ∧ f.bytes = r.1 ∧ f.bad = (r.2 || q.2)
            ∧ f.parts.map (·.page) = (x :: ps).map (·.page) ∧ t.mem = s.mem ∧ t.flash.disp = s.flash.disp
            ∧ (∀ y ∈ x :: ps, Tbl.has t.flash.dies (dieKey (pageCh y.page) (pageCe y.page)) = true)
            ∧ (Tbl.has s.flash.dies (dieKey (pageCh x.page) (pageCe x.page)) = false →
                Tbl.find t.flash.dies (dieKey (pageCh x.page) (pageCe x.page)) = some ⟨.read d x.page, false, []⟩
                ∧ Out.nand (pageCh x.page) (pageCe x.page) (readOps x.sects) ∈ t.out)))
    ∧ (∀ ch ce x fails, Tbl.find s.flash.dies (dieKey ch ce) = some x → x.ready = false →
        ∃ t, exec (.flashStatusPoll ch ce true fails) s = .next t ∧ t.out = .nand ch ce [0x78] :: s.out
          ∧ t.flash = { s.flash with dies := Tbl.set s.flash.dies (dieKey ch ce) { x with ready := true, fails := fails } })
    ∧ (∀ ch ce p x y fl bs qs bad sects k, Tbl.find s.flash.dies (dieKey ch ce) = some ⟨.read y p, true, fl⟩ → s.flash.wbuf = [] →
        (∀ dead, x = ⟨d, c, qs, bs, bad, true, false, dead, [⟨p, sects, k, .reading⟩]⟩ → s.flash.fetches = [x] →
          (dead = false → recordOk bs d.rec_ = true → ∃ t b e, exec (.nandReadComplete ch ce ⟨false, []⟩) s = .next t
            ∧ t.out = .sloe d.dest b e :: .nand (pageCh p) (pageCe p) (columnOps sects) :: s.out ∧ sloeSays d qs bs bad 0 b e ∧ t.mem = s.mem
            ∧ t.flash = { s.flash with dies := Tbl.erase s.flash.dies (dieKey ch ce), fetches := [], disp := s.flash.disp.erase d })
          ∧ (dead = true → ∃ t, exec (.nandReadComplete ch ce ⟨false, []⟩) s = .next t ∧ t.out = s.out
            ∧ t.flash = { s.flash with dies := Tbl.erase s.flash.dies (dieKey ch ce), fetches := [] })))
    ∧ (∀ errs, d ∈ s.waitDisp → d.op = 3 → (∀ e ∈ s.scanPages d, Tbl.has s.flash.dies (dieKey (pageCh e.1) (pageCe e.1)) = false) →
        (s.hbmKey (d.addr + (d.aux - 1) / 8)).isSome = true → ∃ t k n rest, exec (.scan d errs) s = .next t ∧ k + n ≤ d.aux
        ∧ t.out = .sloe d.dest (sloeBytes d 0 0 n 4 0 k) [] :: rest ∧ t.flash.disp = s.flash.disp.erase d ∧ t.mem = s.mem
        ∧ t.flash.dies = s.flash.dies ∧ t.flash.wbuf = s.flash.wbuf)

/-- WBAGE_EXPIRY, NAND_PROGRAM_COMPLETE and WRITE_ADMIT_TIMEOUT (R192, R200, R206, R211): a dirty unit is programmed with what it holds, under the next
write sequence number; when the program of a whole unit that is not hot ends, the map leads to the page, a MAP record goes to each copy of the
journal that is up, and the buffer lets the unit go unless writes reached it meanwhile; a failed program leaves map and journal, keeps the data and
makes the stripe a victim of priority with PROGFAIL; a write that waited for its admission leaves the node and is counted. Readings that the model
chose: log 53. -/
def Obligations.UnitsAreProgrammed : Prop :=
  ∀ (s : State) (ns unit : Nat), s.hw.variant.flash = true → s.pwr.phase = .running →
    (s.buffered ns unit = none → exec (.wbageExpiry ns unit) s = .next s)
    ∧ (∀ u slc p t0, s.buffered ns unit = some u → u.prog = none → s.progMay = true →
        slc = (s.pwr.flushing.isSome || decide (s.stagedUnits u.ch + s.stripePages u.ch true < s.slcFree u.ch)) →
        s.takePage u.ch slc = some (p, t0) → Tbl.has s.flash.dies (dieKey u.ch (pageCe p)) = false →
        ∃ t g, exec (.wbageExpiry ns unit) s = .next t ∧ Tbl.find t.flash.dies (dieKey u.ch (pageCe p))
            = some ⟨.prog p ns unit (s.progSects u), false, []⟩
          ∧ Tbl.find t.flash.pages p = some g ∧ g.ns = ns ∧ g.unit = unit ∧ g.dat = u.dat ∧ g.slc = slc ∧ g.wseq = s.flash.wseq
          ∧ t.flash.wseq = s.flash.wseq + 1 ∧ t.flash.map = s.flash.map ∧ t.flash.journal = s.flash.journal ∧ t.mem = s.mem)
    ∧ (∀ ch ce p sects u, s.noneWait → Tbl.find s.flash.dies (dieKey ch ce) = some ⟨.prog p ns unit sects, true, []⟩ → 16 ≤ sects.length →
        s.buffered ns unit = some u → u.prog = some p → (s.mapEnt ns unit).hot = false → ∃ t e r, exec (.nandProgramComplete ch ce) s = .next t
          ∧ Tbl.find t.flash.map (mapKey ns unit) = some e ∧ e.page = p ∧ e.mapped = true ∧ e.split = false
          ∧ (∀ k, k ≠ mapKey ns unit → Tbl.find t.flash.map k = Tbl.find s.flash.map k)
          ∧ (s.jUp 0 = true → t.flash.journal.1 = s.flash.journal.1 ++ [r]) ∧ (s.jUp 1 = true → t.flash.journal.2 = s.flash.journal.2 ++ [r])
          ∧ r.jtype = .map ∧ r.ns = ns ∧ r.logical = unit ∧ r.sector = false ∧ r.newpa = physAddr p (s.pageSlc p) 0
          ∧ ((t.buffered ns unit).isSome = u.dirtyAgain) ∧ t.mem = s.mem ∧ t.idx = s.idx ∧ t.work = s.work)
    ∧ (∀ ch ce p sects fl u, s.noneWait → Tbl.find s.flash.dies (dieKey ch ce) = some ⟨.prog p ns unit sects, true, fl⟩ → fl ≠ [] →
        pageCh p < 32 → s.buffered ns unit = some u → u.prog = some p → ∃ t v, exec (.nandProgramComplete ch ce) s = .next t
          ∧ t.flash.map = s.flash.map ∧ t.flash.journal = s.flash.journal ∧ t.buffered ns unit = some v ∧ v.dat = u.dat
          ∧ Tbl.has t.flash.urgent (stripeKey (pageCh p) (pageBlock p)) = true ∧ t.evtBit (eFce (pageCh p)) 3 = true)
    ∧ (∀ id r h, s.req? id = some r → r.st = .admitWait → r.src = .queue h → ∃ t, exec (.writeAdmitTimeout id) s = .next t
        ∧ t.req? id = none ∧ t.reg64 kFtlRetrylater = (s.reg64 kFtlRetrylater + 1) % 2 ^ 64 ∧ t.flash = s.flash ∧ t.mem = s.mem)

/-- FOLD_START, GC_START, VICTIM_ERASE and NAND_ERASE_COMPLETE (R170, R196 to R199, R210 to R212): a fold or a collection whose victim holds nothing
valid makes the stripe a victim, journals GCCOMMIT in each copy that is up, and moves nothing; below its marks a fold moves nothing; a collection of
one valid unit copies it to the next page of the channel, marked MOVED, and the map leads there, and a sector that no level decodes raises UNCORR;
the erase then runs on every plane of every die of the channel; an erased stripe is free, its pages are gone, its count is one up and ERASED names
it; a block that failed is replaced by a spare of its plane, and without one the stripe is retired. Readings that the model chose: log 53, 54, 80
and 112. -/
def Obligations.StripesAreCollected : Prop :=
  ∀ (s : State) (ch : Nat), s.hw.variant.flash = true → s.pwr.phase = .running → s.pwr.flushing = none → ch < 32 →
    (∀ k env, s.gcMay ch = true → s.slcOver ch (s.fld fFtlCfgFoldhi) = true → s.slcUnder ch (s.fld fFtlCfgFoldlo) = false →
        leastBy (fun k => [s.stripeWseq ch k, k]) (s.closed ch true) = some k → s.validUnits ch k = [] →
        ∃ t r, exec (.foldStart ch env) s = .next t ∧ Tbl.find t.flash.gc ch = some ⟨k, true, true⟩ ∧ (t.stripe ch k).st = .victim
          ∧ t.flash.map = s.flash.map ∧ t.flash.pages = s.flash.pages ∧ r.jtype = .gccommit ∧ r.logical = stripeKey ch k
          ∧ (s.jUp 0 = true → t.flash.journal.1 = s.flash.journal.1 ++ [r]) ∧ (s.jUp 1 = true → t.flash.journal.2 = s.flash.journal.2 ++ [r]))
    ∧ (∀ env, s.slcOver ch (s.fld fFtlCfgFoldhi) = false → Tbl.get false s.flash.foldOn ch = false → ∃ t, exec (.foldStart ch env) s = .next t
        ∧ t.flash.gc = s.flash.gc ∧ t.flash.map = s.flash.map ∧ t.flash.stripes = s.flash.stripes ∧ t.flash.journal = s.flash.journal)
    ∧ (∀ k, s.gcMay ch = true → s.freeQlc ch < s.fld fFtlCfgGclo → s.freeQlc ch < s.fld fFtlCfgGchi →
        State.gcVictim { s with flash := { s.flash with gcOn := Tbl.set s.flash.gcOn ch true } } ch = some k →
        (∀ env, s.validUnits ch k = [] → ∃ t r, exec (.gcStart ch env) s = .next t ∧ Tbl.find t.flash.gc ch = some ⟨k, true, false⟩
          ∧ (t.stripe ch k).st = .victim ∧ t.flash.map = s.flash.map ∧ t.flash.pages = s.flash.pages
          ∧ r.jtype = .gccommit ∧ r.logical = stripeKey ch k
          ∧ (s.jUp 0 = true → t.flash.journal.1 = s.flash.journal.1 ++ [r]) ∧ (s.jUp 1 = true → t.flash.journal.2 = s.flash.journal.2 ++ [r]))
        ∧ (∀ key e q t0 g, s.validUnits ch k = [key] → s.mapEnt (key / 2 ^ 32) (key % 2 ^ 32) = e → e.mapped = true → e.split = false →
            s.page e.page = some g → s.chUnits ch ≤ s.exported ch → s.takePage ch false = some (q, t0) →
            (∃ t f x, exec (.gcStart ch ⟨[], []⟩) s = .next t ∧ Tbl.find t.flash.map key = some f ∧ f.page = q ∧ f.mapped = true
              ∧ Tbl.find t.flash.pages q = some x ∧ x.moved = true ∧ x.dat = s.unitIn (key / 2 ^ 32) (key % 2 ^ 32)
              ∧ (t.stripe ch k).st = .victim)
            ∧ (∀ i, i < 16 → ∃ t, exec (.gcStart ch ⟨[⟨e.page, [i], none⟩], []⟩) s = .next t ∧ t.evtBit (eFce (pageCh e.page)) 1 = true
              ∧ (t.stripe ch k).st = .victim)))
    ∧ (∀ g, Tbl.find s.flash.gc ch = some g → g.commit = true → (∀ c ∈ s.dies ch, Tbl.has s.flash.dies (dieKey ch c) = false) →
        s.readsDone ch g.victim = true → s.dies ch ≠ [] → Tbl.get [] s.flash.urgent (stripeKey ch g.victim) = [] →
        ∃ t, exec (.victimErase ch) s = .next t ∧ (∀ c ∈ s.dies ch, Tbl.find t.flash.dies (dieKey ch c) = some ⟨.erase g.victim, false, []⟩
            ∧ .nand ch c (s.eraseOps (decide (g.victim < s.slcStripes)) [0, 1, 2, 3]) ∈ t.out)
          ∧ t = { s with out := t.out, flash := { s.flash with dies := t.flash.dies } })
    ∧ (∀ k fails f, s.noneWait → s.flash.wbuf = [] → s.flash.fetches = [] → s.dies ch ≠ [] →
        (∀ c ∈ s.dies ch, ∃ fl, Tbl.find s.flash.dies (dieKey ch c) = some ⟨.erase k, true, fl⟩) →
        Tbl.find s.flash.gc ch = some ⟨k, true, f⟩ → Tbl.get [] s.flash.urgent (stripeKey ch k) = [] →
        (fails = [] ∨ ∃ n ∈ s.planes ch, fails = [n]) →
        ∃ t, exec (.nandEraseComplete ch k fails) s = .next t ∧ (∀ c ∈ s.dies ch, Tbl.find t.flash.dies (dieKey ch c) = none)
          ∧ (∀ p, pageCh p = ch → pageBlock p = k → Tbl.find t.flash.pages p = none) ∧ t.flash.map = s.flash.map
          ∧ Tbl.find t.flash.gc ch = none ∧ (t.stripe ch k).erases = (s.stripe ch k).erases + 1
          ∧ (s.jUp 0 = true → ∃ r, t.flash.journal.1.getLast? = some r ∧ r.jtype = .erased ∧ r.logical = stripeKey ch k)
          ∧ (fails = [] → (t.stripe ch k).st = .free ∧ (t.stripe ch k).next = 0 ∧ t.flash.spares = s.flash.spares)
          ∧ ∀ n, fails = [n] → ((s.markBadBlock ch k n).nextSpare ch n = none → (t.stripe ch k).st = .retired)
              ∧ (∀ m, (s.markBadBlock ch k n).nextSpare ch n = some m → (t.stripe ch k).st = .free ∧ t.blockUsed ch n k = m
                  ∧ t.spareLeft ch n = s.spareLeft ch n - 1))

/-- CHECKPOINT, ZQ_CALIBRATION, SCRUB_PASS and HOTWIN_BOUNDARY (R164, R202, R344, R345, R456): with no victim waiting for its erase, a checkpoint that
is due keeps the map with the journal sequence number it stands at, every superblock of a channel in use names it, and the copies of the journal
that are up start anew with CKPT; one that is not due changes nothing; every die is calibrated; of a row with a corrected error only the count
changes below CEROW; an uncorrectable line outside the write buffer's region is poisoned and its row is retired, to a spare of its bank while there
is one; a hot row without a copy is decided for at the boundary of a table that copies, and the counts of the table start again. Readings that the
model chose: log 55, 100 and 113. -/
def Obligations.CheckpointScrubAndHotWindow : Prop :=
  ∀ (s : State), s.pwr.phase = .running →
    (s.hw.variant.flash = true → 2 ^ 20 ≤ s.flash.sinceCkpt → s.flash.gc = [] → ∃ t pa r, exec .checkpoint s = .next t
        ∧ Tbl.find t.flash.ckpts pa = some ⟨s.flash.jseq, s.flash.map⟩ ∧ (∀ c ∈ s.flashChans, ∃ x, Tbl.find t.flash.supers c = some x ∧ x.ckpt = pa)
        ∧ r.jtype = .ckpt ∧ r.newpa = pa ∧ (s.jUp 0 = true → t.flash.journal.1 = [r]) ∧ (s.jUp 1 = true → t.flash.journal.2 = [r])
        ∧ t.flash.sinceCkpt = 0 ∧ t.flash.map = s.flash.map ∧ t = { s with flash := t.flash, regs := t.regs })
    ∧ (s.flash.sinceCkpt < 2 ^ 20 → exec .checkpoint s = .next s)
    ∧ (s.hw.variant.flash = true → ∃ t, exec .zqCalibration s = .next t ∧ t = { s with out := t.out }
        ∧ ∀ ch ∈ s.flashChans, ∀ c ∈ s.dies ch, Out.nand ch c [0xD9] ∈ t.out)
    ∧ (∀ ch row, ch < s.nch → row < rowsPerChannel → s.alloc.ceRows = [] →
        (1 < s.fld fChkCtlCerow → ∃ t, exec (.scrubPass [⟨ch, row, none⟩]) s = .next t ∧ t.alloc = s.alloc ∧ t.mem = s.mem
          ∧ t.reg64 kChkScrubce = (s.reg64 kChkScrubce + 1) % 2 ^ 64)
        ∧ ∀ l, l < 16 → s.wbLine ch row l = none → Tbl.get false s.alloc.gone (ch * 2 ^ 32 + row) = false →
            ∃ t, exec (.scrubPass [⟨ch, row, some l⟩]) s = .next t ∧ Tbl.get false t.mem.hbmPoison (rowKey ch row / 64 + l) = true
              ∧ t.mem.hbm = s.mem.hbm ∧ t.reg64 kChkScrubue = (s.reg64 kChkScrubue + 1) % 2 ^ 64
              ∧ (Tbl.get 0 s.alloc.bankSpares (ch * 32 + row % 32) < Config.bankSpareRows → t.alloc.gone = s.alloc.gone
                  ∧ Tbl.get 0 t.alloc.bankSpares (ch * 32 + row % 32) = Tbl.get 0 s.alloc.bankSpares (ch * 32 + row % 32) + 1)
              ∧ (¬ Tbl.get 0 s.alloc.bankSpares (ch * 32 + row % 32) < Config.bankSpareRows →
                  Tbl.get false t.alloc.gone (ch * 2 ^ 32 + row) = true))
    ∧ (∀ table d, Tbl.find s.tables.descs table = some d → ∃ t, exec (.hotwinBoundary table) s = .next t
        ∧ t = { s with tables := t.tables } ∧ t.tables.descs = s.tables.descs ∧ t.tables.replicas = s.tables.replicas
        ∧ (∀ e ∈ t.tables.hot, e.table = table → e.count = 0 ∧ e.err = 0)
        ∧ (∀ e ∈ s.tables.hot, e.table ≠ table → e ∈ t.tables.hot)
        ∧ ∀ e ∈ s.tables.hot, e.table = table → d.hotth ≤ e.count - e.err → Tbl.has s.tables.replicas (table * 2 ^ 40 + e.row) = false →
            bitOf d.tflags 1 = true → (table, e.row, true) ∈ t.tables.decisions)

/-! ## The fabric -/

/-- FRAME_RECEIVE, EGRESS_PICK, PFC_FRAME, PFC_REFRESH, PFCWD_EXPIRY, GATE_LIST_ENABLE, GATE_INTERVAL_END and GATE_LIST_RESTART (R356, R357, R369, R370,
R392, R396): a frame with a bad FCS is only counted; a whole CMD at NEXT passes to the ready list; a pause stands for its quanta and its watchdog
leaves it; the frame chosen leaves its queue and is counted; the gate list runs from entry 0 and wraps after LEN, and its restart waits for the
frame being sent. Readings that the model chose: log 15, 37, 126 and 128. -/
def Obligations.PortsReceiveAndSend : Prop :=
  ∀ (s : State) (p : Nat), p < s.hw.variant.ports → s.serving = true →
    (∀ f, (s.port p).up = true → f.fcsOk = false → ∃ t, exec (.frameReceive p f) s = .next t ∧ t = { s with regs := t.regs }
      ∧ t.reg64 (kFabFcserr p) = (s.reg64 (kFabFcserr p) + 1) % 2 ^ 64)
    ∧ (∀ f c, (s.port p).up = true → f.fcsOk = true → f.len ≤ 9216 → f.etherOk = true → f.pause = false → f.addrOk = true → f.udpOk = true →
        f.ver = 1 → bitOf (s.fld (fFabPfcPfcmask p)) f.cls = true → f.msg.port = p → s.conn? f.msg.dconn = some c → c.cached = true →
        c.st = .open_ → c.sys = true → c.held = [] → c.next = f.msg.seq → (∀ i ∈ c.infl, i.msg.seq ≠ f.msg.seq) → f.msg.mtype = mCmd →
        1 ≤ f.msg.opc → f.msg.opc ≤ 5 → f.msg.arg = 0 → f.msg.tenant = c.rec_.tenant → (s.mapOf f.msg.epoch).isSome = true →
        f.msg.offset = 0 → f.msg.totlen = f.msg.payload.length → packetOk f.msg = true → s.ctxOf f.msg = none →
        (∀ e ∈ s.fab.ports, (f.msg.dconn, f.msg.msgid) ∉ e.2.dead) → ∃ t d, exec (.frameReceive p f) s = .next t
          ∧ t.fab.ready = s.fab.ready ++ [f.msg] ∧ t.conn? f.msg.dconn = some d ∧ d.next = (f.msg.seq + 1) % 2 ^ 32 ∧ t.work = s.work
          ∧ t.host = s.host ∧ t.out = s.out)
    ∧ (∀ classes quanta, ∃ t, exec (.pfcFrame p classes quanta) s = .next t ∧ t = { s with regs := t.regs, fab := t.fab }
        ∧ t.reg64 (kFabPfcrx p) = (s.reg64 (kFabPfcrx p) + 1) % 2 ^ 64 ∧ (∀ q, q ≠ p → t.port q = s.port q)
        ∧ ∀ c, c < 8 → Tbl.find (t.port p).paused c = if bitOf classes c then (if quanta = 0 then none else some (s.uptime + quantaUs quanta))
            else Tbl.find (s.port p).paused c)
    ∧ (∀ cls, (Tbl.get false (s.port p).txPause cls = true ∧ 1024 * s.fld (fFabPfcXon p) ≤ Tbl.get 0 (s.port p).occ cls →
          ∃ t, exec (.pfcRefresh p cls) s = .next t ∧ t.out = .pfc p cls 0xFFFF :: s.out ∧ t.fab = s.fab)
        ∧ (Tbl.get false (s.port p).txPause cls = false → exec (.pfcRefresh p cls) s = .next s)
        ∧ (s.pausedAt (s.port p) cls = true → ∃ t, exec (.pfcwdExpiry p cls) s = .next t ∧ t.evtBit (ePort p) 3 = true ∧ t.fab = s.fab)
        ∧ (s.pausedAt (s.port p) cls = false → exec (.pfcwdExpiry p cls) s = .next s))
    ∧ ((s.port p).restart = false → (s.port p).up = true →
        (∀ c q e td cd, s.pick p { s.port p with sending := false } = some (c, q, e, td, cd) → e.msg.mtype ≠ mRdata →
          e.cls = c ∧ e.tenant = q ∧ e ∈ (s.port p).egress ∧ s.pausedAt (s.port p) c = false ∧ ∃ t, exec (.egressPick p) s = .next t
            ∧ t.out = .frame p (s.frameBytes p e) :: s.out ∧ (t.port p).egress = (s.port p).egress.erase e
            ∧ (t.port p).sending = true ∧ t.reg64 (kFabTxframes p) = (s.reg64 (kFabTxframes p) + 1) % 2 ^ 64
            ∧ t.reg64 (kFabTxbytes p) = (s.reg64 (kFabTxbytes p) + e.len) % 2 ^ 64 ∧ ∀ q, q ≠ p → t.port q = s.port q)
        ∧ (s.pick p { s.port p with sending := false } = none → ∃ t, exec (.egressPick p) s = .next t
            ∧ t.port p = { s.port p with sending := false } ∧ t = { s with fab := t.fab }))
    ∧ (s.flag (fFabGclctlEnable p) = false → ∃ t, exec (.gateListEnable p) s = .next t ∧ t.flag (fFabGclctlEnable p) = true
        ∧ (t.port p).gate = 0 ∧ (t.port p).gateLeft = (s.gateEnt p 0).2 ∧ t = { s with regs := t.regs, fab := t.fab })
    ∧ (s.flag (fFabGclctlEnable p) = true → ∃ t, exec (.gateIntervalEnd p) s = .next t ∧ t = { s with fab := t.fab }
        ∧ (t.port p).gate = (if s.fld (fFabGclctlLen p) ≤ (s.port p).gate + 1 then 0 else (s.port p).gate + 1)
        ∧ (t.port p).gateLeft = (s.gateEnt p (t.port p).gate).2)
    ∧ (s.flag (fFabGclctlEnable p) = true → s.flag (fFabGclctlAlign p) = true → (s.port p).armed = true →
        ∃ t, exec (.gateListRestart p) s = .next t ∧ (t.port p).armed = false
          ∧ ((s.port p).sending = true → (t.port p).restart = true ∧ (t.port p).gate = (s.port p).gate ∧ t.evtBit (ePort p) 4 = true)
          ∧ ((s.port p).sending = false → (t.port p).gate = 0 ∧ (t.port p).gateLeft = (s.gateEnt p 0).2 ∧ t.regs = s.regs))

/-- LINK_UP, LINK_DOWN, LOSTTIME_EXPIRY, LINK_TRAINING_FAILURE, REASMTO_EXPIRY and DEAD_LIST_EXPIRY (R353, R385, R399, R463): a link comes up and its
loss ends; a link that goes down takes its queue, its contexts and the connections whose home it is; a port that stays down is lost, once, and
raises REPLACE; a context that timed out is on the dead list of 256 until it expires. -/
def Obligations.LinksAndReassembly : Prop :=
  ∀ (s : State) (p : Nat), p < s.hw.variant.ports → s.serving = true →
    (s.flag (fFabPcfgEnable p) = true → s.flag (fFabPcfgReset p) = false → (s.port p).up = false → ∃ t, exec (.linkUp p) s = .next t
      ∧ t.port p = { s.port p with up := true, lost := false } ∧ t.fld (fFabPcfgLinkup p) = 1 ∧ t.evtBit (ePort p) 1 = true
      ∧ t = { s with regs := t.regs, fab := t.fab })
    ∧ ((s.port p).up = false → exec (.linkDown p) s = .next s)
    ∧ ((s.port p).up = true → exec (.linkUp p) s = .next s ∧ ∃ t, exec (.linkDown p) s = .next t ∧ (t.port p).up = false
        ∧ (t.port p).egress = [] ∧ (t.port p).ctxs = [] ∧ t.fld (fFabPcfgLinkup p) = 0 ∧ t.evtBit (ePort p) 0 = true
        ∧ ∀ k c, s.conn? k = some c → c.rec_.homeport = p → ∃ d, t.conn? k = some d ∧ d.st ≠ .open_ ∧ d.st ≠ .draining)
    ∧ (∀ e, e = .losttimeExpiry p ∨ e = .linkTrainingFailure p →
        ((s.port p).up = false → s.flag (fFabPcfgEnable p) = true → (s.port p).lost = false → ∃ t, exec e s = .next t
          ∧ t.port p = { s.port p with lost := true } ∧ t.evtBit (ePort p) 2 = true ∧ bitOf (t.reg64 0x30010) 3 = true)
        ∧ ((s.port p).up = true ∨ (s.port p).lost = true → exec e s = .next s))
    ∧ (∀ dconn msgid c, (s.port p).ctxs.find? (fun c => c.head.dconn == dconn && c.head.msgid == msgid) = some c →
        ∃ t, exec (.reasmtoExpiry p dconn msgid) s = .next t ∧ c ∉ (t.port p).ctxs ∧ (dconn, msgid) ∈ (t.port p).dead
          ∧ (t.port p).dead.length ≤ 256 ∧ t.reg64 (kFabReasmtmo p) = (s.reg64 (kFabReasmtmo p) + 1) % 2 ^ 64)
    ∧ (∀ dconn msgid, ∃ t, exec (.deadListExpiry p dconn msgid) s = .next t ∧ (dconn, msgid) ∉ (t.port p).dead
        ∧ (∀ e ∈ (s.port p).dead, e ≠ (dconn, msgid) → e ∈ (t.port p).dead) ∧ t = { s with fab := t.fab })

/-- REORDERTO_EXPIRY, RTO_EXPIRY, ACKINT_EXPIRY, XRDYTO_EXPIRY, RESWAIT_EXPIRY, CONN_STATE_FETCHED, STAGING_BUFFER_GRANT and RANGE_LOCK_GRANT (R368,
R370 to R373, R375, R376, R380, R388): a held request is dropped and counted; a request is sent again RETRIES times, then its connection fails; an
acknowledgement leaves; a grant that expired advances the generation of its buffer; an access that waited for its segments is refused and NEXT
stays; a connection whose state has come is on chip; a free buffer goes to the CMD that waited longest, and a stalled access goes on. Readings that
the model chose: log 15. -/
def Obligations.TransportTimers : Prop :=
  ∀ (s : State) (k : Nat) (c : Conn), s.serving = true → s.conn? k = some c →
    (∀ seq, (c.held.any (fun h => h.seq == seq)) = true → ∃ t, exec (.reordertoExpiry k seq) s = .next t
      ∧ t.conn? k = some { c with held := c.held.filter (fun h => h.seq != seq) }
      ∧ t.reg64 kTraReorddrop = (s.reg64 kTraReorddrop + 1) % 2 ^ 64 ∧ t = { s with regs := t.regs, fab := t.fab })
    ∧ (∀ seq x, c.sent.find? (fun x => x.seq == seq) = some x → x.acked = false →
        (x.tries < s.fld fFabTcfg2Retries → ∃ t, exec (.rtoExpiry k seq) s = .next t
          ∧ t.conn? k = some { c with sent := c.sent.map (fun y => if y.seq = seq then { y with tries := y.tries + 1 } else y) }
          ∧ t.reg64 kTraRetx = (s.reg64 kTraRetx + 1) % 2 ^ 64 ∧ t.work = s.work)
        ∧ (s.fld fFabTcfg2Retries ≤ x.tries → c.st = .open_ → ∃ t d, exec (.rtoExpiry k seq) s = .next t ∧ t.conn? k = some d
            ∧ d.st = .failed ∧ d.sent = [] ∧ d.infl = [] ∧ d.held = [] ∧ ∀ m ∈ t.fab.ready, m.dconn ≠ k))
    ∧ (∀ m, c.unacked ≠ [] → c.lastAcc = some m → ∃ t, exec (.ackintExpiry k) s = .next t ∧ t.conn? k = some { c with unacked := [] }
        ∧ t = { s with fab := t.fab } ∧ (m.dconn = k → c.st = .open_ → s.sprayUp c.rec_.spray ≠ [] → queued t mAck m.seq []))
    ∧ (c.unacked = [] → exec (.ackintExpiry k) s = .next s)
    ∧ (∀ buf i b, s.grantee buf = some i → i.msg.mtype = mCmd → Tbl.find s.fab.staging buf = some b → b.owner = some (i.msg.dconn, i.msg.seq) →
        ∃ t, exec (.xrdytoExpiry buf) s = .next t ∧ Tbl.find t.fab.staging buf = some ⟨(b.gen + 1) % 2 ^ 32, none, [], [], false⟩)
    ∧ (∀ seq i, c.infl.find? (fun i => i.msg.seq == seq && i.wait == .segs) = some i → c.st = .open_ → ∃ t d, exec (.reswaitExpiry k seq) s = .next t
        ∧ t.conn? k = some d ∧ d.next = c.next ∧ (∀ j ∈ d.infl, j.msg.seq ≠ seq) ∧ t.mem = s.mem
        ∧ t.reg64 kTraResnak = (s.reg64 kTraResnak + 1) % 2 ^ 64)
    ∧ ((∃ f ∈ s.fab.missq, f.msg.dconn = k) →
        (∃ t d, exec (.connStateFetched k true) s = .next t ∧ t.conn? k = some d ∧ d.cached = true
          ∧ t.fab.missq = s.fab.missq.filter (fun f => f.msg.dconn != k))
        ∧ ∃ t, exec (.connStateFetched k false) s = .next t ∧ t.fab.missq = s.fab.missq.filter (fun f => f.msg.dconn != k)
          ∧ t.fab.conns = s.fab.conns ∧ t.evtBit eTra 0 = true)
    ∧ (∀ w r b i, s.fab.stWait = w :: r → s.freeBuf = some b → w.1 = k → c.infl.find? (fun i => i.msg.seq == w.2) = some i →
        i.msg.dconn = k → ∃ t, exec .stagingBufferGrant s = .next t ∧ t.fab.stWait = r ∧ t = { s with fab := t.fab }
          ∧ Tbl.find t.fab.staging b = some ⟨((Tbl.find s.fab.staging b).map (·.gen)).getD 0, some (k, i.msg.seq), [], [], false⟩)
    ∧ (s.fab.stWait = [] → exec .stagingBufferGrant s = .next s)
    ∧ (∀ g l i, (∀ w ∈ s.fab.lockWait, s.groupOfConn w.1 ≠ g) → s.lockTab g = [l] → l.begun = false → l.conn = k →
        c.infl = [i] → i.msg.seq = l.seq → i.wait = .lock → ∃ t, exec (.rangeLockGrant g) s = .next t ∧ t.fab.ready = s.fab.ready ++ [i.msg]
          ∧ t = { s with fab := t.fab } ∧ t.lockTab g = [l])

/-- REPLY, ACK, NAK, XRDY, FLUSHED, ABORTREP, PONG, PING, RDATA, CLOSE and CLOSEACK (R360, R367, R372, R373, R379, R386, R390): a response releases the
copies it answers; RETRY_LATER sends the request again; an XRDY sends the bulk data under its buffer; PING gets PONG; RDATA land in the lines that
asked for them; a connection closes when nothing is outstanding on it. Readings that the model chose: log 36. -/
def Obligations.ResponsesAndClosing : Prop :=
  ∀ (s : State) (m : Msg) (c : Conn), s.conn? m.dconn = some c →
    (s.isReady m mReply = true → ∃ t, exec (.reply m) s = .next t ∧ t.conn? m.dconn = some { c with sent := dropSent c.sent mCmd m.seq }
      ∧ t = { s with fab := t.fab, cas := t.cas } ∧ (s.memberOf m.dconn = none → t.cas = s.cas))
    ∧ (s.isReady m mAck = true → ∃ t, exec (.ack m) s = .next t ∧ t = { s with fab := t.fab }
        ∧ t.conn? m.dconn = some { c with sent := ackUpTo c.sent m.seq })
    ∧ (s.isReady m mNak = true →
        ((∀ x ∈ c.sent, x.seq ≠ m.seq) → exec (.nak m) s = .next (s.unready m))
        ∧ (∀ x, x ∈ c.sent → x.seq = m.seq → x.tag = m.tag → c.sent = [x] →
            (m.status = statusCode .retryLater ∨ m.status = statusCode .reasmTimeout → x.tries < s.fld fFabTcfg2Retries →
              ∃ t, exec (.nak m) s = .next t ∧ t.conn? m.dconn = some { c with sent := [{ x with tries := x.tries + 1 }] })
            ∧ (∀ st, m.status = statusCode st → st ≠ .retryLater → st ≠ .reasmTimeout → st ≠ .genMismatch →
              ∃ t, exec (.nak m) s = .next t ∧ t.conn? m.dconn = some { c with sent := [] })))
    ∧ (s.isReady m mXrdy = true → ∀ x, c.sent = [x] → x.seq = m.seq → x.bulk ≠ [] → c.sys = false → s.sprayUp c.rec_.spray ≠ [] →
        ∃ t d, exec (.xrdy m) s = .next t ∧ queued t mData x.seq x.bulk ∧ t.conn? m.dconn = some d ∧ t = { s with fab := t.fab }
          ∧ d.sent = if x.mtype = mSend then [] else [{ x with acked := true }])
    ∧ (s.isReady m mFlushed = true → ∃ t, exec (.flushed m) s = .next t ∧ t = { s with fab := t.fab }
        ∧ t.conn? m.dconn = some { c with sent := dropSent c.sent mFlush m.seq })
    ∧ (s.isReady m mAbortrep = true → exec (.abortrep m) s = .next (s.unready m))
    ∧ (s.isReady m mPong = true → exec (.pong m) s = .next (s.unready m))
    ∧ (s.isReady m mPing = true → c.st = .open_ → s.sprayUp c.rec_.spray ≠ [] → ∃ t, exec (.ping m) s = .next t ∧ queued t mPong m.seq []
        ∧ t = { s with fab := t.fab } ∧ t.conn? m.dconn = some c)
    ∧ (s.isReady m mRdata = true → (∀ x ∈ c.sent, x.mtype ≠ mRead ∨ x.seq ≠ m.seq) → exec (.rdata m) s = .next (s.unready m))
    ∧ (s.isReady m mRdata = true → ∀ x core l y p f bs pois, x ∈ c.sent → x.mtype = mRead → x.seq = m.seq → core = m.tag / 2 ^ 32 →
        s.fillOf core (m.tag % 2 ^ 32) = some (l, y, p, f) → m.status = 0 → sysUnpack m.payload = (bs, pois, 0) → bs.length = f.len →
        storeOk f.local_ f.len = true → f.len % 64 = 0 → 0 < f.len → s.sourceChecks y f = [] → (∀ z ∈ y.cores, (s.core z).waiting = []) →
        ∃ t, exec (.rdata m) s = .next t ∧ t.storeRead core f.local_ f.len = bs ∧ t.storeFull core f.local_ f.len = true ∧ onlyStore core s t
          ∧ (∀ i, i < linesIn f.len → t.storePois core (f.local_ + 64 * i) 64 = pois.getD i false)
          ∧ ∀ z ∈ (t.core core).fills, z.id ≠ m.tag % 2 ^ 32)
    ∧ (s.isReady m mClose = true → c.st = .open_ →
        (∀ i, c.infl = [i] → i.msg.seq = m.seq → ∃ t d, exec (.close m) s = .next t ∧ t.conn? m.dconn = some d ∧ d.st = .closed ∧ d.infl = [])
        ∧ (∀ i j, c.infl = [i, j] → i.msg.seq ≠ m.seq → ∃ t d, exec (.close m) s = .next t ∧ t.conn? m.dconn = some d ∧ d.st = .draining))
    ∧ (s.isReady m mCloseack = true → c.st = .draining → (∃ x ∈ c.sent, x.mtype = mClose) → ∃ t d, exec (.closeack m) s = .next t
        ∧ t.conn? m.dconn = some d ∧ d.st = .closed ∧ d.sent = [])

/-- SEND, DATA, READ, WRITE and FLUSH (R365, R370, R374, R375, R377, R378, R388, R390): with no buffer posted a SEND is refused and NEXT stays;
otherwise its data reach the region of the first posted buffer, which leaves the queue; DATA of another generation are refused and place nothing,
and the last of a CMD make it ready; a READ answers the bytes of its region and changes none, a WRITE places its payload, and an access that fails
its checks is refused and passes; a FLUSH is answered when everything before it is placed. Readings that the model chose: log 40 and 70. -/
def Obligations.BulkDataAndOneSidedAccess : Prop :=
  ∀ (s : State) (m : Msg) (c : Conn),
    (s.stands m mSend c → c.head = none → ∃ t d, exec (.send m) s = .next t ∧ t.conn? m.dconn = some d ∧ d.next = c.next ∧ t.mem = s.mem
      ∧ (∀ i ∈ d.infl, i.msg.seq ≠ m.seq) ∧ queued t mNak m.seq [])
    ∧ (∀ b r x, s.stands m mSend c → c.head = some b → s.keyed b.key c.rec_.tenant = some r → r.rec_.rkind = 0 → c.sys = false → m.arg = 0 →
        m.payload.length ≤ b.len → s.place (r.rec_.base + b.offset) = .ilv x → x + m.payload.length ≤ s.ilvSize →
        ∃ t d, exec (.send m) s = .next t ∧ (s.noIndexAt x m.payload.length → t.ilvRead x m.payload.length = m.payload)
          ∧ t.conn? m.dconn = some d
          ∧ d.next = (m.seq + 1) % 2 ^ 32 ∧ (∀ y ∈ d.recv, y.idx ≠ b.idx) ∧ t.mem.store = s.mem.store ∧ t.idx = s.idx)
    ∧ (∀ i b, s.isReady m mData = true → s.conn? m.dconn = some c → c.infl.find? (fun i => i.msg.seq == m.seq) = some i →
        m.arg % 2 ^ 16 < 0x8000 → Tbl.find s.fab.staging (m.arg % 2 ^ 16) = some b → b.owner = some (m.dconn, m.seq) →
        (b.gen ≠ m.aux → ∃ t, exec (.data m) s = .next t ∧ t.fab.staging = s.fab.staging ∧ t.mem = s.mem
          ∧ t.reg64 kTraGenmis = (s.reg64 kTraGenmis + 1) % 2 ^ 64)
        ∧ (b.gen = m.aux → b.chunks = [] → c.sys = false → m.offset = 0 → m.totlen = m.payload.length → i.msg.arg = m.payload.length →
            0 < m.payload.length → ∃ t y, exec (.data m) s = .next t ∧ t.fab.ready = (s.unready m).fab.ready ++ [i.msg]
              ∧ Tbl.find t.fab.staging (m.arg % 2 ^ 16) = some y ∧ y.owner = b.owner ∧ y.gen = b.gen
              ∧ rdBytes y.filled 0 m.payload.length = m.payload ∧ t.mem = s.mem))
    ∧ (∀ a x, s.stands m mRead c → c.sys = false → s.reaches m c a x → s.ilvPois x a.len = false → ∃ t d, exec (.read m [] false) s = .next t
        ∧ queued t mRdata m.seq (s.ilvRead x a.len) ∧ t.mem = s.mem ∧ t.conn? m.dconn = some d ∧ d.next = (m.seq + 1) % 2 ^ 32
        ∧ ∀ i ∈ d.infl, i.msg.seq ≠ m.seq)
    ∧ (∀ a x, s.stands m mWrite c → c.sys = false → s.reaches m c a x → ∃ t d, exec (.write m) s = .next t
        ∧ (s.noIndexAt x m.payload.length → t.ilvRead x m.payload.length = m.payload) ∧ t.mem.store = s.mem.store
        ∧ t.mem.commons = s.mem.commons ∧ t.conn? m.dconn = some d
        ∧ d.next = (m.seq + 1) % 2 ^ 32 ∧ t.idx = s.idx ∧ ∀ i ∈ d.infl, i.msg.seq ≠ m.seq)
    ∧ (∀ st, s.access c m = .error st → c.sys = false →
        (s.stands m mRead c → ∃ t d, exec (.read m [] false) s = .next t ∧ queued t mNak m.seq [] ∧ t.mem = s.mem ∧ t.conn? m.dconn = some d
          ∧ d.next = (m.seq + 1) % 2 ^ 32)
        ∧ (s.stands m mWrite c → ∃ t d, exec (.write m) s = .next t ∧ queued t mNak m.seq [] ∧ t.mem = s.mem ∧ t.conn? m.dconn = some d
          ∧ d.next = (m.seq + 1) % 2 ^ 32))
    ∧ (∀ err, s.isReady m mFlush = true → s.conn? m.dconn = some c →
        (c.writesBefore m.seq = true → exec (.flush m err) s = .next s)
        ∧ (c.writesBefore m.seq = false → c.st = .open_ → s.sprayUp c.rec_.spray ≠ [] → ∃ t d, exec (.flush m err) s = .next t
            ∧ queued t mFlushed m.seq [] ∧ t.conn? m.dconn = some d ∧ d.hostWr = false ∧ t.mem = s.mem ∧ t.work = s.work))

/-! ## Cascade groups -/

/-- BARRIER_RELEASE, RELEASE_DETECT, ARRIVE, GO, EXPEL, BARRIER_RESET, BARTO_EXPIRY and BARSTUCK (R348, R396, R417, R418, R420 to R422, R435): the
release waits for the pin, for verdicts, for the child groups and for the parent's GO, then advances BSEQ by one and raises STEP_GO; a node in the
barrier that detects it pulls STEP_RDY# low and applies the rows; an arrival counts for its round only; a member that is missing at BARTO is ABSENT
and expelled; expulsion and reset end steps and release the pin; a stuck line stops releases. Readings that the model chose: log 15. -/
def Obligations.BarrierRounds : Prop :=
  ∀ s : State, s.serving = true →
    (s.role = 2 → s.cas.stuck = false → s.cas.resetWait = none → s.pwr.stepGo = false →
      (s.pwr.stepRdyLow = true → s.groupBusy = true → exec .barrierRelease s = .next s)
      ∧ (s.pwr.stepRdyLow = false → s.cas.verdicts ≠ [] → ∃ t, exec .barrierRelease s = .next t ∧ t.fld fCasBarHoldv = 1
          ∧ t = { s with regs := t.regs })
      ∧ (s.pwr.stepRdyLow = false → s.cas.verdicts = [] → s.childrenIn = false → exec .barrierRelease s = .next s)
      ∧ (s.pwr.stepRdyLow = false → s.cas.verdicts = [] → s.childrenIn = true →
          (s.parentConn = none ∨ s.cas.parentGo = true → ∃ t, exec .barrierRelease s = .next t ∧ t.pwr.stepGo = true
            ∧ t.fld fCasBarBseq = (s.fld fCasBarBseq + 1) % 2 ^ 32 ∧ t.fld fCasBarWaitgo = 0 ∧ t.fld fCasBarHoldv = 0
            ∧ t.reg64 kCasReleases = (s.reg64 kCasReleases + 1) % 2 ^ 64 ∧ t.cas.detected = false ∧ t.cas.parentGo = false ∧ t.work = s.work
            ∧ (s.cas.detected = true → ∃ r, t.cas.ring.getLast? = some r ∧ r.bseq = s.fld fCasBarBseq))
          ∧ (∀ k, s.parentConn = some k → s.cas.parentGo = false → s.cas.sentArrive = false → ∃ t, exec .barrierRelease s = .next t
            ∧ t.fld fCasBarWaitgo = 1 ∧ t.cas = { s.cas with sentArrive := true } ∧ t.pwr = s.pwr)))
    ∧ (s.cas.stuck = true → exec .barrierRelease s = .next s)
    ∧ ((s.role = 2 ∧ s.pwr.stepGo = true) ∨ s.role = 1 → s.cas.outside = false → ∃ t, exec .releaseDetect s = .next t ∧ t.pwr.stepRdyLow = true
        ∧ t.cas.detected = true ∧ t.cas.rdySince = s.uptime ∧ t.cas.remoteRows = []
        ∧ t.fld fCasBarBseq = (if s.role = 1 then (s.fld fCasBarBseq + 1) % 2 ^ 32 else s.fld fCasBarBseq) ∧ (s.role = 2 → t.pwr.stepGo = false)
        ∧ ∀ p, p < s.hw.variant.ports → s.flag (fFabGclctlEnable p) = true → s.flag (fFabGclctlAlign p) = true → (t.port p).armed = true)
    ∧ (∀ m p, s.sysReady m mBarrier 1 → s.role = 2 → s.memberOf m.dconn = some p → s.cas.resetWait = none →
        (leAt m.payload 4 4 = s.fld fCasBarBseq → ∃ t, exec (.arrive m) s = .next t
          ∧ Tbl.find t.cas.members p = (Tbl.find s.cas.members p).map (fun x => { x with arrived := some (leAt m.payload 16 4) })
          ∧ t.cas = { s.cas with members := t.cas.members } ∧ t.work = s.work)
        ∧ (leAt m.payload 4 4 ≠ s.fld fCasBarBseq → ∃ t, exec (.arrive m) s = .next t ∧ t.cas = s.cas ∧ t.work = s.work))
    ∧ (∀ m, s.sysReady m mBarrier 2 → s.role = 2 → s.parentConn = some m.dconn → s.cas.sentArrive = true → ∃ t, exec (.go m) s = .next t
        ∧ t.cas = { s.cas with parentGo := true } ∧ t.fld fCasBarWaitgo = 0 ∧ t.work = s.work)
    ∧ (∀ m, s.sysReady m mBarrier 3 → s.fromMaster m = true → ∃ t, exec (.expel m) s = .next t ∧ t.pwr.stepRdyLow = false
        ∧ t.cas.outside = true ∧ t.cas.expelled = true ∧ ∀ l y p, t.lease? l = some y → y.step = some p → p.group = false)
    ∧ (∀ m, s.sysReady m mBarrier 4 → s.fromMaster m = true → ∃ t, exec (.barrierReset m) s = .next t ∧ t.pwr.stepRdyLow = false
        ∧ t.cas.provs = [] ∧ t.fld fCasBarBseq = leAt m.payload 4 4
        ∧ ∀ l y, t.lease? l = some y → y.step = none ∧ y.nextGroup = false)
    ∧ (s.role = 2 → s.cas.detected = true → ∃ t, exec .bartoExpiry s = .next t ∧ t.work = s.work ∧ ∀ p x, Tbl.find s.cas.members p = some x →
        p ≠ s.fld fCasCfgPos → x.st = .active → x.arrived = none → ∃ y, Tbl.find t.cas.members p = some y ∧ y.st = .absent ∧ y.expelled = true)
    ∧ (s.role = 2 → s.cas.stuck = false → (s.cas.members.any (fun e => e.2.expelled)) = true → ∃ t, exec .barstuck s = .next t
        ∧ t.cas = { s.cas with stuck := true } ∧ t.evtBit eCas 1 = true ∧ t.work = s.work)

/-- MEMBTO_EXPIRY, GROUP_RECORD_SEND, CONFIRM, RETRACT, GONE, VERDICT_TIMEOUT, REPLAY, REPLAY_TIMEOUT, RPKEEP_EXPIRY, APPLIED and EPOCH_DRAIN (R307,
R349, R415, R427, R431 to R434): a member that is late counts as failed; the merged record answers the request; a verdict makes a provisional record
final or discards it and asks for the replay; a replay runs on the lease at run 1, and without replay state GONE answers; a member retracts once;
the homes that have applied a step are remembered, and with the last of them the barrier lines of a running step are FILLED; OLD goes when its count
is zero. Readings that the model chose: log 31 and 61. -/
def Obligations.GroupRecordsAndVerdicts : Prop :=
  ∀ s : State, s.serving = true →
    (∀ g p, s.role = 2 → s.cas.groupReqs = [g] → p ∈ g.parts → p.rec_ = none → p.failed = none → p.discard = none →
      ∃ t y, exec (.membtoExpiry g.tag p.pos) s = .next t ∧ t.cas = { s.cas with groupReqs := [y] } ∧ y.parts.length = g.parts.length
        ∧ (∀ q ∈ y.parts, q.pos = p.pos → q.failed = some .tierTimeout) ∧ (∀ q ∈ g.parts, q.pos ≠ p.pos → q ∈ y.parts))
    ∧ (∀ g r h, s.role = 2 → s.cas.groupReqs = [g] → (g.parts.all Part.final) = true → s.req? g.req = some r → r.src = .queue h → g.op = .search →
        (Tbl.find s.host.sqs (qKey h.fn h.q)).isSome = true → ∃ t, exec (.groupRecordSend g.tag) s = .next t ∧ t.req? g.req = none
          ∧ t.cas.groupReqs = [] ∧ Out.result h.fn h.q h.cid ((s.mergeGroup g r).bytes false) ∈ t.out)
    ∧ (∀ m pos, s.sysReady m mVerdict 1 → s.memberOf m.dconn = some pos → s.role = 2 → verdictTag m ∉ s.cas.ignored → ∃ t, exec (.confirm m) s = .next t
        ∧ verdictTag m ∈ t.cas.confirmed ∧ (∀ v ∈ t.cas.verdicts, v.1 ≠ verdictTag m)
        ∧ t.reg64 kCasConfirms = (s.reg64 kCasConfirms + 1) % 2 ^ 64
        ∧ ∀ g ∈ t.cas.groupReqs, ∀ p ∈ g.parts, p.pos = pos → ¬ p.awaits (verdictTag m))
    ∧ (∀ m pos, s.sysReady m mVerdict 2 → s.memberOf m.dconn = some pos → s.role = 2 → verdictTag m ∉ s.cas.ignored → ∃ t, exec (.retract m) s = .next t
        ∧ verdictTag m ∈ t.cas.ignored ∧ (∀ v ∈ t.cas.verdicts, v.1 ≠ verdictTag m) ∧ t.evtBit eCas 4 = true
        ∧ t.reg64 kCasRetracts = (s.reg64 kCasRetracts + 1) % 2 ^ 64
        ∧ ∀ g ∈ t.cas.groupReqs, ∀ p ∈ g.parts, p.pos = pos → ¬ p.awaits (verdictTag m))
    ∧ (∀ m pos, s.sysReady m mVerdict 4 → s.memberOf m.dconn = some pos → ∃ t, exec (.gone m) s = .next t
        ∧ ∀ g ∈ t.cas.groupReqs, ∀ p ∈ g.parts, p.pos = pos → p.discard = some (verdictTag m) → p.failed ≠ none)
    ∧ (∀ tag v, s.role = 2 → s.cas.verdicts.find? (fun v => v.1 == tag) = some v → ∃ t, exec (.replayTimeout tag) s = .next t
        ∧ tag ∈ t.cas.ignored ∧ ∀ w ∈ t.cas.verdicts, w.1 ≠ tag)
    ∧ (∀ q, s.cas.provs = [q] →
        (q.verdict = none → ∃ t, exec (.verdictTimeout q.steptag) s = .next t ∧ t.cas.provs = [{ q with verdict := some false }]
          ∧ t.evtBit eCas 4 = true ∧ t.reg64 kCasRetracts = (s.reg64 kCasRetracts + 1) % 2 ^ 64 ∧ t.work = s.work)
        ∧ (q.verdict ≠ none → exec (.verdictTimeout q.steptag) s = .next s)
        ∧ (∀ m x, s.sysReady m mVerdict 3 → s.fromMaster m = true → verdictTag m = q.steptag → s.lease? q.lease = some x → x.step = none →
            x.past = [] → ∃ t y p, exec (.replay m) s = .next t ∧ t.lease? q.lease = some y ∧ y.step = some p ∧ p.replayed = true ∧ p.run = 1
              ∧ p.seq = q.step.seq ∧ p.reqs = q.reqs.map (·.id) ∧ p.fails = [] ∧ t.reg64 kCasReplays = (s.reg64 kCasReplays + 1) % 2 ^ 64)
        ∧ (s.lease? q.lease = none → q.verdict ≠ none → q.replay = false → ∃ t, exec (.rpkeepExpiry q.steptag) s = .next t
            ∧ t = { s with cas := { s.cas with provs := [] } })
        ∧ (q.verdict = none → exec (.rpkeepExpiry q.steptag) s = .next s))
    ∧ (∀ m, s.sysReady m mVerdict 3 → s.fromMaster m = true → s.cas.provs = [] → ∃ t, exec (.replay m) s = .next t ∧ t.cas = s.cas ∧ t.work = s.work
        ∧ ∀ c, s.conn? m.dconn = some c → c.st = .open_ → s.sprayUp c.rec_.spray ≠ [] → queuedAs t mVerdict .ok (verdictBody 4 (verdictTag m)))
    ∧ (∀ m, s.isReady m mApplied = true → ∃ t, exec (.applied m) s = .next t ∧ s.peerNode m.dconn ∈ t.cas.appliedFrom
        ∧ (∀ n ∈ s.cas.appliedFrom, n ∈ t.cas.appliedFrom) ∧ ((∀ e ∈ s.work.leases, e.2.step = none) → t.work = s.work)
        ∧ ∀ l x p pl e, s.work.leases = [(l, x)] → x.step = some p → s.plan? x.plan = some pl → (∀ c ∈ x.cores, (s.core c).waiting = []) →
          s.peerNode m.dconn ∉ s.cas.appliedFrom →
          State.homesApplied { s with cas := { s.cas with appliedFrom := s.cas.appliedFrom ++ [s.peerNode m.dconn] } } pl.hdr = true →
          e ∈ rdvTab pl.hdr p.resident → e.src = 7 → e.pos < x.cores.length → e.line < 2 ^ 15 →
          t.storeFull (x.cores.getD e.pos 0) (64 * e.line) 64 = true)
    ∧ (∀ o, s.cas.oldMap = some o → s.cas.heldMap = none → s.epochCount o.epoch = 0 → ∃ t, exec .epochDrain s = .next t
        ∧ t.cas = { s.cas with oldMap := none } ∧ t.evtBit eCas 2 = true ∧ t.fld fCasEpochOldlive = 0)
    ∧ (∀ o, s.cas.oldMap = some o → s.epochCount o.epoch ≠ 0 → exec .epochDrain s = .next s)

/-- OWNER_QUERY, OWNER_ANSWER, OWNER_ASSIGN, OWNER_DROP, OWNER_FETCH and OWNER_CONFLICT (R429, R430): a keeper with a copy claims the object and any
other node disclaims it; the one claim makes its sender keeper; the master's assignment stands; a dropped object is gone; a fetched one has the
asker as keeper; the master counts a conflict and raises OWNCONF. Readings that the model chose: log 57. -/
def Obligations.OwnershipOfObjects : Prop :=
  ∀ (s : State) (m : Msg), s.serving = true →
    (∀ k c, s.sysReady m mOwner 1 → s.leads (s.peerNode m.dconn) k c →
      (∀ o, s.owner? (ownerSid m) = some o → o.keeper = s.nodeNum → o.copy = true → ∃ t, exec (.ownerQuery m) s = .next t ∧ t.cas = s.cas
        ∧ queuedAs t mOwner .ok (ownerBody 2 o.lepoch 0 (ownerSid m)))
      ∧ (s.owner? (ownerSid m) = none → ∃ t, exec (.ownerQuery m) s = .next t ∧ t.cas = s.cas
        ∧ queuedAs t mOwner .notMine (ownerBody 2 0 0 (ownerSid m))))
    ∧ (∀ e, s.sysReady m mOwner 2 → s.cas.queries = [⟨ownerSid m, [(e, s.peerNode m.dconn)], [], false⟩] → m.status = 0 → s.work.reqs = [] →
        ∃ t, exec (.ownerAnswer m) s = .next t ∧ t.cas.queries = [] ∧ t.owner? (ownerSid m)
          = some ⟨ownerSid m, s.peerNode m.dconn, leAt m.payload 2 2, s.peerNode m.dconn == s.nodeNum⟩)
    ∧ (s.sysReady m mOwner 3 → s.masterConn = some m.dconn → leAt m.payload 4 2 ≠ s.nodeNum → ∃ t o, exec (.ownerAssign m) s = .next t
        ∧ t.owner? (ownerSid m) = some o ∧ o.keeper = leAt m.payload 4 2 ∧ o.lepoch = leAt m.payload 2 2
        ∧ ∀ q ∈ t.cas.queries, q.sid ≠ ownerSid m)
    ∧ (s.sysReady m mOwner 4 → ∃ t, exec (.ownerDrop m) s = .next t ∧ t.owner? (ownerSid m) = none
        ∧ ∀ i, i ≠ ownerSid m → t.owner? i = s.owner? i)
    ∧ (∀ k c, s.sysReady m mOwner 5 → s.leads (s.peerNode m.dconn) k c →
        (∀ o, s.owner? (ownerSid m) = some o → o.copy = true → ∃ t, exec (.ownerFetch m) s = .next t
          ∧ t.owner? (ownerSid m) = some ⟨ownerSid m, s.peerNode m.dconn, s.newEpoch, false⟩
          ∧ queuedAs t mOwner .ok (ownerBody 2 s.newEpoch 0 (ownerSid m)))
        ∧ (s.owner? (ownerSid m) = none → ∃ t, exec (.ownerFetch m) s = .next t ∧ t.cas = s.cas
          ∧ queuedAs t mOwner .notMine (ownerBody 2 0 0 (ownerSid m))))
    ∧ (s.sysReady m mOwner 6 → (s.role ≠ 2 → ∃ t, exec (.ownerConflict m) s = .next t ∧ t.cas = s.cas)
        ∧ (s.role = 2 → ∃ t, exec (.ownerConflict m) s = .next t ∧ t.evtBit eCas 3 = true
            ∧ t.reg64 kCasOwnconfs = (s.reg64 kCasOwnconfs + 1) % 2 ^ 64))

/-- HELLO, ACCEPT, REFUSE, SNAPEND, CAUGHTUP, ADMIT and JOINTO_EXPIRY (R436 to R438): a healthy node of the right firmware and node number at an ABSENT
position is JOINING and gets ACCEPT, any other gets REFUSE; a joiner waits for its snapshot, a partner notes its joiner; CAUGHTUP is answered with
the round after next, in which the joiner takes part; at JOINTO the position is ABSENT again and the joiner starts anew. Readings that the model
chose: log 58 and 59. -/
def Obligations.MembersJoin : Prop :=
  ∀ (s : State) (m : Msg), s.serving = true →
    (∀ p x, s.sysReady m mJoin 1 → s.role = 2 → s.memberOf m.dconn = some p → Tbl.find s.cas.members p = some x →
      (leAt m.payload 1 1 = 0 → leAt m.payload 8 4 = s.fwver → leAt m.payload 2 2 = s.posNode p → x.st = .absent →
        ∃ t y, exec (.hello m) s = .next t ∧ Tbl.find t.cas.members p = some y ∧ y.st = .joining ∧ t.work = s.work
          ∧ ∀ c, s.conn? m.dconn = some c → c.st = .open_ → s.sprayUp c.rec_.spray ≠ [] →
            queuedAs t mJoin .ok (joinBody 2 0 (leAt m.payload 2 2) 0 0 (leAt m.payload 16 8)))
      ∧ (leAt m.payload 1 1 ≠ 0 ∨ x.st ≠ .absent → ∃ t, exec (.hello m) s = .next t ∧ t.cas = s.cas ∧ t.work = s.work
          ∧ ∀ c, s.conn? m.dconn = some c → c.st = .open_ → s.sprayUp c.rec_.spray ≠ [] →
            queuedAs t mJoin .ok (joinBody 3 0 (leAt m.payload 2 2) 0 0 (leAt m.payload 16 8))))
    ∧ (s.sysReady m mJoin 2 → s.fromMaster m = true → ∃ t, exec (.accept m) s = .next t ∧ t.work = s.work
        ∧ (leAt m.payload 2 2 = s.nodeNum → t.cas = { s.cas with join := ⟨none, true, false, false, none⟩ })
        ∧ (leAt m.payload 2 2 ≠ s.nodeNum → t.cas = { s.cas with join := { s.cas.join with joiner := some (leAt m.payload 2 2) } }))
    ∧ (s.sysReady m mJoin 3 → s.fromMaster m = true → ∃ t, exec (.refuse m) s = .next t ∧ t.work = s.work
        ∧ t.cas = { s.cas with join := ⟨none, true, false, false, none⟩ })
    ∧ (s.sysReady m mJoin 4 → (s.cas.outside = true → ∃ t, exec (.snapend m) s = .next t ∧ t.cas.join.snapEnd = true ∧ t.work = s.work)
        ∧ (s.cas.outside = false → ∃ t, exec (.snapend m) s = .next t ∧ t.cas = s.cas ∧ t.work = s.work))
    ∧ (∀ p x, s.sysReady m mJoin 5 → s.role = 2 → s.memberOf m.dconn = some p → Tbl.find s.cas.members p = some x → x.st = .joining →
        ∃ t, exec (.caughtup m) s = .next t
          ∧ Tbl.find t.cas.members p = some { x with admitAt := some ((s.fld fCasBarBseq + 2) % 2 ^ 32) } ∧ t.work = s.work)
    ∧ (s.sysReady m mJoin 6 → s.fromMaster m = true → s.cas.outside = true → ∃ t, exec (.joinAdmit m) s = .next t
        ∧ t.cas = { s.cas with join := { s.cas.join with admitAt := some (leAt m.payload 4 4) } }
        ∧ (t.fld fCasBarBseq + 2) % 2 ^ 32 = leAt m.payload 4 4 ∧ t.work = s.work)
    ∧ (∀ p x, s.role = 2 → Tbl.find s.cas.members p = some x → x.st = .joining → ∃ t y, exec (.jointoExpiry p) s = .next t
        ∧ Tbl.find t.cas.members p = some y ∧ y.st = .absent ∧ t.work = s.work)
    ∧ (s.role = 1 → s.cas.outside = true → s.cas.join.joiner = none → ∃ t, exec (.jointoExpiry (s.fld fCasCfgPos)) s = .next t
        ∧ t = { s with cas := { s.cas with join := ⟨none, false, false, false, none⟩ } })

/-! ## The whole block -/

/-- A STEP RUNS THE COMMAND IN FRONT: step is exec of the first command of the queue on the state with the queue's rest; on an empty queue one
microsecond passes, which is the model's choice (log 15): TOP_UPTIME advances and the queue stays empty. -/
def Obligations.StepRunsTheCommandInFront : Prop :=
  (∀ (s : State) (c : Instr) (rest : List Instr), step { s with pending := c :: rest } = exec c { s with pending := rest })
  ∧ (∀ s : State, s.pending = [] → ∃ t, step s = .next t ∧ t.pending = [] ∧ t.mem = s.mem ∧ t.flash = s.flash ∧ t.chk = s.chk
      ∧ t.uptime = s.uptime + (if s.pwr.phase = .off then 0 else 1))

/-- Every command changes only its own parts of the state: all memory, registers, queues and tables outside `partsOf` of the command are as they were,
the queue of commands among them. -/
def Obligations.CommandsTouchOnlyTheirParts : Prop :=
  ∀ (c : Instr) (s t : State), exec c s = .next t → Touches (partsOf c) s t ∧ t.pending = s.pending

/-- EVERY STEP KEEPS the canonical form of the memories, what the node has driven, what the part is made of, the fuses, which only rise, and the count
of free values drawn; it takes at most one command; and so does every run. -/
def Obligations.StepsKeepMemoryAndHistory : Prop :=
  (∀ s t : State, step s = .next t → Keeps s t ∧ t.pending = s.pending.tail)
  ∧ ∀ (n : Nat) (s t : State), core.run n s = .next t → Keeps s t ∧ t.pending = s.pending.drop n

/-- The state after reset (R580, R584): the memories are in their canonical form, PERST# is asserted and the node is held in reset and does not serve;
nothing is pending, driven, recorded or allocated, and every register reads its reset value. -/
def Obligations.ResetIsSoundAndQuiet : Prop :=
  Mem.wf State.reset.mem = true ∧ State.reset.pending = [] ∧ State.reset.pwr.phase = .held ∧ State.reset.pwr.perst = true
  ∧ State.reset.serving = false ∧ State.reset.out = [] ∧ State.reset.work.leases = [] ∧ State.reset.chk.ring = []
  ∧ (∀ a, State.reset.word a = resetWord State.reset.hw a) ∧ ∀ k, Tbl.get 0 State.reset.mem.hbm k = 0
end

