-- ==== Sys2Proof/Laws/State.lean ====
section
/-! SUPPORT. One lemma per field of `State` and primitive update: what the update leaves as it was. An operation that writes
registers changes `regs` and nothing else, one that emits changes `out` and nothing else. -/

namespace Sys2Proof.Machine

/-! ## Writing a register word -/

@[simp] theorem State.setWord_pending (s : State) (a : Nat) (w : W32) : (s.setWord a w).pending = s.pending := rfl
@[simp] theorem State.setWord_hw (s : State) (a : Nat) (w : W32) : (s.setWord a w).hw = s.hw := rfl
@[simp] theorem State.setWord_pwr (s : State) (a : Nat) (w : W32) : (s.setWord a w).pwr = s.pwr := rfl
@[simp] theorem State.setWord_boot (s : State) (a : Nat) (w : W32) : (s.setWord a w).boot = s.boot := rfl
@[simp] theorem State.setWord_stagedW (s : State) (a : Nat) (w : W32) : (s.setWord a w).stagedW = s.stagedW := rfl
@[simp] theorem State.setWord_mem (s : State) (a : Nat) (w : W32) : (s.setWord a w).mem = s.mem := rfl
@[simp] theorem State.setWord_alloc (s : State) (a : Nat) (w : W32) : (s.setWord a w).alloc = s.alloc := rfl
@[simp] theorem State.setWord_idx (s : State) (a : Nat) (w : W32) : (s.setWord a w).idx = s.idx := rfl
@[simp] theorem State.setWord_work (s : State) (a : Nat) (w : W32) : (s.setWord a w).work = s.work := rfl
@[simp] theorem State.setWord_nbu (s : State) (a : Nat) (w : W32) : (s.setWord a w).nbu = s.nbu := rfl
@[simp] theorem State.setWord_comp (s : State) (a : Nat) (w : W32) : (s.setWord a w).comp = s.comp := rfl
@[simp] theorem State.setWord_tables (s : State) (a : Nat) (w : W32) : (s.setWord a w).tables = s.tables := rfl
@[simp] theorem State.setWord_flash (s : State) (a : Nat) (w : W32) : (s.setWord a w).flash = s.flash := rfl
@[simp] theorem State.setWord_fab (s : State) (a : Nat) (w : W32) : (s.setWord a w).fab = s.fab := rfl
@[simp] theorem State.setWord_cas (s : State) (a : Nat) (w : W32) : (s.setWord a w).cas = s.cas := rfl
@[simp] theorem State.setWord_chk (s : State) (a : Nat) (w : W32) : (s.setWord a w).chk = s.chk := rfl
@[simp] theorem State.setWord_nrg (s : State) (a : Nat) (w : W32) : (s.setWord a w).nrg = s.nrg := rfl
@[simp] theorem State.setWord_host (s : State) (a : Nat) (w : W32) : (s.setWord a w).host = s.host := rfl
@[simp] theorem State.setWord_mgmt (s : State) (a : Nat) (w : W32) : (s.setWord a w).mgmt = s.mgmt := rfl
@[simp] theorem State.setWord_uptime (s : State) (a : Nat) (w : W32) : (s.setWord a w).uptime = s.uptime := rfl
@[simp] theorem State.setWord_out (s : State) (a : Nat) (w : W32) : (s.setWord a w).out = s.out := rfl
@[simp] theorem State.setWord_free (s : State) (a : Nat) (w : W32) : (s.setWord a w).free = s.free := rfl

/-! ## Writing a register -/

@[simp] theorem State.setReg64_pending (s : State) (a x : Nat) : (s.setReg64 a x).pending = s.pending := rfl
@[simp] theorem State.setReg64_hw (s : State) (a x : Nat) : (s.setReg64 a x).hw = s.hw := rfl
@[simp] theorem State.setReg64_pwr (s : State) (a x : Nat) : (s.setReg64 a x).pwr = s.pwr := rfl
@[simp] theorem State.setReg64_boot (s : State) (a x : Nat) : (s.setReg64 a x).boot = s.boot := rfl
@[simp] theorem State.setReg64_stagedW (s : State) (a x : Nat) : (s.setReg64 a x).stagedW = s.stagedW := rfl
@[simp] theorem State.setReg64_mem (s : State) (a x : Nat) : (s.setReg64 a x).mem = s.mem := rfl
@[simp] theorem State.setReg64_alloc (s : State) (a x : Nat) : (s.setReg64 a x).alloc = s.alloc := rfl
@[simp] theorem State.setReg64_idx (s : State) (a x : Nat) : (s.setReg64 a x).idx = s.idx := rfl
@[simp] theorem State.setReg64_work (s : State) (a x : Nat) : (s.setReg64 a x).work = s.work := rfl
@[simp] theorem State.setReg64_nbu (s : State) (a x : Nat) : (s.setReg64 a x).nbu = s.nbu := rfl
@[simp] theorem State.setReg64_comp (s : State) (a x : Nat) : (s.setReg64 a x).comp = s.comp := rfl
@[simp] theorem State.setReg64_tables (s : State) (a x : Nat) : (s.setReg64 a x).tables = s.tables := rfl
@[simp] theorem State.setReg64_flash (s : State) (a x : Nat) : (s.setReg64 a x).flash = s.flash := rfl
@[simp] theorem State.setReg64_fab (s : State) (a x : Nat) : (s.setReg64 a x).fab = s.fab := rfl
@[simp] theorem State.setReg64_cas (s : State) (a x : Nat) : (s.setReg64 a x).cas = s.cas := rfl
@[simp] theorem State.setReg64_chk (s : State) (a x : Nat) : (s.setReg64 a x).chk = s.chk := rfl
@[simp] theorem State.setReg64_nrg (s : State) (a x : Nat) : (s.setReg64 a x).nrg = s.nrg := rfl
@[simp] theorem State.setReg64_host (s : State) (a x : Nat) : (s.setReg64 a x).host = s.host := rfl
@[simp] theorem State.setReg64_mgmt (s : State) (a x : Nat) : (s.setReg64 a x).mgmt = s.mgmt := rfl
@[simp] theorem State.setReg64_uptime (s : State) (a x : Nat) : (s.setReg64 a x).uptime = s.uptime := rfl
@[simp] theorem State.setReg64_out (s : State) (a x : Nat) : (s.setReg64 a x).out = s.out := rfl
@[simp] theorem State.setReg64_free (s : State) (a x : Nat) : (s.setReg64 a x).free = s.free := rfl

/-! ## Writing a field -/

@[simp] theorem State.setFld_pending (s : State) (f : FieldAt) (v : Nat) : (s.setFld f v).pending = s.pending := by unfold State.setFld; split <;> rfl
@[simp] theorem State.setFld_hw (s : State) (f : FieldAt) (v : Nat) : (s.setFld f v).hw = s.hw := by unfold State.setFld; split <;> rfl
@[simp] theorem State.setFld_pwr (s : State) (f : FieldAt) (v : Nat) : (s.setFld f v).pwr = s.pwr := by unfold State.setFld; split <;> rfl
@[simp] theorem State.setFld_boot (s : State) (f : FieldAt) (v : Nat) : (s.setFld f v).boot = s.boot := by unfold State.setFld; split <;> rfl
@[simp] theorem State.setFld_stagedW (s : State) (f : FieldAt) (v : Nat) : (s.setFld f v).stagedW = s.stagedW := by unfold State.setFld; split <;> rfl
@[simp] theorem State.setFld_mem (s : State) (f : FieldAt) (v : Nat) : (s.setFld f v).mem = s.mem := by unfold State.setFld; split <;> rfl
@[simp] theorem State.setFld_alloc (s : State) (f : FieldAt) (v : Nat) : (s.setFld f v).alloc = s.alloc := by unfold State.setFld; split <;> rfl
@[simp] theorem State.setFld_idx (s : State) (f : FieldAt) (v : Nat) : (s.setFld f v).idx = s.idx := by unfold State.setFld; split <;> rfl
@[simp] theorem State.setFld_work (s : State) (f : FieldAt) (v : Nat) : (s.setFld f v).work = s.work := by unfold State.setFld; split <;> rfl
@[simp] theorem State.setFld_nbu (s : State) (f : FieldAt) (v : Nat) : (s.setFld f v).nbu = s.nbu := by unfold State.setFld; split <;> rfl
@[simp] theorem State.setFld_comp (s : State) (f : FieldAt) (v : Nat) : (s.setFld f v).comp = s.comp := by unfold State.setFld; split <;> rfl
@[simp] theorem State.setFld_tables (s : State) (f : FieldAt) (v : Nat) : (s.setFld f v).tables = s.tables := by unfold State.setFld; split <;> rfl
@[simp] theorem State.setFld_flash (s : State) (f : FieldAt) (v : Nat) : (s.setFld f v).flash = s.flash := by unfold State.setFld; split <;> rfl
@[simp] theorem State.setFld_fab (s : State) (f : FieldAt) (v : Nat) : (s.setFld f v).fab = s.fab := by unfold State.setFld; split <;> rfl
@[simp] theorem State.setFld_cas (s : State) (f : FieldAt) (v : Nat) : (s.setFld f v).cas = s.cas := by unfold State.setFld; split <;> rfl
@[simp] theorem State.setFld_chk (s : State) (f : FieldAt) (v : Nat) : (s.setFld f v).chk = s.chk := by unfold State.setFld; split <;> rfl
@[simp] theorem State.setFld_nrg (s : State) (f : FieldAt) (v : Nat) : (s.setFld f v).nrg = s.nrg := by unfold State.setFld; split <;> rfl
@[simp] theorem State.setFld_host (s : State) (f : FieldAt) (v : Nat) : (s.setFld f v).host = s.host := by unfold State.setFld; split <;> rfl
@[simp] theorem State.setFld_mgmt (s : State) (f : FieldAt) (v : Nat) : (s.setFld f v).mgmt = s.mgmt := by unfold State.setFld; split <;> rfl
@[simp] theorem State.setFld_uptime (s : State) (f : FieldAt) (v : Nat) : (s.setFld f v).uptime = s.uptime := by unfold State.setFld; split <;> rfl
@[simp] theorem State.setFld_out (s : State) (f : FieldAt) (v : Nat) : (s.setFld f v).out = s.out := by unfold State.setFld; split <;> rfl
@[simp] theorem State.setFld_free (s : State) (f : FieldAt) (v : Nat) : (s.setFld f v).free = s.free := by unfold State.setFld; split <;> rfl

/-! ## Counting -/

@[simp] theorem State.count_pending (s : State) (a k : Nat) : (s.count a k).pending = s.pending := rfl
@[simp] theorem State.count_hw (s : State) (a k : Nat) : (s.count a k).hw = s.hw := rfl
@[simp] theorem State.count_pwr (s : State) (a k : Nat) : (s.count a k).pwr = s.pwr := rfl
@[simp] theorem State.count_boot (s : State) (a k : Nat) : (s.count a k).boot = s.boot := rfl
@[simp] theorem State.count_stagedW (s : State) (a k : Nat) : (s.count a k).stagedW = s.stagedW := rfl
@[simp] theorem State.count_mem (s : State) (a k : Nat) : (s.count a k).mem = s.mem := rfl
@[simp] theorem State.count_alloc (s : State) (a k : Nat) : (s.count a k).alloc = s.alloc := rfl
@[simp] theorem State.count_idx (s : State) (a k : Nat) : (s.count a k).idx = s.idx := rfl
@[simp] theorem State.count_work (s : State) (a k : Nat) : (s.count a k).work = s.work := rfl
@[simp] theorem State.count_nbu (s : State) (a k : Nat) : (s.count a k).nbu = s.nbu := rfl
@[simp] theorem State.count_comp (s : State) (a k : Nat) : (s.count a k).comp = s.comp := rfl
@[simp] theorem State.count_tables (s : State) (a k : Nat) : (s.count a k).tables = s.tables := rfl
@[simp] theorem State.count_flash (s : State) (a k : Nat) : (s.count a k).flash = s.flash := rfl
@[simp] theorem State.count_fab (s : State) (a k : Nat) : (s.count a k).fab = s.fab := rfl
@[simp] theorem State.count_cas (s : State) (a k : Nat) : (s.count a k).cas = s.cas := rfl
@[simp] theorem State.count_chk (s : State) (a k : Nat) : (s.count a k).chk = s.chk := rfl
@[simp] theorem State.count_nrg (s : State) (a k : Nat) : (s.count a k).nrg = s.nrg := rfl
@[simp] theorem State.count_host (s : State) (a k : Nat) : (s.count a k).host = s.host := rfl
@[simp] theorem State.count_mgmt (s : State) (a k : Nat) : (s.count a k).mgmt = s.mgmt := rfl
@[simp] theorem State.count_uptime (s : State) (a k : Nat) : (s.count a k).uptime = s.uptime := rfl
@[simp] theorem State.count_out (s : State) (a k : Nat) : (s.count a k).out = s.out := rfl
@[simp] theorem State.count_free (s : State) (a k : Nat) : (s.count a k).free = s.free := rfl

/-! ## Recording an event -/

@[simp] theorem State.event_pending (s : State) (a b : Nat) : (s.event a b).pending = s.pending := rfl
@[simp] theorem State.event_hw (s : State) (a b : Nat) : (s.event a b).hw = s.hw := rfl
@[simp] theorem State.event_pwr (s : State) (a b : Nat) : (s.event a b).pwr = s.pwr := rfl
@[simp] theorem State.event_boot (s : State) (a b : Nat) : (s.event a b).boot = s.boot := rfl
@[simp] theorem State.event_stagedW (s : State) (a b : Nat) : (s.event a b).stagedW = s.stagedW := rfl
@[simp] theorem State.event_mem (s : State) (a b : Nat) : (s.event a b).mem = s.mem := rfl
@[simp] theorem State.event_alloc (s : State) (a b : Nat) : (s.event a b).alloc = s.alloc := rfl
@[simp] theorem State.event_idx (s : State) (a b : Nat) : (s.event a b).idx = s.idx := rfl
@[simp] theorem State.event_work (s : State) (a b : Nat) : (s.event a b).work = s.work := rfl
@[simp] theorem State.event_nbu (s : State) (a b : Nat) : (s.event a b).nbu = s.nbu := rfl
@[simp] theorem State.event_comp (s : State) (a b : Nat) : (s.event a b).comp = s.comp := rfl
@[simp] theorem State.event_tables (s : State) (a b : Nat) : (s.event a b).tables = s.tables := rfl
@[simp] theorem State.event_flash (s : State) (a b : Nat) : (s.event a b).flash = s.flash := rfl
@[simp] theorem State.event_fab (s : State) (a b : Nat) : (s.event a b).fab = s.fab := rfl
@[simp] theorem State.event_cas (s : State) (a b : Nat) : (s.event a b).cas = s.cas := rfl
@[simp] theorem State.event_chk (s : State) (a b : Nat) : (s.event a b).chk = s.chk := rfl
@[simp] theorem State.event_nrg (s : State) (a b : Nat) : (s.event a b).nrg = s.nrg := rfl
@[simp] theorem State.event_host (s : State) (a b : Nat) : (s.event a b).host = s.host := rfl
@[simp] theorem State.event_mgmt (s : State) (a b : Nat) : (s.event a b).mgmt = s.mgmt := rfl
@[simp] theorem State.event_uptime (s : State) (a b : Nat) : (s.event a b).uptime = s.uptime := rfl
@[simp] theorem State.event_out (s : State) (a b : Nat) : (s.event a b).out = s.out := rfl
@[simp] theorem State.event_free (s : State) (a b : Nat) : (s.event a b).free = s.free := rfl

/-! ## Driving an output -/

@[simp] theorem State.emit_pending (s : State) (o : Out) : (s.emit o).pending = s.pending := rfl
@[simp] theorem State.emit_hw (s : State) (o : Out) : (s.emit o).hw = s.hw := rfl
@[simp] theorem State.emit_pwr (s : State) (o : Out) : (s.emit o).pwr = s.pwr := rfl
@[simp] theorem State.emit_boot (s : State) (o : Out) : (s.emit o).boot = s.boot := rfl
@[simp] theorem State.emit_regs (s : State) (o : Out) : (s.emit o).regs = s.regs := rfl
@[simp] theorem State.emit_stagedW (s : State) (o : Out) : (s.emit o).stagedW = s.stagedW := rfl
@[simp] theorem State.emit_mem (s : State) (o : Out) : (s.emit o).mem = s.mem := rfl
@[simp] theorem State.emit_alloc (s : State) (o : Out) : (s.emit o).alloc = s.alloc := rfl
@[simp] theorem State.emit_idx (s : State) (o : Out) : (s.emit o).idx = s.idx := rfl
@[simp] theorem State.emit_work (s : State) (o : Out) : (s.emit o).work = s.work := rfl
@[simp] theorem State.emit_nbu (s : State) (o : Out) : (s.emit o).nbu = s.nbu := rfl
@[simp] theorem State.emit_comp (s : State) (o : Out) : (s.emit o).comp = s.comp := rfl
@[simp] theorem State.emit_tables (s : State) (o : Out) : (s.emit o).tables = s.tables := rfl
@[simp] theorem State.emit_flash (s : State) (o : Out) : (s.emit o).flash = s.flash := rfl
@[simp] theorem State.emit_fab (s : State) (o : Out) : (s.emit o).fab = s.fab := rfl
@[simp] theorem State.emit_cas (s : State) (o : Out) : (s.emit o).cas = s.cas := rfl
@[simp] theorem State.emit_chk (s : State) (o : Out) : (s.emit o).chk = s.chk := rfl
@[simp] theorem State.emit_nrg (s : State) (o : Out) : (s.emit o).nrg = s.nrg := rfl
@[simp] theorem State.emit_host (s : State) (o : Out) : (s.emit o).host = s.host := rfl
@[simp] theorem State.emit_mgmt (s : State) (o : Out) : (s.emit o).mgmt = s.mgmt := rfl
@[simp] theorem State.emit_uptime (s : State) (o : Out) : (s.emit o).uptime = s.uptime := rfl
@[simp] theorem State.emit_free (s : State) (o : Out) : (s.emit o).free = s.free := rfl

@[simp] theorem State.emit_out (s : State) (o : Out) : (s.emit o).out = o :: s.out := rfl

/-! ## Drawing a free value -/

@[simp] theorem State.drawFree_pending (s : State)  : (s.drawFree).pending = s.pending := rfl
@[simp] theorem State.drawFree_hw (s : State)  : (s.drawFree).hw = s.hw := rfl
@[simp] theorem State.drawFree_pwr (s : State)  : (s.drawFree).pwr = s.pwr := rfl
@[simp] theorem State.drawFree_boot (s : State)  : (s.drawFree).boot = s.boot := rfl
@[simp] theorem State.drawFree_regs (s : State)  : (s.drawFree).regs = s.regs := rfl
@[simp] theorem State.drawFree_stagedW (s : State)  : (s.drawFree).stagedW = s.stagedW := rfl
@[simp] theorem State.drawFree_mem (s : State)  : (s.drawFree).mem = s.mem := rfl
@[simp] theorem State.drawFree_alloc (s : State)  : (s.drawFree).alloc = s.alloc := rfl
@[simp] theorem State.drawFree_idx (s : State)  : (s.drawFree).idx = s.idx := rfl
@[simp] theorem State.drawFree_work (s : State)  : (s.drawFree).work = s.work := rfl
@[simp] theorem State.drawFree_nbu (s : State)  : (s.drawFree).nbu = s.nbu := rfl
@[simp] theorem State.drawFree_comp (s : State)  : (s.drawFree).comp = s.comp := rfl
@[simp] theorem State.drawFree_tables (s : State)  : (s.drawFree).tables = s.tables := rfl
@[simp] theorem State.drawFree_flash (s : State)  : (s.drawFree).flash = s.flash := rfl
@[simp] theorem State.drawFree_fab (s : State)  : (s.drawFree).fab = s.fab := rfl
@[simp] theorem State.drawFree_cas (s : State)  : (s.drawFree).cas = s.cas := rfl
@[simp] theorem State.drawFree_chk (s : State)  : (s.drawFree).chk = s.chk := rfl
@[simp] theorem State.drawFree_nrg (s : State)  : (s.drawFree).nrg = s.nrg := rfl
@[simp] theorem State.drawFree_host (s : State)  : (s.drawFree).host = s.host := rfl
@[simp] theorem State.drawFree_mgmt (s : State)  : (s.drawFree).mgmt = s.mgmt := rfl
@[simp] theorem State.drawFree_uptime (s : State)  : (s.drawFree).uptime = s.uptime := rfl
@[simp] theorem State.drawFree_out (s : State)  : (s.drawFree).out = s.out := rfl

/-! ## Changing a tenant -/

@[simp] theorem State.modTenant_pending (s : State) (t : Nat) (f : Tenant → Tenant) : (s.modTenant t f).pending = s.pending := rfl
@[simp] theorem State.modTenant_hw (s : State) (t : Nat) (f : Tenant → Tenant) : (s.modTenant t f).hw = s.hw := rfl
@[simp] theorem State.modTenant_pwr (s : State) (t : Nat) (f : Tenant → Tenant) : (s.modTenant t f).pwr = s.pwr := rfl
@[simp] theorem State.modTenant_boot (s : State) (t : Nat) (f : Tenant → Tenant) : (s.modTenant t f).boot = s.boot := rfl
@[simp] theorem State.modTenant_regs (s : State) (t : Nat) (f : Tenant → Tenant) : (s.modTenant t f).regs = s.regs := rfl
@[simp] theorem State.modTenant_stagedW (s : State) (t : Nat) (f : Tenant → Tenant) : (s.modTenant t f).stagedW = s.stagedW := rfl
@[simp] theorem State.modTenant_mem (s : State) (t : Nat) (f : Tenant → Tenant) : (s.modTenant t f).mem = s.mem := rfl
@[simp] theorem State.modTenant_alloc (s : State) (t : Nat) (f : Tenant → Tenant) : (s.modTenant t f).alloc = s.alloc := rfl
@[simp] theorem State.modTenant_idx (s : State) (t : Nat) (f : Tenant → Tenant) : (s.modTenant t f).idx = s.idx := rfl
@[simp] theorem State.modTenant_nbu (s : State) (t : Nat) (f : Tenant → Tenant) : (s.modTenant t f).nbu = s.nbu := rfl
@[simp] theorem State.modTenant_comp (s : State) (t : Nat) (f : Tenant → Tenant) : (s.modTenant t f).comp = s.comp := rfl
@[simp] theorem State.modTenant_tables (s : State) (t : Nat) (f : Tenant → Tenant) : (s.modTenant t f).tables = s.tables := rfl
@[simp] theorem State.modTenant_flash (s : State) (t : Nat) (f : Tenant → Tenant) : (s.modTenant t f).flash = s.flash := rfl
@[simp] theorem State.modTenant_fab (s : State) (t : Nat) (f : Tenant → Tenant) : (s.modTenant t f).fab = s.fab := rfl
@[simp] theorem State.modTenant_cas (s : State) (t : Nat) (f : Tenant → Tenant) : (s.modTenant t f).cas = s.cas := rfl
@[simp] theorem State.modTenant_chk (s : State) (t : Nat) (f : Tenant → Tenant) : (s.modTenant t f).chk = s.chk := rfl
@[simp] theorem State.modTenant_nrg (s : State) (t : Nat) (f : Tenant → Tenant) : (s.modTenant t f).nrg = s.nrg := rfl
@[simp] theorem State.modTenant_host (s : State) (t : Nat) (f : Tenant → Tenant) : (s.modTenant t f).host = s.host := rfl
@[simp] theorem State.modTenant_mgmt (s : State) (t : Nat) (f : Tenant → Tenant) : (s.modTenant t f).mgmt = s.mgmt := rfl
@[simp] theorem State.modTenant_uptime (s : State) (t : Nat) (f : Tenant → Tenant) : (s.modTenant t f).uptime = s.uptime := rfl
@[simp] theorem State.modTenant_out (s : State) (t : Nat) (f : Tenant → Tenant) : (s.modTenant t f).out = s.out := rfl
@[simp] theorem State.modTenant_free (s : State) (t : Nat) (f : Tenant → Tenant) : (s.modTenant t f).free = s.free := rfl

/-! ## Setting a completion queue -/

@[simp] theorem State.setCq_pending (s : State) (k : Nat) (c : Cq) : (s.setCq k c).pending = s.pending := rfl
@[simp] theorem State.setCq_hw (s : State) (k : Nat) (c : Cq) : (s.setCq k c).hw = s.hw := rfl
@[simp] theorem State.setCq_pwr (s : State) (k : Nat) (c : Cq) : (s.setCq k c).pwr = s.pwr := rfl
@[simp] theorem State.setCq_boot (s : State) (k : Nat) (c : Cq) : (s.setCq k c).boot = s.boot := rfl
@[simp] theorem State.setCq_regs (s : State) (k : Nat) (c : Cq) : (s.setCq k c).regs = s.regs := rfl
@[simp] theorem State.setCq_stagedW (s : State) (k : Nat) (c : Cq) : (s.setCq k c).stagedW = s.stagedW := rfl
@[simp] theorem State.setCq_mem (s : State) (k : Nat) (c : Cq) : (s.setCq k c).mem = s.mem := rfl
@[simp] theorem State.setCq_alloc (s : State) (k : Nat) (c : Cq) : (s.setCq k c).alloc = s.alloc := rfl
@[simp] theorem State.setCq_idx (s : State) (k : Nat) (c : Cq) : (s.setCq k c).idx = s.idx := rfl
@[simp] theorem State.setCq_work (s : State) (k : Nat) (c : Cq) : (s.setCq k c).work = s.work := rfl
@[simp] theorem State.setCq_nbu (s : State) (k : Nat) (c : Cq) : (s.setCq k c).nbu = s.nbu := rfl
@[simp] theorem State.setCq_comp (s : State) (k : Nat) (c : Cq) : (s.setCq k c).comp = s.comp := rfl
@[simp] theorem State.setCq_tables (s : State) (k : Nat) (c : Cq) : (s.setCq k c).tables = s.tables := rfl
@[simp] theorem State.setCq_flash (s : State) (k : Nat) (c : Cq) : (s.setCq k c).flash = s.flash := rfl
@[simp] theorem State.setCq_fab (s : State) (k : Nat) (c : Cq) : (s.setCq k c).fab = s.fab := rfl
@[simp] theorem State.setCq_cas (s : State) (k : Nat) (c : Cq) : (s.setCq k c).cas = s.cas := rfl
@[simp] theorem State.setCq_chk (s : State) (k : Nat) (c : Cq) : (s.setCq k c).chk = s.chk := rfl
@[simp] theorem State.setCq_nrg (s : State) (k : Nat) (c : Cq) : (s.setCq k c).nrg = s.nrg := rfl
@[simp] theorem State.setCq_mgmt (s : State) (k : Nat) (c : Cq) : (s.setCq k c).mgmt = s.mgmt := rfl
@[simp] theorem State.setCq_uptime (s : State) (k : Nat) (c : Cq) : (s.setCq k c).uptime = s.uptime := rfl
@[simp] theorem State.setCq_out (s : State) (k : Nat) (c : Cq) : (s.setCq k c).out = s.out := rfl
@[simp] theorem State.setCq_free (s : State) (k : Nat) (c : Cq) : (s.setCq k c).free = s.free := rfl

/-! ## Setting a submission queue -/

@[simp] theorem State.setSq_pending (s : State) (k : Nat) (q : Sq) : (s.setSq k q).pending = s.pending := rfl
@[simp] theorem State.setSq_hw (s : State) (k : Nat) (q : Sq) : (s.setSq k q).hw = s.hw := rfl
@[simp] theorem State.setSq_pwr (s : State) (k : Nat) (q : Sq) : (s.setSq k q).pwr = s.pwr := rfl
@[simp] theorem State.setSq_boot (s : State) (k : Nat) (q : Sq) : (s.setSq k q).boot = s.boot := rfl
@[simp] theorem State.setSq_regs (s : State) (k : Nat) (q : Sq) : (s.setSq k q).regs = s.regs := rfl
@[simp] theorem State.setSq_stagedW (s : State) (k : Nat) (q : Sq) : (s.setSq k q).stagedW = s.stagedW := rfl
@[simp] theorem State.setSq_mem (s : State) (k : Nat) (q : Sq) : (s.setSq k q).mem = s.mem := rfl
@[simp] theorem State.setSq_alloc (s : State) (k : Nat) (q : Sq) : (s.setSq k q).alloc = s.alloc := rfl
@[simp] theorem State.setSq_idx (s : State) (k : Nat) (q : Sq) : (s.setSq k q).idx = s.idx := rfl
@[simp] theorem State.setSq_work (s : State) (k : Nat) (q : Sq) : (s.setSq k q).work = s.work := rfl
@[simp] theorem State.setSq_nbu (s : State) (k : Nat) (q : Sq) : (s.setSq k q).nbu = s.nbu := rfl
@[simp] theorem State.setSq_comp (s : State) (k : Nat) (q : Sq) : (s.setSq k q).comp = s.comp := rfl
@[simp] theorem State.setSq_tables (s : State) (k : Nat) (q : Sq) : (s.setSq k q).tables = s.tables := rfl
@[simp] theorem State.setSq_flash (s : State) (k : Nat) (q : Sq) : (s.setSq k q).flash = s.flash := rfl
@[simp] theorem State.setSq_fab (s : State) (k : Nat) (q : Sq) : (s.setSq k q).fab = s.fab := rfl
@[simp] theorem State.setSq_cas (s : State) (k : Nat) (q : Sq) : (s.setSq k q).cas = s.cas := rfl
@[simp] theorem State.setSq_chk (s : State) (k : Nat) (q : Sq) : (s.setSq k q).chk = s.chk := rfl
@[simp] theorem State.setSq_nrg (s : State) (k : Nat) (q : Sq) : (s.setSq k q).nrg = s.nrg := rfl
@[simp] theorem State.setSq_mgmt (s : State) (k : Nat) (q : Sq) : (s.setSq k q).mgmt = s.mgmt := rfl
@[simp] theorem State.setSq_uptime (s : State) (k : Nat) (q : Sq) : (s.setSq k q).uptime = s.uptime := rfl
@[simp] theorem State.setSq_out (s : State) (k : Nat) (q : Sq) : (s.setSq k q).out = s.out := rfl
@[simp] theorem State.setSq_free (s : State) (k : Nat) (q : Sq) : (s.setSq k q).free = s.free := rfl

/-! ## What a register write leaves of the queues -/

@[simp] theorem State.setCq_sqs (s : State) (k : Nat) (c : Cq) : (s.setCq k c).host.sqs = s.host.sqs := rfl
@[simp] theorem State.setCq_cqs (s : State) (k : Nat) (c : Cq) : (s.setCq k c).host.cqs = Tbl.set s.host.cqs k c := rfl
@[simp] theorem State.setSq_cqs (s : State) (k : Nat) (q : Sq) : (s.setSq k q).host.cqs = s.host.cqs := rfl
@[simp] theorem State.setSq_sqs (s : State) (k : Nat) (q : Sq) : (s.setSq k q).host.sqs = Tbl.set s.host.sqs k q := rfl

end Sys2Proof.Machine
end

