-- ==== Sys2Proof/Laws/Table.lean ====
section
/-! SUPPORT. The laws of sparse tables: reading after a write, an erasure or a change, and the canonical form. -/

namespace Sys2Proof

variable {α : Type}

/-! ## Finding -/

@[simp] theorem Tbl.find_nil (k : Nat) : Tbl.find ([] : Tbl α) k = none := rfl

@[simp] theorem Tbl.get_nil (d : α) (k : Nat) : Tbl.get d [] k = d := rfl

@[simp] theorem Tbl.find_set_same (t : Tbl α) (k : Nat) (v : α) : Tbl.find (Tbl.set t k v) k = some v := by
  induction t with
  | nil => simp [Tbl.set, Tbl.find]
  | cons e r ih =>
    obtain ⟨j, w⟩ := e
    unfold Tbl.set
    split
    · simp [Tbl.find]
    · split
      · simp [Tbl.find]
      · simp [Tbl.find, *]

theorem Tbl.find_set_ne (t : Tbl α) (k k' : Nat) (v : α) (h : k' ≠ k) : Tbl.find (Tbl.set t k v) k' = Tbl.find t k' := by
  induction t with
  | nil => simp [Tbl.set, Tbl.find, h.symm]
  | cons e r ih =>
    obtain ⟨j, w⟩ := e
    unfold Tbl.set
    split
    · simp [Tbl.find, h.symm]
    · split
      · rename_i h1 h2
        subst h2
        simp [Tbl.find, h.symm]
      · simp [Tbl.find, ih]

@[simp] theorem Tbl.find_erase_same (t : Tbl α) (k : Nat) : Tbl.find (Tbl.erase t k) k = none := by
  induction t with
  | nil => rfl
  | cons e r ih =>
    obtain ⟨j, w⟩ := e
    by_cases h : j = k
    · simpa [Tbl.erase, h] using ih
    · simpa [Tbl.erase, Tbl.find, h] using ih

theorem Tbl.find_erase_ne (t : Tbl α) (k k' : Nat) (h : k' ≠ k) : Tbl.find (Tbl.erase t k) k' = Tbl.find t k' := by
  induction t with
  | nil => rfl
  | cons e r ih =>
    obtain ⟨j, w⟩ := e
    by_cases h1 : j = k
    · subst h1
      simpa [Tbl.erase, Tbl.find, h.symm] using ih
    · by_cases h2 : j = k'
      · simp [Tbl.erase, Tbl.find, h2, h]
      · simpa [Tbl.erase, Tbl.find, h1, h2] using ih

@[simp] theorem Tbl.get_set_same (d : α) (t : Tbl α) (k : Nat) (v : α) : Tbl.get d (Tbl.set t k v) k = v := by
  simp [Tbl.get]

theorem Tbl.get_set_ne (d : α) (t : Tbl α) (k k' : Nat) (v : α) (h : k' ≠ k) :
    Tbl.get d (Tbl.set t k v) k' = Tbl.get d t k' := by
  simp [Tbl.get, Tbl.find_set_ne t k k' v h]

@[simp] theorem Tbl.get_put_same [DecidableEq α] (d : α) (t : Tbl α) (k : Nat) (v : α) : Tbl.get d (Tbl.put d t k v) k = v := by
  unfold Tbl.put
  split
  · simp [Tbl.get, *]
  · simp

theorem Tbl.get_put_ne [DecidableEq α] (d e : α) (t : Tbl α) (k k' : Nat) (v : α) (h : k' ≠ k) :
    Tbl.get e (Tbl.put d t k v) k' = Tbl.get e t k' := by
  unfold Tbl.put
  split
  · simp [Tbl.get, Tbl.find_erase_ne t k k' h]
  · exact Tbl.get_set_ne e t k k' v h

theorem Tbl.find_modify (t : Tbl α) (k k' : Nat) (f : α → α) :
    Tbl.find (Tbl.modify t k f) k' = if k' = k then (Tbl.find t k').map f else Tbl.find t k' := by
  induction t with
  | nil => simp [Tbl.modify]
  | cons e r ih =>
    obtain ⟨j, w⟩ := e
    have ih' : Tbl.find (List.map (fun e => if e.1 = k then (e.1, f e.2) else e) r) k' =
        if k' = k then (Tbl.find r k').map f else Tbl.find r k' := ih
    by_cases h1 : j = k <;> by_cases h2 : j = k' <;> simp_all [Tbl.modify, Tbl.find]

@[simp] theorem Tbl.find_modify_same (t : Tbl α) (k : Nat) (f : α → α) :
    Tbl.find (Tbl.modify t k f) k = (Tbl.find t k).map f := by
  simp [Tbl.find_modify]

theorem Tbl.find_modify_ne (t : Tbl α) (k k' : Nat) (f : α → α) (h : k' ≠ k) :
    Tbl.find (Tbl.modify t k f) k' = Tbl.find t k' := by
  simp [Tbl.find_modify, h]

theorem Tbl.find_drop (t : Tbl α) (p : Nat → Bool) (k : Nat) :
    Tbl.find (Tbl.drop t p) k = if p k then none else Tbl.find t k := by
  induction t with
  | nil => simp [Tbl.drop]
  | cons e r ih =>
    obtain ⟨j, w⟩ := e
    have ih' : Tbl.find (List.filter (fun e => !p e.1) r) k = if p k then none else Tbl.find r k := ih
    by_cases h1 : p j = true <;> by_cases h2 : j = k <;> simp_all [Tbl.drop, Tbl.find]

theorem Tbl.get_drop (d : α) (t : Tbl α) (p : Nat → Bool) (k : Nat) :
    Tbl.get d (Tbl.drop t p) k = if p k then d else Tbl.get d t k := by
  by_cases h : p k = true <;> simp [Tbl.get, Tbl.find_drop, h]

/-! ## The canonical form -/

theorem Tbl.above_mono (m n : Nat) (t : Tbl α) (h : m ≤ n) (ha : Tbl.above n t = true) : Tbl.above m t = true := by
  simp only [Tbl.above, List.all_eq_true, decide_eq_true_eq] at *
  intro e he
  exact Nat.lt_of_le_of_lt h (ha e he)

theorem Tbl.above_filter (n : Nat) (t : Tbl α) (p : Nat × α → Bool) (ha : Tbl.above n t = true) :
    Tbl.above n (t.filter p) = true := by
  simp only [Tbl.above, List.all_eq_true, decide_eq_true_eq] at *
  intro e he
  exact ha e (List.mem_of_mem_filter he)

theorem Tbl.above_set (n : Nat) (t : Tbl α) (k : Nat) (v : α) (hk : n < k) (ha : Tbl.above n t = true) :
    Tbl.above n (Tbl.set t k v) = true := by
  induction t with
  | nil => simpa [Tbl.set, Tbl.above] using hk
  | cons e r ih =>
    obtain ⟨j, w⟩ := e
    have hr : Tbl.above n r = true := by
      simp only [Tbl.above, List.all_cons, Bool.and_eq_true] at ha ⊢
      exact ha.2
    have hj : n < j := by
      simp only [Tbl.above, List.all_cons, Bool.and_eq_true, decide_eq_true_eq] at ha
      exact ha.1
    have ih' := ih hr
    unfold Tbl.set
    split
    · simp only [Tbl.above, List.all_cons, Bool.and_eq_true, decide_eq_true_eq] at hr ⊢
      exact ⟨hk, hj, hr⟩
    · split
      · simp only [Tbl.above, List.all_cons, Bool.and_eq_true, decide_eq_true_eq] at hr ⊢
        exact ⟨hk, hr⟩
      · simp only [Tbl.above, List.all_cons, Bool.and_eq_true, decide_eq_true_eq] at ih' ⊢
        exact ⟨hj, ih'⟩

variable [DecidableEq α]

@[simp] theorem Tbl.wf_nil (d : α) : Tbl.wf d ([] : Tbl α) = true := rfl

theorem Tbl.wf_filter (d : α) (t : Tbl α) (p : Nat × α → Bool) (h : Tbl.wf d t = true) : Tbl.wf d (t.filter p) = true := by
  induction t with
  | nil => rfl
  | cons e r ih =>
    obtain ⟨j, w⟩ := e
    simp only [Tbl.wf, Bool.and_eq_true, decide_eq_true_eq] at h
    by_cases hp : p (j, w) = true
    · simp only [List.filter_cons, hp, if_true, Tbl.wf, Bool.and_eq_true, decide_eq_true_eq]
      exact ⟨⟨h.1.1, Tbl.above_filter j r p h.1.2⟩, ih h.2⟩
    · simpa [List.filter_cons, hp] using ih h.2

theorem Tbl.wf_erase (d : α) (t : Tbl α) (k : Nat) (h : Tbl.wf d t = true) : Tbl.wf d (Tbl.erase t k) = true :=
  Tbl.wf_filter d t _ h

theorem Tbl.wf_drop (d : α) (t : Tbl α) (p : Nat → Bool) (h : Tbl.wf d t = true) : Tbl.wf d (Tbl.drop t p) = true :=
  Tbl.wf_filter d t _ h

theorem Tbl.wf_set (d : α) (t : Tbl α) (k : Nat) (v : α) (hv : v ≠ d) (h : Tbl.wf d t = true) :
    Tbl.wf d (Tbl.set t k v) = true := by
  induction t with
  | nil => simp [Tbl.set, Tbl.wf, Tbl.above, hv]
  | cons e r ih =>
    obtain ⟨j, w⟩ := e
    simp only [Tbl.wf, Bool.and_eq_true, decide_eq_true_eq] at h
    unfold Tbl.set
    split
    · rename_i hlt
      have ha : Tbl.above k ((j, w) :: r) = true := by
        have := Tbl.above_mono k j r (Nat.le_of_lt hlt) h.1.2
        simp only [Tbl.above, List.all_cons, Bool.and_eq_true, decide_eq_true_eq] at this ⊢
        exact ⟨hlt, this⟩
      simp only [Tbl.wf, Bool.and_eq_true, decide_eq_true_eq]
      exact ⟨⟨hv, ha⟩, h⟩
    · split
      · rename_i heq
        subst heq
        simp only [Tbl.wf, Bool.and_eq_true, decide_eq_true_eq]
        exact ⟨⟨hv, h.1.2⟩, h.2⟩
      · rename_i h1 h2
        simp only [Tbl.wf, Bool.and_eq_true, decide_eq_true_eq]
        exact ⟨⟨h.1.1, Tbl.above_set j r k v (by omega) h.1.2⟩, ih h.2⟩

/-- A write keeps the canonical form. -/
theorem Tbl.wf_put (d : α) (t : Tbl α) (k : Nat) (v : α) (h : Tbl.wf d t = true) : Tbl.wf d (Tbl.put d t k v) = true := by
  unfold Tbl.put
  split
  · exact Tbl.wf_erase d t k h
  · exact Tbl.wf_set d t k v (by assumption) h

/-- Writing clear bits or bytes by a fold keeps the canonical form. -/
theorem Tbl.wf_foldl {β : Type} (d : α) (f : Tbl α → β → Tbl α) (hf : ∀ t x, Tbl.wf d t = true → Tbl.wf d (f t x) = true)
    (l : List β) (t : Tbl α) (h : Tbl.wf d t = true) : Tbl.wf d (l.foldl f t) = true := by
  induction l generalizing t with
  | nil => exact h
  | cons x r ih => exact ih (f t x) (hf t x h)

/-- A run of puts of one value keeps the canonical form. -/
theorem Tbl.wf_putAll (d : α) (t : Tbl α) (v : α) (ks : List Nat) (h : Tbl.wf d t = true) :
    Tbl.wf d (ks.foldl (fun q k => Tbl.put d q k v) t) = true :=
  Tbl.wf_foldl d _ (fun _ _ ht => Tbl.wf_put d _ _ _ ht) _ _ h

end Sys2Proof
end

