-- ==== Sys2Proof/Laws/Regs.lean ====
section
/-! SUPPORT. The laws of registers: a word, a field or a 64-bit register after a write of it or of another, and an event word
after its event. -/

namespace Sys2Proof

/-! ## Bit fields -/

theorem testBit_bits (x lo n i : Nat) : (bits x lo n).testBit i = (decide (i < n) && x.testBit (lo + i)) := by
  unfold bits
  rw [Nat.testBit_mod_two_pow, Nat.testBit_div_two_pow, Nat.add_comm]

theorem putBits_eq (x lo n v : Nat) :
    putBits x lo n v = 2 ^ lo * (2 ^ n * (x / 2 ^ (lo + n)) + v % 2 ^ n) + x % 2 ^ lo := by
  unfold putBits
  rw [Nat.pow_add]
  ring

theorem testBit_putBits (x lo n v i : Nat) :
    (putBits x lo n v).testBit i = if lo ≤ i ∧ i < lo + n then v.testBit (i - lo) else x.testBit i := by
  have h1 : x % 2 ^ lo < 2 ^ lo := Nat.mod_lt _ (Nat.two_pow_pos lo)
  have h2 : v % 2 ^ n < 2 ^ n := Nat.mod_lt _ (Nat.two_pow_pos n)
  rw [putBits_eq, Nat.testBit_two_pow_mul_add _ h1, Nat.testBit_two_pow_mul_add _ h2]
  by_cases hi : i < lo
  · rw [if_pos hi, Nat.testBit_mod_two_pow, if_neg (by omega)]
    simp [hi]
  · rw [if_neg hi]
    by_cases hj : i - lo < n
    · rw [if_pos hj, if_pos (by omega), Nat.testBit_mod_two_pow]
      simp [hj]
    · rw [if_neg hj, if_neg (by omega), Nat.testBit_div_two_pow]
      congr 1
      omega

@[simp] theorem bits_putBits_same (x lo n v : Nat) : bits (putBits x lo n v) lo n = v % 2 ^ n := by
  apply Nat.eq_of_testBit_eq
  intro i
  rw [testBit_bits, testBit_putBits, Nat.testBit_mod_two_pow]
  by_cases h : i < n
  · rw [if_pos (by omega)]
    simp [h]
  · simp [h]

theorem bits_putBits_ne (x lo n v lo' n' : Nat) (h : lo' + n' ≤ lo ∨ lo + n ≤ lo') :
    bits (putBits x lo n v) lo' n' = bits x lo' n' := by
  apply Nat.eq_of_testBit_eq
  intro i
  rw [testBit_bits, testBit_bits, testBit_putBits]
  by_cases hi : i < n'
  · rw [if_neg (by omega)]
  · simp [hi]

theorem putBits_lt (x lo n v m : Nat) (hx : x < 2 ^ m) (h : lo + n ≤ m) : putBits x lo n v < 2 ^ m := by
  apply Nat.lt_pow_two_of_testBit
  intro i hi
  rw [testBit_putBits, if_neg (by omega)]
  exact Nat.testBit_lt_two_pow (Nat.lt_of_lt_of_le hx (Nat.pow_le_pow_right (by decide) hi))

theorem bits_lt (x lo n : Nat) : bits x lo n < 2 ^ n := Nat.mod_lt _ (Nat.two_pow_pos n)

end Sys2Proof

namespace Sys2Proof.Machine

/-! ## Words -/

@[simp] theorem State.word_setWord_same (s : State) (a : Nat) (w : W32) : (s.setWord a w).word a = w := by
  simp [State.word, State.setWord]

theorem State.word_setWord_ne (s : State) (a b : Nat) (w : W32) (h : b ≠ a) : (s.setWord a w).word b = s.word b := by
  simp [State.word, State.setWord, Tbl.get_put_ne _ _ _ _ _ _ h]

theorem State.word_lt (s : State) (a : Nat) : (s.word a).toNat < 2 ^ 32 := (s.word a).isLt

/-- A register word depends on the register table and the fuses only. -/
theorem State.word_congr (s t : State) (a : Nat) (hr : t.regs = s.regs) (hh : t.hw = s.hw) : t.word a = s.word a := by
  simp [State.word, hr, hh]

theorem State.fld_congr (s t : State) (f : FieldAt) (hr : t.regs = s.regs) (hh : t.hw = s.hw) : t.fld f = s.fld f := by
  simp [State.fld, State.reg64, State.word, hr, hh]

theorem State.flag_congr (s t : State) (f : FieldAt) (hr : t.regs = s.regs) (hh : t.hw = s.hw) : t.flag f = s.flag f := by
  simp [State.flag, State.fld_congr s t f hr hh]

/-! ## Registers of two words -/

theorem State.reg64_lt (s : State) (a : Nat) : s.reg64 a < 2 ^ 64 := by
  have h1 := s.word_lt a
  have h2 := s.word_lt (a + 4)
  unfold State.reg64
  omega

theorem State.reg64_setReg64 (s : State) (a x : Nat) : (s.setReg64 a x).reg64 a = x % 2 ^ 64 := by
  have h : a ≠ a + 4 := by omega
  simp only [State.setReg64, State.reg64, State.word_setWord_same, State.word_setWord_ne _ _ _ _ h, BitVec.toNat_ofNat]
  omega

@[simp] theorem State.reg64_setReg64_same (s : State) (a x : Nat) (h : x < 2 ^ 64) : (s.setReg64 a x).reg64 a = x := by
  rw [State.reg64_setReg64, Nat.mod_eq_of_lt h]

theorem State.word_setReg64_ne (s : State) (a b x : Nat) (h1 : b ≠ a) (h2 : b ≠ a + 4) : (s.setReg64 a x).word b = s.word b := by
  simp only [State.setReg64, State.word_setWord_ne _ _ _ _ h1, State.word_setWord_ne _ _ _ _ h2]

/-- A counter after a count (R532): it wraps at 64 bits. -/
theorem State.reg64_count (s : State) (a k : Nat) : (s.count a k).reg64 a = (s.reg64 a + k) % 2 ^ 64 := by
  unfold State.count
  exact State.reg64_setReg64_same s a _ (Nat.mod_lt _ (by decide))

theorem State.word_count_ne (s : State) (a b k : Nat) (h1 : b ≠ a) (h2 : b ≠ a + 4) : (s.count a k).word b = s.word b :=
  State.word_setReg64_ne s a b _ h1 h2

theorem State.word_event_ne (s : State) (a b k : Nat) (h : b ≠ a) : (s.event a k).word b = s.word b :=
  State.word_setWord_ne s a b _ h

/-! ## Fields -/

theorem State.fld_eq (s : State) (f : FieldAt) : s.fld f = bits (s.reg64 f.addr) f.lo f.n := by
  unfold State.fld
  split
  · rename_i h
    apply Nat.eq_of_testBit_eq
    intro i
    rw [testBit_bits, testBit_bits]
    by_cases hi : i < f.n
    · have hw : s.reg64 f.addr % 2 ^ 32 = (s.word f.addr).toNat := by
        have h1 := s.word_lt f.addr
        unfold State.reg64
        omega
      have : (s.reg64 f.addr % 2 ^ 32).testBit (f.lo + i) = (s.reg64 f.addr).testBit (f.lo + i) := by
        rw [Nat.testBit_mod_two_pow]
        simp [show f.lo + i < 32 by omega]
      rw [← this, hw]
    · simp [hi]
  · rfl

theorem State.fld_lt (s : State) (f : FieldAt) : s.fld f < 2 ^ f.n := by
  rw [State.fld_eq]
  exact bits_lt _ _ _

theorem State.reg64_setFld (s : State) (f : FieldAt) (v : Nat) (h : f.lo + f.n ≤ 64) :
    (s.setFld f v).reg64 f.addr = putBits (s.reg64 f.addr) f.lo f.n v := by
  unfold State.setFld
  split
  · rename_i h32
    have hne : f.addr + 4 ≠ f.addr := by omega
    have hlt := putBits_lt (s.word f.addr).toNat f.lo f.n v 32 (s.word_lt f.addr) h32
    unfold State.reg64
    rw [State.word_setWord_same, State.word_setWord_ne _ _ _ _ hne, BitVec.toNat_ofNat, Nat.mod_eq_of_lt hlt]
    have h1 := s.word_lt f.addr
    apply Nat.eq_of_testBit_eq
    intro i
    rw [Nat.add_comm, Nat.testBit_two_pow_mul_add _ hlt, testBit_putBits, testBit_putBits, Nat.add_comm (s.word f.addr).toNat,
      Nat.testBit_two_pow_mul_add _ h1]
    by_cases hi : i < 32
    · simp [hi]
    · rw [if_neg hi, if_neg (by omega), if_neg hi]
  · exact State.reg64_setReg64_same s f.addr _ (putBits_lt _ _ _ _ 64 (s.reg64_lt _) h)

/-- A field after a write of it. -/
theorem State.fld_setFld (s : State) (f : FieldAt) (v : Nat) (h : f.lo + f.n ≤ 64) : (s.setFld f v).fld f = v % 2 ^ f.n := by
  rw [State.fld_eq, State.reg64_setFld s f v h, bits_putBits_same]

theorem State.fld_setFld_same (s : State) (f : FieldAt) (v : Nat) (h : f.lo + f.n ≤ 64) (hv : v < 2 ^ f.n) :
    (s.setFld f v).fld f = v := by
  rw [State.fld_setFld s f v h, Nat.mod_eq_of_lt hv]

/-- A word outside the register of a field keeps its value. -/
theorem State.word_setFld_ne (s : State) (f : FieldAt) (v b : Nat) (h1 : b ≠ f.addr) (h2 : b ≠ f.addr + 4) :
    (s.setFld f v).word b = s.word b := by
  unfold State.setFld
  split
  · exact State.word_setWord_ne s _ _ _ h1
  · exact State.word_setReg64_ne s _ _ _ h1 h2

theorem State.reg64_setFld_ne (s : State) (f : FieldAt) (v b : Nat) (h : b + 8 ≤ f.addr ∨ f.addr + 8 ≤ b) :
    (s.setFld f v).reg64 b = s.reg64 b := by
  unfold State.reg64
  rw [State.word_setFld_ne _ _ _ _ (by omega) (by omega), State.word_setFld_ne _ _ _ _ (by omega) (by omega)]

/-- A field of another register keeps its value. -/
theorem State.fld_setFld_ne (s : State) (f g : FieldAt) (v : Nat) (h : g.addr + 8 ≤ f.addr ∨ f.addr + 8 ≤ g.addr) :
    (s.setFld f v).fld g = s.fld g := by
  rw [State.fld_eq, State.fld_eq, State.reg64_setFld_ne s f v _ h]

/-- Another field of the same register keeps its value. -/
theorem State.fld_setFld_apart (s : State) (f g : FieldAt) (v : Nat) (ha : g.addr = f.addr) (h64 : f.lo + f.n ≤ 64)
    (h : g.lo + g.n ≤ f.lo ∨ f.lo + f.n ≤ g.lo) : (s.setFld f v).fld g = s.fld g := by
  rw [State.fld_eq, State.fld_eq, ha, State.reg64_setFld s f v h64, bits_putBits_ne _ _ _ _ _ _ h]

theorem State.fld_of_words (s t : State) (f : FieldAt) (h1 : t.word f.addr = s.word f.addr)
    (h2 : t.word (f.addr + 4) = s.word (f.addr + 4)) : t.fld f = s.fld f := by
  simp [State.fld, State.reg64, h1, h2]

theorem State.fld_event_ne (s : State) (a b : Nat) (f : FieldAt) (h1 : f.addr ≠ a) (h2 : f.addr + 4 ≠ a) :
    (s.event a b).fld f = s.fld f :=
  State.fld_of_words _ _ f (State.word_event_ne s a _ b h1) (State.word_event_ne s a _ b h2)

theorem State.fld_count_ne (s : State) (a k : Nat) (f : FieldAt) (h : f.addr + 8 ≤ a ∨ a + 8 ≤ f.addr) :
    (s.count a k).fld f = s.fld f :=
  State.fld_of_words _ _ f (State.word_count_ne s a _ k (by omega) (by omega)) (State.word_count_ne s a _ k (by omega) (by omega))

/-- A field of a register after a write of the whole register. -/
theorem State.fld_setReg64 (s : State) (a x : Nat) (f : FieldAt) (h : f.addr = a) : (s.setReg64 a x).fld f = bits (x % 2 ^ 64) f.lo f.n := by
  subst h
  rw [State.fld_eq, State.reg64_setReg64]

theorem State.fld_setReg64_ne (s : State) (a x : Nat) (f : FieldAt) (h : f.addr + 8 ≤ a ∨ a + 8 ≤ f.addr) :
    (s.setReg64 a x).fld f = s.fld f :=
  State.fld_of_words _ _ _ (State.word_setReg64_ne s a _ x (by omega) (by omega)) (State.word_setReg64_ne s a _ x (by omega) (by omega))

@[simp] theorem State.fld_emit (s : State) (o : Out) (f : FieldAt) : (s.emit o).fld f = s.fld f := rfl
@[simp] theorem State.flag_emit (s : State) (o : Out) (f : FieldAt) : (s.emit o).flag f = s.flag f := rfl

/-! ## Events (R538) -/

/-- An event sets its bit. -/
theorem evtRecord_bit (w : W32) (b : Nat) (hb : b < 24) : bitOf (evtRecord w b).toNat b = true := by
  unfold evtRecord bitOf
  have h1 : w.toNat % 2 ^ 24 ||| 2 ^ b < 2 ^ 24 :=
    Nat.or_lt_two_pow (Nat.mod_lt _ (by decide)) (Nat.pow_lt_pow_right (by decide) hb)
  have h2 : (evtSeq w + 1) % 256 < 256 := Nat.mod_lt _ (by decide)
  rw [BitVec.toNat_ofNat, Nat.mod_eq_of_lt (by omega), Nat.add_comm, Nat.testBit_two_pow_mul_add _ h1, if_pos hb,
    Nat.testBit_or, Nat.testBit_two_pow_self, Bool.or_true]

/-- An event leaves the other bits as they were. -/
theorem evtRecord_other (w : W32) (b c : Nat) (hb : b < 24) (hc : c < 24) (h : c ≠ b) :
    bitOf (evtRecord w b).toNat c = bitOf w.toNat c := by
  unfold evtRecord bitOf
  have h1 : w.toNat % 2 ^ 24 ||| 2 ^ b < 2 ^ 24 :=
    Nat.or_lt_two_pow (Nat.mod_lt _ (by decide)) (Nat.pow_lt_pow_right (by decide) hb)
  have h2 : (evtSeq w + 1) % 256 < 256 := Nat.mod_lt _ (by decide)
  rw [BitVec.toNat_ofNat, Nat.mod_eq_of_lt (by omega), Nat.add_comm, Nat.testBit_two_pow_mul_add _ h1, if_pos hc,
    Nat.testBit_or, Nat.testBit_mod_two_pow, Nat.testBit_two_pow]
  simp [hc, h.symm]

/-- An event advances SEQ modulo 256. -/
theorem evtRecord_seq (w : W32) (b : Nat) (hb : b < 24) : evtSeq (evtRecord w b) = (evtSeq w + 1) % 256 := by
  unfold evtRecord
  have h1 : w.toNat % 2 ^ 24 ||| 2 ^ b < 2 ^ 24 :=
    Nat.or_lt_two_pow (Nat.mod_lt _ (by decide)) (Nat.pow_lt_pow_right (by decide) hb)
  have h2 : (evtSeq w + 1) % 256 < 256 := Nat.mod_lt _ (by decide)
  have h3 (m q : Nat) (hm : m < 2 ^ 24) (hq : q < 256) : evtSeq (BitVec.ofNat 32 (m + 2 ^ 24 * q)) = q := by
    unfold evtSeq
    rw [BitVec.toNat_ofNat, Nat.mod_eq_of_lt (by omega)]
    omega
  exact h3 _ _ h1 h2

theorem State.evtBit_event_same (s : State) (a b : Nat) (hb : b < 24) : (s.event a b).evtBit a b = true := by
  simp [State.evtBit, State.event, evtRecord_bit _ _ hb]

end Sys2Proof.Machine
end

