-- ==== Sys2Proof/Laws/Touch.lean ====
section
/-! SUPPORT. What an operation may touch: the relation between a state and a later one that differs from it in the named parts of the
state only. Each operation of the model has one lemma, which the lemmas of the operations above it cite. -/

namespace Sys2Proof.Machine

theorem Zone.same_refl (p : Zone) (s : State) : p.same s s := by cases p <;> rfl

theorem Zone.same_trans {p : Zone} {s t u : State} (h : p.same s t) (g : p.same t u) : p.same s u := by
  cases p <;> exact Eq.trans g h

theorem Touches.refl (T : List Zone) (s : State) : Touches T s s := fun p _ => p.same_refl s

theorem Touches.trans {T : List Zone} {s t u : State} (h : Touches T s t) (g : Touches T t u) : Touches T s u :=
  fun p hp => Zone.same_trans (h p hp) (g p hp)

/-- Is every part of `U` one of `T`? -/
abbrev Zone.Within (U T : List Zone) : Prop := U.all (fun p => T.contains p) = true

theorem Zone.within {U T : List Zone} (h : U.all (fun p => T.contains p) = true) : Zone.Within U T := h

theorem Zone.Within.refl (T : List Zone) : Zone.Within T T := by simp [Zone.Within]

theorem Zone.Within.trans {T U V : List Zone} (h : Zone.Within T U) (g : Zone.Within U V) : Zone.Within T V := by
  simp only [Zone.Within, List.all_eq_true, List.contains_iff_mem] at *
  exact fun p hp => g p (h p hp)

theorem Zone.Within.mem {T U : List Zone} (h : Zone.Within T U) {p : Zone} (hp : p ∈ T) : p ∈ U := by
  simpa using List.all_eq_true.mp h p hp

theorem Touches.mono {T U : List Zone} {s t : State} (h : Touches T s t) (hs : Zone.Within T U) : Touches U s t :=
  fun p hp => h p (fun hT => hp (hs.mem hT))

/-- An operation on a state that differs in the parts of `T` only. -/
theorem Touches.op {T U : List Zone} {s t u : State} (g : Touches U t u) (hs : Zone.Within U T)
    (h : Touches T s t) : Touches T s u := h.trans (g.mono hs)

theorem Touches.foldl {α : Type} {T : List Zone} {s t : State} (l : List α) (f : State → α → State)
    (hf : ∀ u x, Touches T u (f u x)) (h : Touches T s t) : Touches T s (l.foldl f t) := by
  induction l generalizing t with
  | nil => exact h
  | cons x r ih => exact ih (h.trans (hf t x))

theorem Touches.each {α : Type} {T : List Zone} {s t : State} (l : List α) (f : α → State → State)
    (hf : ∀ x u, Touches T u (f x u)) (h : Touches T s t) : Touches T s (t.each l f) :=
  Touches.foldl l _ (fun u x => hf x u) h

theorem Touches.foldl1 {α β : Type} {T : List Zone} {s : State} {z : State × β} (l : List α) (f : State × β → α → State × β)
    (hf : ∀ z x, Touches T z.1 (f z x).1) (h : Touches T s z.1) : Touches T s (l.foldl f z).1 := by
  induction l generalizing z with
  | nil => exact h
  | cons x r ih => exact ih (h.trans (hf z x))

theorem Touches.of_fst {α : Type} {T : List Zone} {s t : State} {p : State × α} {x : α} (h : Touches T s p.1) (e : p = (t, x)) :
    Touches T s t := by subst e; exact h

theorem Touches.of_snd {α : Type} {T : List Zone} {s t : State} {p : α × State} {x : α} (h : Touches T s p.2) (e : p = (x, t)) :
    Touches T s t := by subst e; exact h

/-- Is every part outside `T` the same? -/
def Zone.Rest (T : List Zone) (s t : State) : Prop := ∀ p, p ∉ T → p.same s t

theorem Zone.rest {T : List Zone} {s t : State} (h : ∀ p, p ∉ T → p.same s t) : Zone.Rest T s t := h

/-- A record update of a state that differs in the parts of `T` only. -/
theorem Touches.leaf {T : List Zone} {s t : State}
    {x0 : List Instr} {x1 : Hw} {x2 : Power} {x3 : Boot} {x4 : Tbl W32} {x5 : Tbl W32} {x6 : Mem} {x7 : Alloc} {x8 :
    Idx} {x9 : Work} {x10 : Tbl Currant} {x11 : Compute} {x12 : Tables} {x13 : Flash} {x14 : Fab} {x15 : Cas} {x16 :
    Chk} {x17 : Energy} {x18 : HostPort} {x19 : Mgmt} {x20 : Nat} {x21 : List Out} {x22 : Nat}
    (_ : x0 = t.pending) (h : Touches T s t)
    (hu : Zone.Rest T t ⟨x0, x1, x2, x3, x4, x5, x6, x7, x8, x9, x10, x11, x12, x13, x14, x15, x16, x17, x18, x19, x20, x21, x22⟩) : Touches T s ⟨x0, x1, x2, x3, x4, x5, x6, x7, x8, x9, x10, x11, x12, x13, x14, x15, x16, x17, x18, x19, x20, x21, x22⟩ := h.trans hu

/-- An outcome that, if it is a next state, differs in the parts of `T` only. -/
def TouchesO (T : List Zone) (s : State) (o : Outcome) : Prop := ∀ t, o = .next t → Touches T s t

theorem TouchesO.next {T : List Zone} {s t : State} (h : Touches T s t) : TouchesO T s (.next t) := by
  intro u hu; cases hu; exact h


theorem TouchesO.op {T U : List Zone} {s t : State} {o : Outcome} (g : TouchesO U t o) (hs : Zone.Within U T)
    (h : Touches T s t) : TouchesO T s o := fun u hu => h.trans ((g u hu).mono hs)

theorem TouchesO.app {T : List Zone} {s t : State} {o : Outcome} (h : TouchesO T s o) (e : o = .next t) : Touches T s t := h t e

theorem TouchesO.get {T : List Zone} {s t : State} (h : TouchesO T s (.next t)) : Touches T s t := h t rfl

theorem TouchesO.foldl {β : Type} {T : List Zone} {s : State} {o : Outcome} (l : List β) (g : Outcome → β → Outcome)
    (hg : ∀ o x, TouchesO T s o → TouchesO T s (g o x)) (h : TouchesO T s o) : TouchesO T s (l.foldl g o) := by
  induction l generalizing o with
  | nil => exact h
  | cons x r ih => exact ih (hg o x h)

/-- An optional state, and an optional state with a value. -/
def TouchesP {α : Type} (T : List Zone) (s : State) (f : α → State) (o : Option α) : Prop := ∀ x, o = some x → Touches T s (f x)

theorem TouchesP.ofNone {α : Type} {T : List Zone} {s : State} {f : α → State} : TouchesP T s f none := by intro x hx; cases hx

theorem TouchesP.ofSome {α : Type} {T : List Zone} {s : State} {f : α → State} {x : α} (h : Touches T s (f x)) :
    TouchesP T s f (some x) := by intro y hy; cases hy; exact h

theorem TouchesP.map {α β : Type} {T : List Zone} {s : State} {f : α → State} {g : β → α} {o : Option β}
    (h : ∀ x, Touches T s (f (g x))) : TouchesP T s f (o.map g) := by
  intro y hy
  cases o with
  | none => cases hy
  | some x => cases hy; exact h x

theorem TouchesP.map' {α β : Type} {T : List Zone} {s : State} {f : α → State} {g : β → α} {o : Option β}
    (h : ∀ x, o = some x → Touches T s (f (g x))) : TouchesP T s f (o.map g) := by
  intro y hy
  cases o with
  | none => cases hy
  | some x => cases hy; exact h x rfl

theorem TouchesP.app {α : Type} {T : List Zone} {s : State} {f : α → State} {o : Option α} {x : α} (h : TouchesP T s f o)
    (e : o = some x) : Touches T s (f x) := h x e

theorem TouchesP.app2 {α : Type} {T : List Zone} {s t : State} {o : Option (α × State)} {a : α} (h : TouchesP T s (fun x => x.2) o)
    (e : o = some (a, t)) : Touches T s t := h _ e

theorem TouchesP.app3 {α β : Type} {T : List Zone} {s t : State} {o : Option (α × β × State)} {a : α} {b : β}
    (h : TouchesP T s (fun x => x.2.2) o) (e : o = some (a, b, t)) : Touches T s t := h _ e

theorem TouchesP.mono {α : Type} {T U : List Zone} {s : State} {f : α → State} {o : Option α} (g : TouchesP U s f o)
    (hs : Zone.Within U T) : TouchesP T s f o := fun x hx => (g x hx).mono hs

theorem TouchesP.op {α : Type} {T U : List Zone} {s t : State} {f : α → State} {o : Option α} (g : TouchesP U t f o)
    (hs : Zone.Within U T) (h : Touches T s t) : TouchesP T s f o := fun x hx => h.trans ((g x hx).mono hs)

theorem TouchesP.bind {α β : Type} {T : List Zone} {s : State} {f : β → State} {o : Option α} {g : α → Option β}
    (h : ∀ x, o = some x → TouchesP T s f (g x)) : TouchesP T s f (o.bind g) := by
  cases o with
  | none => exact TouchesP.ofNone
  | some x => exact h x rfl

theorem Touches.getD {T : List Zone} {s b : State} {o : Option State} (h : TouchesP T s (fun x => x) o) (hb : Touches T s b) :
    Touches T s (o.getD b) := by
  cases o with
  | none => exact hb
  | some x => exact h x rfl

theorem TouchesP.findSome {α β : Type} {T : List Zone} {s : State} {f : β → State} {l : List α} {g : α → Option β}
    (h : ∀ x, TouchesP T s f (g x)) : TouchesP T s f (l.findSome? g) := by
  intro y hy
  obtain ⟨x, _, hx⟩ := List.exists_of_findSome?_eq_some hy
  exact h x y hx

theorem TouchesP.foldl_bind {β : Type} {T : List Zone} {s : State} (l : List β) (g : State → β → Option State)
    (hg : ∀ u x, TouchesP T u (fun x => x) (g u x)) :
    TouchesP T s (fun x => x) (l.foldl (fun o c => o.bind fun t => g t c) (some s)) := by
  have none_ : ∀ r : List β, r.foldl (fun o c => o.bind fun t => g t c) (none : Option State) = none := by
    intro r
    induction r with
    | nil => rfl
    | cons x r ih => exact ih
  induction l generalizing s with
  | nil => exact TouchesP.ofSome (Touches.refl _ _)
  | cons x r ih =>
    intro t ht
    rw [List.foldl_cons] at ht
    cases hx : g s x with
    | none => rw [Option.bind_some, hx, none_] at ht; cases ht
    | some u => rw [Option.bind_some, hx] at ht; exact (hg s x u hx).trans (ih t ht)

theorem Touches.of_ite {α : Type} {T : List Zone} {s t : State} {c : Prop} [Decidable c] {x a : α} {o : Option (α × State)}
    (h : TouchesP T s (fun x => x.2) o) (e : (if c then some (x, s) else o) = some (a, t)) : Touches T s t := by
  split at e
  · cases e; exact Touches.refl _ _
  · exact h _ e

theorem Touches.getD_map {α : Type} {T : List Zone} {s b : State} {o : Option α} {f : α → State} (hb : Touches T s b)
    (hf : ∀ x, Touches T s (f x)) : Touches T s ((o.map f).getD b) := by
  cases o with
  | none => exact hb
  | some x => exact hf x

theorem Touches.elim {α : Type} {T : List Zone} {s b : State} {o : Option α} {f : α → State} (hb : Touches T s b)
    (hf : ∀ x, Touches T s (f x)) : Touches T s (o.elim b f) := by
  cases o with
  | none => exact hb
  | some x => exact hf x

/-- A result that is a state, or a state with a value, or a status. -/
def TouchesE {ε α : Type} (T : List Zone) (s : State) (f : α → State) (o : Except ε α) : Prop := ∀ x, o = .ok x → Touches T s (f x)

theorem TouchesE.error {ε α : Type} {T : List Zone} {s : State} {f : α → State} (e : ε) : TouchesE T s f (.error e : Except ε α) := by
  intro x hx; cases hx

theorem TouchesE.ok {ε α : Type} {T : List Zone} {s : State} {f : α → State} {x : α} (h : Touches T s (f x)) :
    TouchesE T s f (.ok x : Except ε α) := by intro y hy; cases hy; exact h

theorem TouchesE.app {ε α : Type} {T : List Zone} {s : State} {f : α → State} {o : Except ε α} {x : α} (h : TouchesE T s f o)
    (e : o = .ok x) : Touches T s (f x) := h x e

theorem TouchesE.app2 {ε α : Type} {T : List Zone} {s t : State} {o : Except ε (α × State)} {a : α}
    (h : TouchesE T s (fun x => x.2) o) (e : o = .ok (a, t)) : Touches T s t := h _ e

theorem TouchesE.op {ε α : Type} {T U : List Zone} {s t : State} {f : α → State} {o : Except ε α} (g : TouchesE U t f o)
    (hs : Zone.Within U T) (h : Touches T s t) : TouchesE T s f o := fun x hx => h.trans ((g x hx).mono hs)

/-- How a write to the write buffer ends. -/
def TouchesA (T : List Zone) (s : State) (a : Admit) : Prop := ∀ t, a = .ok t → Touches T s t

theorem TouchesA.ok {T : List Zone} {s t : State} (h : Touches T s t) : TouchesA T s (.ok t) := by intro u hu; cases hu; exact h
theorem TouchesA.wait {T : List Zone} {s : State} : TouchesA T s .wait := by intro u hu; cases hu
theorem TouchesA.noSpace {T : List Zone} {s : State} : TouchesA T s .noSpace := by intro u hu; cases hu
theorem TouchesA.app {T : List Zone} {s t : State} {a : Admit} (h : TouchesA T s a) (e : a = .ok t) : Touches T s t := h t e
theorem TouchesA.op {T U : List Zone} {s t : State} {a : Admit} (g : TouchesA U t a) (hs : Zone.Within U T)
    (h : Touches T s t) : TouchesA T s a := fun u hu => h.trans ((g u hu).mono hs)

/-- What an update comes to. -/
def TouchesU (T : List Zone) (s : State) (u : Upd) : Prop :=
  (∀ t st, u = .done t st → Touches T s t) ∧ (∀ t us, u = .wthru t us → Touches T s t)

theorem TouchesU.done {T : List Zone} {s t : State} {st : Status} (h : Touches T s t) : TouchesU T s (.done t st) :=
  ⟨(by intro u x hu; cases hu; exact h), (by intro u x hu; cases hu)⟩
theorem TouchesU.wthru {T : List Zone} {s t : State} {us : List (Nat × Nat)} (h : Touches T s t) : TouchesU T s (.wthru t us) :=
  ⟨(by intro u x hu; cases hu), (by intro u x hu; cases hu; exact h)⟩
theorem TouchesU.side {T : List Zone} {s : State} : TouchesU T s .side := ⟨(by intro u x hu; cases hu), (by intro u x hu; cases hu)⟩
theorem TouchesU.bufWait {T : List Zone} {s : State} : TouchesU T s .bufWait := ⟨(by intro u x hu; cases hu), (by intro u x hu; cases hu)⟩

theorem TouchesU.mono {T V : List Zone} {s : State} {u : Upd} (g : TouchesU V s u) (hs : Zone.Within V T) :
    TouchesU T s u := ⟨fun t st h => (g.1 t st h).mono hs, fun t us h => (g.2 t us h).mono hs⟩
theorem TouchesU.ite {T : List Zone} {s : State} {c : Prop} [Decidable c] {u v : Upd} (h : TouchesU T s u) (g : TouchesU T s v) :
    TouchesU T s (if c then u else v) := by split <;> assumption

/-! ## The primitive updates -/

theorem State.setWord_touches (s : State) (a : Nat) (w : W32) : Touches [.regs] s (s.setWord a w) := by
  intro p hp; cases p <;> first | rfl | exact absurd (by decide) hp
theorem State.setReg64_touches (s : State) (a x : Nat) : Touches [.regs] s (s.setReg64 a x) := by
  intro p hp; cases p <;> first | rfl | exact absurd (by decide) hp
theorem State.setFld_touches (s : State) (f : FieldAt) (v : Nat) : Touches [.regs] s (s.setFld f v) := by
  unfold State.setFld; split
  · exact State.setWord_touches _ _ _
  · exact State.setReg64_touches _ _ _
theorem State.count_touches (s : State) (a k : Nat) : Touches [.regs] s (s.count a k) := State.setReg64_touches _ _ _
theorem State.event_touches (s : State) (a b : Nat) : Touches [.regs] s (s.event a b) := State.setWord_touches _ _ _
theorem State.emit_touches (s : State) (o : Out) : Touches [.out] s (s.emit o) := by
  intro p hp; cases p <;> first | rfl | exact absurd (by decide) hp
theorem State.drawFree_touches (s : State) : Touches [.free] s s.drawFree := by
  intro p hp; cases p <;> first | rfl | exact absurd (by decide) hp
theorem State.modTenant_touches (s : State) (t : Nat) (f : Tenant → Tenant) : Touches [.work] s (s.modTenant t f) := by
  intro p hp; cases p <;> first | rfl | exact absurd (by decide) hp

/-! ## Conditions on an outcome -/

theorem State.onlyIf_touches {T : List Zone} {s : State} (c : Bool) {f : State → State} (h : Touches T s (f s)) :
    TouchesO T s (s.onlyIf c f) := by
  unfold State.onlyIf
  refine TouchesO.next ?_
  split
  · exact h
  · exact Touches.refl _ _

theorem State.whenServing_touches {T : List Zone} {s : State} {f : State → State} (h : Touches T s (f s)) :
    TouchesO T s (s.whenServing f) := by
  unfold State.whenServing
  refine TouchesO.next ?_
  split
  · exact h
  · exact Touches.refl _ _

end Sys2Proof.Machine
end

