-- ==== Sys2Proof/Laws/Touch1.lean ====
section
/-! SUPPORT. What the operations and commands of registers, memories, completions, the fabric, currants, leases and the tiers may touch: one lemma each (Laws/Touch.lean). -/

namespace Sys2Proof.Machine

/-! ## Regs -/

theorem State.resetBlock_touches (s : State) (n : Nat) : Touches [.regs, .stagedW] s (State.resetBlock s n) := by
  unfold State.resetBlock
  with_reducible
    repeat' first
      | exact Touches.refl _ _
      | (apply Zone.rest; intro p hp; cases p <;> first | exact absurd (by decide) hp | exact rfl)
      | apply Touches.leaf (Eq.refl _)

theorem State.hostErr_touches (s : State) (rule : Nat) : Touches [.out, .free] s (State.hostErr s rule) := by
  unfold State.hostErr
  with_reducible
    repeat' first
      | (apply Zone.within; decide)
      | exact Touches.refl _ _
      | apply Touches.op (State.drawFree_touches _)
      | apply Touches.op (State.emit_touches _ _)

/-! ## Mem -/

theorem State.ilvWrite_touches (s : State) (x : Nat) (bs : List Byte) : Touches [.mem] s (State.ilvWrite s x bs) := by
  unfold State.ilvWrite
  with_reducible
    repeat' first
      | exact Touches.refl _ _
      | (apply Zone.rest; intro p hp; cases p <;> first | exact absurd (by decide) hp | exact rfl)
      | extract_lets
      | apply Touches.leaf (Eq.refl _)

theorem State.chWrite_touches (s : State) (ch off : Nat) (bs : List Byte) : Touches [.mem] s (State.chWrite s ch off bs) := by
  unfold State.chWrite
  with_reducible
    repeat' first
      | exact Touches.refl _ _
      | (apply Zone.rest; intro p hp; cases p <;> first | exact absurd (by decide) hp | exact rfl)
      | extract_lets
      | apply Touches.leaf (Eq.refl _)

theorem State.hbmPoisonLines_touches (s : State) (ls : List Nat) : Touches [.mem] s (State.hbmPoisonLines s ls) := by
  unfold State.hbmPoisonLines
  with_reducible
    repeat' first
      | exact Touches.refl _ _
      | (apply Zone.rest; intro p hp; cases p <;> first | exact absurd (by decide) hp | exact rfl)
      | extract_lets
      | apply Touches.leaf (Eq.refl _)

theorem State.storeWrite_touches (s : State) (core off : Nat) (bs : List Byte) : Touches [.mem] s (State.storeWrite s core off bs) := by
  unfold State.storeWrite
  with_reducible
    repeat' first
      | exact Touches.refl _ _
      | (apply Zone.rest; intro p hp; cases p <;> first | exact absurd (by decide) hp | exact rfl)
      | extract_lets
      | apply Touches.leaf (Eq.refl _)

theorem State.storePoisonLines_touches (s : State) (ls : List Nat) : Touches [.mem] s (State.storePoisonLines s ls) := by
  unfold State.storePoisonLines
  with_reducible
    repeat' first
      | exact Touches.refl _ _
      | (apply Zone.rest; intro p hp; cases p <;> first | exact absurd (by decide) hp | exact rfl)
      | extract_lets
      | apply Touches.leaf (Eq.refl _)

theorem State.storeFill_touches (s : State) (core off n : Nat) (filled : Bool) : Touches [.mem] s (State.storeFill s core off n filled)
    := by
  unfold State.storeFill
  with_reducible
    repeat' first
      | exact Touches.refl _ _
      | (apply Zone.rest; intro p hp; cases p <;> first | exact absurd (by decide) hp | exact rfl)
      | extract_lets
      | apply Touches.leaf (Eq.refl _)

theorem State.commonsWrite_touches (s : State) (k : Nat) (bs : List Byte) : Touches [.mem] s (State.commonsWrite s k bs) := by
  unfold State.commonsWrite
  with_reducible
    repeat' first
      | exact Touches.refl _ _
      | (apply Zone.rest; intro p hp; cases p <;> first | exact absurd (by decide) hp | exact rfl)
      | extract_lets
      | apply Touches.leaf (Eq.refl _)

theorem State.rowsTake_touches (s : State) (ch n : Nat) : TouchesP [.alloc] s (fun x => x.2) (State.rowsTake s ch n) := by
  unfold State.rowsTake
  with_reducible
    repeat' first
      | exact Touches.refl _ _
      | (apply Zone.rest; intro p hp; cases p <;> first | exact absurd (by decide) hp | exact rfl)
      | intro x
      | exact TouchesP.ofNone
      | apply TouchesP.map'
      | extract_lets
      | split
      | apply Touches.leaf (Eq.refl _)

theorem State.rowsFree_touches (s : State) (ch base : Nat) : Touches [.alloc] s (State.rowsFree s ch base) := by
  unfold State.rowsFree
  with_reducible
    repeat' first
      | exact Touches.refl _ _
      | (apply Zone.rest; intro p hp; cases p <;> first | exact absurd (by decide) hp | exact rfl)
      | extract_lets
      | apply Touches.leaf (Eq.refl _)

theorem State.ilvClean_touches (s : State) (x n : Nat) : Touches [.mem] s (State.ilvClean s x n) := by
  unfold State.ilvClean
  with_reducible
    repeat' first
      | exact Touches.refl _ _
      | (apply Zone.rest; intro p hp; cases p <;> first | exact absurd (by decide) hp | exact rfl)
      | extract_lets
      | apply Touches.leaf (Eq.refl _)

theorem State.areaTake_touches (s : State) (n : Nat) : TouchesP [.alloc] s (fun x => x.2) (State.areaTake s n) := by
  unfold State.areaTake
  with_reducible
    repeat' first
      | exact Touches.refl _ _
      | (apply Zone.rest; intro p hp; cases p <;> first | exact absurd (by decide) hp | exact rfl)
      | intro x
      | apply TouchesP.map'
      | extract_lets
      | apply Touches.leaf (Eq.refl _)

theorem State.areaFree_touches (s : State) (base : Nat) : Touches [.mem, .alloc] s (State.areaFree s base) := by
  unfold State.areaFree
  with_reducible
    repeat' first
      | exact Touches.refl _ _
      | (apply Zone.rest; intro p hp; cases p <;> first | exact absurd (by decide) hp | exact rfl)
      | extract_lets
      | apply Touches.leaf (Eq.refl _)

/-! ## Ops -/

theorem State.setCq_touches (s : State) (k : Nat) (c : Cq) : Touches [.host] s (State.setCq s k c) := by
  unfold State.setCq
  with_reducible
    repeat' first
      | exact Touches.refl _ _
      | (apply Zone.rest; intro p hp; cases p <;> first | exact absurd (by decide) hp | exact rfl)
      | extract_lets
      | apply Touches.leaf (Eq.refl _)

theorem State.setSq_touches (s : State) (k : Nat) (q : Sq) : Touches [.host] s (State.setSq s k q) := by
  unfold State.setSq
  with_reducible
    repeat' first
      | exact Touches.refl _ _
      | (apply Zone.rest; intro p hp; cases p <;> first | exact absurd (by decide) hp | exact rfl)
      | extract_lets
      | apply Touches.leaf (Eq.refl _)

theorem State.cqWrite_touches (s : State) (fn q : Nat) (c : Cq) (e : Cqe) : Touches [.regs, .host, .out] s (State.cqWrite s fn q c e) :=
    by
  unfold State.cqWrite
  with_reducible
    repeat' first
      | (apply Zone.within; decide)
      | exact Touches.refl _ _
      | apply Touches.op (State.setCq_touches _ _ _)
      | apply Touches.op (State.emit_touches _ _)
      | apply Touches.op (State.count_touches _ _ _)

theorem State.cqPost_touches (s : State) (fn q : Nat) (e : Cqe) : Touches [.regs, .host, .out] s (State.cqPost s fn q e) := by
  unfold State.cqPost
  with_reducible
    repeat' first
      | (apply Zone.within; decide)
      | exact Touches.refl _ _
      | apply Touches.op (State.cqWrite_touches _ _ _ _ _)
      | apply Touches.op (State.setCq_touches _ _ _)
      | split

theorem State.postEvent_touches (s : State) (code : Nat) (data : List Byte) : Touches [.regs, .host, .out] s (State.postEvent s code
    data) := by
  unfold State.postEvent
  with_reducible
    repeat' first
      | (apply Zone.within; decide)
      | exact Touches.refl _ _
      | (apply Zone.rest; intro p hp; cases p <;> first | exact absurd (by decide) hp | exact rfl)
      | apply Touches.op (State.cqWrite_touches _ _ _ _ _)
      | apply Touches.op (State.event_touches _ _ _)
      | apply Touches.op (State.count_touches _ _ _)
      | extract_lets
      | split
      | apply Touches.leaf (Eq.refl _)

theorem State.cqDrain_touches (s : State) (fn q n : Nat) : Touches [.regs, .host, .out] s (State.cqDrain s fn q n) := by
  induction n generalizing s fn q with
  | zero =>
  unfold State.cqDrain
  with_reducible
    repeat' first
      | exact Touches.refl _ _
  | succ m ih =>
  unfold State.cqDrain
  with_reducible
    repeat' first
      | (apply Zone.within; decide)
      | exact Touches.refl _ _
      | (apply Zone.rest; intro p hp; cases p <;> first | exact absurd (by decide) hp | exact rfl)
      | apply Touches.op (ih _ _ _)
      | apply Touches.op (State.cqWrite_touches _ _ _ _ _)
      | extract_lets
      | split
      | apply Touches.leaf (Eq.refl _)

theorem State.completeOne_touches (s : State) (h : HostHdr) (st : Status) (result : List Byte) (inline_ : List Byte) : Touches [.regs,
    .host, .out] s (State.completeOne s h st result inline_) := by
  unfold State.completeOne
  with_reducible
    repeat' first
      | (apply Zone.within; decide)
      | exact Touches.refl _ _
      | apply Touches.op (State.cqPost_touches _ _ _ _)
      | apply Touches.op (State.setSq_touches _ _ _)
      | apply Touches.op (State.emit_touches _ _)
      | extract_lets
      | split

theorem State.settleSq_touches (s : State) (w : HostHdr × HostWait) : Touches [.regs, .host, .out] s (State.settleSq s w) := by
  unfold State.settleSq
  with_reducible
    repeat' first
      | (apply Zone.within; decide)
      | exact Touches.refl _ _
      | (apply Zone.rest; intro p hp; cases p <;> first | exact absurd (by decide) hp | exact rfl)
      | apply Touches.op (State.completeOne_touches _ _ _ _ _)
      | extract_lets
      | split
      | apply Touches.leaf (Eq.refl _)

theorem State.complete_touches (s : State) (h : HostHdr) (st : Status) (result : List Byte) (inline_ : List Byte) : Touches [.regs,
    .host, .out] s (State.complete s h st result inline_) := by
  unfold State.complete
  with_reducible
    repeat' first
      | (apply Zone.within; decide)
      | exact Touches.refl _ _
      | intro x
      | apply Touches.op (State.settleSq_touches _ _)
      | apply Touches.op (State.completeOne_touches _ _ _ _ _)
      | apply Touches.foldl

theorem State.completeSt_touches (s : State) (h : HostHdr) (st : Status) : Touches [.regs, .host, .out] s (State.completeSt s h st) := by
  unfold State.completeSt
  with_reducible
    repeat' first
      | (apply Zone.within; decide)
      | exact Touches.refl _ _
      | apply Touches.op (State.complete_touches _ _ _ _ _)

theorem State.cper_touches (s : State) (r : Report) : Touches [.regs, .chk, .host, .out] s (State.cper s r) := by
  unfold State.cper
  with_reducible
    repeat' first
      | (apply Zone.within; decide)
      | exact Touches.refl _ _
      | (apply Zone.rest; intro p hp; cases p <;> first | exact absurd (by decide) hp | exact rfl)
      | apply Touches.op (State.postEvent_touches _ _ _)
      | apply Touches.op (State.event_touches _ _ _)
      | apply Touches.op (State.count_touches _ _ _)
      | extract_lets
      | split
      | apply Touches.leaf (Eq.refl _)

theorem State.raise_touches (s : State) (reg bit : Nat) (r : Report) : Touches [.regs, .chk, .host, .out] s (State.raise s reg bit r) :=
    by
  unfold State.raise
  with_reducible
    repeat' first
      | (apply Zone.within; decide)
      | exact Touches.refl _ _
      | apply Touches.op (State.cper_touches _ _)
      | apply Touches.op (State.event_touches _ _ _)

theorem State.replace_touches (s : State) (bit : Nat) : Touches [.regs, .chk, .host, .out] s (State.replace s bit) := by
  unfold State.replace
  with_reducible
    repeat' first
      | (apply Zone.within; decide)
      | exact Touches.refl _ _
      | apply Touches.op (State.raise_touches _ _ _ _)
      | apply Touches.op (State.emit_touches _ _)
      | apply Touches.op (State.setFld_touches _ _ _)
      | extract_lets
      | split

theorem State.retireRow_touches (s : State) (ch row : Nat) : Touches [.regs, .alloc, .chk, .host, .out] s (State.retireRow s ch row) := by
  unfold State.retireRow
  with_reducible
    repeat' first
      | (apply Zone.within; decide)
      | exact Touches.refl _ _
      | (apply Zone.rest; intro p hp; cases p <;> first | exact absurd (by decide) hp | exact rfl)
      | apply Touches.op (State.replace_touches _ _)
      | apply Touches.op (State.raise_touches _ _ _ _)
      | apply Touches.op (State.count_touches _ _ _)
      | extract_lets
      | split
      | apply Touches.leaf (Eq.refl _)

theorem State.charge_touches (s : State) (t : Nat) (c : QuotaRec) : Touches [.work] s (State.charge s t c) := by
  unfold State.charge
  with_reducible
    repeat' first
      | (apply Zone.within; decide)
      | exact Touches.refl _ _
      | apply Touches.op (State.modTenant_touches _ _ _)

theorem State.release_touches (s : State) (t : Nat) (c : QuotaRec) : Touches [.work] s (State.release s t c) := by
  unfold State.release
  with_reducible
    repeat' first
      | (apply Zone.within; decide)
      | exact Touches.refl _ _
      | apply Touches.op (State.modTenant_touches _ _ _)

theorem State.fetch_touches (s : State) (h : HostHdr) (hostOp : Bool) : TouchesP [.regs, .host] s (fun x => x) (State.fetch s h hostOp)
    := by
  unfold State.fetch
  with_reducible
    repeat' first
      | (apply Zone.within; decide)
      | exact Touches.refl _ _
      | exact TouchesP.ofNone
      | apply TouchesP.ofSome
      | apply Touches.op (State.setSq_touches _ _ _)
      | apply Touches.op (State.count_touches _ _ _)
      | extract_lets
      | split

theorem State.vfAdmit_touches (s : State) (h : HostHdr) : TouchesE [.work] s (fun x => x) (State.vfAdmit s h) := by
  unfold State.vfAdmit
  with_reducible
    repeat' first
      | (apply Zone.within; decide)
      | exact Touches.refl _ _
      | exact TouchesE.error _
      | apply TouchesE.ok
      | apply Touches.op (State.modTenant_touches _ _ _)
      | split

theorem State.countPoliced_touches (s : State) (t : Nat) : Touches [.regs, .work] s (State.countPoliced s t) := by
  unfold State.countPoliced
  with_reducible
    repeat' first
      | (apply Zone.within; decide)
      | exact Touches.refl _ _
      | apply Touches.op (State.modTenant_touches _ _ _)
      | apply Touches.op (State.count_touches _ _ _)

theorem State.hostRun_touches {T : List Zone} (s : State) (h : HostHdr) (f : State → Outcome) (hT : Zone.Within ([.regs, .work, .host,
    .out] : List Zone) T) (hf : ∀ (x0 : State), TouchesO T x0 (f x0)) : TouchesO T s (State.hostRun s h f) := by
  unfold State.hostRun
  with_reducible
    repeat' first
      | first | exact hT | exact Zone.Within.refl _ | exact Zone.Within.trans (Zone.within (by decide)) hT
      | exact Touches.refl _ _
      | apply TouchesO.next
      | apply Touches.op (State.countPoliced_touches _ _)
      | apply Touches.op (TouchesE.app (State.vfAdmit_touches _ _) (by assumption))
      | apply Touches.op (TouchesP.app (State.fetch_touches _ _ _) (by assumption))
      | apply Touches.op (State.completeSt_touches _ _ _)
      | apply TouchesO.op (hf _)
      | extract_lets
      | split

theorem State.hostCmd_touches {T : List Zone} (s : State) (h : HostHdr) (f : State → State) (hT : Zone.Within ([.regs, .work, .host,
    .out] : List Zone) T) (hf : ∀ (x0 : State), Touches T x0 (f x0)) : TouchesO T s (State.hostCmd s h f) := by
  unfold State.hostCmd
  with_reducible
    repeat' first
      | first | exact hT | exact Zone.Within.refl _ | exact Zone.Within.trans (Zone.within (by decide)) hT
      | exact Touches.refl _ _
      | intro x
      | apply TouchesO.next
      | apply State.hostRun_touches
      | apply Touches.op (hf _)

theorem State.hostErrCmd_touches (s : State) (h : HostHdr) (rule : Nat) : Touches [.regs, .host, .out, .free] s (State.hostErrCmd s h
    rule) := by
  unfold State.hostErrCmd
  with_reducible
    repeat' first
      | (apply Zone.within; decide)
      | exact Touches.refl _ _
      | apply Touches.op (State.completeSt_touches _ _ _)
      | apply Touches.op (State.hostErr_touches _ _)
      | extract_lets
      | split

theorem State.wellFormed_touches {T : List Zone} {z : State} (s : State) (h : HostHdr) (rule : Nat) (c : Bool) {f : Outcome}
    (hT : Zone.Within [.regs, .host, .out, .free] T) (hz : Touches T z s) (hf : TouchesO T z f) : TouchesO T z (s.wellFormed h rule c f) := by
  unfold State.wellFormed
  split
  · exact hf
  · exact TouchesO.next (Touches.op (State.hostErrCmd_touches _ _ _) hT hz)

theorem State.answerWith_touches (s : State) (h : HostHdr) (bs : List Byte) : TouchesO [.regs, .host, .out, .free] s (State.answerWith s
    h bs) := by
  unfold State.answerWith
  with_reducible
    repeat' first
      | (apply Zone.within; decide)
      | exact Touches.refl _ _
      | apply TouchesO.next
      | apply State.wellFormed_touches
      | apply Touches.op (State.complete_touches _ _ _ _ _)

theorem State.need_touches {T : List Zone} {α : Type} (s : State) (h : HostHdr) (o : Option α) (f : α → Outcome) (hT : Zone.Within
    ([.regs, .host, .out] : List Zone) T) (hf : ∀ (x0 : α), TouchesO T s (f x0)) : TouchesO T s (State.need s h o f) := by
  unfold State.need
  with_reducible
    repeat' first
      | first | exact hT | exact Zone.Within.refl _ | exact Zone.Within.trans (Zone.within (by decide)) hT
      | exact Touches.refl _ _
      | apply TouchesO.next
      | apply Touches.op (State.completeSt_touches _ _ _)
      | apply TouchesO.op (hf _)
      | split

/-! ## FabOps -/

theorem State.setPort_touches (s : State) (p : Nat) (x : Port) : Touches [.fab] s (State.setPort s p x) := by
  unfold State.setPort
  with_reducible
    repeat' first
      | exact Touches.refl _ _
      | (apply Zone.rest; intro p hp; cases p <;> first | exact absurd (by decide) hp | exact rfl)
      | extract_lets
      | apply Touches.leaf (Eq.refl _)

theorem State.setConn_touches (s : State) (c : Nat) (x : Conn) : Touches [.fab] s (State.setConn s c x) := by
  unfold State.setConn
  with_reducible
    repeat' first
      | exact Touches.refl _ _
      | (apply Zone.rest; intro p hp; cases p <;> first | exact absurd (by decide) hp | exact rfl)
      | extract_lets
      | apply Touches.leaf (Eq.refl _)

theorem State.modConn_touches (s : State) (c : Nat) (f : Conn → Conn) : Touches [.fab] s (State.modConn s c f) := by
  unfold State.modConn
  with_reducible
    repeat' first
      | exact Touches.refl _ _
      | (apply Zone.rest; intro p hp; cases p <;> first | exact absurd (by decide) hp | exact rfl)
      | extract_lets
      | apply Touches.leaf (Eq.refl _)

theorem State.enqueue_touches (s : State) (p : Nat) (e : Egress) : Touches [.fab] s (State.enqueue s p e) := by
  unfold State.enqueue
  with_reducible
    repeat' first
      | (apply Zone.within; decide)
      | exact Touches.refl _ _
      | apply Touches.op (State.setPort_touches _ _ _)

theorem State.sendMsg_touches (s : State) (r : ConnRec) (m : Msg) : Touches [.fab] s (State.sendMsg s r m) := by
  unfold State.sendMsg
  with_reducible
    repeat' first
      | (apply Zone.within; decide)
      | exact Touches.refl _ _
      | (apply Zone.rest; intro p hp; cases p <;> first | exact absurd (by decide) hp | exact rfl)
      | intro x
      | apply Touches.op (State.enqueue_touches _ _ _)
      | apply Touches.each
      | extract_lets
      | split
      | apply Touches.leaf (Eq.refl _)

theorem State.answer_touches (s : State) (m : Msg) (mtype : Nat) (st : Status) (flags : Nat) (payload : List Byte) : Touches [.fab] s
    (State.answer s m mtype st flags payload) := by
  unfold State.answer
  with_reducible
    repeat' first
      | (apply Zone.within; decide)
      | exact Touches.refl _ _
      | apply Touches.op (State.sendMsg_touches _ _ _)
      | extract_lets
      | split

theorem State.nak_touches (s : State) (m : Msg) (st : Status) : Touches [.regs, .fab] s (State.nak s m st) := by
  unfold State.nak
  with_reducible
    repeat' first
      | (apply Zone.within; decide)
      | exact Touches.refl _ _
      | apply Touches.op (State.answer_touches _ _ _ _ _ _)
      | apply Touches.op (State.count_touches _ _ _)
      | extract_lets
      | split

theorem State.nakNoConn_touches (s : State) (m : Msg) (sip : Nat) : Touches [.fab] s (State.nakNoConn s m sip) := by
  unfold State.nakNoConn
  with_reducible
    repeat' first
      | (apply Zone.within; decide)
      | exact Touches.refl _ _
      | (apply Zone.rest; intro p hp; cases p <;> first | exact absurd (by decide) hp | exact rfl)
      | apply Touches.op (State.enqueue_touches _ _ _)
      | extract_lets
      | split
      | apply Touches.leaf (Eq.refl _)

theorem State.requestBulk_touches (s : State) (conn mtype tag epoch : Nat) (f : Msg → Msg) (payload bulk : List Byte) : Touches [.fab] s
    (State.requestBulk s conn mtype tag epoch f payload bulk) := by
  unfold State.requestBulk
  with_reducible
    repeat' first
      | (apply Zone.within; decide)
      | exact Touches.refl _ _
      | apply Touches.op (State.sendMsg_touches _ _ _)
      | apply Touches.op (State.setConn_touches _ _ _)
      | extract_lets
      | split

theorem State.request_touches (s : State) (conn mtype tag epoch : Nat) (f : Msg → Msg) (payload : List Byte) : Touches [.fab] s
    (State.request s conn mtype tag epoch f payload) := by
  unfold State.request
  with_reducible
    repeat' first
      | (apply Zone.within; decide)
      | exact Touches.refl _ _
      | apply Touches.op (State.requestBulk_touches _ _ _ _ _ _ _ _)

theorem State.keepReplay_touches (s : State) (r : Replay) (next : Nat) : Touches [.fab] s (State.keepReplay s r next) := by
  unfold State.keepReplay
  with_reducible
    repeat' first
      | exact Touches.refl _ _
      | (apply Zone.rest; intro p hp; cases p <;> first | exact absurd (by decide) hp | exact rfl)
      | extract_lets
      | apply Touches.leaf (Eq.refl _)

theorem State.connEvent_touches (s : State) (c : Conn) (code : Nat) (data : List Byte) : Touches [.regs, .host, .out] s (State.connEvent
    s c code data) := by
  unfold State.connEvent
  with_reducible
    repeat' first
      | (apply Zone.within; decide)
      | exact Touches.refl _ _
      | apply Touches.op (State.cqPost_touches _ _ _ _)

theorem State.connClosed_touches (s : State) (conn : Nat) (st : Status) : Touches [.regs, .fab, .host, .out] s (State.connClosed s conn
    st) := by
  unfold State.connClosed
  with_reducible
    repeat' first
      | (apply Zone.within; decide)
      | exact Touches.refl _ _
      | apply Touches.op (State.connEvent_touches _ _ _ _)
      | apply Touches.op (State.setConn_touches _ _ _)
      | split

theorem State.drainConn_touches (s : State) (conn : Nat) : Touches [.regs, .fab, .host, .out] s (State.drainConn s conn) := by
  unfold State.drainConn
  with_reducible
    repeat' first
      | (apply Zone.within; decide)
      | exact Touches.refl _ _
      | apply Touches.op (State.connClosed_touches _ _ _)
      | apply Touches.op (State.request_touches _ _ _ _ _ _ _)
      | apply Touches.op (State.answer_touches _ _ _ _ _ _)
      | apply Touches.op (State.setConn_touches _ _ _)
      | split

theorem State.freeStaging_touches (s : State) (conn seq : Nat) : Touches [.fab] s (State.freeStaging s conn seq) := by
  unfold State.freeStaging
  with_reducible
    repeat' first
      | exact Touches.refl _ _
      | (apply Zone.rest; intro p hp; cases p <;> first | exact absurd (by decide) hp | exact rfl)
      | extract_lets
      | apply Touches.leaf (Eq.refl _)

theorem State.inflDone_touches (s : State) (conn seq : Nat) : Touches [.regs, .fab, .host, .out] s (State.inflDone s conn seq) := by
  unfold State.inflDone
  with_reducible
    repeat' first
      | (apply Zone.within; decide)
      | exact Touches.refl _ _
      | apply Touches.op (State.drainConn_touches _ _)
      | apply Touches.op (State.modConn_touches _ _ _)

theorem State.doneMsg_touches (s : State) (m : Msg) : Touches [.regs, .fab, .host, .out] s (State.doneMsg s m) := by
  unfold State.doneMsg
  with_reducible
    repeat' first
      | (apply Zone.within; decide)
      | exact Touches.refl _ _
      | apply Touches.op (State.inflDone_touches _ _ _)
      | apply Touches.op (State.keepReplay_touches _ _ _)
      | split

theorem State.replyTo_touches (s : State) (m : Msg) (st : Status) (body : List Byte) : Touches [.regs, .fab, .host, .out] s
    (State.replyTo s m st body) := by
  unfold State.replyTo
  with_reducible
    repeat' first
      | (apply Zone.within; decide)
      | exact Touches.refl _ _
      | apply Touches.op (State.inflDone_touches _ _ _)
      | apply Touches.op (State.freeStaging_touches _ _ _)
      | apply Touches.op (State.keepReplay_touches _ _ _)
      | apply Touches.op (State.answer_touches _ _ _ _ _ _)
      | apply Touches.op (State.setConn_touches _ _ _)
      | split

theorem State.cvmisAdd_touches (s : State) (n : Nat) : Touches [.regs] s (State.cvmisAdd s n) := by
  unfold State.cvmisAdd
  with_reducible
    repeat' first
      | (apply Zone.within; decide)
      | exact Touches.refl _ _
      | apply Touches.op (State.event_touches _ _ _)
      | apply Touches.op (State.count_touches _ _ _)
      | split

/-! ## CoreOps -/

theorem State.setCore_touches (s : State) (c : Nat) (x : Core) : Touches [.comp] s (State.setCore s c x) := by
  unfold State.setCore
  with_reducible
    repeat' first
      | exact Touches.refl _ _
      | (apply Zone.rest; intro p hp; cases p <;> first | exact absurd (by decide) hp | exact rfl)
      | extract_lets
      | apply Touches.leaf (Eq.refl _)

/-! ## NbuOps -/

theorem State.setCur_touches (s : State) (ch : Nat) (c : Currant) : Touches [.nbu] s (State.setCur s ch c) := by
  unfold State.setCur
  with_reducible
    repeat' first
      | exact Touches.refl _ _
      | (apply Zone.rest; intro p hp; cases p <;> first | exact absurd (by decide) hp | exact rfl)
      | apply Touches.leaf (Eq.refl _)

theorem State.slotSet_touches (s : State) (ch slot off n v : Nat) : Touches [.regs] s (State.slotSet s ch slot off n v) := by
  unfold State.slotSet
  with_reducible
    repeat' first
      | (apply Zone.within; decide)
      | exact Touches.refl _ _
      | apply Touches.op (State.setWord_touches _ _ _)

theorem State.countRowOps_touches (s : State) (ch n : Nat) : Touches [.regs, .nbu] s (State.countRowOps s ch n) := by
  unfold State.countRowOps
  with_reducible
    repeat' first
      | (apply Zone.within; decide)
      | exact Touches.refl _ _
      | apply Touches.op (State.setCur_touches _ _ _)
      | apply Touches.op (State.count_touches _ _ _)

theorem State.eccNote_touches (s : State) (ch row : Nat) (e : Ecc) : Touches [.regs, .alloc, .nbu, .chk, .host, .out] s (State.eccNote s
    ch row e) := by
  unfold State.eccNote
  with_reducible
    repeat' first
      | (apply Zone.within; decide)
      | exact Touches.refl _ _
      | (apply Zone.rest; intro p hp; cases p <;> first | exact absurd (by decide) hp | exact rfl)
      | apply Touches.op (State.setCur_touches _ _ _)
      | apply Touches.op (State.raise_touches _ _ _ _)
      | apply Touches.op (State.count_touches _ _ _)
      | extract_lets
      | split
      | apply Touches.leaf (Eq.refl _)

theorem State.rowWrite_touches (s : State) (ch row : Nat) (bs : List Byte) (pois : List Bool) : Touches [.mem, .out, .free] s
    (State.rowWrite s ch row bs pois) := by
  unfold State.rowWrite
  with_reducible
    repeat' first
      | (apply Zone.within; decide)
      | exact Touches.refl _ _
      | apply Touches.op (State.hbmPoisonLines_touches _ _)
      | apply Touches.op (State.chWrite_touches _ _ _ _)
      | apply Touches.op (State.hostErr_touches _ _)
      | split

theorem State.slotDone_touches (s : State) (ch slot : Nat) (st : Status) : Touches [.regs, .out] s (State.slotDone s ch slot st) := by
  unfold State.slotDone
  with_reducible
    repeat' first
      | (apply Zone.within; decide)
      | exact Touches.refl _ _
      | apply Touches.op (State.slotSet_touches _ _ _ _ _ _)
      | apply Touches.op (State.emit_touches _ _)
      | extract_lets
      | split

theorem State.slotEnd_touches (s : State) (ch : Nat) (st : Status) : Touches [.regs, .work, .nbu, .out] s (State.slotEnd s ch st) := by
  unfold State.slotEnd
  with_reducible
    repeat' first
      | (apply Zone.within; decide)
      | exact Touches.refl _ _
      | (apply Zone.rest; intro p hp; cases p <;> first | exact absurd (by decide) hp | exact rfl)
      | apply Touches.op (State.slotDone_touches _ _ _ _)
      | apply Touches.op (State.setCur_touches _ _ _)
      | extract_lets
      | split
      | apply Touches.leaf (Eq.refl _)

theorem State.slotSkip_touches (s : State) (ch slot : Nat) (st : Status) : Touches [.regs, .nbu, .out] s (State.slotSkip s ch slot st)
    := by
  unfold State.slotSkip
  with_reducible
    repeat' first
      | (apply Zone.within; decide)
      | exact Touches.refl _ _
      | apply Touches.op (State.slotDone_touches _ _ _ _)
      | apply Touches.op (State.setCur_touches _ _ _)

theorem State.nbuAbort_touches (s : State) (ch lease : Nat) : Touches [.regs, .work, .nbu, .out] s (State.nbuAbort s ch lease) := by
  unfold State.nbuAbort
  with_reducible
    repeat' first
      | (apply Zone.within; decide)
      | exact Touches.refl _ _
      | intro x
      | apply Touches.op (State.slotSkip_touches _ _ _ _)
      | apply Touches.op (State.slotEnd_touches _ _ _)
      | apply Touches.op (State.setCur_touches _ _ _)
      | apply Touches.each
      | extract_lets
      | split

theorem State.nbuGoOn_touches (s : State) (ch mask : Nat) : Touches [.regs, .nbu, .out, .free] s (State.nbuGoOn s ch mask) := by
  unfold State.nbuGoOn
  with_reducible
    repeat' first
      | (apply Zone.within; decide)
      | exact Touches.refl _ _
      | intro x
      | apply Touches.op (State.slotSkip_touches _ _ _ _)
      | apply Touches.op (State.slotSet_touches _ _ _ _ _ _)
      | apply Touches.op (State.setCur_touches _ _ _)
      | apply Touches.each
      | apply Touches.op (State.hostErr_touches _ _)
      | apply Touches.op (State.event_touches _ _ _)
      | extract_lets
      | split
      | dsimp +zetaDelta only

/-! ## LeaseOps -/

theorem State.setLease_touches (s : State) (l : Nat) (x : Lease) : Touches [.work] s (State.setLease s l x) := by
  unfold State.setLease
  with_reducible
    repeat' first
      | exact Touches.refl _ _
      | (apply Zone.rest; intro p hp; cases p <;> first | exact absurd (by decide) hp | exact rfl)
      | extract_lets
      | apply Touches.leaf (Eq.refl _)

theorem State.modLease_touches (s : State) (l : Nat) (f : Lease → Lease) : Touches [.work] s (State.modLease s l f) := by
  unfold State.modLease
  with_reducible
    repeat' first
      | exact Touches.refl _ _
      | (apply Zone.rest; intro p hp; cases p <;> first | exact absurd (by decide) hp | exact rfl)
      | extract_lets
      | apply Touches.leaf (Eq.refl _)

theorem State.modStep_touches (s : State) (l : Nat) (f : Step → Step) : Touches [.work] s (State.modStep s l f) := by
  unfold State.modStep
  with_reducible
    repeat' first
      | (apply Zone.within; decide)
      | exact Touches.refl _ _
      | apply Touches.op (State.modLease_touches _ _ _)

theorem State.modReq_touches (s : State) (id : Nat) (f : Req → Req) : Touches [.work] s (State.modReq s id f) := by
  unfold State.modReq
  with_reducible
    repeat' first
      | exact Touches.refl _ _
      | (apply Zone.rest; intro p hp; cases p <;> first | exact absurd (by decide) hp | exact rfl)
      | extract_lets
      | apply Touches.leaf (Eq.refl _)

theorem State.ilvClear_touches (s : State) (sp : Span) : Touches [.mem] s (State.ilvClear s sp) := by
  unfold State.ilvClear
  with_reducible
    repeat' first
      | exact Touches.refl _ _
      | (apply Zone.rest; intro p hp; cases p <;> first | exact absurd (by decide) hp | exact rfl)
      | extract_lets
      | apply Touches.leaf (Eq.refl _)

theorem State.clearStore_touches (s : State) (c : Nat) : Touches [.mem] s (State.clearStore s c) := by
  unfold State.clearStore
  with_reducible
    repeat' first
      | exact Touches.refl _ _
      | (apply Zone.rest; intro p hp; cases p <;> first | exact absurd (by decide) hp | exact rfl)
      | extract_lets
      | apply Touches.leaf (Eq.refl _)

theorem State.clearCommons_touches (s : State) (sp : Span) : Touches [.mem] s (State.clearCommons s sp) := by
  unfold State.clearCommons
  with_reducible
    repeat' first
      | exact Touches.refl _ _
      | (apply Zone.rest; intro p hp; cases p <;> first | exact absurd (by decide) hp | exact rfl)
      | extract_lets
      | apply Touches.leaf (Eq.refl _)

theorem State.loadUprog_touches (s : State) (h : PlanHdr) (base : Nat) (resident : Bool) : Touches [.regs] s (State.loadUprog s h base
    resident) := by
  unfold State.loadUprog
  with_reducible
    repeat' first
      | (apply Zone.within; decide)
      | exact Touches.refl _ _
      | intro x
      | apply Touches.each
      | apply Touches.op (State.setReg64_touches _ _ _)

theorem State.loadResident_touches (s : State) (h : PlanHdr) (cores : List Nat) (resident : Bool) : Touches [.mem] s (State.loadResident
    s h cores resident) := by
  unfold State.loadResident
  with_reducible
    repeat' first
      | (apply Zone.within; decide)
      | exact Touches.refl _ _
      | intro x
      | apply Touches.op (State.storeFill_touches _ _ _ _ _)
      | apply Touches.op (State.storeWrite_touches _ _ _ _)
      | apply Touches.each
      | extract_lets
      | split

theorem State.kvRows_touches (s : State) (n : Nat) (chs : List Nat) : TouchesP [.alloc] s (fun x => x.2) (State.kvRows s n chs) := by
  induction chs generalizing s n with
  | nil =>
  unfold State.kvRows
  with_reducible
    repeat' first
      | exact Touches.refl _ _
      | apply TouchesP.ofSome
  | cons x r ih =>
  unfold State.kvRows
  with_reducible
    repeat' first
      | (apply Zone.within; decide)
      | exact Touches.refl _ _
      | intro x
      | exact TouchesP.ofNone
      | apply TouchesP.map'
      | apply Touches.op (TouchesP.app (ih _ _) (by assumption))
      | apply Touches.op (TouchesP.app2 (State.rowsTake_touches _ _ _) (by assumption))
      | extract_lets
      | split
      | dsimp +zetaDelta only

theorem State.kvPin_touches (s : State) (bytes : Nat) : TouchesP [.alloc] s (fun x => x.2) (State.kvPin s bytes) := by
  unfold State.kvPin
  intro x hx
  obtain ⟨k, _, hk⟩ := List.mem_filterMap.mp (List.mem_of_mem_head? (Option.mem_def.mpr hx))
  exact State.kvRows_touches _ _ _ _ hk

theorem State.leaseHbm_touches (s : State) (h : PlanHdr) (resident : Bool) : TouchesP [.alloc] s (fun x => x.2.2) (State.leaseHbm s h
    resident) := by
  unfold State.leaseHbm
  with_reducible
    repeat' first
      | (apply Zone.within; decide)
      | exact Touches.refl _ _
      | intro x
      | apply TouchesP.ofSome
      | apply TouchesP.map'
      | apply Touches.op (TouchesP.app2 (State.kvPin_touches _ _) (by assumption))
      | apply Touches.op (TouchesP.app2 (State.areaTake_touches _ _) (by assumption))
      | split

theorem State.kvFree_touches (s : State) (kv : List (Nat × Span)) : Touches [.mem, .alloc] s (State.kvFree s kv) := by
  unfold State.kvFree
  with_reducible
    repeat' first
      | (apply Zone.within; decide)
      | exact Touches.refl _ _
      | (apply Zone.rest; intro p hp; cases p <;> first | exact absurd (by decide) hp | exact rfl)
      | intro x
      | apply Touches.op (State.rowsFree_touches _ _ _)
      | apply Touches.foldl
      | extract_lets
      | apply Touches.leaf (Eq.refl _)

theorem State.ballastYield_touches (s : State) (cs : List Nat) : Touches [.regs, .comp] s (State.ballastYield s cs) := by
  unfold State.ballastYield
  with_reducible
    repeat' first
      | (apply Zone.within; decide)
      | exact Touches.refl _ _
      | intro x
      | apply Touches.op (State.setCore_touches _ _ _)
      | apply Touches.each
      | apply Touches.op (State.setFld_touches _ _ _)
      | extract_lets
      | split

theorem State.tryAdmit_touches (s : State) (l : Nat) : TouchesP [.regs, .mem, .alloc, .work, .comp] s (fun x => x) (State.tryAdmit s l)
    := by
  unfold State.tryAdmit
  with_reducible
    repeat' first
      | (apply Zone.within; decide)
      | exact Touches.refl _ _
      | intro x
      | exact TouchesP.ofNone
      | apply TouchesP.ofSome
      | apply Touches.op (State.ballastYield_touches _ _)
      | apply Touches.op (TouchesP.app3 (State.leaseHbm_touches _ _ _) (by assumption))
      | apply Touches.op (State.loadResident_touches _ _ _ _)
      | apply Touches.op (State.loadUprog_touches _ _ _ _)
      | apply Touches.op (State.setLease_touches _ _ _)
      | apply Touches.op (State.setCore_touches _ _ _)
      | apply Touches.op (State.charge_touches _ _ _)
      | apply Touches.each
      | apply Touches.op (State.setFld_touches _ _ _)
      | extract_lets
      | split

theorem State.openLease_touches (s : State) (plan : Nat) : TouchesE [.work] s (fun x => x.2) (State.openLease s plan) := by
  unfold State.openLease
  with_reducible
    repeat' first
      | exact Touches.refl _ _
      | (apply Zone.rest; intro p hp; cases p <;> first | exact absurd (by decide) hp | exact rfl)
      | exact TouchesE.error _
      | apply TouchesE.ok
      | extract_lets
      | split
      | apply Touches.leaf (Eq.refl _)

theorem State.queueOn_touches (s : State) (l id : Nat) : Touches [.work] s (State.queueOn s l id) := by
  unfold State.queueOn
  with_reducible
    repeat' first
      | (apply Zone.within; decide)
      | exact Touches.refl _ _
      | apply Touches.op (State.modReq_touches _ _ _)
      | apply Touches.op (State.modLease_touches _ _ _)

theorem State.leaseFor_touches (s : State) (plan : Nat) : TouchesE [.work] s (fun x => x.2) (State.leaseFor s plan) := by
  unfold State.leaseFor
  with_reducible
    repeat' first
      | (apply Zone.within; decide)
      | exact Touches.refl _ _
      | exact TouchesE.error _
      | apply TouchesE.ok
      | apply TouchesE.op (State.openLease_touches _ _)
      | extract_lets
      | split

theorem State.answerReq_touches (s : State) (src : ReqSrc) (st : Status) (body : List Byte) : Touches [.regs, .fab, .host, .out] s
    (State.answerReq s src st body) := by
  unfold State.answerReq
  with_reducible
    repeat' first
      | (apply Zone.within; decide)
      | exact Touches.refl _ _
      | apply Touches.op (State.replyTo_touches _ _ _ _)
      | apply Touches.op (State.complete_touches _ _ _ _ _)
      | split

theorem State.finishReq_touches (s : State) (r : Req) (st : Status) (body : List Byte) : Touches [.regs, .work, .fab, .host, .out] s
    (State.finishReq s r st body) := by
  unfold State.finishReq
  with_reducible
    repeat' first
      | (apply Zone.within; decide)
      | exact Touches.refl _ _
      | (apply Zone.rest; intro p hp; cases p <;> first | exact absurd (by decide) hp | exact rfl)
      | apply Touches.op (State.answerReq_touches _ _ _ _)
      | apply Touches.op (State.release_touches _ _ _)
      | extract_lets
      | apply Touches.leaf (Eq.refl _)

theorem State.setPart_touches (s : State) (req pos : Nat) (f : Part → Part) : Touches [.cas] s (State.setPart s req pos f) := by
  unfold State.setPart
  with_reducible
    repeat' first
      | exact Touches.refl _ _
      | (apply Zone.rest; intro p hp; cases p <;> first | exact absurd (by decide) hp | exact rfl)
      | extract_lets
      | apply Touches.leaf (Eq.refl _)

theorem State.deliver_touches (s : State) (r : Req) (st : Status) (rec_ : Option SearchRec) (out : List Byte) : Touches [.regs, .work,
    .fab, .cas, .host, .out] s (State.deliver s r st rec_ out) := by
  unfold State.deliver
  with_reducible
    repeat' first
      | (apply Zone.within; decide)
      | exact Touches.refl _ _
      | (apply Zone.rest; intro p hp; cases p <;> first | exact absurd (by decide) hp | exact rfl)
      | apply Touches.op (State.setPart_touches _ _ _ _)
      | apply Touches.op (State.finishReq_touches _ _ _ _)
      | extract_lets
      | split
      | apply Touches.leaf (Eq.refl _)

theorem State.failReq_touches (s : State) (id : Nat) (st : Status) (tag : Nat) : Touches [.regs, .work, .fab, .cas, .host, .out] s
    (State.failReq s id st tag) := by
  unfold State.failReq
  with_reducible
    repeat' first
      | (apply Zone.within; decide)
      | exact Touches.refl _ _
      | apply Touches.op (State.deliver_touches _ _ _ _ _)
      | split

theorem State.setHold_touches (s : State) (cores : List Nat) (v : Nat) : Touches [.regs] s (State.setHold s cores v) := by
  unfold State.setHold
  with_reducible
    repeat' first
      | (apply Zone.within; decide)
      | exact Touches.refl _ _
      | intro x
      | apply Touches.each
      | apply Touches.op (State.setFld_touches _ _ _)

theorem State.holdLease_touches (s : State) (l : Nat) : Touches [.regs, .work] s (State.holdLease s l) := by
  unfold State.holdLease
  with_reducible
    repeat' first
      | (apply Zone.within; decide)
      | exact Touches.refl _ _
      | apply Touches.op (State.setHold_touches _ _ _)
      | apply Touches.op (State.modStep_touches _ _ _)
      | apply Touches.op (State.modLease_touches _ _ _)
      | extract_lets
      | split

theorem State.freezeLease_touches (s : State) (l : Nat) (rdvs : List Nat) (hold : Bool) : Touches [.regs, .work] s (State.freezeLease s
    l rdvs hold) := by
  unfold State.freezeLease
  with_reducible
    repeat' first
      | (apply Zone.within; decide)
      | exact Touches.refl _ _
      | intro x
      | apply Touches.op (State.setHold_touches _ _ _)
      | apply Touches.op (State.modStep_touches _ _ _)
      | apply Touches.op (State.modLease_touches _ _ _)
      | apply Touches.each
      | apply Touches.op (State.setFld_touches _ _ _)
      | extract_lets
      | split

theorem State.thawLease_touches (s : State) (l : Nat) : Touches [.regs, .work] s (State.thawLease s l) := by
  unfold State.thawLease
  with_reducible
    repeat' first
      | (apply Zone.within; decide)
      | exact Touches.refl _ _
      | intro x
      | apply Touches.op (State.setHold_touches _ _ _)
      | apply Touches.op (State.modLease_touches _ _ _)
      | apply Touches.each
      | apply Touches.op (State.setFld_touches _ _ _)
      | split

theorem State.unhold_touches (s : State) (l : Nat) : Touches [.regs, .work, .nrg] s (State.unhold s l) := by
  unfold State.unhold
  with_reducible
    repeat' first
      | (apply Zone.within; decide)
      | exact Touches.refl _ _
      | (apply Zone.rest; intro p hp; cases p <;> first | exact absurd (by decide) hp | exact rfl)
      | apply Touches.op (State.setHold_touches _ _ _)
      | apply Touches.op (State.modLease_touches _ _ _)
      | extract_lets
      | apply Touches.leaf (Eq.refl _)

theorem State.closeNow_touches (s : State) (l : Nat) : Touches [.regs, .mem, .alloc, .work, .comp, .flash, .fab, .cas, .nrg, .host,
    .out] s (State.closeNow s l) := by
  unfold State.closeNow
  with_reducible
    repeat' first
      | (apply Zone.within; decide)
      | exact Touches.refl _ _
      | (apply Zone.rest; intro p hp; cases p <;> first | exact absurd (by decide) hp | exact rfl)
      | intro x
      | apply Touches.op (State.unhold_touches _ _)
      | apply Touches.op (State.failReq_touches _ _ _ _)
      | apply Touches.op (State.kvFree_touches _ _)
      | apply Touches.op (State.clearCommons_touches _ _)
      | apply Touches.op (State.clearStore_touches _ _)
      | apply Touches.op (State.ilvClear_touches _ _)
      | apply Touches.op (State.setCore_touches _ _ _)
      | apply Touches.op (State.release_touches _ _ _)
      | apply Touches.op (State.completeSt_touches _ _ _)
      | apply Touches.op (State.areaFree_touches _ _)
      | apply Touches.each
      | apply Touches.op (State.setFld_touches _ _ _)
      | apply Touches.elim
      | extract_lets
      | split
      | apply Touches.leaf (Eq.refl _)

theorem State.closeLease_touches (s : State) (l : Nat) (req : Option HostHdr) : Touches [.regs, .mem, .alloc, .work, .comp, .flash,
    .fab, .cas, .nrg, .host, .out] s (State.closeLease s l req) := by
  unfold State.closeLease
  with_reducible
    repeat' first
      | (apply Zone.within; decide)
      | exact Touches.refl _ _
      | intro x
      | apply Touches.op (State.closeNow_touches _ _)
      | apply Touches.op (State.failReq_touches _ _ _ _)
      | apply Touches.op (State.modLease_touches _ _ _)
      | apply Touches.each
      | extract_lets
      | split

theorem State.closeIfDone_touches (s : State) (l : Nat) : Touches [.regs, .mem, .alloc, .work, .comp, .flash, .fab, .cas, .nrg, .host,
    .out] s (State.closeIfDone s l) := by
  unfold State.closeIfDone
  with_reducible
    repeat' first
      | (apply Zone.within; decide)
      | exact Touches.refl _ _
      | apply Touches.op (State.closeNow_touches _ _)
      | split

theorem State.progress_touches (s : State) (owner commit replay lost stall : Nat) : Touches [.regs, .work] s (State.progress s owner
    commit replay lost stall) := by
  unfold State.progress
  with_reducible
    repeat' first
      | (apply Zone.within; decide)
      | exact Touches.refl _ _
      | apply Touches.op (State.modTenant_touches _ _ _)
      | apply Touches.op (State.count_touches _ _ _)

theorem State.measOf_touches (s : State) (l : Nat) (m : StepMeas) : Touches [.free] s (State.measOf s l m).2 := by
  unfold State.measOf
  repeat' split
  all_goals with_reducible
    repeat' first
      | exact Touches.refl _ _
      | (apply Zone.rest; intro p hp; cases p <;> first | exact absurd (by decide) hp | exact rfl)
      | extract_lets
      | apply Touches.leaf (Eq.refl _)

theorem State.recordStep_touches (s : State) (l : Nat) (st : Status) (m : Meas) (tordv : Nat) : Touches [.regs, .work] s
    (State.recordStep s l st m tordv) := by
  unfold State.recordStep
  with_reducible
    repeat' first
      | (apply Zone.within; decide)
      | exact Touches.refl _ _
      | (apply Zone.rest; intro p hp; cases p <;> first | exact absurd (by decide) hp | exact rfl)
      | apply Touches.op (State.modLease_touches _ _ _)
      | apply Touches.op (State.modTenant_touches _ _ _)
      | apply Touches.op (State.count_touches _ _ _)
      | extract_lets
      | split
      | apply Touches.leaf (Eq.refl _)

theorem State.coreCycles_touches (s : State) (cores : List Nat) (m : Meas) : Touches [.regs] s (State.coreCycles s cores m) := by
  unfold State.coreCycles
  with_reducible
    repeat' first
      | (apply Zone.within; decide)
      | exact Touches.refl _ _
      | intro x
      | apply Touches.each
      | apply Touches.op (State.count_touches _ _ _)

theorem State.dropReads_touches (s : State) (cores : List Nat) : Touches [.work] s (State.dropReads s cores) := by
  unfold State.dropReads
  with_reducible
    repeat' first
      | exact Touches.refl _ _
      | (apply Zone.rest; intro p hp; cases p <;> first | exact absurd (by decide) hp | exact rfl)
      | extract_lets
      | apply Touches.leaf (Eq.refl _)

theorem State.haltCores_touches (s : State) (cores : List Nat) : Touches [.regs, .work, .comp] s (State.haltCores s cores) := by
  unfold State.haltCores
  with_reducible
    repeat' first
      | (apply Zone.within; decide)
      | exact Touches.refl _ _
      | intro x
      | apply Touches.op (State.dropReads_touches _ _)
      | apply Touches.op (State.setCore_touches _ _ _)
      | apply Touches.each
      | apply Touches.op (State.setFld_touches _ _ _)

theorem State.sloeAbort_touches (s : State) (l : Nat) : Touches [.flash, .out] s (State.sloeAbort s l) := by
  unfold State.sloeAbort
  with_reducible
    repeat' first
      | (apply Zone.within; decide)
      | exact Touches.refl _ _
      | (apply Zone.rest; intro p hp; cases p <;> first | exact absurd (by decide) hp | exact rfl)
      | intro x
      | apply Touches.each
      | apply Touches.op (State.emit_touches _ _)
      | extract_lets
      | apply Touches.leaf (Eq.refl _)

theorem State.endStep_touches (s : State) (l : Nat) (st : Status) (tordv : Nat) (m : Meas) (acc : Bool) : Touches [.regs, .mem, .alloc,
    .work, .nbu, .comp, .flash, .fab, .cas, .chk, .nrg, .host, .out] s (State.endStep s l st tordv m acc) := by
  unfold State.endStep
  with_reducible
    repeat' first
      | (apply Zone.within; decide)
      | exact Touches.refl _ _
      | intro x
      | apply Touches.op (State.sloeAbort_touches _ _)
      | apply Touches.op (State.haltCores_touches _ _)
      | apply Touches.op (State.coreCycles_touches _ _ _)
      | apply Touches.op (State.recordStep_touches _ _ _ _ _)
      | apply Touches.op (State.progress_touches _ _ _ _ _ _)
      | apply Touches.op (State.closeIfDone_touches _ _)
      | apply Touches.op (State.unhold_touches _ _)
      | apply Touches.op (State.failReq_touches _ _ _ _)
      | apply Touches.op (State.modLease_touches _ _ _)
      | apply Touches.op (State.nbuAbort_touches _ _ _)
      | apply Touches.op (State.raise_touches _ _ _ _)
      | apply Touches.op (State.cper_touches _ _)
      | apply Touches.each
      | apply Touches.op (State.count_touches _ _ _)
      | extract_lets
      | split

theorem State.drawMeas_touches (s : State) (l : Nat) : Touches [.free] s (State.drawMeas s l).2 := by
  unfold State.drawMeas
  repeat' split
  all_goals with_reducible
    repeat' first
      | exact Touches.refl _ _
      | (apply Zone.rest; intro p hp; cases p <;> first | exact absurd (by decide) hp | exact rfl)
      | extract_lets
      | apply Touches.leaf (Eq.refl _)

theorem State.sendVerdict_touches (s : State) (tag : Nat) (keep : Bool) : Touches [.regs, .fab, .cas, .chk, .host, .out] s
    (State.sendVerdict s tag keep) := by
  unfold State.sendVerdict
  with_reducible
    repeat' first
      | (apply Zone.within; decide)
      | exact Touches.refl _ _
      | (apply Zone.rest; intro p hp; cases p <;> first | exact absurd (by decide) hp | exact rfl)
      | apply Touches.op (State.request_touches _ _ _ _ _ _ _)
      | apply Touches.op (State.raise_touches _ _ _ _)
      | apply Touches.op (State.count_touches _ _ _)
      | extract_lets
      | split
      | apply Touches.leaf (Eq.refl _)

theorem State.swapRm_touches (s : State) (l tag : Nat) : Touches [.comp] s (State.swapRm s l tag) := by
  unfold State.swapRm
  with_reducible
    repeat' first
      | (apply Zone.within; decide)
      | exact Touches.refl _ _
      | intro x
      | apply Touches.op (State.setCore_touches _ _ _)
      | apply Touches.each
      | split

theorem State.dropReqs_touches (s : State) (f : Req → Bool) : Touches [.work] s (State.dropReqs s f) := by
  unfold State.dropReqs
  with_reducible
    repeat' first
      | (apply Zone.within; decide)
      | exact Touches.refl _ _
      | (apply Zone.rest; intro p hp; cases p <;> first | exact absurd (by decide) hp | exact rfl)
      | intro x
      | apply Touches.op (State.release_touches _ _ _)
      | apply Touches.foldl
      | extract_lets
      | apply Touches.leaf (Eq.refl _)

theorem State.retractStep_touches (s : State) (l : Nat) : Touches [.regs, .work, .comp, .fab, .cas, .chk, .host, .out] s
    (State.retractStep s l) := by
  unfold State.retractStep
  with_reducible
    repeat' first
      | (apply Zone.within; decide)
      | exact Touches.refl _ _
      | (apply Zone.rest; intro p hp; cases p <;> first | exact absurd (by decide) hp | exact rfl)
      | apply Touches.op (State.dropReqs_touches _ _)
      | apply Touches.op (State.swapRm_touches _ _ _)
      | apply Touches.op (State.sendVerdict_touches _ _ _)
      | apply Touches.op (State.request_touches _ _ _ _ _ _ _)
      | extract_lets
      | split
      | apply Touches.leaf (Eq.refl _)

theorem State.abortStep_touches (s : State) (l : Nat) (st : Status) (tordv : Nat) (m : Meas) : Touches [.regs, .mem, .alloc, .work,
    .nbu, .comp, .flash, .fab, .cas, .chk, .nrg, .host, .out] s (State.abortStep s l st tordv m) := by
  unfold State.abortStep
  with_reducible
    repeat' first
      | (apply Zone.within; decide)
      | exact Touches.refl _ _
      | apply Touches.op (State.retractStep_touches _ _)
      | apply Touches.op (State.endStep_touches _ _ _ _ _ _)

theorem State.abortFree_touches (s : State) (l : Nat) (st : Status) : Touches [.regs, .mem, .alloc, .work, .nbu, .comp, .flash, .fab,
    .cas, .chk, .nrg, .host, .out, .free] s (State.abortFree s l st) := by
  unfold State.abortFree
  with_reducible
    repeat' first
      | (apply Zone.within; decide)
      | exact Touches.refl _ _
      | apply Touches.op (State.abortStep_touches _ _ _ _ _)
      | apply Touches.op (State.drawMeas_touches _ _)

theorem State.abortMeas_touches (s : State) (l : Nat) (st : Status) (tordv : Nat) (m : StepMeas) : Touches [.regs, .mem, .alloc, .work,
    .nbu, .comp, .flash, .fab, .cas, .chk, .nrg, .host, .out, .free] s (State.abortMeas s l st tordv m) := by
  unfold State.abortMeas
  with_reducible
    repeat' first
      | (apply Zone.within; decide)
      | exact Touches.refl _ _
      | apply Touches.op (State.abortStep_touches _ _ _ _ _)
      | apply Touches.op (State.measOf_touches _ _ _)

/-! ## Tier -/

theorem State.checkMake_touches (s : State) (g laddr : Nat) : Touches [.mem] s (State.checkMake s g laddr) := by
  unfold State.checkMake
  with_reducible
    repeat' first
      | exact Touches.refl _ _
      | (apply Zone.rest; intro p hp; cases p <;> first | exact absurd (by decide) hp | exact rfl)
      | extract_lets
      | apply Touches.leaf (Eq.refl _)

theorem State.checkMakeCom_touches (s : State) (g laddr : Nat) : Touches [.mem] s (State.checkMakeCom s g laddr) := by
  unfold State.checkMakeCom
  with_reducible
    repeat' first
      | exact Touches.refl _ _
      | (apply Zone.rest; intro p hp; cases p <;> first | exact absurd (by decide) hp | exact rfl)
      | extract_lets
      | apply Touches.leaf (Eq.refl _)

theorem State.recheck_touches (s : State) (x n : Nat) : Touches [.mem] s (State.recheck s x n) := by
  unfold State.recheck
  with_reducible
    repeat' first
      | (apply Zone.within; decide)
      | exact Touches.refl _ _
      | intro x
      | apply Touches.op (State.checkMake_touches _ _ _)
      | apply Touches.each
      | extract_lets
      | split

theorem State.recheckCom_touches (s : State) (k n : Nat) : Touches [.mem] s (State.recheckCom s k n) := by
  unfold State.recheckCom
  with_reducible
    repeat' first
      | (apply Zone.within; decide)
      | exact Touches.refl _ _
      | intro x
      | apply Touches.op (State.checkMakeCom_touches _ _ _)
      | apply Touches.each
      | extract_lets
      | split

theorem State.ilvStore_touches (s : State) (x : Nat) (bs : List Byte) (pois : List Bool) : Touches [.mem] s (State.ilvStore s x bs pois)
    := by
  unfold State.ilvStore
  with_reducible
    repeat' first
      | (apply Zone.within; decide)
      | exact Touches.refl _ _
      | apply Touches.op (State.recheck_touches _ _ _)
      | apply Touches.op (State.hbmPoisonLines_touches _ _)
      | apply Touches.op (State.ilvWrite_touches _ _ _)

theorem State.tier_touches (s : State) (i k : Nat) : Touches [.tables] s (State.tier s i k) := by
  unfold State.tier
  with_reducible
    repeat' first
      | exact Touches.refl _ _
      | (apply Zone.rest; intro p hp; cases p <;> first | exact absurd (by decide) hp | exact rfl)
      | extract_lets
      | apply Touches.leaf (Eq.refl _)

theorem State.copiesPut_touches (s : State) (d : TableDesc) (b : Nat) (x : Staged) : Touches [.mem] s (State.copiesPut s d b x) := by
  unfold State.copiesPut
  with_reducible
    repeat' first
      | (apply Zone.within; decide)
      | exact Touches.refl _ _
      | intro x
      | apply Touches.op (State.ilvStore_touches _ _ _ _)
      | apply Touches.each

theorem State.rowPut_touches (s : State) (d : TableDesc) (st : Staged) : Touches [.mem, .work] s (State.rowPut s d st) := by
  unfold State.rowPut
  with_reducible
    repeat' first
      | (apply Zone.within; decide)
      | exact Touches.refl _ _
      | (apply Zone.rest; intro p hp; cases p <;> first | exact absurd (by decide) hp | exact rfl)
      | apply Touches.op (State.copiesPut_touches _ _ _ _)
      | apply Touches.op (State.ilvStore_touches _ _ _ _)
      | extract_lets
      | split
      | apply Touches.leaf (Eq.refl _)

end Sys2Proof.Machine
end

