-- ==== Sys2Proof/Laws/Events.lean ====
section
/-! SUPPORT. What reporting an event does to registers: the event bit is set, and only the event registers, the record count and the
completion count change. Reading a register of a state that differs outside registers and fuses reads the same. -/

namespace Sys2Proof.Machine

/-! ## Registers of an updated state -/

section Mk
variable {x0 : List Instr} {x1 : Hw} {x2 : Power} {x3 : Boot} {x4 : Tbl W32} {x5 : Tbl W32} {x6 : Mem} {x7 : Alloc} {x8 : Idx} {x9 : Work}
  {x10 : Tbl Currant} {x11 : Compute} {x12 : Tables} {x13 : Flash} {x14 : Fab} {x15 : Cas} {x16 : Chk} {x17 : Energy} {x18 : HostPort}
  {x19 : Mgmt} {x20 : Nat} {x21 : List Out} {x22 : Nat} (s : State) (h : x1 = s.hw)
include h

@[simp] theorem State.word_mk (a : Nat) : State.word ⟨x0, x1, x2, x3, s.regs, x5, x6, x7, x8, x9, x10, x11, x12, x13, x14, x15, x16, x17, x18,
    x19, x20, x21, x22⟩ a = s.word a := by subst h; rfl
@[simp] theorem State.reg64_mk (a : Nat) : State.reg64 ⟨x0, x1, x2, x3, s.regs, x5, x6, x7, x8, x9, x10, x11, x12, x13, x14, x15, x16, x17, x18,
    x19, x20, x21, x22⟩ a = s.reg64 a := by subst h; rfl
@[simp] theorem State.fld_mk (f : FieldAt) : State.fld ⟨x0, x1, x2, x3, s.regs, x5, x6, x7, x8, x9, x10, x11, x12, x13, x14, x15, x16, x17, x18,
    x19, x20, x21, x22⟩ f = s.fld f := by subst h; rfl
@[simp] theorem State.flag_mk (f : FieldAt) : State.flag ⟨x0, x1, x2, x3, s.regs, x5, x6, x7, x8, x9, x10, x11, x12, x13, x14, x15, x16, x17, x18,
    x19, x20, x21, x22⟩ f = s.flag f := by subst h; rfl
@[simp] theorem State.evtBit_mk (a b : Nat) : State.evtBit ⟨x0, x1, x2, x3, s.regs, x5, x6, x7, x8, x9, x10, x11, x12, x13, x14, x15, x16, x17,
    x18, x19, x20, x21, x22⟩ a b = s.evtBit a b := by subst h; rfl

end Mk

/-! ## What a report leaves of the registers -/

/-- The words that writing a completion entry may change. -/
abbrev cplWord (a : Nat) : Prop := a = kHstCpls ∨ a = kHstCpls + 4

theorem State.cqWrite_word (s : State) (fn q : Nat) (c : Cq) (e : Cqe) (a : Nat) (h : ¬ cplWord a) : (s.cqWrite fn q c e).word a = s.word a := by
  simp only [cplWord, not_or] at h
  exact State.word_count_ne _ _ _ _ h.1 h.2

theorem State.cqPost_word (s : State) (fn q : Nat) (e : Cqe) (a : Nat) (h : ¬ cplWord a) : (s.cqPost fn q e).word a = s.word a := by
  unfold State.cqPost
  split
  · rfl
  · split
    · rfl
    · exact State.cqWrite_word _ _ _ _ _ _ h

theorem State.completeOne_word (s : State) (h : HostHdr) (st : Status) (bs inl : List Byte) (a : Nat) (ha : ¬ cplWord a) :
    (s.completeOne h st bs inl).word a = s.word a := by
  unfold State.completeOne
  split
  · rfl
  · extract_lets head t u
    rw [State.cqPost_word _ _ _ _ _ ha]
    simp only [u]; split <;> rfl

theorem State.settleSq_word (s : State) (w : HostHdr × HostWait) (a : Nat) (ha : ¬ cplWord a) : (s.settleSq w).word a = s.word a := by
  unfold State.settleSq
  split
  · split
    · rfl
    · split
      · exact State.completeOne_word _ _ _ _ _ _ ha
      · rfl
  · rfl

/-- Completing a command changes no register but the count of completions. -/
theorem State.complete_word (s : State) (h : HostHdr) (st : Status) (bs inl : List Byte) (a : Nat) (ha : ¬ cplWord a) :
    (s.complete h st bs inl).word a = s.word a := by
  unfold State.complete
  have fold : ∀ (l : List (HostHdr × HostWait)) (v : State), (l.foldl State.settleSq v).word a = v.word a := by
    intro l
    induction l with
    | nil => exact fun _ => rfl
    | cons w r ih => exact fun v => (ih _).trans (State.settleSq_word v w a ha)
  exact (fold _ _).trans (State.completeOne_word _ _ _ _ _ _ ha)

theorem State.completeSt_word (s : State) (h : HostHdr) (st : Status) (a : Nat) (ha : ¬ cplWord a) : (s.completeSt h st).word a = s.word a :=
  State.complete_word _ _ _ _ _ _ ha

theorem State.completeSt_fld (s : State) (h : HostHdr) (st : Status) (f : FieldAt) (ha : f.addr + 8 ≤ kHstCpls ∨ kHstCpls + 8 ≤ f.addr) :
    (s.completeSt h st).fld f = s.fld f :=
  State.fld_of_words _ _ _ (State.completeSt_word _ _ _ _ (by simp only [cplWord]; omega)) (State.completeSt_word _ _ _ _ (by simp only [cplWord]; omega))

/-- An event entry changes registers of the host port only. -/
theorem State.postEvent_word (s : State) (code : Nat) (d : List Byte) (a : Nat) (h : a / 0x10000 ≠ 1) :
    (s.postEvent code d).word a = s.word a := by
  have h1 : ¬ cplWord a := by simp only [cplWord, kHstCpls]; omega
  have h2 : ((s.event eHst 3).count kHstEvtdrops 1).word a = s.word a := by
    rw [State.word_count_ne _ _ _ _ (by simp only [kHstEvtdrops]; omega) (by simp only [kHstEvtdrops]; omega), State.word_event_ne _ _ _ _ (by
      simp only [eHst]; omega)]
  unfold State.postEvent
  split
  · extract_lets e
    split
    · exact State.cqWrite_word _ _ _ _ _ _ h1
    · split
      · rfl
      · exact h2
  · extract_lets e
    split
    · rfl
    · exact h2

/-- A report changes registers of the host port and of the checker only. -/
theorem State.cper_word (s : State) (r : Report) (a : Nat) (h : a / 0x10000 ≠ 1) (g : a / 0x10000 ≠ 3) : (s.cper r).word a = s.word a := by
  unfold State.cper
  split
  · rfl
  · extract_lets c t
    have ht : t.word a = s.word a := by
      simp only [t]
      split
      · exact State.word_event_ne _ _ _ _ (by simp only [eChk]; omega)
      · rfl
    rw [State.postEvent_word _ _ _ _ h, State.word_count_ne _ _ _ _ (by simp only [kChkCpers]; omega) (by simp only [kChkCpers]; omega)]
    exact ht

theorem State.cper_fld (s : State) (r : Report) (f : FieldAt) (h : f.addr / 0x10000 ≠ 1) (g : f.addr / 0x10000 ≠ 3)
    (k : f.addr % 0x10000 + 4 < 0x10000) : (s.cper r).fld f = s.fld f :=
  State.fld_of_words _ _ _ (State.cper_word _ _ _ h g) (State.cper_word _ _ _ (by omega) (by omega))

/-- Raising an event sets its bit in a register outside the host port and the checker. -/
theorem State.raise_evtBit (s : State) (a b : Nat) (r : Report) (hb : b < 24) (h : a / 0x10000 ≠ 1) (g : a / 0x10000 ≠ 3) :
    (s.raise a b r).evtBit a b = true := by
  have e : (s.raise a b r).word a = (s.event a b).word a := State.cper_word _ _ _ h g
  unfold State.evtBit
  rw [e]
  exact State.evtBit_event_same s a b hb

theorem State.raise_fld (s : State) (a b : Nat) (r : Report) (f : FieldAt) (h : f.addr / 0x10000 ≠ 1) (g : f.addr / 0x10000 ≠ 3)
    (k : f.addr % 0x10000 + 4 < 0x10000) (h1 : f.addr ≠ a) (h2 : f.addr + 4 ≠ a) : (s.raise a b r).fld f = s.fld f :=
  (State.cper_fld _ _ _ h g k).trans (State.fld_event_ne _ _ _ _ h1 h2)

/-- A word outside the register that a field lies in keeps its event bits. -/
theorem State.evtBit_congr (s t : State) (a b : Nat) (h : t.word a = s.word a) : t.evtBit a b = s.evtBit a b := by
  unfold State.evtBit; rw [h]

theorem State.evtBit_setFld (s : State) (f : FieldAt) (v a b : Nat) (h1 : a ≠ f.addr) (h2 : a ≠ f.addr + 4) :
    (s.setFld f v).evtBit a b = s.evtBit a b := State.evtBit_congr _ _ _ _ (State.word_setFld_ne _ _ _ _ h1 h2)

theorem State.evtBit_count (s : State) (k n a b : Nat) (h1 : a ≠ k) (h2 : a ≠ k + 4) :
    (s.count k n).evtBit a b = s.evtBit a b := State.evtBit_congr _ _ _ _ (State.word_count_ne _ _ _ _ h1 h2)

end Sys2Proof.Machine
end

