-- ==== Sys2Proof/Laws/Mem.lean ====
section
/-! SUPPORT. The laws of the memories: a read after a write, poison after a write (R455), and the canonical form that every memory
operation keeps. -/

namespace Sys2Proof.Machine

/-! ## Bytes -/

theorem get_wrBytes_out (bs : List Byte) : ∀ (t : Tbl Byte) (k a : Nat), a < k ∨ k + bs.length ≤ a →
    Tbl.get 0 (wrBytes t k bs) a = Tbl.get 0 t a := by
  induction bs with
  | nil => intro t k a _; rfl
  | cons b r ih =>
    intro t k a h
    simp only [List.length_cons] at h
    rw [wrBytes, ih _ _ _ (by omega), Tbl.get_put_ne _ _ _ _ _ _ (by omega)]

theorem get_wrBytes_in (bs : List Byte) : ∀ (t : Tbl Byte) (k i : Nat) (h : i < bs.length),
    Tbl.get 0 (wrBytes t k bs) (k + i) = bs[i] := by
  induction bs with
  | nil => intro t k i h; simp at h
  | cons b r ih =>
    intro t k i h
    rw [wrBytes]
    cases i with
    | zero => rw [get_wrBytes_out _ _ _ _ (by omega)]; simp
    | succ j =>
      have hj : j < r.length := by simpa using h
      have := ih (Tbl.put 0 t k b) (k + 1) j hj
      rw [show k + (j + 1) = k + 1 + j by omega, this]
      simp

/-- A read of what was written gives it back. -/
theorem rdBytes_wrBytes (t : Tbl Byte) (k : Nat) (bs : List Byte) : rdBytes (wrBytes t k bs) k bs.length = bs := by
  apply List.ext_getElem
  · simp [rdBytes]
  · intro i h1 h2
    simp only [rdBytes, List.getElem_map, List.getElem_range]
    exact get_wrBytes_in bs t k i h2

/-- A read that meets none of the bytes written reads as before. -/
theorem rdBytes_wrBytes_apart (t : Tbl Byte) (k j n : Nat) (bs : List Byte) (h : j + n ≤ k ∨ k + bs.length ≤ j) :
    rdBytes (wrBytes t k bs) j n = rdBytes t j n := by
  apply List.map_congr_left
  intro i hi
  have := List.mem_range.mp hi
  exact get_wrBytes_out bs t k (j + i) (by omega)

/-! ## Poison -/

theorem get_poisFold (f : Nat → Bool) (v : Bool) (ls : List Nat) : ∀ (p : Tbl Bool) (l : Nat),
    Tbl.get false (ls.foldl (fun q x => if f x then Tbl.put false q x v else q) p) l
      = if l ∈ ls ∧ f l = true then v else Tbl.get false p l := by
  induction ls with
  | nil => intro p l; simp
  | cons x r ih =>
    intro p l
    rw [List.foldl_cons, ih]
    by_cases hm : l ∈ r ∧ f l = true
    · simp [hm]
    · rw [if_neg hm]
      by_cases hx : l = x
      · subst hx
        by_cases hf : f l = true <;> simp [hf]
      · have hc : ¬ (l ∈ x :: r ∧ f l = true) := by
          rw [List.mem_cons]
          tauto
        rw [if_neg hc]
        by_cases hf : f x = true
        · rw [if_pos hf]
          exact Tbl.get_put_ne _ _ _ _ _ _ hx
        · rw [if_neg hf]

/-- A write of clean bytes clears the poison of the lines it replaces whole and of no other (R455). -/
theorem get_poisClean (p : Tbl Bool) (k n l : Nat) :
    Tbl.get false (poisClean p k n) l = if l ∈ linesOf k n ∧ coversLine k n l = true then false else Tbl.get false p l :=
  get_poisFold _ _ _ _ _

theorem get_poisSet (p : Tbl Bool) (ls : List Nat) (l : Nat) :
    Tbl.get false (poisSet p ls) l = if l ∈ ls then true else Tbl.get false p l := by
  have h := get_poisFold (fun _ => true) true ls p l
  simpa [poisSet] using h

/-- The lines a byte range touches. -/
theorem mem_linesOf (k n l : Nat) : l ∈ linesOf k n ↔ 0 < n ∧ k / 64 ≤ l ∧ l ≤ (k + n - 1) / 64 := by
  unfold linesOf
  split
  · simp; omega
  · simp only [List.mem_map, List.mem_range]
    constructor
    · rintro ⟨a, h1, h2⟩; omega
    · rintro ⟨h0, h1, h2⟩; exact ⟨l - k / 64, by omega, by omega⟩

/-! ## The canonical form -/

theorem wrBytes_wf (bs : List Byte) : ∀ (t : Tbl Byte) (k : Nat), Tbl.wf 0 t = true → Tbl.wf 0 (wrBytes t k bs) = true := by
  induction bs with
  | nil => intro t k h; exact h
  | cons b r ih => intro t k h; exact ih _ _ (Tbl.wf_put _ _ _ _ h)

theorem ilvWr_wf (f : Nat → Nat) (bs : List Byte) : ∀ (t : Tbl Byte) (x : Nat), Tbl.wf 0 t = true → Tbl.wf 0 (ilvWr f t x bs) = true := by
  induction bs with
  | nil => intro t x h; exact h
  | cons b r ih => intro t x h; exact ih _ _ (Tbl.wf_put _ _ _ _ h)

theorem poisClean_wf (p : Tbl Bool) (k n : Nat) (h : Tbl.wf false p = true) : Tbl.wf false (poisClean p k n) = true :=
  Tbl.wf_foldl _ _ (fun t x ht => by
    show Tbl.wf false (if coversLine k n x then Tbl.put false t x false else t) = true
    split
    · exact Tbl.wf_put _ _ _ _ ht
    · exact ht) _ _ h

theorem poisSet_wf (p : Tbl Bool) (ls : List Nat) (h : Tbl.wf false p = true) : Tbl.wf false (poisSet p ls) = true :=
  Tbl.wf_foldl _ _ (fun _ _ ht => Tbl.wf_put _ _ _ _ ht) _ _ h

theorem poisIlv_wf (g : Nat → Nat) (c : Nat → Bool) (ls : List Nat) (p : Tbl Bool) (h : Tbl.wf false p = true) :
    Tbl.wf false (ls.foldl (fun q l => if c l then Tbl.put false q (g l) false else q) p) = true :=
  Tbl.wf_foldl _ _ (fun t x ht => by
    show Tbl.wf false (if c x then Tbl.put false t (g x) false else t) = true
    split
    · exact Tbl.wf_put _ _ _ _ ht
    · exact ht) _ _ h

theorem fillBits_wf (v : Bool) (ls : List Nat) (p : Tbl Bool) (h : Tbl.wf false p = true) :
    Tbl.wf false (ls.foldl (fun q l => Tbl.put false q l v) p) = true :=
  Tbl.wf_foldl _ _ (fun _ _ ht => Tbl.wf_put _ _ _ _ ht) _ _ h

theorem Mem.wf_iff (m : Mem) : Mem.wf m = true ↔
    Tbl.wf 0 m.hbm = true ∧ Tbl.wf false m.hbmPoison = true ∧ Tbl.wf 0 m.store = true ∧ Tbl.wf false m.storePoison = true
      ∧ Tbl.wf false m.storeFilled = true ∧ Tbl.wf 0 m.commons = true ∧ Tbl.wf false m.commonsPoison = true := by
  simp only [Mem.wf, Bool.and_eq_true]
  tauto

theorem State.chWrite_wf (s : State) (ch off : Nat) (bs : List Byte) (h : Mem.wf s.mem = true) :
    Mem.wf (s.chWrite ch off bs).mem = true := by
  obtain ⟨h1, h2, h3⟩ := (Mem.wf_iff _).mp h
  exact (Mem.wf_iff _).mpr ⟨wrBytes_wf _ _ _ h1, poisClean_wf _ _ _ h2, h3⟩

theorem State.ilvWrite_wf (s : State) (x : Nat) (bs : List Byte) (h : Mem.wf s.mem = true) :
    Mem.wf (s.ilvWrite x bs).mem = true := by
  obtain ⟨h1, h2, h3⟩ := (Mem.wf_iff _).mp h
  exact (Mem.wf_iff _).mpr ⟨ilvWr_wf _ _ _ _ h1, poisIlv_wf _ _ _ _ h2, h3⟩

theorem State.hbmPoisonLines_wf (s : State) (ls : List Nat) (h : Mem.wf s.mem = true) :
    Mem.wf (s.hbmPoisonLines ls).mem = true := by
  obtain ⟨h1, h2, h3⟩ := (Mem.wf_iff _).mp h
  exact (Mem.wf_iff _).mpr ⟨h1, poisSet_wf _ _ h2, h3⟩

theorem State.storeWrite_wf (s : State) (core off : Nat) (bs : List Byte) (h : Mem.wf s.mem = true) :
    Mem.wf (s.storeWrite core off bs).mem = true := by
  obtain ⟨h1, h2, h3, h4, h5⟩ := (Mem.wf_iff _).mp h
  exact (Mem.wf_iff _).mpr ⟨h1, h2, wrBytes_wf _ _ _ h3, poisClean_wf _ _ _ h4, h5⟩

theorem State.storePoisonLines_wf (s : State) (ls : List Nat) (h : Mem.wf s.mem = true) :
    Mem.wf (s.storePoisonLines ls).mem = true := by
  obtain ⟨h1, h2, h3, h4, h5⟩ := (Mem.wf_iff _).mp h
  exact (Mem.wf_iff _).mpr ⟨h1, h2, h3, poisSet_wf _ _ h4, h5⟩

theorem State.storeFill_wf (s : State) (core off n : Nat) (b : Bool) (h : Mem.wf s.mem = true) :
    Mem.wf (s.storeFill core off n b).mem = true := by
  obtain ⟨h1, h2, h3, h4, h5, h6⟩ := (Mem.wf_iff _).mp h
  exact (Mem.wf_iff _).mpr ⟨h1, h2, h3, h4, fillBits_wf _ _ _ h5, h6⟩

theorem State.commonsWrite_wf (s : State) (k : Nat) (bs : List Byte) (h : Mem.wf s.mem = true) :
    Mem.wf (s.commonsWrite k bs).mem = true := by
  obtain ⟨h1, h2, h3, h4, h5, h6, h7⟩ := (Mem.wf_iff _).mp h
  exact (Mem.wf_iff _).mpr ⟨h1, h2, h3, h4, h5, wrBytes_wf _ _ _ h6, poisClean_wf _ _ _ h7⟩

theorem Mem.wf_reset : Mem.wf State.reset.mem = true := rfl

end Sys2Proof.Machine
end

