-- ==== Sys2Proof/Laws/Keep.lean ====
section
/-! SUPPORT. What every operation keeps: the memories stay in their canonical form, what the node has driven stays driven, the fuses
change only upwards, and the counter of free values does not go back. Each operation has one lemma, which the lemmas of the
operations above it cite. -/

namespace Sys2Proof.Machine

theorem Keeps.refl (s : State) : Keeps s s := ⟨fun h => h, List.suffix_rfl, ⟨rfl, rfl, rfl, rfl⟩, Nat.le_refl _, Nat.le_refl _⟩

theorem Keeps.trans {s t u : State} (h : Keeps s t) (g : Keeps t u) : Keeps s u :=
  ⟨fun x => g.mem (h.mem x), h.out.trans g.out,
   ⟨g.made.1.trans h.made.1, g.made.2.1.trans h.made.2.1, g.made.2.2.1.trans h.made.2.2.1, g.made.2.2.2.trans h.made.2.2.2⟩,
   Nat.le_trans h.arb g.arb, Nat.le_trans h.free g.free⟩

theorem Keeps.op {s t u : State} (g : Keeps t u) (h : Keeps s t) : Keeps s u := h.trans g

/-- Does a list of parts leave out those that `Keeps` speaks of? -/
abbrev Zone.Clear (T : List Zone) : Prop := T.all (fun p => !(([.mem, .out, .hw, .free] : List Zone).contains p)) = true

theorem Zone.clear {T : List Zone} (h : T.all (fun p => !(([.mem, .out, .hw, .free] : List Zone).contains p)) = true) : Zone.Clear T := h

/-- An operation that touches none of them. -/
theorem Keeps.past {T : List Zone} {s t u : State} (g : Touches T t u) (hT : Zone.Clear T) (h : Keeps s t) : Keeps s u := by
  have no : ∀ p, p ∈ ([.mem, .out, .hw, .free] : List Zone) → p ∉ T := by
    intro p hp hm
    have := List.all_eq_true.mp hT p hm
    simp [hp] at this
  have h1 : u.mem = t.mem := g .mem (no _ (by decide))
  have h2 : u.out = t.out := g .out (no _ (by decide))
  have h3 : u.hw = t.hw := g .hw (no _ (by decide))
  have h4 : u.free = t.free := g .free (no _ (by decide))
  exact ⟨h1 ▸ h.mem, h2 ▸ h.out, h3 ▸ h.made, h3 ▸ h.arb, h4 ▸ h.free⟩

/-- A record update that sets none of them. -/
theorem Keeps.leaf {s t : State}
    {x0 : List Instr} {x1 : Hw} {x2 : Power} {x3 : Boot} {x4 : Tbl W32} {x5 : Tbl W32} {x6 : Mem} {x7 : Alloc} {x8 :
    Idx} {x9 : Work} {x10 : Tbl Currant} {x11 : Compute} {x12 : Tables} {x13 : Flash} {x14 : Fab} {x15 : Cas} {x16 :
    Chk} {x17 : Energy} {x18 : HostPort} {x19 : Mgmt} {x20 : Nat} {x21 : List Out} {x22 : Nat}
    (_ : x0 = t.pending) (h1 : x1 = t.hw) (h2 : x6 = t.mem) (h3 : x21 = t.out) (h4 : x22 = t.free) (h : Keeps s t) :
    Keeps s ⟨x0, x1, x2, x3, x4, x5, x6, x7, x8, x9, x10, x11, x12, x13, x14, x15, x16, x17, x18, x19, x20, x21, x22⟩ :=
  ⟨h2 ▸ h.mem, h3 ▸ h.out, h1 ▸ h.made, h1 ▸ h.arb, h4 ▸ h.free⟩

/-- A record update that draws free values: the counter goes on from where the operation began. -/
theorem Keeps.leafFree {s t : State} {n : Nat}
    {x0 : List Instr} {x1 : Hw} {x2 : Power} {x3 : Boot} {x4 : Tbl W32} {x5 : Tbl W32} {x6 : Mem} {x7 : Alloc} {x8 :
    Idx} {x9 : Work} {x10 : Tbl Currant} {x11 : Compute} {x12 : Tables} {x13 : Flash} {x14 : Fab} {x15 : Cas} {x16 :
    Chk} {x17 : Energy} {x18 : HostPort} {x19 : Mgmt} {x20 : Nat} {x21 : List Out}
    (_ : x0 = t.pending) (h1 : x1 = t.hw) (h2 : x6 = t.mem) (h3 : x21 = t.out) (h : Keeps s t) :
    Keeps s ⟨x0, x1, x2, x3, x4, x5, x6, x7, x8, x9, x10, x11, x12, x13, x14, x15, x16, x17, x18, x19, x20, x21, s.free + n⟩ :=
  ⟨h2 ▸ h.mem, h3 ▸ h.out, h1 ▸ h.made, h1 ▸ h.arb, Nat.le_add_right _ _⟩

/-- A record update of the memories that keeps their form. -/
theorem Keeps.leafMem {s t : State}
    {x0 : List Instr} {x1 : Hw} {x2 : Power} {x3 : Boot} {x4 : Tbl W32} {x5 : Tbl W32} {x6 : Mem} {x7 : Alloc} {x8 :
    Idx} {x9 : Work} {x10 : Tbl Currant} {x11 : Compute} {x12 : Tables} {x13 : Flash} {x14 : Fab} {x15 : Cas} {x16 :
    Chk} {x17 : Energy} {x18 : HostPort} {x19 : Mgmt} {x20 : Nat} {x21 : List Out} {x22 : Nat}
    (_ : x0 = t.pending) (h1 : x1 = t.hw) (h3 : x21 = t.out) (h4 : x22 = t.free) (hm : Mem.wf t.mem = true → Mem.wf x6 = true)
    (h : Keeps s t) : Keeps s ⟨x0, x1, x2, x3, x4, x5, x6, x7, x8, x9, x10, x11, x12, x13, x14, x15, x16, x17, x18, x19, x20, x21, x22⟩ :=
  ⟨fun x => hm (h.mem x), h3 ▸ h.out, h1 ▸ h.made, h1 ▸ h.arb, h4 ▸ h.free⟩

theorem Keeps.foldl {α : Type} {s t : State} (l : List α) (f : State → α → State) (hf : ∀ u x, Keeps u (f u x)) (h : Keeps s t) :
    Keeps s (l.foldl f t) := by
  induction l generalizing t with
  | nil => exact h
  | cons x r ih => exact ih (h.trans (hf t x))

theorem Keeps.each {α : Type} {s t : State} (l : List α) (f : α → State → State) (hf : ∀ x u, Keeps u (f x u)) (h : Keeps s t) :
    Keeps s (t.each l f) := Keeps.foldl l _ (fun u x => hf x u) h

theorem Keeps.foldl1 {α β : Type} {s : State} {z : State × β} (l : List α) (f : State × β → α → State × β)
    (hf : ∀ z x, Keeps z.1 (f z x).1) (h : Keeps s z.1) : Keeps s (l.foldl f z).1 := by
  induction l generalizing z with
  | nil => exact h
  | cons x r ih => exact ih (h.trans (hf z x))

theorem Keeps.of_fst {α : Type} {s t : State} {p : State × α} {x : α} (h : Keeps s p.1) (e : p = (t, x)) : Keeps s t := by
  subst e; exact h

theorem Keeps.of_snd {α : Type} {s t : State} {p : α × State} {x : α} (h : Keeps s p.2) (e : p = (x, t)) : Keeps s t := by
  subst e; exact h

theorem Keeps.elim {α : Type} {s b : State} {o : Option α} {f : α → State} (hb : Keeps s b) (hf : ∀ x, Keeps s (f x)) :
    Keeps s (o.elim b f) := by
  cases o with
  | none => exact hb
  | some x => exact hf x

theorem Keeps.getD_map {α : Type} {s b : State} {o : Option α} {f : α → State} (hb : Keeps s b) (hf : ∀ x, Keeps s (f x)) :
    Keeps s ((o.map f).getD b) := by
  cases o with
  | none => exact hb
  | some x => exact hf x

theorem Mem.wf_of {m n : Mem} (h1 : Tbl.wf 0 m.hbm = true → Tbl.wf 0 n.hbm = true)
    (h2 : Tbl.wf false m.hbmPoison = true → Tbl.wf false n.hbmPoison = true) (h3 : Tbl.wf 0 m.store = true → Tbl.wf 0 n.store = true)
    (h4 : Tbl.wf false m.storePoison = true → Tbl.wf false n.storePoison = true)
    (h5 : Tbl.wf false m.storeFilled = true → Tbl.wf false n.storeFilled = true)
    (h6 : Tbl.wf 0 m.commons = true → Tbl.wf 0 n.commons = true)
    (h7 : Tbl.wf false m.commonsPoison = true → Tbl.wf false n.commonsPoison = true) : Mem.wf m = true → Mem.wf n = true := by
  simp only [Mem.wf_iff]
  exact fun ⟨a, b, c, d, e, f, g⟩ => ⟨h1 a, h2 b, h3 c, h4 d, h5 e, h6 f, h7 g⟩

/-! ## Outcomes and partial results -/

def KeepsO (s : State) (o : Outcome) : Prop := ∀ t, o = .next t → Keeps s t

theorem KeepsO.next {s t : State} (h : Keeps s t) : KeepsO s (.next t) := by intro u hu; cases hu; exact h
theorem KeepsO.fault {s : State} (f : Fault) : KeepsO s (.fault f) := by intro u hu; cases hu
theorem KeepsO.op {s t : State} {o : Outcome} (g : KeepsO t o) (h : Keeps s t) : KeepsO s o := fun u hu => h.trans (g u hu)
theorem KeepsO.app {s t : State} {o : Outcome} (h : KeepsO s o) (e : o = .next t) : Keeps s t := h t e
theorem KeepsO.get {s t : State} (h : KeepsO s (.next t)) : Keeps s t := h t rfl
theorem KeepsO.past {T : List Zone} {s t : State} {o : Outcome} (g : TouchesO T t o) (hT : Zone.Clear T) (h : Keeps s t) :
    KeepsO s o := fun u hu => Keeps.past (g u hu) hT h

theorem KeepsO.foldl {β : Type} {s : State} {o : Outcome} (l : List β) (g : Outcome → β → Outcome)
    (hg : ∀ o x, KeepsO s o → KeepsO s (g o x)) (h : KeepsO s o) : KeepsO s (l.foldl g o) := by
  induction l generalizing o with
  | nil => exact h
  | cons x r ih => exact ih (hg o x h)

def KeepsP {α : Type} (s : State) (f : α → State) (o : Option α) : Prop := ∀ x, o = some x → Keeps s (f x)

theorem KeepsP.ofNone {α : Type} {s : State} {f : α → State} : KeepsP s f none := by intro x hx; cases hx
theorem KeepsP.ofSome {α : Type} {s : State} {f : α → State} {x : α} (h : Keeps s (f x)) : KeepsP s f (some x) := by
  intro y hy; cases hy; exact h
theorem KeepsP.map' {α β : Type} {s : State} {f : α → State} {g : β → α} {o : Option β} (h : ∀ x, o = some x → Keeps s (f (g x))) :
    KeepsP s f (o.map g) := by
  intro y hy
  cases o with
  | none => cases hy
  | some x => cases hy; exact h x rfl
theorem KeepsP.app {α : Type} {s : State} {f : α → State} {o : Option α} {x : α} (h : KeepsP s f o) (e : o = some x) :
    Keeps s (f x) := h x e
theorem KeepsP.app2 {α : Type} {s t : State} {o : Option (α × State)} {a : α} (h : KeepsP s (fun x => x.2) o) (e : o = some (a, t)) :
    Keeps s t := h _ e
theorem Keeps.getD {s b : State} {o : Option State} (h : KeepsP s (fun x => x) o) (hb : Keeps s b) : Keeps s (o.getD b) := by
  cases o with
  | none => exact hb
  | some x => exact h x rfl
theorem KeepsP.findSome {α β : Type} {s : State} {f : β → State} {l : List α} {g : α → Option β} (h : ∀ x, KeepsP s f (g x)) :
    KeepsP s f (l.findSome? g) := by
  intro y hy
  obtain ⟨x, _, hx⟩ := List.exists_of_findSome?_eq_some hy
  exact h x y hx
theorem KeepsP.app3 {α β : Type} {s t : State} {o : Option (α × β × State)} {a : α} {b : β} (h : KeepsP s (fun x => x.2.2) o)
    (e : o = some (a, b, t)) : Keeps s t := h _ e
theorem KeepsP.op {α : Type} {s t : State} {f : α → State} {o : Option α} (g : KeepsP t f o) (h : Keeps s t) : KeepsP s f o :=
  fun x hx => h.trans (g x hx)
theorem KeepsP.bind {α β : Type} {s : State} {f : β → State} {o : Option α} {g : α → Option β}
    (h : ∀ x, o = some x → KeepsP s f (g x)) : KeepsP s f (o.bind g) := by
  cases o with
  | none => exact KeepsP.ofNone
  | some x => exact h x rfl
theorem KeepsP.past {α : Type} {T : List Zone} {s t : State} {f : α → State} {o : Option α} (g : TouchesP T t f o) (hT : Zone.Clear T)
    (h : Keeps s t) : KeepsP s f o := fun x hx => Keeps.past (g x hx) hT h
theorem Keeps.of_ite {α : Type} {s t : State} {c : Prop} [Decidable c] {x a : α} {o : Option (α × State)}
    (h : KeepsP s (fun x => x.2) o) (e : (if c then some (x, s) else o) = some (a, t)) : Keeps s t := by
  split at e
  · cases e; exact Keeps.refl _
  · exact h _ e

def KeepsE {ε α : Type} (s : State) (f : α → State) (o : Except ε α) : Prop := ∀ x, o = .ok x → Keeps s (f x)

theorem KeepsE.error {ε α : Type} {s : State} {f : α → State} (e : ε) : KeepsE s f (.error e : Except ε α) := by intro x hx; cases hx
theorem KeepsE.ok {ε α : Type} {s : State} {f : α → State} {x : α} (h : Keeps s (f x)) : KeepsE s f (.ok x : Except ε α) := by
  intro y hy; cases hy; exact h
theorem KeepsE.app {ε α : Type} {s : State} {f : α → State} {o : Except ε α} {x : α} (h : KeepsE s f o) (e : o = .ok x) :
    Keeps s (f x) := h x e
theorem KeepsE.app2 {ε α : Type} {s t : State} {o : Except ε (α × State)} {a : α} (h : KeepsE s (fun x => x.2) o)
    (e : o = .ok (a, t)) : Keeps s t := h _ e
theorem KeepsE.op {ε α : Type} {s t : State} {f : α → State} {o : Except ε α} (g : KeepsE t f o) (h : Keeps s t) : KeepsE s f o :=
  fun x hx => h.trans (g x hx)

def KeepsA (s : State) (a : Admit) : Prop := ∀ t, a = .ok t → Keeps s t

theorem KeepsA.ok {s t : State} (h : Keeps s t) : KeepsA s (.ok t) := by intro u hu; cases hu; exact h
theorem KeepsA.wait {s : State} : KeepsA s .wait := by intro u hu; cases hu
theorem KeepsA.noSpace {s : State} : KeepsA s .noSpace := by intro u hu; cases hu
theorem KeepsA.app {s t : State} {a : Admit} (h : KeepsA s a) (e : a = .ok t) : Keeps s t := h t e
theorem KeepsA.op {s t : State} {a : Admit} (g : KeepsA t a) (h : Keeps s t) : KeepsA s a := fun u hu => h.trans (g u hu)

def KeepsU (s : State) (u : Upd) : Prop := (∀ t st, u = .done t st → Keeps s t) ∧ (∀ t us, u = .wthru t us → Keeps s t)

theorem KeepsU.done {s t : State} {st : Status} (h : Keeps s t) : KeepsU s (.done t st) :=
  ⟨(by intro u x hu; cases hu; exact h), (by intro u x hu; cases hu)⟩
theorem KeepsU.wthru {s t : State} {us : List (Nat × Nat)} (h : Keeps s t) : KeepsU s (.wthru t us) :=
  ⟨(by intro u x hu; cases hu), (by intro u x hu; cases hu; exact h)⟩
theorem KeepsU.side {s : State} : KeepsU s .side := ⟨(by intro u x hu; cases hu), (by intro u x hu; cases hu)⟩
theorem KeepsU.bufWait {s : State} : KeepsU s .bufWait := ⟨(by intro u x hu; cases hu), (by intro u x hu; cases hu)⟩

theorem KeepsA.past {T : List Zone} {s t : State} {a : Admit} (g : TouchesA T t a) (hT : Zone.Clear T) (h : Keeps s t) : KeepsA s a :=
  fun u hu => Keeps.past (g u hu) hT h
theorem KeepsU.mono {s t : State} {u : Upd} (g : KeepsU t u) (h : Keeps s t) : KeepsU s u :=
  ⟨fun x st e => h.trans (g.1 x st e), fun x us e => h.trans (g.2 x us e)⟩

/-! ## The primitive updates, and conditions on an outcome -/

theorem State.emit_keeps (s : State) (o : Out) : Keeps s (s.emit o) :=
  ⟨fun h => h, List.suffix_cons _ _, ⟨rfl, rfl, rfl, rfl⟩, Nat.le_refl _, Nat.le_refl _⟩

theorem State.drawFree_keeps (s : State) : Keeps s s.drawFree :=
  ⟨fun h => h, List.suffix_rfl, ⟨rfl, rfl, rfl, rfl⟩, Nat.le_refl _, Nat.le_succ _⟩

theorem State.onlyIf_keeps {s : State} (c : Bool) {f : State → State} (h : Keeps s (f s)) : KeepsO s (s.onlyIf c f) := by
  unfold State.onlyIf
  refine KeepsO.next ?_
  split
  · exact h
  · exact Keeps.refl _

theorem State.whenServing_keeps {s : State} {f : State → State} (h : Keeps s (f s)) : KeepsO s (s.whenServing f) := by
  unfold State.whenServing
  refine KeepsO.next ?_
  split
  · exact h
  · exact Keeps.refl _

end Sys2Proof.Machine
end

