-- ==== Sys2Proof/Laws/Touch2.lean ====
section
/-! SUPPORT. What the operations and commands of cores, the flash side, indexes, searches, steps and updates may touch: one lemma each (Laws/Touch.lean). -/

namespace Sys2Proof.Machine

/-! ## Cores -/

theorem State.onCore_touches {T : List Zone} (s : State) (core : Nat) (f : Nat → Lease → Step → State → Outcome) (hT : Zone.Within ([] :
    List Zone) T) (hf : ∀ (x0 : Nat) (x1 : Lease) (x2 : Step) (x3 : State), TouchesO T x3 (f x0 x1 x2 x3)) : TouchesO T s (State.onCore
    s core f) := by
  unfold State.onCore
  with_reducible
    repeat' first
      | first | exact hT | exact Zone.Within.refl _ | exact Zone.Within.trans (Zone.within (by decide)) hT
      | exact Touches.refl _ _
      | apply TouchesO.next
      | apply TouchesO.op (hf _ _ _ _)
      | split

theorem State.cyc_touches (s : State) (core n : Nat) : Touches [.regs] s (State.cyc s core n) := by
  unfold State.cyc
  with_reducible
    repeat' first
      | (apply Zone.within; decide)
      | exact Touches.refl _ _
      | apply Touches.op (State.setReg64_touches _ _ _)

theorem State.usePoison_touches (s : State) (l : Nat) (x : Lease) (c : Bool) : Touches [.work] s (State.usePoison s l x c) := by
  unfold State.usePoison
  with_reducible
    repeat' first
      | (apply Zone.within; decide)
      | exact Touches.refl _ _
      | apply Touches.op (State.modStep_touches _ _ _)
      | split

theorem State.usePoisonAddr_touches (s : State) (l : Nat) (c : Bool) : Touches [.work] s (State.usePoisonAddr s l c) := by
  unfold State.usePoisonAddr
  with_reducible
    repeat' first
      | (apply Zone.within; decide)
      | exact Touches.refl _ _
      | apply Touches.op (State.modStep_touches _ _ _)
      | split

theorem State.stopStep_touches (s : State) (l : Nat) (st : Status) : Touches [.regs, .mem, .alloc, .work, .nbu, .comp, .flash, .fab,
    .cas, .chk, .nrg, .host, .out, .free] s (State.stopStep s l st) := by
  unfold State.stopStep
  with_reducible
    repeat' first
      | (apply Zone.within; decide)
      | exact Touches.refl _ _
      | apply Touches.op (State.abortFree_touches _ _ _)

theorem State.readAt_touches {T : List Zone} (s : State) (core l : Nat) (x : Lease) (p : Step) (i : Instr) (hit : Nat → Bool) (full :
    Bool) (go : State → State) (hT : Zone.Within ([.regs, .work, .comp] : List Zone) T) (hf : ∀ (x0 : State), Touches T x0 (go x0)) {z :
    State} (hz : Touches T z s) : Touches T z (State.readAt s core l x p i hit full go) := by
  unfold State.readAt
  with_reducible
    repeat' first
      | first | exact hT | exact Zone.Within.refl _ | exact Zone.Within.trans (Zone.within (by decide)) hT
      | assumption
      | apply Touches.op (State.freezeLease_touches _ _ _ _)
      | apply Touches.op (State.modStep_touches _ _ _)
      | apply Touches.op (State.setCore_touches _ _ _)
      | apply Touches.op (hf _)
      | extract_lets
      | split

theorem State.wakeLease_touches {T : List Zone} (s : State) (l : Nat) (go : Instr → State → State) (hT : Zone.Within ([.regs, .work,
    .comp] : List Zone) T) (hf : ∀ (x0 : Instr) (x1 : State), Touches T x1 (go x0 x1)) {z : State} (hz : Touches T z s) : Touches T z
    (State.wakeLease s l go) := by
  unfold State.wakeLease
  with_reducible
    repeat' first
      | first | exact hT | exact Zone.Within.refl _ | exact Zone.Within.trans (Zone.within (by decide)) hT
      | assumption
      | apply Touches.op (State.thawLease_touches _ _)
      | apply Touches.op (State.setCore_touches _ _ _)
      | apply Touches.op (hf _ _)
      | extract_lets
      | split

theorem State.setOvf_touches (s : State) (core a : Nat) (sat : List Bool) : Touches [.regs] s (State.setOvf s core a sat) := by
  unfold State.setOvf
  with_reducible
    repeat' first
      | (apply Zone.within; decide)
      | exact Touches.refl _ _
      | intro x
      | apply Touches.each
      | apply Touches.op (State.setWord_touches _ _ _)

theorem State.drainWrite_touches (s : State) (core base perLine : Nat) (bs : List Byte) (pois : List Bool) : Touches [.mem] s
    (State.drainWrite s core base perLine bs pois) := by
  unfold State.drainWrite
  with_reducible
    repeat' first
      | (apply Zone.within; decide)
      | exact Touches.refl _ _
      | apply Touches.op (State.storeFill_touches _ _ _ _ _)
      | apply Touches.op (State.storePoisonLines_touches _ _)
      | apply Touches.op (State.storeWrite_touches _ _ _ _)

theorem State.requant_touches (s : State) (core a : Nat) (d : TileDesc) (rmcfg : Nat) (acc : List Int) (pois : List Bool) : Touches
    [.regs, .mem, .comp] s (State.requant s core a d rmcfg acc pois) := by
  unfold State.requant
  with_reducible
    repeat' first
      | (apply Zone.within; decide)
      | exact Touches.refl _ _
      | intro x
      | apply Touches.op (State.drainWrite_touches _ _ _ _ _ _)
      | apply Touches.op (State.setCore_touches _ _ _)
      | apply Touches.each
      | apply Touches.op (State.setWord_touches _ _ _)

theorem State.drainArray_touches (s : State) (core a : Nat) (d : TileDesc) (rmcfg : Nat) (acc : List Int) (pois : List Bool) : Touches
    [.regs, .mem, .comp] s (State.drainArray s core a d rmcfg acc pois) := by
  unfold State.drainArray
  with_reducible
    repeat' first
      | (apply Zone.within; decide)
      | exact Touches.refl _ _
      | apply Touches.op (State.requant_touches _ _ _ _ _ _ _)
      | apply Touches.op (State.drainWrite_touches _ _ _ _ _ _)
      | split

theorem State.tileCheck_touches (s : State) (core l : Nat) (x : Lease) (p : Step) (d : TileDesc) : Touches [.regs, .work] s
    (State.tileCheck s core l x p d) := by
  unfold State.tileCheck
  with_reducible
    repeat' first
      | (apply Zone.within; decide)
      | exact Touches.refl _ _
      | apply Touches.op (State.modStep_touches _ _ _)
      | apply Touches.op (State.event_touches _ _ _)
      | apply Touches.op (State.count_touches _ _ _)
      | extract_lets
      | split

theorem State.tileTime_touches (s : State) (core : Nat) (d : TileDesc) : Touches [.regs, .comp] s (State.tileTime s core d) := by
  unfold State.tileTime
  with_reducible
    repeat' first
      | (apply Zone.within; decide)
      | exact Touches.refl _ _
      | apply Touches.op (State.setCore_touches _ _ _)
      | apply Touches.op (State.setReg64_touches _ _ _)

theorem State.feedReplays_touches (s : State) (core l : Nat) (par : List FeedPar) : Touches [.regs, .work] s (State.feedReplays s core l
    par) := by
  unfold State.feedReplays
  with_reducible
    repeat' first
      | (apply Zone.within; decide)
      | exact Touches.refl _ _
      | apply Touches.op (State.modStep_touches _ _ _)
      | apply Touches.op (State.event_touches _ _ _)
      | apply Touches.op (State.count_touches _ _ _)
      | extract_lets
      | split

theorem State.markRm_touches (s : State) (x : Lease) : Touches [.work] s (State.markRm s x) := by
  unfold State.markRm
  with_reducible
    repeat' first
      | exact Touches.refl _ _
      | (apply Zone.rest; intro p hp; cases p <;> first | exact absurd (by decide) hp | exact rfl)
      | extract_lets
      | apply Touches.leaf (Eq.refl _)

theorem State.tileGo_touches (s : State) (core : Nat) (l : Nat) (x : Lease) (p : Step) (d : TileDesc) (errs : List CellErr) (par : List
    FeedPar) : Touches [.regs, .mem, .work, .comp] s (State.tileGo s core l x p d errs par) := by
  unfold State.tileGo
  with_reducible
    repeat' first
      | (apply Zone.within; decide)
      | exact Touches.refl _ _
      | intro x
      | apply Touches.op (State.markRm_touches _ _)
      | apply Touches.op (State.feedReplays_touches _ _ _ _)
      | apply Touches.op (State.tileTime_touches _ _ _)
      | apply Touches.op (State.tileCheck_touches _ _ _ _ _ _)
      | apply Touches.op (State.drainArray_touches _ _ _ _ _ _ _)
      | apply Touches.op (State.setOvf_touches _ _ _ _)
      | apply Touches.op (State.usePoison_touches _ _ _ _)
      | apply Touches.op (State.setCore_touches _ _ _)
      | apply Touches.each
      | apply Touches.op (State.event_touches _ _ _)
      | apply Touches.op (State.count_touches _ _ _)
      | extract_lets
      | split
      | dsimp +zetaDelta only

theorem State.tileWrong_touches (s : State) (core rule : Nat) (d : TileDesc) : Touches [.regs, .comp, .out, .free] s (State.tileWrong s
    core rule d) := by
  unfold State.tileWrong
  with_reducible
    repeat' first
      | (apply Zone.within; decide)
      | exact Touches.refl _ _
      | (apply Zone.rest; intro p hp; cases p <;> first | exact absurd (by decide) hp | exact rfl)
      | apply Touches.op (State.cyc_touches _ _ _)
      | apply Touches.op (State.setCore_touches _ _ _)
      | apply Touches.op (State.hostErr_touches _ _)
      | extract_lets
      | apply Touches.leaf (Eq.refl _)

theorem State.tileTry_touches (s : State) (core l : Nat) (x : Lease) (p : Step) (d : TileDesc) (e : TileEnv) : Touches [.regs, .mem,
    .work, .comp] s (State.tileTry s core l x p d e) := by
  unfold State.tileTry
  with_reducible
    repeat' first
      | (apply Zone.within; decide)
      | exact Touches.refl _ _
      | intro x
      | apply Touches.op (State.tileGo_touches _ _ _ _ _ _ _ _)
      | apply State.readAt_touches

theorem execTile_touches (core : Nat) (d : TileDesc) (e : TileEnv) (s : State) : TouchesO [.regs, .mem, .work, .comp, .out, .free] s
    (execTile core d e s) := by
  unfold execTile
  with_reducible
    repeat' first
      | (apply Zone.within; decide)
      | exact Touches.refl _ _
      | intro x
      | apply TouchesO.next
      | apply Touches.op (State.tileTry_touches _ _ _ _ _ _ _)
      | apply Touches.op (State.tileWrong_touches _ _ _ _)
      | apply State.onCore_touches
      | extract_lets
      | split

theorem State.land_touches (s : State) (core a : Nat) (bs : List Byte) (pois : List Bool) : Touches [.mem] s (State.land s core a bs
    pois) := by
  unfold State.land
  with_reducible
    repeat' first
      | (apply Zone.within; decide)
      | exact Touches.refl _ _
      | apply Touches.op (State.storeFill_touches _ _ _ _ _)
      | apply Touches.op (State.storePoisonLines_touches _ _)
      | apply Touches.op (State.storeWrite_touches _ _ _ _)

theorem execFill_touches (core : Nat) (f : Xfer) (s : State) : TouchesO [.regs, .mem, .alloc, .work, .nbu, .comp, .tables, .flash, .fab,
    .cas, .chk, .nrg, .host, .out, .free] s (execFill core f s) := by
  unfold execFill
  with_reducible
    repeat' first
      | (apply Zone.within; decide)
      | exact Touches.refl _ _
      | (apply Zone.rest; intro p hp; cases p <;> first | exact absurd (by decide) hp | exact rfl)
      | intro x
      | apply TouchesO.next
      | apply Touches.op (State.land_touches _ _ _ _ _)
      | apply Touches.op (State.stopStep_touches _ _ _)
      | apply Touches.op (State.cyc_touches _ _ _)
      | apply State.onCore_touches
      | apply Touches.op (State.tier_touches _ _ _)
      | apply Touches.op (State.setCore_touches _ _ _)
      | apply Touches.op (State.request_touches _ _ _ _ _ _ _)
      | apply Touches.op (State.hostErr_touches _ _)
      | apply Touches.op (State.emit_touches _ _)
      | extract_lets
      | split
      | apply Touches.leaf (Eq.refl _)

theorem State.poisonSource_touches (s : State) (a n : Nat) : Touches [.mem] s (State.poisonSource s a n) := by
  unfold State.poisonSource
  with_reducible
    repeat' first
      | (apply Zone.within; decide)
      | exact Touches.refl _ _
      | (apply Zone.rest; intro p hp; cases p <;> first | exact absurd (by decide) hp | exact rfl)
      | apply Touches.op (State.hbmPoisonLines_touches _ _)
      | extract_lets
      | split
      | apply Touches.leaf (Eq.refl _)

theorem State.verifyFill_touches (s : State) (l : Nat) (f : Xfer) (cs : List (Nat × Nat × Nat)) (bs : List Byte) (pois : List Bool) (e :
    PathEnv) : Touches [.regs, .mem, .chk, .host, .out] s (State.verifyFill s l f cs bs pois e).1 := by
  unfold State.verifyFill
  repeat' split
  all_goals with_reducible
    repeat' first
      | (apply Zone.within; decide)
      | exact Touches.refl _ _
      | intro x
      | apply Touches.op (State.poisonSource_touches _ _ _)
      | apply Touches.op (State.raise_touches _ _ _ _)
      | apply Touches.op (State.count_touches _ _ _)
      | apply Touches.foldl1
      | extract_lets
      | split

theorem State.pathParity_touches (s : State) (l : Nat) (e : PathEnv) : Touches [.regs, .chk, .host, .out] s (State.pathParity s l e) := by
  unfold State.pathParity
  with_reducible
    repeat' first
      | (apply Zone.within; decide)
      | exact Touches.refl _ _
      | apply Touches.op (State.raise_touches _ _ _ _)
      | apply Touches.op (State.count_touches _ _ _)
      | extract_lets
      | split

theorem State.sinkData_touches (s : State) (x : Lease) (p : Step) (f : Xfer) (bs : List Byte) (pois : List Bool) : Touches [.mem, .fab,
    .out] s (State.sinkData s x p f bs pois) := by
  unfold State.sinkData
  with_reducible
    repeat' first
      | (apply Zone.within; decide)
      | exact Touches.refl _ _
      | (apply Zone.rest; intro p hp; cases p <;> first | exact absurd (by decide) hp | exact rfl)
      | intro x
      | apply Touches.op (State.land_touches _ _ _ _ _)
      | apply Touches.op (State.ilvStore_touches _ _ _ _)
      | apply Touches.op (State.recheckCom_touches _ _ _)
      | apply Touches.op (State.checkMakeCom_touches _ _ _)
      | apply Touches.op (State.checkMake_touches _ _ _)
      | apply Touches.op (State.request_touches _ _ _ _ _ _ _)
      | apply Touches.op (State.commonsWrite_touches _ _ _)
      | apply Touches.op (State.hbmPoisonLines_touches _ _)
      | apply Touches.op (State.chWrite_touches _ _ _ _)
      | apply Touches.each
      | apply Touches.op (State.emit_touches _ _)
      | extract_lets
      | split
      | apply Touches.leaf (Eq.refl _)

theorem State.sendGo_touches (s : State) (core l : Nat) (x : Lease) (p : Step) (f : Xfer) (e : PathEnv) : Touches [.regs, .mem, .alloc,
    .work, .nbu, .comp, .tables, .flash, .fab, .cas, .chk, .nrg, .host, .out, .free] s (State.sendGo s core l x p f e) := by
  unfold State.sendGo
  with_reducible
    repeat' first
      | (apply Zone.within; decide)
      | exact Touches.refl _ _
      | apply Touches.op (State.sinkData_touches _ _ _ _ _ _)
      | apply Touches.op (State.pathParity_touches _ _ _)
      | apply Touches.op (State.verifyFill_touches _ _ _ _ _ _ _)
      | apply Touches.op (State.stopStep_touches _ _ _)
      | apply Touches.op (State.tier_touches _ _ _)
      | extract_lets
      | split

theorem State.sendTry_touches (s : State) (core l : Nat) (x : Lease) (p : Step) (f : SendOp) : Touches [.regs, .mem, .alloc, .work,
    .nbu, .comp, .tables, .flash, .fab, .cas, .chk, .nrg, .host, .out, .free] s (State.sendTry s core l x p f) := by
  unfold State.sendTry
  with_reducible
    repeat' first
      | (apply Zone.within; decide)
      | exact Touches.refl _ _
      | intro x
      | apply Touches.op (State.sendGo_touches _ _ _ _ _ _ _)
      | apply State.readAt_touches

theorem State.planPost_touches (s : State) (core l : Nat) (x : Lease) (b : PlanPost) : Touches [.fab, .out, .free] s (State.planPost s
    core l x b) := by
  unfold State.planPost
  with_reducible
    repeat' first
      | (apply Zone.within; decide)
      | exact Touches.refl _ _
      | apply Touches.op (State.setConn_touches _ _ _)
      | apply Touches.op (State.hostErr_touches _ _)
      | split

theorem execStreamSend_touches (core : Nat) (f : SendOp) (s : State) : TouchesO [.regs, .mem, .alloc, .work, .nbu, .comp, .tables,
    .flash, .fab, .cas, .chk, .nrg, .host, .out, .free] s (execStreamSend core f s) := by
  unfold execStreamSend
  with_reducible
    repeat' first
      | (apply Zone.within; decide)
      | exact Touches.refl _ _
      | intro x
      | apply TouchesO.next
      | apply Touches.op (State.planPost_touches _ _ _ _ _)
      | apply Touches.op (State.sendTry_touches _ _ _ _ _ _)
      | apply Touches.op (State.cyc_touches _ _ _)
      | apply State.onCore_touches
      | apply Touches.op (State.hostErr_touches _ _)
      | extract_lets
      | split

theorem State.touchAll_touches (s : State) (table : Nat) (ds : List (Nat × Nat)) : Touches [.tables] s (State.touchAll s table ds) := by
  unfold State.touchAll
  with_reducible
    repeat' first
      | exact Touches.refl _ _
      | (apply Zone.rest; intro p hp; cases p <;> first | exact absurd (by decide) hp | exact rfl)
      | extract_lets
      | apply Touches.leaf (Eq.refl _)

theorem execGather_touches (core : Nat) (g : GsCmd) (remote : List RowData) (s : State) : TouchesO [.regs, .mem, .alloc, .work, .nbu,
    .comp, .tables, .flash, .fab, .cas, .chk, .nrg, .host, .out, .free] s (execGather core g remote s) := by
  unfold execGather
  with_reducible
    repeat' first
      | (apply Zone.within; decide)
      | exact Touches.refl _ _
      | intro x
      | apply TouchesO.next
      | apply Touches.op (State.touchAll_touches _ _ _)
      | apply Touches.op (State.land_touches _ _ _ _ _)
      | apply Touches.op (State.stopStep_touches _ _ _)
      | apply Touches.op (State.usePoisonAddr_touches _ _ _)
      | apply Touches.op (State.cyc_touches _ _ _)
      | apply State.onCore_touches
      | apply Touches.op (State.tier_touches _ _ _)
      | apply Touches.op (State.storeFill_touches _ _ _ _ _)
      | apply Touches.op (State.storeWrite_touches _ _ _ _)
      | apply Touches.op (State.hostErr_touches _ _)
      | apply Touches.foldl
      | extract_lets
      | split
      | dsimp +zetaDelta only

theorem State.scatterGo_touches (s : State) (core l : Nat) (x : Lease) (p : Step) (g : GsCmd) (d : TableDesc) (remote : List RowData) :
    Touches [.regs, .mem, .alloc, .work, .nbu, .comp, .tables, .flash, .fab, .cas, .chk, .nrg, .host, .out, .free] s (State.scatterGo s
    core l x p g d remote) := by
  unfold State.scatterGo
  with_reducible
    repeat' first
      | (apply Zone.within; decide)
      | exact Touches.refl _ _
      | apply Touches.op (State.touchAll_touches _ _ _)
      | apply Touches.op (State.stopStep_touches _ _ _)
      | apply Touches.op (State.usePoisonAddr_touches _ _ _)
      | apply Touches.op (State.tier_touches _ _ _)
      | apply Touches.op (State.modStep_touches _ _ _)
      | apply Touches.op (State.storeFill_touches _ _ _ _ _)
      | apply Touches.op (State.storeWrite_touches _ _ _ _)
      | extract_lets
      | split

theorem State.scatterTry_touches (s : State) (core l : Nat) (x : Lease) (p : Step) (g : GsCmd) (d : TableDesc) (remote : List RowData) :
    Touches [.regs, .mem, .alloc, .work, .nbu, .comp, .tables, .flash, .fab, .cas, .chk, .nrg, .host, .out, .free] s (State.scatterTry s
    core l x p g d remote) := by
  unfold State.scatterTry
  with_reducible
    repeat' first
      | (apply Zone.within; decide)
      | exact Touches.refl _ _
      | intro x
      | apply Touches.op (State.scatterGo_touches _ _ _ _ _ _ _ _)
      | apply State.readAt_touches

theorem execScatter_touches (core : Nat) (g : GsCmd) (remote : List RowData) (s : State) : TouchesO [.regs, .mem, .alloc, .work, .nbu,
    .comp, .tables, .flash, .fab, .cas, .chk, .nrg, .host, .out, .free] s (execScatter core g remote s) := by
  unfold execScatter
  with_reducible
    repeat' first
      | (apply Zone.within; decide)
      | exact Touches.refl _ _
      | intro x
      | apply TouchesO.next
      | apply Touches.op (State.scatterTry_touches _ _ _ _ _ _ _ _)
      | apply Touches.op (State.stopStep_touches _ _ _)
      | apply Touches.op (State.cyc_touches _ _ _)
      | apply State.onCore_touches
      | apply Touches.op (State.hostErr_touches _ _)
      | extract_lets
      | split

theorem State.branchGo_touches (s : State) (core l addr : Nat) : Touches [.work] s (State.branchGo s core l addr) := by
  unfold State.branchGo
  with_reducible
    repeat' first
      | (apply Zone.within; decide)
      | exact Touches.refl _ _
      | apply Touches.op (State.usePoisonAddr_touches _ _ _)
      | apply Touches.op (State.modStep_touches _ _ _)
      | split

theorem State.branchTry_touches (s : State) (core l : Nat) (x : Lease) (p : Step) (pos addr : Nat) : Touches [.regs, .work, .comp] s
    (State.branchTry s core l x p pos addr) := by
  unfold State.branchTry
  with_reducible
    repeat' first
      | (apply Zone.within; decide)
      | exact Touches.refl _ _
      | intro x
      | apply Touches.op (State.branchGo_touches _ _ _ _)
      | apply State.readAt_touches

theorem execBranch_touches (l pos addr : Nat) (s : State) : TouchesO [.regs, .work, .comp, .out, .free] s (execBranch l pos addr s) := by
  unfold execBranch
  with_reducible
    repeat' first
      | (apply Zone.within; decide)
      | exact Touches.refl _ _
      | intro x
      | apply TouchesO.next
      | apply Touches.op (State.branchTry_touches _ _ _ _ _ _ _)
      | apply Touches.op (State.cyc_touches _ _ _)
      | apply Touches.op (State.modStep_touches _ _ _)
      | apply Touches.each
      | apply Touches.op (State.hostErr_touches _ _)
      | extract_lets
      | split

theorem State.putDesc_touches (s : State) (e : SloeDesc) : Touches [.flash] s (State.putDesc s e) := by
  unfold State.putDesc
  with_reducible
    repeat' first
      | exact Touches.refl _ _
      | (apply Zone.rest; intro p hp; cases p <;> first | exact absurd (by decide) hp | exact rfl)
      | extract_lets
      | apply Touches.leaf (Eq.refl _)

theorem State.resume_touches (s : State) (i : Instr) : Touches [.regs, .mem, .alloc, .work, .nbu, .comp, .tables, .flash, .fab, .cas,
    .chk, .nrg, .host, .out, .free] s (State.resume s i) := by
  unfold State.resume
  with_reducible
    repeat' first
      | (apply Zone.within; decide)
      | exact Touches.refl _ _
      | intro x
      | apply Touches.op (State.branchTry_touches _ _ _ _ _ _ _)
      | apply Touches.op (State.scatterTry_touches _ _ _ _ _ _ _ _)
      | apply Touches.op (State.sendTry_touches _ _ _ _ _ _)
      | apply Touches.op (State.tileTry_touches _ _ _ _ _ _ _)
      | apply Touches.elim
      | extract_lets
      | split
      | dsimp +zetaDelta only

theorem State.goOn_touches (s : State) (l : Nat) : Touches [.regs, .mem, .alloc, .work, .nbu, .comp, .tables, .flash, .fab, .cas, .chk,
    .nrg, .host, .out, .free] s (State.goOn s l) := by
  unfold State.goOn
  with_reducible
    repeat' first
      | (apply Zone.within; decide)
      | exact Touches.refl _ _
      | intro x
      | apply Touches.op (State.resume_touches _ _)
      | apply State.wakeLease_touches

theorem State.landFill_touches (s : State) (core l : Nat) (x : Lease) (f : Xfer) (bs : List Byte) (pois : List Bool) (e : PathEnv) :
    Touches [.regs, .mem, .alloc, .work, .nbu, .comp, .tables, .flash, .fab, .cas, .chk, .nrg, .host, .out, .free] s (State.landFill s
    core l x f bs pois e) := by
  unfold State.landFill
  with_reducible
    repeat' first
      | (apply Zone.within; decide)
      | exact Touches.refl _ _
      | (apply Zone.rest; intro p hp; cases p <;> first | exact absurd (by decide) hp | exact rfl)
      | apply Touches.op (State.goOn_touches _ _)
      | apply Touches.op (State.pathParity_touches _ _ _)
      | apply Touches.op (State.verifyFill_touches _ _ _ _ _ _ _)
      | apply Touches.op (State.land_touches _ _ _ _ _)
      | apply Touches.op (State.setCore_touches _ _ _)
      | extract_lets
      | apply Touches.leaf (Eq.refl _)

theorem execFillComplete_touches (core id : Nat) (e : FillEnv) (s : State) : TouchesO [.regs, .mem, .alloc, .work, .nbu, .comp, .tables,
    .flash, .fab, .cas, .chk, .nrg, .host, .out, .free] s (execFillComplete core id e s) := by
  unfold execFillComplete
  with_reducible
    repeat' first
      | (apply Zone.within; decide)
      | exact Touches.refl _ _
      | apply TouchesO.next
      | apply Touches.op (State.landFill_touches _ _ _ _ _ _ _ _)
      | apply Touches.op (State.tier_touches _ _ _)
      | apply Touches.op (State.cper_touches _ _)
      | extract_lets
      | split
      | dsimp +zetaDelta only

theorem execPoolReadTimeout_touches (core id : Nat) (s : State) : TouchesO [.regs, .mem, .alloc, .work, .nbu, .comp, .tables, .flash,
    .fab, .cas, .chk, .nrg, .host, .out, .free] s (execPoolReadTimeout core id s) := by
  unfold execPoolReadTimeout
  with_reducible
    repeat' first
      | (apply Zone.within; decide)
      | exact Touches.refl _ _
      | apply TouchesO.next
      | apply Touches.op (State.landFill_touches _ _ _ _ _ _ _ _)
      | apply Touches.op (State.tier_touches _ _ _)
      | split

theorem execRelease_touches (core first count : Nat) (s : State) : TouchesO [.regs, .mem, .out, .free] s (execRelease core first count
    s) := by
  unfold execRelease
  with_reducible
    repeat' first
      | (apply Zone.within; decide)
      | exact Touches.refl _ _
      | intro x
      | apply TouchesO.next
      | apply Touches.op (State.cyc_touches _ _ _)
      | apply State.onCore_touches
      | apply Touches.op (State.storeFill_touches _ _ _ _ _)
      | apply Touches.op (State.hostErr_touches _ _)
      | extract_lets
      | split

theorem State.putScales_touches (s : State) (core base : Nat) (v : Nat → Nat) : Touches [.regs] s (State.putScales s core base v) := by
  unfold State.putScales
  with_reducible
    repeat' first
      | (apply Zone.within; decide)
      | exact Touches.refl _ _
      | intro x
      | apply Touches.each
      | apply Touches.op (State.setWord_touches _ _ _)

theorem execScaleld_touches (core base addr : Nat) (s : State) : TouchesO [.regs, .work, .out, .free] s (execScaleld core base addr s)
    := by
  unfold execScaleld
  refine State.onCore_touches _ _ _ (by decide) (fun l x _ s => ?_)
  have hf : ∀ (t : State) n, Touches [.free] t { t with free := n } := fun t n p hp => by
    cases p <;> first | exact absurd (by decide) hp | exact rfl
  dsimp only
  split
  · exact TouchesO.next (Touches.op (State.cyc_touches _ _ _) (by decide) (Touches.op (State.hostErr_touches _ _) (by decide)
      (Touches.op (hf _ _) (by decide) ((State.putScales_touches _ _ _ _).mono (by decide)))))
  · split
    · exact TouchesO.next (Touches.op (State.cyc_touches _ _ _) (by decide) (Touches.op (State.hostErr_touches _ _) (by decide)
        (Touches.op (hf _ _) (by decide) ((State.putScales_touches _ _ _ _).mono (by decide)))))
    · exact TouchesO.next (Touches.op (State.usePoison_touches _ _ _ _) (by decide) (Touches.op (State.cyc_touches _ _ _) (by decide)
        ((State.putScales_touches _ _ _ _).mono (by decide))))

theorem execRmslot_touches (core array slot : Nat) (s : State) : TouchesO [.regs, .work, .comp, .out, .free] s (execRmslot core array
    slot s) := by
  unfold execRmslot
  with_reducible
    repeat' first
      | (apply Zone.within; decide)
      | exact Touches.refl _ _
      | intro x
      | apply TouchesO.next
      | apply Touches.op (State.markRm_touches _ _)
      | apply Touches.op (State.cyc_touches _ _ _)
      | apply State.onCore_touches
      | apply Touches.op (State.setCore_touches _ _ _)
      | apply Touches.op (State.hostErr_touches _ _)
      | extract_lets
      | split

theorem execRmseed_touches (core array addr : Nat) (s : State) : TouchesO [.regs, .work, .comp, .out, .free] s (execRmseed core array
    addr s) := by
  unfold execRmseed
  with_reducible
    repeat' first
      | (apply Zone.within; decide)
      | exact Touches.refl _ _
      | (apply Zone.rest; intro p hp; cases p <;> first | exact absurd (by decide) hp | exact rfl)
      | intro x
      | apply TouchesO.next
      | apply Touches.op (State.markRm_touches _ _)
      | apply Touches.op (State.usePoison_touches _ _ _ _)
      | apply Touches.op (State.cyc_touches _ _ _)
      | apply State.onCore_touches
      | apply Touches.op (State.setCore_touches _ _ _)
      | apply Touches.op (State.hostErr_touches _ _)
      | extract_lets
      | split
      | apply Touches.leaf (Eq.refl _)

theorem execFlagrd_touches (core base addr : Nat) (s : State) : TouchesO [.regs, .mem, .out, .free] s (execFlagrd core base addr s) := by
  unfold execFlagrd
  with_reducible
    repeat' first
      | (apply Zone.within; decide)
      | exact Touches.refl _ _
      | intro x
      | apply TouchesO.next
      | apply Touches.op (State.cyc_touches _ _ _)
      | apply State.onCore_touches
      | apply Touches.op (State.storeWrite_touches _ _ _ _)
      | apply Touches.op (State.hostErr_touches _ _)
      | extract_lets
      | split

theorem execTkopen_touches (core k : Nat) (maxMode : Bool) (s : State) : TouchesO [.regs, .comp, .out, .free] s (execTkopen core k
    maxMode s) := by
  unfold execTkopen
  with_reducible
    repeat' first
      | (apply Zone.within; decide)
      | exact Touches.refl _ _
      | intro x
      | apply TouchesO.next
      | apply Touches.op (State.cyc_touches _ _ _)
      | apply State.onCore_touches
      | apply Touches.op (State.setCore_touches _ _ _)
      | apply Touches.op (State.hostErr_touches _ _)
      | extract_lets
      | split

theorem execTkoffer_touches (core : Nat) (e : TkEntry) (s : State) : TouchesO [.regs, .comp, .out, .free] s (execTkoffer core e s) := by
  unfold execTkoffer
  with_reducible
    repeat' first
      | (apply Zone.within; decide)
      | exact Touches.refl _ _
      | intro x
      | apply TouchesO.next
      | apply Touches.op (State.cyc_touches _ _ _)
      | apply State.onCore_touches
      | apply Touches.op (State.setCore_touches _ _ _)
      | apply Touches.op (State.hostErr_touches _ _)
      | apply Touches.op (State.count_touches _ _ _)
      | extract_lets
      | split

theorem State.merge_touches (s : State) (unit ctx cap : Nat) (maxMode : Bool) (es : List TkEntry) (up : Trailer) : Touches [.regs,
    .comp] s (State.merge s unit ctx cap maxMode es up) := by
  unfold State.merge
  with_reducible
    repeat' first
      | (apply Zone.within; decide)
      | exact Touches.refl _ _
      | (apply Zone.rest; intro p hp; cases p <;> first | exact absurd (by decide) hp | exact rfl)
      | apply Touches.op (State.count_touches _ _ _)
      | extract_lets
      | apply Touches.leaf (Eq.refl _)

theorem execTkclose_touches (core ctx : Nat) (s : State) : TouchesO [.regs, .comp, .out, .free] s (execTkclose core ctx s) := by
  unfold execTkclose
  with_reducible
    repeat' first
      | (apply Zone.within; decide)
      | exact Touches.refl _ _
      | intro x
      | apply TouchesO.next
      | apply Touches.op (State.merge_touches _ _ _ _ _ _ _)
      | apply Touches.op (State.cyc_touches _ _ _)
      | apply State.onCore_touches
      | apply Touches.op (State.setCore_touches _ _ _)
      | apply Touches.op (State.hostErr_touches _ _)
      | extract_lets
      | split

theorem State.closeCtx_touches (s : State) (unit ctx cap : Nat) (maxMode : Bool) : Touches [.comp, .out] s (State.closeCtx s unit ctx
    cap maxMode) := by
  unfold State.closeCtx
  with_reducible
    repeat' first
      | (apply Zone.within; decide)
      | exact Touches.refl _ _
      | (apply Zone.rest; intro p hp; cases p <;> first | exact absurd (by decide) hp | exact rfl)
      | apply Touches.op (State.emit_touches _ _)
      | extract_lets
      | apply Touches.leaf (Eq.refl _)

theorem execBrambleMerge_touches (unit ctx : Nat) (o : CtxOpen) (es : List TkEntry) (e : CtxEnd) (s : State) : TouchesO [.regs, .comp,
    .out, .free] s (execBrambleMerge unit ctx o es e s) := by
  unfold execBrambleMerge
  with_reducible
    repeat' first
      | (apply Zone.within; decide)
      | exact Touches.refl _ _
      | apply TouchesO.next
      | apply Touches.op (State.closeCtx_touches _ _ _ _ _)
      | apply Touches.op (State.merge_touches _ _ _ _ _ _ _)
      | apply Touches.op (State.hostErr_touches _ _)
      | extract_lets
      | split

theorem State.slotWrite_touches (s : State) (ch slot : Nat) (bs : List Byte) (base lease : Nat) : Touches [.regs] s (State.slotWrite s
    ch slot bs base lease) := by
  unfold State.slotWrite
  with_reducible
    repeat' first
      | (apply Zone.within; decide)
      | exact Touches.refl _ _
      | intro x
      | apply Touches.op (State.slotSet_touches _ _ _ _ _ _)
      | apply Touches.each
      | apply Touches.op (State.setWord_touches _ _ _)

theorem execNbucmd_touches (core ch slot : Nat) (bytes : List Byte) (s : State) : TouchesO [.regs, .nbu, .out, .free] s (execNbucmd core
    ch slot bytes s) := by
  unfold execNbucmd
  with_reducible
    repeat' first
      | (apply Zone.within; decide)
      | exact Touches.refl _ _
      | intro x
      | apply TouchesO.next
      | apply Touches.op (State.slotWrite_touches _ _ _ _ _ _)
      | apply Touches.op (State.cyc_touches _ _ _)
      | apply State.onCore_touches
      | apply Touches.op (State.nbuGoOn_touches _ _ _)
      | apply Touches.op (State.hostErr_touches _ _)
      | extract_lets
      | split

theorem execSloedesc_touches (core : Nat) (d : SloeDesc) (s : State) : TouchesO [.regs, .flash, .out, .free] s (execSloedesc core d s)
    := by
  unfold execSloedesc
  with_reducible
    repeat' first
      | (apply Zone.within; decide)
      | exact Touches.refl _ _
      | intro x
      | apply TouchesO.next
      | apply Touches.op (State.putDesc_touches _ _)
      | apply Touches.op (State.cyc_touches _ _ _)
      | apply State.onCore_touches
      | apply Touches.op (State.hostErr_touches _ _)
      | apply Touches.op (State.emit_touches _ _)
      | extract_lets
      | split

theorem execFabsend_touches (core conn opc : Nat) (payload : List Byte) (s : State) : TouchesO [.regs, .fab, .out, .free] s (execFabsend
    core conn opc payload s) := by
  unfold execFabsend
  with_reducible
    repeat' first
      | (apply Zone.within; decide)
      | exact Touches.refl _ _
      | intro x
      | apply TouchesO.next
      | apply Touches.op (State.cyc_touches _ _ _)
      | apply State.onCore_touches
      | apply Touches.op (State.request_touches _ _ _ _ _ _ _)
      | apply Touches.op (State.hostErr_touches _ _)
      | extract_lets
      | split

theorem execWait_touches (core cycles : Nat) (s : State) : TouchesO [.regs] s (execWait core cycles s) := by
  unfold execWait
  with_reducible
    repeat' first
      | (apply Zone.within; decide)
      | exact Touches.refl _ _
      | intro x
      | apply TouchesO.next
      | apply Touches.op (State.cyc_touches _ _ _)
      | apply State.onCore_touches

/-! ## FlashOps -/

theorem State.setStripe_touches (s : State) (ch k : Nat) (x : Stripe) : Touches [.flash] s (State.setStripe s ch k x) := by
  unfold State.setStripe
  with_reducible
    repeat' first
      | exact Touches.refl _ _
      | (apply Zone.rest; intro p hp; cases p <;> first | exact absurd (by decide) hp | exact rfl)
      | extract_lets
      | apply Touches.leaf (Eq.refl _)

theorem State.takePage_touches (s : State) (ch : Nat) (slc : Bool) : TouchesP [.flash] s (fun x => x.2) (State.takePage s ch slc) := by
  unfold State.takePage
  with_reducible
    repeat' first
      | (apply Zone.within; decide)
      | exact Touches.refl _ _
      | exact TouchesP.ofNone
      | apply TouchesP.ofSome
      | apply Touches.op (State.setStripe_touches _ _ _ _)
      | split

theorem State.subTake_touches (s : State) (key : Nat) : Touches [.alloc, .flash] s (State.subTake s key) := by
  unfold State.subTake
  with_reducible
    repeat' first
      | (apply Zone.within; decide)
      | exact Touches.refl _ _
      | (apply Zone.rest; intro p hp; cases p <;> first | exact absurd (by decide) hp | exact rfl)
      | apply Touches.op (TouchesP.app2 (State.areaTake_touches _ _) (by assumption))
      | extract_lets
      | split
      | apply Touches.leaf (Eq.refl _)

theorem State.subGive_touches (s : State) (key : Nat) : Touches [.flash] s (State.subGive s key) := by
  unfold State.subGive
  with_reducible
    repeat' first
      | exact Touches.refl _ _
      | (apply Zone.rest; intro p hp; cases p <;> first | exact absurd (by decide) hp | exact rfl)
      | extract_lets
      | split
      | apply Touches.leaf (Eq.refl _)

theorem State.setMap_touches (s : State) (ns unit : Nat) (e : MapEnt) : Touches [.alloc, .flash] s (State.setMap s ns unit e) := by
  unfold State.setMap
  with_reducible
    repeat' first
      | (apply Zone.within; decide)
      | exact Touches.refl _ _
      | (apply Zone.rest; intro p hp; cases p <;> first | exact absurd (by decide) hp | exact rfl)
      | apply Touches.op (State.subGive_touches _ _)
      | apply Touches.op (State.subTake_touches _ _)
      | extract_lets
      | split
      | apply Touches.leaf (Eq.refl _)

theorem State.mapTake_touches (s : State) (ns : Nat) : Touches [.alloc, .flash] s (State.mapTake s ns) := by
  unfold State.mapTake
  with_reducible
    repeat' first
      | (apply Zone.within; decide)
      | exact Touches.refl _ _
      | (apply Zone.rest; intro p hp; cases p <;> first | exact absurd (by decide) hp | exact rfl)
      | apply Touches.op (TouchesP.app2 (State.areaTake_touches _ _) (by assumption))
      | extract_lets
      | split
      | apply Touches.leaf (Eq.refl _)

theorem State.mapGive_touches (s : State) (ns : Nat) : Touches [.mem, .alloc, .flash] s (State.mapGive s ns) := by
  unfold State.mapGive
  with_reducible
    repeat' first
      | (apply Zone.within; decide)
      | exact Touches.refl _ _
      | (apply Zone.rest; intro p hp; cases p <;> first | exact absurd (by decide) hp | exact rfl)
      | intro x
      | apply Touches.op (State.areaFree_touches _ _)
      | apply Touches.elim
      | extract_lets
      | apply Touches.leaf (Eq.refl _)

theorem State.modBuf_touches (s : State) (ns unit : Nat) (f : WUnit → WUnit) : Touches [.flash] s (State.modBuf s ns unit f) := by
  unfold State.modBuf
  with_reducible
    repeat' first
      | exact Touches.refl _ _
      | (apply Zone.rest; intro p hp; cases p <;> first | exact absurd (by decide) hp | exact rfl)
      | extract_lets
      | apply Touches.leaf (Eq.refl _)

theorem State.dropBuf_touches (s : State) (ns unit : Nat) : Touches [.flash] s (State.dropBuf s ns unit) := by
  unfold State.dropBuf
  with_reducible
    repeat' first
      | exact Touches.refl _ _
      | (apply Zone.rest; intro p hp; cases p <;> first | exact absurd (by decide) hp | exact rfl)
      | extract_lets
      | apply Touches.leaf (Eq.refl _)

theorem State.journal_touches (s : State) (t : JType) (sector : Bool) (ns logical newpa oldpa : Nat) : Touches [.regs, .flash] s
    (State.journal s t sector ns logical newpa oldpa) := by
  unfold State.journal
  with_reducible
    repeat' first
      | (apply Zone.within; decide)
      | exact Touches.refl _ _
      | (apply Zone.rest; intro p hp; cases p <;> first | exact absurd (by decide) hp | exact rfl)
      | apply Touches.op (State.count_touches _ _ _)
      | extract_lets
      | apply Touches.leaf (Eq.refl _)

theorem State.putSupers_touches (s : State) (ckpt : Nat) : Touches [.regs, .flash] s (State.putSupers s ckpt) := by
  unfold State.putSupers
  with_reducible
    repeat' first
      | (apply Zone.within; decide)
      | exact Touches.refl _ _
      | (apply Zone.rest; intro p hp; cases p <;> first | exact absurd (by decide) hp | exact rfl)
      | intro x
      | apply Touches.each
      | apply Touches.op (State.count_touches _ _ _)
      | extract_lets
      | apply Touches.leaf (Eq.refl _)

theorem State.flashEvent_touches (s : State) (reg bit code sev : Nat) (loc : List Byte) : Touches [.regs, .chk, .host, .out] s
    (State.flashEvent s reg bit code sev loc) := by
  unfold State.flashEvent
  with_reducible
    repeat' first
      | (apply Zone.within; decide)
      | exact Touches.refl _ _
      | apply Touches.op (State.raise_touches _ _ _ _)
      | apply Touches.op (State.emit_touches _ _)

theorem State.pageEvent_touches (s : State) (bit code sev p plane unit : Nat) : Touches [.regs, .chk, .host, .out] s (State.pageEvent s
    bit code sev p plane unit) := by
  unfold State.pageEvent
  with_reducible
    repeat' first
      | (apply Zone.within; decide)
      | exact Touches.refl _ _
      | apply Touches.op (State.flashEvent_touches _ _ _ _ _ _)

theorem State.mapPoison_touches (s : State) : Touches [.regs, .chk, .host, .out] s (State.mapPoison s) := by
  unfold State.mapPoison
  with_reducible
    repeat' first
      | (apply Zone.within; decide)
      | exact Touches.refl _ _
      | apply Touches.op (State.flashEvent_touches _ _ _ _ _ _)

/-! ## FlashRead -/

theorem State.relocate_touches (s : State) (p : Nat) (planes : List Nat) : Touches [.flash] s (State.relocate s p planes) := by
  unfold State.relocate
  with_reducible
    repeat' first
      | (apply Zone.within; decide)
      | exact Touches.refl _ _
      | (apply Zone.rest; intro p hp; cases p <;> first | exact absurd (by decide) hp | exact rfl)
      | apply Touches.op (State.setStripe_touches _ _ _ _)
      | extract_lets
      | split
      | apply Touches.leaf (Eq.refl _)

theorem State.poisonSectors_touches (s : State) (p : Nat) (is : List Nat) : Touches [.alloc, .flash] s (State.poisonSectors s p is) := by
  unfold State.poisonSectors
  with_reducible
    repeat' first
      | (apply Zone.within; decide)
      | exact Touches.refl _ _
      | (apply Zone.rest; intro p hp; cases p <;> first | exact absurd (by decide) hp | exact rfl)
      | apply Touches.op (State.setMap_touches _ _ _ _)
      | extract_lets
      | split
      | apply Touches.leaf (Eq.refl _)

theorem State.retryCmds_touches (s : State) (p n : Nat) (is : List Nat) : Touches [.out] s (State.retryCmds s p n is) := by
  unfold State.retryCmds
  with_reducible
    repeat' first
      | (apply Zone.within; decide)
      | exact Touches.refl _ _
      | intro x
      | apply Touches.each
      | apply Touches.op (State.emit_touches _ _)
      | extract_lets
      | split

theorem State.decodeAt_touches (s : State) (p unit : Nat) (is : List Nat) (es : List (Nat × Option Nat)) : Touches [.regs, .alloc,
    .flash, .chk, .host, .out] s (State.decodeAt s p unit is es).1 := by
  unfold State.decodeAt
  repeat' split
  all_goals with_reducible
    repeat' first
      | (apply Zone.within; decide)
      | exact Touches.refl _ _
      | apply Touches.op (State.retryCmds_touches _ _ _ _)
      | apply Touches.op (State.poisonSectors_touches _ _ _)
      | apply Touches.op (State.relocate_touches _ _ _)
      | apply Touches.op (State.pageEvent_touches _ _ _ _ _ _ _)
      | apply Touches.op (State.count_touches _ _ _)
      | extract_lets
      | split
      | dsimp +zetaDelta only

theorem State.readFull_touches (s : State) (unit : Nat) (ps : Tbl (List Nat)) (errs : List ReadErr) : Touches [.regs, .alloc, .flash,
    .chk, .host, .out] s (State.readFull s unit ps errs) := by
  unfold State.readFull
  with_reducible
    repeat' first
      | (apply Zone.within; decide)
      | exact Touches.refl _ _
      | intro x
      | apply Touches.op (State.decodeAt_touches _ _ _ _ _)
      | apply Touches.each
      | apply Touches.op (State.emit_touches _ _)
      | apply Touches.op (State.count_touches _ _ _)

theorem State.readDone_touches (s : State) (fast raw : Bool) (bytes : List Byte) (rec_ unit : Nat) (ps : List (FPart × List (Nat ×
    Option Nat))) : Touches [.regs, .alloc, .flash, .chk, .host, .out] s (State.readDone s fast raw bytes rec_ unit ps).1 := by
  unfold State.readDone
  repeat' split
  all_goals with_reducible
    repeat' first
      | (apply Zone.within; decide)
      | exact Touches.refl _ _
      | intro x
      | apply Touches.op (State.decodeAt_touches _ _ _ _ _)
      | apply Touches.each
      | apply Touches.op (State.emit_touches _ _)
      | apply Touches.op (State.count_touches _ _ _)
      | apply Touches.foldl1

theorem State.recRead_touches (s : State) (ns off n rec_ : Nat) (errs : List ReadErr) : Touches [.regs, .alloc, .flash, .chk, .host,
    .out] s (State.recRead s ns off n rec_ errs).1 := by
  unfold State.recRead
  repeat' split
  all_goals with_reducible
    repeat' first
      | (apply Zone.within; decide)
      | exact Touches.refl _ _
      | intro x
      | apply Touches.op (State.readDone_touches _ _ _ _ _ _ _)
      | apply Touches.op (State.mapPoison_touches _)
      | apply Touches.each
      | apply Touches.op (State.emit_touches _ _)
      | apply Touches.op (State.count_touches _ _ _)

/-! ## FlashWrite -/

theorem State.capRecompute_touches (s : State) : Touches [.regs] s (State.capRecompute s) := by
  unfold State.capRecompute
  with_reducible
    repeat' first
      | (apply Zone.within; decide)
      | exact Touches.refl _ _
      | apply Touches.op (State.setFld_touches _ _ _)
      | apply Touches.op (State.setReg64_touches _ _ _)
      | extract_lets
      | split

theorem State.readIn_touches (s : State) (ns unit : Nat) (errs : List ReadErr) : Touches [.regs, .alloc, .flash, .chk, .host, .out] s
    (State.readIn s ns unit errs).1 := by
  unfold State.readIn
  repeat' split
  all_goals with_reducible
    repeat' first
      | (apply Zone.within; decide)
      | exact Touches.refl _ _
      | apply Touches.op (State.readFull_touches _ _ _ _)
      | apply Touches.op (State.mapPoison_touches _)
      | extract_lets
      | split

theorem State.stageUnit_touches (s : State) (ns unit : Nat) (errs : List ReadErr) : TouchesA [.regs, .alloc, .flash, .chk, .host, .out]
    s (State.stageUnit s ns unit errs) := by
  unfold State.stageUnit
  with_reducible
    repeat' first
      | (apply Zone.within; decide)
      | exact Touches.refl _ _
      | (apply Zone.rest; intro p hp; cases p <;> first | exact absurd (by decide) hp | exact rfl)
      | apply TouchesA.ok
      | exact TouchesA.wait
      | exact TouchesA.noSpace
      | apply Touches.op (State.readIn_touches _ _ _ _)
      | extract_lets
      | split
      | apply Touches.leaf (Eq.refl _)

theorem State.nsWrite_touches (s : State) (ns off : Nat) (bs : List Byte) (errs : List ReadErr) : TouchesA [.regs, .alloc, .flash, .chk,
    .host, .out] s (State.nsWrite s ns off bs errs) := by
  unfold State.nsWrite
  with_reducible
    repeat' first
      | (apply Zone.within; decide)
      | exact Touches.refl _ _
      | apply TouchesA.ok
      | exact TouchesA.wait
      | exact TouchesA.noSpace
      | apply Touches.op (TouchesA.app (State.stageUnit_touches _ _ _ _) (by assumption))
      | apply Touches.op (State.modBuf_touches _ _ _ _)
      | apply Touches.op (State.count_touches _ _ _)
      | extract_lets
      | split

theorem State.progStart_touches (s : State) (ns unit : Nat) : Touches [.regs, .flash, .chk, .host, .out] s (State.progStart s ns unit)
    := by
  unfold State.progStart
  with_reducible
    repeat' first
      | (apply Zone.within; decide)
      | exact Touches.refl _ _
      | (apply Zone.rest; intro p hp; cases p <;> first | exact absurd (by decide) hp | exact rfl)
      | apply Touches.op (State.flashEvent_touches _ _ _ _ _ _)
      | apply Touches.op (State.modBuf_touches _ _ _ _)
      | apply Touches.op (TouchesP.app2 (State.takePage_touches _ _ _) (by assumption))
      | apply Touches.op (State.emit_touches _ _)
      | extract_lets
      | split
      | apply Touches.leaf (Eq.refl _)

theorem State.progPending_touches (s : State) : Touches [.regs, .flash, .chk, .host, .out] s (State.progPending s) := by
  unfold State.progPending
  with_reducible
    repeat' first
      | (apply Zone.within; decide)
      | exact Touches.refl _ _
      | intro x
      | apply Touches.op (State.progStart_touches _ _ _)
      | apply Touches.foldl
      | extract_lets
      | split

theorem State.unmapSector_touches (s : State) (ns unit i : Nat) : Touches [.regs, .alloc, .flash] s (State.unmapSector s ns unit i) := by
  unfold State.unmapSector
  with_reducible
    repeat' first
      | (apply Zone.within; decide)
      | exact Touches.refl _ _
      | apply Touches.op (State.journal_touches _ _ _ _ _ _ _)
      | apply Touches.op (State.setMap_touches _ _ _ _)
      | extract_lets
      | split

theorem State.unbufSector_touches (s : State) (ns unit i : Nat) : Touches [.flash] s (State.unbufSector s ns unit i) := by
  unfold State.unbufSector
  with_reducible
    repeat' first
      | (apply Zone.within; decide)
      | exact Touches.refl _ _
      | apply Touches.op (State.dropBuf_touches _ _ _)
      | apply Touches.op (State.modBuf_touches _ _ _ _)
      | split

theorem State.discardSector_touches (s : State) (ns unit i : Nat) : Touches [.regs, .alloc, .flash] s (State.discardSector s ns unit i)
    := by
  unfold State.discardSector
  with_reducible
    repeat' first
      | (apply Zone.within; decide)
      | exact Touches.refl _ _
      | apply Touches.op (State.unbufSector_touches _ _ _ _)
      | apply Touches.op (State.unmapSector_touches _ _ _ _)
      | apply Touches.op (State.count_touches _ _ _)
      | extract_lets
      | split

theorem State.discardNs_touches (s : State) (ns : Nat) : Touches [.regs, .mem, .alloc, .flash] s (State.discardNs s ns) := by
  unfold State.discardNs
  with_reducible
    repeat' first
      | (apply Zone.within; decide)
      | exact Touches.refl _ _
      | (apply Zone.rest; intro p hp; cases p <;> first | exact absurd (by decide) hp | exact rfl)
      | intro x
      | apply Touches.op (State.journal_touches _ _ _ _ _ _ _)
      | apply Touches.op (State.mapGive_touches _ _)
      | apply Touches.each
      | apply Touches.op (State.count_touches _ _ _)
      | extract_lets
      | apply Touches.leaf (Eq.refl _)

theorem State.countOrphans_touches (s : State) : Touches [.regs] s (State.countOrphans s) := by
  unfold State.countOrphans
  with_reducible
    repeat' first
      | (apply Zone.within; decide)
      | exact Touches.refl _ _
      | apply Touches.op (State.setFld_touches _ _ _)
      | split

theorem State.newNs_touches (s : State) (ns units : Nat) : Touches [.alloc, .flash] s (State.newNs s ns units) := by
  unfold State.newNs
  with_reducible
    repeat' first
      | (apply Zone.within; decide)
      | exact Touches.refl _ _
      | (apply Zone.rest; intro p hp; cases p <;> first | exact absurd (by decide) hp | exact rfl)
      | apply Touches.op (State.mapTake_touches _ _)
      | extract_lets
      | apply Touches.leaf (Eq.refl _)

theorem State.roCheck_touches (s : State) (ch : Nat) : Touches [.regs, .chk, .host, .out] s (State.roCheck s ch) := by
  unfold State.roCheck
  with_reducible
    repeat' first
      | (apply Zone.within; decide)
      | exact Touches.refl _ _
      | apply Touches.op (State.flashEvent_touches _ _ _ _ _ _)
      | apply Touches.op (State.setFld_touches _ _ _)
      | split

/-! ## IdxOps -/

theorem State.modDesc_touches (s : State) (n : Nat) (f : Desc → Desc) : Touches [.idx] s (State.modDesc s n f) := by
  unfold State.modDesc
  with_reducible
    repeat' first
      | exact Touches.refl _ _
      | (apply Zone.rest; intro p hp; cases p <;> first | exact absurd (by decide) hp | exact rfl)
      | extract_lets
      | apply Touches.leaf (Eq.refl _)

theorem State.setHdr_touches (s : State) (l : Nat) (h : Hdr) : Touches [.mem, .idx] s (State.setHdr s l h) := by
  unfold State.setHdr
  with_reducible
    repeat' first
      | (apply Zone.within; decide)
      | exact Touches.refl _ _
      | (apply Zone.rest; intro p hp; cases p <;> first | exact absurd (by decide) hp | exact rfl)
      | apply Touches.op (State.ilvClean_touches _ _ _)
      | extract_lets
      | apply Touches.leaf (Eq.refl _)

theorem State.setAdj_touches (s : State) (l : Nat) (a : Adj) : Touches [.mem, .idx] s (State.setAdj s l a) := by
  unfold State.setAdj
  with_reducible
    repeat' first
      | (apply Zone.within; decide)
      | exact Touches.refl _ _
      | (apply Zone.rest; intro p hp; cases p <;> first | exact absurd (by decide) hp | exact rfl)
      | apply Touches.op (State.ilvClean_touches _ _ _)
      | extract_lets
      | apply Touches.leaf (Eq.refl _)

theorem State.setMask_touches (s : State) (l : Nat) (on : Bool) : Touches [.idx] s (State.setMask s l on) := by
  unfold State.setMask
  with_reducible
    repeat' first
      | exact Touches.refl _ _
      | (apply Zone.rest; intro p hp; cases p <;> first | exact absurd (by decide) hp | exact rfl)
      | extract_lets
      | apply Touches.leaf (Eq.refl _)

theorem State.setPlaneBit_touches (s : State) (c : CreateFields) (h : Hdr) (q : Nat) (x : SlotAt) (on : Bool) : Touches [.mem] s
    (State.setPlaneBit s c h q x on) := by
  unfold State.setPlaneBit
  with_reducible
    repeat' first
      | (apply Zone.within; decide)
      | exact Touches.refl _ _
      | apply Touches.op (State.chWrite_touches _ _ _ _)

theorem State.writeSlot_touches (s : State) (c : CreateFields) (h : Hdr) (x : SlotAt) (sk vid rec_ : Nat) (tomb : Bool) (filter : Nat) :
    Touches [.mem] s (State.writeSlot s c h x sk vid rec_ tomb filter) := by
  unfold State.writeSlot
  with_reducible
    repeat' first
      | (apply Zone.within; decide)
      | exact Touches.refl _ _
      | intro x
      | apply Touches.op (State.setPlaneBit_touches _ _ _ _ _ _)
      | apply Touches.op (State.chWrite_touches _ _ _ _)
      | apply Touches.each

theorem State.setDir_touches (s : State) (k : Nat) (e : DirEnt) : Touches [.idx] s (State.setDir s k e) := by
  unfold State.setDir
  with_reducible
    repeat' first
      | exact Touches.refl _ _
      | (apply Zone.rest; intro p hp; cases p <;> first | exact absurd (by decide) hp | exact rfl)
      | extract_lets
      | apply Touches.leaf (Eq.refl _)

theorem State.moveDir_touches (s : State) (n : Nat) (d : Desc) (v old new : Nat) : Touches [.idx] s (State.moveDir s n d v old new) := by
  unfold State.moveDir
  with_reducible
    repeat' first
      | (apply Zone.within; decide)
      | exact Touches.refl _ _
      | apply Touches.op (State.setDir_touches _ _ _)
      | split

/-! ## Search -/

theorem State.candVector_touches (s : State) (c : CreateFields) (errs : List ReadErr) (x : Cand) : Touches [.regs, .alloc, .flash, .chk,
    .host, .out] s (State.candVector s c errs x).1 := by
  unfold State.candVector
  repeat' split
  all_goals with_reducible
    repeat' first
      | (apply Zone.within; decide)
      | exact Touches.refl _ _
      | apply Touches.op (State.recRead_touches _ _ _ _ _ _)

theorem State.candVectors_touches (s : State) (c : CreateFields) (errs : List ReadErr) (xs : List Cand) : Touches [.regs, .alloc,
    .flash, .chk, .host, .out] s (State.candVectors s c errs xs).1 := by
  unfold State.candVectors
  repeat' split
  all_goals with_reducible
    repeat' first
      | (apply Zone.within; decide)
      | exact Touches.refl _ _
      | intro x
      | apply Touches.op (State.candVector_touches _ _ _ _)
      | apply Touches.foldl1

theorem State.searchEnd_touches (s : State) (d : Desc) (r : Req) (k : Look) (tag q wl : Nat) (errs : List ReadErr) : Touches [.regs,
    .alloc, .flash, .chk, .host, .out] s (State.searchEnd s d r k tag q wl errs).1 := by
  unfold State.searchEnd
  repeat' split
  all_goals with_reducible
    repeat' first
      | (apply Zone.within; decide)
      | exact Touches.refl _ _
      | apply Touches.op (State.candVectors_touches _ _ _ _)
      | extract_lets
      | split
      | dsimp +zetaDelta only

theorem State.runSearch_touches (s : State) (l tag id : Nat) : Touches [.regs, .work, .chk, .host, .out] s (State.runSearch s l tag id)
    := by
  unfold State.runSearch
  with_reducible
    repeat' first
      | (apply Zone.within; decide)
      | exact Touches.refl _ _
      | apply Touches.op (State.modReq_touches _ _ _)
      | apply Touches.op (State.cper_touches _ _)
      | apply Touches.op (State.count_touches _ _ _)
      | extract_lets
      | split

theorem State.scanSlot_touches (s : State) (l ch row : Nat) : Touches [.work] s (State.scanSlot s l ch row) := by
  unfold State.scanSlot
  with_reducible
    repeat' first
      | (apply Zone.within; decide)
      | exact Touches.refl _ _
      | intro x
      | apply Touches.op (State.modReq_touches _ _ _)
      | apply Touches.each
      | extract_lets
      | split

theorem State.endSearches_touches (s : State) (l tag q wl : Nat) : Touches [.regs, .alloc, .idx, .work, .flash, .chk, .host, .out] s
    (State.endSearches s l tag q wl) := by
  unfold State.endSearches
  with_reducible
    repeat' first
      | (apply Zone.within; decide)
      | exact Touches.refl _ _
      | intro x
      | apply Touches.op (State.searchEnd_touches _ _ _ _ _ _ _ _)
      | apply Touches.op (State.modDesc_touches _ _ _)
      | apply Touches.op (State.modReq_touches _ _ _)
      | apply Touches.each
      | extract_lets
      | split

/-! ## StepOps -/

theorem State.quarantine_touches (s : State) (l core : Nat) : Touches [.regs, .chk, .host, .out] s (State.quarantine s l core) := by
  unfold State.quarantine
  with_reducible
    repeat' first
      | (apply Zone.within; decide)
      | exact Touches.refl _ _
      | apply Touches.op (State.replace_touches _ _)
      | apply Touches.op (State.raise_touches _ _ _ _)
      | apply Touches.op (State.event_touches _ _ _)
      | apply Touches.op (State.setFld_touches _ _ _)
      | extract_lets
      | split

theorem State.suspect_touches (s : State) (l core : Nat) : Touches [.regs, .chk, .host, .out] s (State.suspect s l core) := by
  unfold State.suspect
  with_reducible
    repeat' first
      | (apply Zone.within; decide)
      | exact Touches.refl _ _
      | apply Touches.op (State.raise_touches _ _ _ _)
      | apply Touches.op (State.event_touches _ _ _)
      | apply Touches.op (State.setFld_touches _ _ _)
      | split

theorem State.compFault_touches (s : State) (l core array tag : Nat) : Touches [.regs, .comp, .chk, .host, .out] s (State.compFault s l
    core array tag) := by
  unfold State.compFault
  with_reducible
    repeat' first
      | (apply Zone.within; decide)
      | exact Touches.refl _ _
      | (apply Zone.rest; intro p hp; cases p <;> first | exact absurd (by decide) hp | exact rfl)
      | apply Touches.op (State.quarantine_touches _ _ _)
      | apply Touches.op (State.cper_touches _ _)
      | apply Touches.op (State.count_touches _ _ _)
      | extract_lets
      | split
      | apply Touches.leaf (Eq.refl _)

theorem State.checkerFault_touches (s : State) (l core array tag : Nat) : Touches [.regs, .comp, .chk, .host, .out] s
    (State.checkerFault s l core array tag) := by
  unfold State.checkerFault
  with_reducible
    repeat' first
      | (apply Zone.within; decide)
      | exact Touches.refl _ _
      | (apply Zone.rest; intro p hp; cases p <;> first | exact absurd (by decide) hp | exact rfl)
      | apply Touches.op (State.suspect_touches _ _ _)
      | apply Touches.op (State.cper_touches _ _)
      | apply Touches.op (State.count_touches _ _ _)
      | extract_lets
      | split
      | apply Touches.leaf (Eq.refl _)

theorem State.ageCore_touches (s : State) (core : Nat) : Touches [.comp] s (State.ageCore s core) := by
  unfold State.ageCore
  with_reducible
    repeat' first
      | exact Touches.refl _ _
      | (apply Zone.rest; intro p hp; cases p <;> first | exact absurd (by decide) hp | exact rfl)
      | extract_lets
      | apply Touches.leaf (Eq.refl _)

theorem State.movePos_touches (s : State) (l : Nat) (x : Lease) (reslines pos b : Nat) : Touches [.regs, .mem, .work, .comp] s
    (State.movePos s l x reslines pos b) := by
  unfold State.movePos
  with_reducible
    repeat' first
      | (apply Zone.within; decide)
      | exact Touches.refl _ _
      | intro x
      | apply Touches.op (State.ballastYield_touches _ _)
      | apply Touches.op (State.clearStore_touches _ _)
      | apply Touches.op (State.modLease_touches _ _ _)
      | apply Touches.op (State.setCore_touches _ _ _)
      | apply Touches.op (State.storeFill_touches _ _ _ _ _)
      | apply Touches.op (State.storePoisonLines_touches _ _)
      | apply Touches.op (State.storeWrite_touches _ _ _ _)
      | apply Touches.each
      | apply Touches.op (State.setFld_touches _ _ _)

theorem State.emptyLines_touches (s : State) (reslines : Nat) (cores : List Nat) : Touches [.mem] s (State.emptyLines s reslines cores)
    := by
  unfold State.emptyLines
  with_reducible
    repeat' first
      | exact Touches.refl _ _
      | (apply Zone.rest; intro p hp; cases p <;> first | exact absurd (by decide) hp | exact rfl)
      | extract_lets
      | apply Touches.leaf (Eq.refl _)

theorem State.fillBarrier_touches (s : State) (l : Nat) : Touches [.mem] s (State.fillBarrier s l) := by
  unfold State.fillBarrier
  with_reducible
    repeat' first
      | (apply Zone.within; decide)
      | exact Touches.refl _ _
      | intro x
      | apply Touches.op (State.storeFill_touches _ _ _ _ _)
      | apply Touches.each
      | extract_lets
      | split

theorem State.clearContexts_touches (s : State) (x : Lease) (h : PlanHdr) : Touches [.comp] s (State.clearContexts s x h) := by
  unfold State.clearContexts
  with_reducible
    repeat' first
      | exact Touches.refl _ _
      | (apply Zone.rest; intro p hp; cases p <;> first | exact absurd (by decide) hp | exact rfl)
      | extract_lets
      | apply Touches.leaf (Eq.refl _)

theorem State.rerun_touches (s : State) (l : Nat) (h : PlanHdr) (run : Nat) : Touches [.regs, .mem, .work, .comp] s (State.rerun s l h
    run) := by
  unfold State.rerun
  with_reducible
    repeat' first
      | (apply Zone.within; decide)
      | exact Touches.refl _ _
      | intro x
      | apply Touches.op (State.clearContexts_touches _ _ _)
      | apply Touches.op (State.fillBarrier_touches _ _)
      | apply Touches.op (State.emptyLines_touches _ _ _)
      | apply Touches.op (State.dropReads_touches _ _)
      | apply Touches.op (State.modStep_touches _ _ _)
      | apply Touches.op (State.setCore_touches _ _ _)
      | apply Touches.each
      | apply Touches.op (State.setReg64_touches _ _ _)
      | split

theorem State.sendProv_touches (s : State) (l : Nat) (x : Lease) (p : Step) : Touches [.regs, .work, .fab, .cas, .host, .out] s
    (State.sendProv s l x p) := by
  unfold State.sendProv
  extract_lets rs t z
  have ht : Touches [.regs, .work, .fab, .cas, .host, .out] s t := by
    refine Touches.foldl _ _ (fun u r => ?_) (Touches.refl _ _)
    split
    · exact Touches.op (State.count_touches _ _ _) (by decide) ((State.replyTo_touches _ _ _ _).mono (by decide))
    · exact Touches.refl _ _
  clear_value z t rs
  split
  · exact Touches.refl _ _
  · refine Touches.op (State.modStep_touches _ _ _) (by decide) (Touches.trans ht (fun p hp => ?_))
    cases p <;> first | exact absurd (by decide) hp | exact rfl

theorem State.startReplay_touches (s : State) (q : Prov) : Touches [.regs, .mem, .work, .comp, .cas] s (State.startReplay s q) := by
  unfold State.startReplay
  with_reducible
    repeat' first
      | (apply Zone.within; decide)
      | exact Touches.refl _ _
      | (apply Zone.rest; intro p hp; cases p <;> first | exact absurd (by decide) hp | exact rfl)
      | intro x
      | apply Touches.op (State.fillBarrier_touches _ _)
      | apply Touches.op (State.emptyLines_touches _ _ _)
      | apply Touches.op (State.modLease_touches _ _ _)
      | apply Touches.op (State.setCore_touches _ _ _)
      | apply Touches.each
      | apply Touches.op (State.count_touches _ _ _)
      | apply Touches.op (State.setReg64_touches _ _ _)
      | extract_lets
      | split
      | apply Touches.leaf (Eq.refl _)

theorem State.replayWaiting_touches (s : State) (l : Nat) : Touches [.regs, .mem, .work, .comp, .cas] s (State.replayWaiting s l) := by
  unfold State.replayWaiting
  with_reducible
    repeat' first
      | (apply Zone.within; decide)
      | exact Touches.refl _ _
      | apply Touches.op (State.startReplay_touches _ _)
      | split

theorem State.stepFinal_touches (s : State) (l : Nat) (m : Meas) (second keep : Bool) : Touches [.regs, .work, .comp, .fab, .cas, .chk,
    .nrg, .host, .out] s (State.stepFinal s l m second keep) := by
  unfold State.stepFinal
  with_reducible
    repeat' first
      | (apply Zone.within; decide)
      | exact Touches.refl _ _
      | apply Touches.op (State.sendVerdict_touches _ _ _)
      | apply Touches.op (State.haltCores_touches _ _)
      | apply Touches.op (State.coreCycles_touches _ _ _)
      | apply Touches.op (State.recordStep_touches _ _ _ _ _)
      | apply Touches.op (State.progress_touches _ _ _ _ _ _)
      | apply Touches.op (State.unhold_touches _ _)
      | apply Touches.op (State.modLease_touches _ _ _)
      | extract_lets
      | split

theorem State.thirdRun_touches (s : State) (l : Nat) (x : Lease) (p : Step) (m : Meas) : Touches [.regs, .mem, .alloc, .work, .nbu,
    .comp, .flash, .fab, .cas, .chk, .nrg, .host, .out] s (State.thirdRun s l x p m) := by
  unfold State.thirdRun
  with_reducible
    repeat' first
      | (apply Zone.within; decide)
      | exact Touches.refl _ _
      | intro x
      | apply Touches.op (State.stepFinal_touches _ _ _ _ _)
      | apply Touches.op (State.checkerFault_touches _ _ _ _ _)
      | apply Touches.op (State.compFault_touches _ _ _ _ _)
      | apply Touches.op (State.suspect_touches _ _ _)
      | apply Touches.op (State.abortStep_touches _ _ _ _ _)
      | apply Touches.foldl
      | extract_lets
      | split

theorem State.tryThird_touches (s : State) (l : Nat) : Touches [.regs, .mem, .work, .comp] s (State.tryThird s l) := by
  unfold State.tryThird
  with_reducible
    repeat' first
      | (apply Zone.within; decide)
      | exact Touches.refl _ _
      | intro x
      | apply Touches.op (State.rerun_touches _ _ _ _)
      | apply Touches.op (State.movePos_touches _ _ _ _ _ _)
      | apply Touches.op (State.modStep_touches _ _ _)
      | apply Touches.foldl
      | extract_lets
      | split

theorem State.runEnd_touches (s0 : State) (l : Nat) (x : Lease) (p : Step) (m : Meas) (h : PlanHdr) : Touches [.regs, .mem, .alloc,
    .idx, .work, .nbu, .comp, .flash, .fab, .cas, .chk, .nrg, .host, .out] s0 (State.runEnd s0 l x p m h) := by
  unfold State.runEnd
  with_reducible
    repeat' first
      | (apply Zone.within; decide)
      | exact Touches.refl _ _
      | intro x
      | apply Touches.op (State.tryThird_touches _ _)
      | apply Touches.op (State.thirdRun_touches _ _ _ _ _)
      | apply Touches.op (State.stepFinal_touches _ _ _ _ _)
      | apply Touches.op (State.sendProv_touches _ _ _ _)
      | apply Touches.op (State.rerun_touches _ _ _ _)
      | apply Touches.op (State.endSearches_touches _ _ _ _ _)
      | apply Touches.op (State.abortStep_touches _ _ _ _ _)
      | apply Touches.op (State.coreCycles_touches _ _ _)
      | apply Touches.op (State.modStep_touches _ _ _)
      | apply Touches.op (State.cper_touches _ _)
      | apply Touches.op (State.count_touches _ _ _)
      | apply Touches.foldl
      | extract_lets
      | split
      | dsimp +zetaDelta only

theorem State.applyScatters_touches (s : State) (l : Nat) (p : Step) : Touches [.mem, .work, .tables, .fab, .cas] s (State.applyScatters
    s l p) := by
  unfold State.applyScatters
  with_reducible
    repeat' first
      | (apply Zone.within; decide)
      | exact Touches.refl _ _
      | (apply Zone.rest; intro p hp; cases p <;> first | exact absurd (by decide) hp | exact rfl)
      | intro x
      | apply Touches.op (State.rowPut_touches _ _ _)
      | apply Touches.op (State.tier_touches _ _ _)
      | apply Touches.op (State.request_touches _ _ _ _ _ _ _)
      | apply Touches.foldl
      | extract_lets
      | split
      | apply Touches.leaf (Eq.refl _)

theorem State.deliverStep_touches (s : State) (p : Step) : Touches [.regs, .work, .fab, .cas, .host, .out, .free] s (State.deliverStep s
    p) := by
  unfold State.deliverStep
  with_reducible
    repeat' first
      | (apply Zone.within; decide)
      | exact Touches.refl _ _
      | (apply Zone.rest; intro p hp; cases p <;> first | exact absurd (by decide) hp | exact rfl)
      | intro x
      | apply Touches.op (State.deliver_touches _ _ _ _ _)
      | apply Touches.op (State.answer_touches _ _ _ _ _ _)
      | apply Touches.op (State.release_touches _ _ _)
      | apply Touches.op (State.drawFree_touches _)
      | apply Touches.foldl
      | extract_lets
      | split
      | apply Touches.leaf (Eq.refl _)

theorem State.healPositions_touches (s : State) (l : Nat) (h : PlanHdr) (ps : List Nat) : TouchesP [.regs, .mem, .work, .comp] s (fun x
    => x) (State.healPositions s l h ps) := by
  induction ps generalizing s l h with
  | nil =>
  unfold State.healPositions
  with_reducible
    repeat' first
      | exact Touches.refl _ _
      | apply TouchesP.ofSome
  | cons x r ih =>
  unfold State.healPositions
  with_reducible
    repeat' first
      | (apply Zone.within; decide)
      | exact Touches.refl _ _
      | exact TouchesP.ofNone
      | apply TouchesP.op (ih _ _ _)
      | apply Touches.op (State.movePos_touches _ _ _ _ _ _)
      | extract_lets
      | split

theorem State.applyDecisions_touches (s : State) : Touches [.mem, .alloc, .tables] s (State.applyDecisions s) := by
  unfold State.applyDecisions
  with_reducible
    repeat' first
      | (apply Zone.within; decide)
      | exact Touches.refl _ _
      | (apply Zone.rest; intro p hp; cases p <;> first | exact absurd (by decide) hp | exact rfl)
      | intro x
      | apply Touches.op (State.copiesPut_touches _ _ _ _)
      | apply Touches.op (State.tier_touches _ _ _)
      | apply Touches.op (State.areaFree_touches _ _)
      | apply Touches.op (TouchesP.app2 (State.areaTake_touches _ _) (by assumption))
      | apply Touches.foldl
      | extract_lets
      | split
      | apply Touches.leaf (Eq.refl _)

theorem State.beginStep_touches (s : State) (l : Nat) (x : Lease) (pl : Plan) (b : List Nat) (depth : Nat) (errs : List ReadErr) :
    Touches [.regs, .mem, .alloc, .work, .comp, .tables, .chk, .nrg, .host, .out] s (State.beginStep s l x pl b depth errs) := by
  unfold State.beginStep
  with_reducible
    repeat' first
      | (apply Zone.within; decide)
      | exact Touches.refl _ _
      | (apply Zone.rest; intro p hp; cases p <;> first | exact absurd (by decide) hp | exact rfl)
      | intro x
      | apply Touches.op (State.applyDecisions_touches _)
      | apply Touches.op (State.clearContexts_touches _ _ _)
      | apply Touches.op (State.fillBarrier_touches _ _)
      | apply Touches.op (State.emptyLines_touches _ _ _)
      | apply Touches.op (State.ageCore_touches _ _)
      | apply Touches.op (State.runSearch_touches _ _ _ _)
      | apply Touches.op (State.modLease_touches _ _ _)
      | apply Touches.op (State.setCore_touches _ _ _)
      | apply Touches.each
      | apply Touches.op (State.setReg64_touches _ _ _)
      | apply Touches.foldl
      | extract_lets
      | apply Touches.leaf (Eq.refl _)

/-! ## UpdateOps -/

theorem State.unready_touches (s : State) (m : Msg) : Touches [.fab] s (State.unready s m) := by
  unfold State.unready
  with_reducible
    repeat' first
      | exact Touches.refl _ _
      | (apply Zone.rest; intro p hp; cases p <;> first | exact absurd (by decide) hp | exact rfl)
      | extract_lets
      | apply Touches.leaf (Eq.refl _)

theorem State.tenantCmd_touches {T : List Zone} (s : State) (src : ReqSrc) (opc : Nat) (body : List Byte) (f : List Byte → Nat → State →
    State) (hT : Zone.Within ([.regs, .work, .fab, .host, .out] : List Zone) T) (hf : ∀ (x0 : List Byte) (x1 : Nat) (x2 : State),
    Touches T x2 (f x0 x1 x2)) : TouchesO T s (State.tenantCmd s src opc body f) := by
  unfold State.tenantCmd
  with_reducible
    repeat' first
      | first | exact hT | exact Zone.Within.refl _ | exact Zone.Within.trans (Zone.within (by decide)) hT
      | exact Touches.refl _ _
      | apply TouchesO.next
      | apply Touches.op (State.unready_touches _ _)
      | apply Touches.op (State.answerReq_touches _ _ _ _)
      | apply Touches.op (State.countPoliced_touches _ _)
      | apply Touches.op (TouchesE.app (State.vfAdmit_touches _ _) (by assumption))
      | apply Touches.op (TouchesP.app (State.fetch_touches _ _ _) (by assumption))
      | apply Touches.op (State.completeSt_touches _ _ _)
      | apply Touches.op (State.count_touches _ _ _)
      | apply Touches.op (State.setFld_touches _ _ _)
      | apply Touches.op (hf _ _ _)
      | extract_lets
      | split
      | dsimp +zetaDelta only

theorem State.refuse_touches (s : State) (src : ReqSrc) (op : ReqOp) (body : List Byte) (st : Status) : Touches [.regs, .fab, .host,
    .out] s (State.refuse s src op body st) := by
  unfold State.refuse
  with_reducible
    repeat' first
      | (apply Zone.within; decide)
      | exact Touches.refl _ _
      | apply Touches.op (State.answerReq_touches _ _ _ _)
      | split

theorem State.addReq_touches (s : State) (src : ReqSrc) (op : ReqOp) (tenant plan index : Nat) (body : List Byte) (st : ReqState)
    (forwarded : Bool) (errs : List ReadErr) : Touches [.work] s (State.addReq s src op tenant plan index body st forwarded errs) := by
  unfold State.addReq
  with_reducible
    repeat' first
      | (apply Zone.within; decide)
      | exact Touches.refl _ _
      | (apply Zone.rest; intro p hp; cases p <;> first | exact absurd (by decide) hp | exact rfl)
      | apply Touches.op (State.charge_touches _ _ _)
      | extract_lets
      | apply Touches.leaf (Eq.refl _)

theorem State.tombstone_touches (s : State) (d : Desc) (l : Nat) (x : SlotAt) : Touches [.mem, .idx] s (State.tombstone s d l x) := by
  unfold State.tombstone
  with_reducible
    repeat' first
      | (apply Zone.within; decide)
      | exact Touches.refl _ _
      | apply Touches.op (State.setPlaneBit_touches _ _ _ _ _ _)
      | apply Touches.op (State.setHdr_touches _ _ _)
      | split

theorem State.storeVector_touches (s : State) (c : CreateFields) (h : Hdr) (x : SlotAt) (vid rec_ : Nat) (norm : Bool) (es : List Nat)
    (errs : List ReadErr) : TouchesA [.regs, .mem, .alloc, .flash, .chk, .host, .out] s (State.storeVector s c h x vid rec_ norm es
    errs) := by
  unfold State.storeVector
  with_reducible
    repeat' first
      | (apply Zone.within; decide)
      | exact Touches.refl _ _
      | apply TouchesA.ok
      | apply Touches.op (TouchesA.app (State.nsWrite_touches _ _ _ _ _) (by assumption))
      | apply TouchesA.op (State.nsWrite_touches _ _ _ _ _)
      | apply Touches.op (State.ilvStore_touches _ _ _ _)
      | extract_lets
      | split
      | dsimp +zetaDelta only

theorem State.publish_touches (s : State) (n : Nat) (d : Desc) (l : Nat) (vid rec_ sk filter : Nat) (old : Option (Nat × Nat × SlotAt))
    : Touches [.mem, .idx] s (State.publish s n d l vid rec_ sk filter old) := by
  unfold State.publish
  with_reducible
    repeat' first
      | (apply Zone.within; decide)
      | exact Touches.refl _ _
      | (apply Zone.rest; intro p hp; cases p <;> first | exact absurd (by decide) hp | exact rfl)
      | apply Touches.op (State.tombstone_touches _ _ _ _)
      | apply Touches.op (State.setDir_touches _ _ _)
      | apply Touches.op (State.writeSlot_touches _ _ _ _ _ _ _ _ _)
      | apply Touches.op (State.setHdr_touches _ _ _)
      | apply Touches.op (State.modDesc_touches _ _ _)
      | extract_lets
      | split
      | apply Touches.leaf (Eq.refl _)

theorem State.runPut_touches (s : State) (n : Nat) (d : Desc) (op : ReqOp) (b : List Byte) (errs : List ReadErr) : TouchesU [.regs,
    .mem, .alloc, .idx, .work, .flash, .chk, .host, .out] s (State.runPut s n d op b errs) := by
  unfold State.runPut
  with_reducible
    repeat' first
      | (apply Zone.within; decide)
      | exact Touches.refl _ _
      | apply TouchesU.done
      | apply TouchesU.wthru
      | exact TouchesU.side
      | exact TouchesU.bufWait
      | apply Touches.op (State.publish_touches _ _ _ _ _ _ _ _ _)
      | apply Touches.op (TouchesA.app (State.storeVector_touches _ _ _ _ _ _ _ _ _) (by assumption))
      | apply Touches.op (State.progPending_touches _)
      | apply Touches.op (State.flashEvent_touches _ _ _ _ _ _)
      | apply Touches.op (State.charge_touches _ _ _)
      | extract_lets
      | split
      | dsimp +zetaDelta only

theorem State.runDel_touches (s : State) (n : Nat) (d : Desc) (b : List Byte) : TouchesU [.mem, .idx, .work] s (State.runDel s n d b) :=
    by
  unfold State.runDel
  with_reducible
    repeat' first
      | (apply Zone.within; decide)
      | exact Touches.refl _ _
      | apply TouchesU.done
      | apply Touches.op (State.tombstone_touches _ _ _ _)
      | apply Touches.op (State.setDir_touches _ _ _)
      | apply Touches.op (State.modDesc_touches _ _ _)
      | apply Touches.op (State.release_touches _ _ _)
      | split

theorem State.sendCmd_touches (s : State) (conn opc tag epoch : Nat) (body : List Byte) : Touches [.fab] s (State.sendCmd s conn opc tag
    epoch body) := by
  unfold State.sendCmd
  with_reducible
    repeat' first
      | (apply Zone.within; decide)
      | exact Touches.refl _ _
      | apply Touches.op (State.requestBulk_touches _ _ _ _ _ _ _ _)

theorem State.forwardJoin_touches (s : State) (r : Req) (st : Status) : Touches [.fab] s (State.forwardJoin s r st) := by
  unfold State.forwardJoin
  with_reducible
    repeat' first
      | (apply Zone.within; decide)
      | exact Touches.refl _ _
      | apply Touches.op (State.sendCmd_touches _ _ _ _ _ _)
      | split

theorem State.updateNow_touches (s : State) (r : Req) (d : Desc) : TouchesU [.regs, .mem, .alloc, .idx, .work, .flash, .chk, .host,
    .out] s (State.updateNow s r d) := by
  unfold State.updateNow
  with_reducible
    repeat' first
      | (apply Zone.within; decide)
      | exact Touches.refl _ _
      | apply TouchesU.done
      | apply TouchesU.mono (State.runDel_touches _ _ _ _)
      | apply TouchesU.mono (State.runPut_touches _ _ _ _ _ _)
      | split

theorem State.waitCap_touches (s : State) (r : Req) : Touches [.regs, .work] s (State.waitCap s r) := by
  unfold State.waitCap
  with_reducible
    repeat' first
      | (apply Zone.within; decide)
      | exact Touches.refl _ _
      | apply Touches.op (State.modReq_touches _ _ _)
      | apply Touches.op (State.count_touches _ _ _)
      | extract_lets
      | split

theorem State.runUpdate_touches (s : State) (id : Nat) : Touches [.regs, .mem, .alloc, .idx, .work, .flash, .fab, .chk, .host, .out] s
    (State.runUpdate s id) := by
  unfold State.runUpdate
  split
  · exact Touches.refl _ _
  · rename_i r hr
    have hw : Touches [.regs, .mem, .alloc, .idx, .work, .flash, .fab, .chk, .host, .out] s (s.waitCap r) := (State.waitCap_touches _ _).mono (by decide)
    split
    · exact (State.modReq_touches _ _ _).mono (by decide)
    · split
      · exact (State.finishReq_touches _ _ _ _).mono (by decide)
      · rename_i d hd
        extract_lets late
        have hn := State.updateNow_touches s r d
        split
        · rename_i t st h
          split
          · exact hw
          · exact Touches.op (State.finishReq_touches _ _ _ _) (by decide)
              (Touches.op (State.forwardJoin_touches _ _ _) (by decide) ((hn.1 _ _ h).mono (by decide)))
        · exact (State.modReq_touches _ _ _).mono (by decide)
        · exact hw
        · rename_i t us h
          split
          · exact hw
          · exact Touches.op (State.modReq_touches _ _ _) (by decide)
              (Touches.op (State.forwardJoin_touches _ _ _) (by decide) ((hn.2 _ _ h).mono (by decide)))

theorem State.retryUpdates_touches (s : State) : Touches [.regs, .mem, .alloc, .idx, .work, .flash, .fab, .chk, .host, .out] s
    (State.retryUpdates s) := by
  unfold State.retryUpdates
  with_reducible
    repeat' first
      | (apply Zone.within; decide)
      | exact Touches.refl _ _
      | intro x
      | apply Touches.op (State.runUpdate_touches _ _)
      | apply Touches.foldl

theorem State.finishWthru_touches (s : State) : Touches [.regs, .work, .fab, .host, .out] s (State.finishWthru s) := by
  unfold State.finishWthru
  with_reducible
    repeat' first
      | (apply Zone.within; decide)
      | exact Touches.refl _ _
      | intro x
      | apply Touches.op (State.finishReq_touches _ _ _ _)
      | apply Touches.foldl
      | extract_lets
      | split

theorem State.forward_touches (s : State) (req pos opc tag epoch : Nat) (body : List Byte) : Touches [.fab, .cas] s (State.forward s req
    pos opc tag epoch body) := by
  unfold State.forward
  with_reducible
    repeat' first
      | (apply Zone.within; decide)
      | exact Touches.refl _ _
      | apply Touches.op (State.sendCmd_touches _ _ _ _ _ _)
      | apply Touches.op (State.setPart_touches _ _ _ _)
      | split

theorem State.openGroup_touches (s : State) (tag req : Nat) (op : ReqOp) (index : Nat) (ps : List Nat) : Touches [.cas] s
    (State.openGroup s tag req op index ps) := by
  unfold State.openGroup
  with_reducible
    repeat' first
      | exact Touches.refl _ _
      | (apply Zone.rest; intro p hp; cases p <;> first | exact absurd (by decide) hp | exact rfl)
      | extract_lets
      | apply Touches.leaf (Eq.refl _)

end Sys2Proof.Machine
end

