-- ==== Sys2Proof/Laws/Touch3.lean ====
section
/-! SUPPORT. What the operations and commands of connections, the group, the ports, NBU_GO, the register bus, power, the queues, maintenance and host objects may touch: one lemma each (Laws/Touch.lean). -/

namespace Sys2Proof.Machine

/-! ## PustanOps -/

theorem State.ackSend_touches (s : State) (conn : Nat) : Touches [.fab] s (State.ackSend s conn) := by
  unfold State.ackSend
  with_reducible
    repeat' first
      | (apply Zone.within; decide)
      | exact Touches.refl _ _
      | apply Touches.op (State.answer_touches _ _ _ _ _ _)
      | apply Touches.op (State.setConn_touches _ _ _)
      | split

theorem State.passMsg_touches (s : State) (m : Msg) : Touches [.fab] s (State.passMsg s m) := by
  unfold State.passMsg
  with_reducible
    repeat' first
      | (apply Zone.within; decide)
      | exact Touches.refl _ _
      | apply Touches.op (State.ackSend_touches _ _)
      | apply Touches.op (State.setConn_touches _ _ _)
      | extract_lets
      | split

theorem State.readyUp_touches (s : State) (m : Msg) : Touches [.fab] s (State.readyUp s m) := by
  unfold State.readyUp
  with_reducible
    repeat' first
      | exact Touches.refl _ _
      | (apply Zone.rest; intro p hp; cases p <;> first | exact absurd (by decide) hp | exact rfl)
      | extract_lets
      | apply Touches.leaf (Eq.refl _)

theorem State.inflAdd_touches (s : State) (m : Msg) (w : Wait) : Touches [.fab] s (State.inflAdd s m w) := by
  unfold State.inflAdd
  with_reducible
    repeat' first
      | (apply Zone.within; decide)
      | exact Touches.refl _ _
      | apply Touches.op (State.modConn_touches _ _ _)

theorem State.setWait_touches (s : State) (m : Msg) (w : Wait) : Touches [.fab] s (State.setWait s m w) := by
  unfold State.setWait
  with_reducible
    repeat' first
      | (apply Zone.within; decide)
      | exact Touches.refl _ _
      | apply Touches.op (State.modConn_touches _ _ _)

theorem State.refuseMsg_touches (s : State) (m : Msg) (st : Status) : Touches [.regs, .fab, .host, .out] s (State.refuseMsg s m st) := by
  unfold State.refuseMsg
  with_reducible
    repeat' first
      | (apply Zone.within; decide)
      | exact Touches.refl _ _
      | apply Touches.op (State.passMsg_touches _ _)
      | apply Touches.op (State.inflDone_touches _ _ _)
      | apply Touches.op (State.keepReplay_touches _ _ _)
      | apply Touches.op (State.nak_touches _ _ _)
      | extract_lets
      | split

theorem State.sendXrdy_touches (s : State) (m : Msg) (buf gen : Nat) : Touches [.fab] s (State.sendXrdy s m buf gen) := by
  unfold State.sendXrdy
  with_reducible
    repeat' first
      | (apply Zone.within; decide)
      | exact Touches.refl _ _
      | apply Touches.op (State.sendMsg_touches _ _ _)
      | extract_lets
      | split

theorem State.grantBuf_touches (s : State) (m : Msg) (k : Nat) : Touches [.fab] s (State.grantBuf s m k) := by
  unfold State.grantBuf
  with_reducible
    repeat' first
      | (apply Zone.within; decide)
      | exact Touches.refl _ _
      | (apply Zone.rest; intro p hp; cases p <;> first | exact absurd (by decide) hp | exact rfl)
      | apply Touches.op (State.sendXrdy_touches _ _ _ _)
      | apply Touches.op (State.setWait_touches _ _ _)
      | extract_lets
      | apply Touches.leaf (Eq.refl _)

theorem State.askBuf_touches (s : State) (m : Msg) : Touches [.fab] s (State.askBuf s m) := by
  unfold State.askBuf
  with_reducible
    repeat' first
      | (apply Zone.within; decide)
      | exact Touches.refl _ _
      | (apply Zone.rest; intro p hp; cases p <;> first | exact absurd (by decide) hp | exact rfl)
      | apply Touches.op (State.grantBuf_touches _ _ _)
      | apply Touches.op (State.inflAdd_touches _ _ _)
      | extract_lets
      | split
      | apply Touches.leaf (Eq.refl _)

theorem State.enterMsg_touches (s : State) (m : Msg) : Touches [.regs, .fab, .host, .out] s (State.enterMsg s m) := by
  unfold State.enterMsg
  with_reducible
    repeat' first
      | (apply Zone.within; decide)
      | exact Touches.refl _ _
      | apply Touches.op (State.askBuf_touches _ _)
      | apply Touches.op (State.refuseMsg_touches _ _ _)
      | apply Touches.op (State.inflAdd_touches _ _ _)
      | apply Touches.op (State.readyUp_touches _ _)
      | apply Touches.op (State.passMsg_touches _ _)
      | apply Touches.op (State.count_touches _ _ _)
      | split

theorem State.follow_touches (s : State) (conn n : Nat) : Touches [.regs, .fab, .host, .out] s (State.follow s conn n) := by
  induction n generalizing s conn with
  | zero =>
  unfold State.follow
  with_reducible
    repeat' first
      | exact Touches.refl _ _
  | succ m ih =>
  unfold State.follow
  with_reducible
    repeat' first
      | (apply Zone.within; decide)
      | exact Touches.refl _ _
      | apply Touches.op (ih _ _)
      | apply Touches.op (State.enterMsg_touches _ _)
      | apply Touches.op (State.passMsg_touches _ _)
      | apply Touches.op (State.setConn_touches _ _ _)
      | extract_lets
      | split

theorem State.passOn_touches (s : State) (m : Msg) : Touches [.regs, .fab, .host, .out] s (State.passOn s m) := by
  unfold State.passOn
  with_reducible
    repeat' first
      | (apply Zone.within; decide)
      | exact Touches.refl _ _
      | apply Touches.op (State.follow_touches _ _ _)
      | apply Touches.op (State.passMsg_touches _ _)

theorem State.refuseOn_touches (s : State) (m : Msg) (st : Status) : Touches [.regs, .fab, .host, .out] s (State.refuseOn s m st) := by
  unfold State.refuseOn
  with_reducible
    repeat' first
      | (apply Zone.within; decide)
      | exact Touches.refl _ _
      | apply Touches.op (State.follow_touches _ _ _)
      | apply Touches.op (State.refuseMsg_touches _ _ _)

theorem State.refuseEarly_touches (s : State) (m : Msg) (st : Status) : Touches [.regs, .fab, .host, .out] s (State.refuseEarly s m st)
    := by
  unfold State.refuseEarly
  with_reducible
    repeat' first
      | (apply Zone.within; decide)
      | exact Touches.refl _ _
      | apply Touches.op (State.refuseOn_touches _ _ _)
      | apply Touches.op (State.keepReplay_touches _ _ _)
      | apply Touches.op (State.nak_touches _ _ _)
      | apply Touches.op (State.setConn_touches _ _ _)
      | extract_lets
      | split

theorem State.dupMsg_touches (s : State) (m : Msg) (c : Conn) : Touches [.regs, .fab] s (State.dupMsg s m c) := by
  unfold State.dupMsg
  with_reducible
    repeat' first
      | (apply Zone.within; decide)
      | exact Touches.refl _ _
      | (apply Zone.rest; intro p hp; cases p <;> first | exact absurd (by decide) hp | exact rfl)
      | apply Touches.op (State.sendXrdy_touches _ _ _ _)
      | apply Touches.op (State.answer_touches _ _ _ _ _ _)
      | apply Touches.op (State.count_touches _ _ _)
      | extract_lets
      | split
      | apply Touches.leaf (Eq.refl _)

theorem State.seqIn_touches (s : State) (m : Msg) (c : Conn) : Touches [.regs, .fab, .host, .out] s (State.seqIn s m c) := by
  unfold State.seqIn
  with_reducible
    repeat' first
      | (apply Zone.within; decide)
      | exact Touches.refl _ _
      | apply Touches.op (State.dupMsg_touches _ _ _)
      | apply Touches.op (State.follow_touches _ _ _)
      | apply Touches.op (State.enterMsg_touches _ _)
      | apply Touches.op (State.nak_touches _ _ _)
      | apply Touches.op (State.setConn_touches _ _ _)
      | extract_lets
      | split

theorem State.messageIn_touches (s : State) (m : Msg) : Touches [.regs, .fab, .host, .out] s (State.messageIn s m) := by
  unfold State.messageIn
  with_reducible
    repeat' first
      | (apply Zone.within; decide)
      | exact Touches.refl _ _
      | apply Touches.op (State.seqIn_touches _ _ _)
      | apply Touches.op (State.readyUp_touches _ _)
      | apply Touches.op (State.nak_touches _ _ _)
      | split

theorem State.resFault_touches (s : State) (m : Msg) (r : Region) (gs : List Nat) : Touches [.regs, .fab, .host, .out] s (State.resFault
    s m r gs) := by
  unfold State.resFault
  with_reducible
    repeat' first
      | (apply Zone.within; decide)
      | exact Touches.refl _ _
      | intro x
      | apply Touches.op (State.setWait_touches _ _ _)
      | apply Touches.op (State.postEvent_touches _ _ _)
      | apply Touches.op (State.event_touches _ _ _)
      | apply Touches.op (State.count_touches _ _ _)
      | apply Touches.foldl

theorem State.segsRetry_touches (s : State) : Touches [.fab] s (State.segsRetry s) := by
  unfold State.segsRetry
  with_reducible
    repeat' first
      | (apply Zone.within; decide)
      | exact Touches.refl _ _
      | intro x
      | apply Touches.op (State.setWait_touches _ _ _)
      | apply Touches.op (State.readyUp_touches _ _)
      | apply Touches.foldl
      | extract_lets
      | split

theorem State.settleRegions_touches (s : State) : Touches [.regs, .fab, .host, .out] s (State.settleRegions s) := by
  unfold State.settleRegions
  with_reducible
    repeat' first
      | (apply Zone.within; decide)
      | exact Touches.refl _ _
      | (apply Zone.rest; intro p hp; cases p <;> first | exact absurd (by decide) hp | exact rfl)
      | intro x
      | apply Touches.op (State.completeSt_touches _ _ _)
      | apply Touches.foldl
      | extract_lets
      | split
      | apply Touches.leaf (Eq.refl _)

theorem State.regionWrite_touches (s : State) (r : RegionRec) (off : Nat) (bs : List Byte) (pois : List Bool) : Touches [.mem, .out] s
    (State.regionWrite s r off bs pois) := by
  unfold State.regionWrite
  with_reducible
    repeat' first
      | (apply Zone.within; decide)
      | exact Touches.refl _ _
      | apply Touches.op (State.recheck_touches _ _ _)
      | apply Touches.op (State.hbmPoisonLines_touches _ _)
      | apply Touches.op (State.chWrite_touches _ _ _ _)
      | apply Touches.op (State.ilvWrite_touches _ _ _)
      | apply Touches.op (State.emit_touches _ _)
      | split

theorem State.noteHost_touches (s : State) (conn : Nat) (r : RegionRec) : Touches [.fab] s (State.noteHost s conn r) := by
  unfold State.noteHost
  with_reducible
    repeat' first
      | (apply Zone.within; decide)
      | exact Touches.refl _ _
      | apply Touches.op (State.modConn_touches _ _ _)
      | split

theorem State.setLocks_touches (s : State) (g : Nat) (ls : List RLock) : Touches [.fab] s (State.setLocks s g ls) := by
  unfold State.setLocks
  with_reducible
    repeat' first
      | exact Touches.refl _ _
      | (apply Zone.rest; intro p hp; cases p <;> first | exact absurd (by decide) hp | exact rfl)
      | extract_lets
      | apply Touches.leaf (Eq.refl _)

theorem State.takeLock_touches (s : State) (g : Nat) (m : Msg) (a : Access) : Touches [.fab] s (State.takeLock s g m a) := by
  unfold State.takeLock
  with_reducible
    repeat' first
      | (apply Zone.within; decide)
      | exact Touches.refl _ _
      | apply Touches.op (State.setLocks_touches _ _ _)

theorem State.lockStep_touches (s : State) (g : Nat) (m : Msg) (a : Access) : Touches [.regs, .fab] s (State.lockStep s g m a).1 := by
  unfold State.lockStep
  repeat' split
  all_goals with_reducible
    repeat' first
      | (apply Zone.within; decide)
      | exact Touches.refl _ _
      | (apply Zone.rest; intro p hp; cases p <;> first | exact absurd (by decide) hp | exact rfl)
      | apply Touches.op (State.takeLock_touches _ _ _ _)
      | apply Touches.op (State.setLocks_touches _ _ _)
      | apply Touches.op (State.setWait_touches _ _ _)
      | apply Touches.op (State.count_touches _ _ _)
      | extract_lets
      | split
      | apply Touches.leaf (Eq.refl _)

theorem State.unlock_touches (s : State) (conn seq : Nat) : Touches [.regs, .fab, .host, .out] s (State.unlock s conn seq) := by
  unfold State.unlock
  with_reducible
    repeat' first
      | (apply Zone.within; decide)
      | exact Touches.refl _ _
      | (apply Zone.rest; intro p hp; cases p <;> first | exact absurd (by decide) hp | exact rfl)
      | apply Touches.op (State.setLocks_touches _ _ _)
      | apply Touches.op (State.settleRegions_touches _)
      | extract_lets
      | apply Touches.leaf (Eq.refl _)

theorem State.unlockSent_touches (s : State) (conn seq : Nat) : Touches [.regs, .fab, .host, .out] s (State.unlockSent s conn seq) := by
  unfold State.unlockSent
  with_reducible
    repeat' first
      | (apply Zone.within; decide)
      | exact Touches.refl _ _
      | apply Touches.op (State.unlock_touches _ _ _)
      | split

theorem State.withdrawPost_touches (s : State) (conn seq : Nat) : Touches [.regs, .fab, .host, .out] s (State.withdrawPost s conn seq)
    := by
  unfold State.withdrawPost
  with_reducible
    repeat' first
      | (apply Zone.within; decide)
      | exact Touches.refl _ _
      | apply Touches.op (State.settleRegions_touches _)
      | apply Touches.op (State.modConn_touches _ _ _)

theorem State.stagingUnwait_touches (s : State) (conn seq : Nat) : Touches [.fab] s (State.stagingUnwait s conn seq) := by
  unfold State.stagingUnwait
  with_reducible
    repeat' first
      | exact Touches.refl _ _
      | (apply Zone.rest; intro p hp; cases p <;> first | exact absurd (by decide) hp | exact rfl)
      | extract_lets
      | apply Touches.leaf (Eq.refl _)

theorem State.failPart_touches (s : State) (conn seq : Nat) (st : Status) : Touches [.cas] s (State.failPart s conn seq st) := by
  unfold State.failPart
  with_reducible
    repeat' first
      | (apply Zone.within; decide)
      | exact Touches.refl _ _
      | apply Touches.op (State.setPart_touches _ _ _ _)
      | split

theorem State.setMember_touches (s : State) (p : Nat) (st : MState) : Touches [.regs, .cas, .chk, .host, .out] s (State.setMember s p
    st) := by
  unfold State.setMember
  with_reducible
    repeat' first
      | (apply Zone.within; decide)
      | exact Touches.refl _ _
      | (apply Zone.rest; intro p hp; cases p <;> first | exact absurd (by decide) hp | exact rfl)
      | apply Touches.op (State.raise_touches _ _ _ _)
      | extract_lets
      | split
      | apply Touches.leaf (Eq.refl _)

theorem State.connFail_touches (s : State) (conn : Nat) : Touches [.regs, .work, .fab, .cas, .chk, .host, .out] s (State.connFail s
    conn) := by
  unfold State.connFail
  with_reducible
    repeat' first
      | (apply Zone.within; decide)
      | exact Touches.refl _ _
      | (apply Zone.rest; intro p hp; cases p <;> first | exact absurd (by decide) hp | exact rfl)
      | intro x
      | apply Touches.op (State.setMember_touches _ _ _)
      | apply Touches.op (State.failPart_touches _ _ _ _)
      | apply Touches.op (State.setLocks_touches _ _ _)
      | apply Touches.op (State.settleRegions_touches _)
      | apply Touches.op (State.finishReq_touches _ _ _ _)
      | apply Touches.op (State.modLease_touches _ _ _)
      | apply Touches.op (State.freeStaging_touches _ _ _)
      | apply Touches.op (State.setConn_touches _ _ _)
      | apply Touches.op (State.raise_touches _ _ _ _)
      | apply Touches.foldl
      | extract_lets
      | split
      | apply Touches.leaf (Eq.refl _)

/-! ## CasOps -/

theorem State.putRecord_touches (s : State) (g : GroupReq) (pos : Nat) (z : SearchRec) (pend : Bool) : Touches [.cas] s (State.putRecord
    s g pos z pend) := by
  unfold State.putRecord
  with_reducible
    repeat' first
      | (apply Zone.within; decide)
      | exact Touches.refl _ _
      | (apply Zone.rest; intro p hp; cases p <;> first | exact absurd (by decide) hp | exact rfl)
      | apply Touches.op (State.setPart_touches _ _ _ _)
      | extract_lets
      | split
      | apply Touches.leaf (Eq.refl _)

theorem State.groupReply_touches (s : State) (m : Msg) : Touches [.cas] s (State.groupReply s m) := by
  unfold State.groupReply
  with_reducible
    repeat' first
      | (apply Zone.within; decide)
      | exact Touches.refl _ _
      | apply Touches.op (State.putRecord_touches _ _ _ _ _)
      | apply Touches.op (State.setPart_touches _ _ _ _)
      | split

theorem State.toMember_touches (s : State) (pos mtype : Nat) (body : List Byte) : Touches [.fab] s (State.toMember s pos mtype body) := by
  unfold State.toMember
  with_reducible
    repeat' first
      | (apply Zone.within; decide)
      | exact Touches.refl _ _
      | apply Touches.op (State.request_touches _ _ _ _ _ _ _)
      | split

theorem State.toNode_touches (s : State) (node mtype : Nat) (body : List Byte) : Touches [.fab] s (State.toNode s node mtype body) := by
  unfold State.toNode
  with_reducible
    repeat' first
      | (apply Zone.within; decide)
      | exact Touches.refl _ _
      | apply Touches.op (State.request_touches _ _ _ _ _ _ _)
      | split

theorem State.sysDone_touches (s : State) (m : Msg) : Touches [.regs, .fab, .host, .out] s (State.sysDone s m) := by
  unfold State.sysDone
  with_reducible
    repeat' first
      | (apply Zone.within; decide)
      | exact Touches.refl _ _
      | apply Touches.op (State.unready_touches _ _)
      | apply Touches.op (State.doneMsg_touches _ _)

theorem State.onSys_touches {T : List Zone} (s : State) (m : Msg) (mtype kind : Nat) (f : State → State) (hT : Zone.Within ([.regs,
    .fab, .host, .out] : List Zone) T) (hf : ∀ (x0 : State), Touches T x0 (f x0)) : TouchesO T s (State.onSys s m mtype kind f) := by
  unfold State.onSys
  with_reducible
    repeat' first
      | first | exact hT | exact Zone.Within.refl _ | exact Zone.Within.trans (Zone.within (by decide)) hT
      | exact Touches.refl _ _
      | apply TouchesO.next
      | apply Touches.op (State.sysDone_touches _ _)
      | apply Touches.op (hf _)
      | split

/-! ## Fabric -/

theorem State.sendPfc_touches (s : State) (p cls quanta : Nat) : Touches [.regs, .out] s (State.sendPfc s p cls quanta) := by
  unfold State.sendPfc
  with_reducible
    repeat' first
      | (apply Zone.within; decide)
      | exact Touches.refl _ _
      | apply Touches.op (State.emit_touches _ _)
      | apply Touches.op (State.count_touches _ _ _)

theorem State.occAdd_touches (s : State) (p cls n : Nat) : Touches [.regs, .fab, .out] s (State.occAdd s p cls n) := by
  unfold State.occAdd
  with_reducible
    repeat' first
      | (apply Zone.within; decide)
      | exact Touches.refl _ _
      | apply Touches.op (State.sendPfc_touches _ _ _ _)
      | apply Touches.op (State.setPort_touches _ _ _)
      | extract_lets
      | split

theorem State.occSub_touches (s : State) (p cls n : Nat) : Touches [.regs, .fab, .out] s (State.occSub s p cls n) := by
  unfold State.occSub
  with_reducible
    repeat' first
      | (apply Zone.within; decide)
      | exact Touches.refl _ _
      | apply Touches.op (State.sendPfc_touches _ _ _ _)
      | apply Touches.op (State.setPort_touches _ _ _)
      | extract_lets
      | split

theorem State.ctxDrop_touches (s : State) (p : Nat) (c : Ctx) : Touches [.regs, .fab, .out] s (State.ctxDrop s p c) := by
  unfold State.ctxDrop
  with_reducible
    repeat' first
      | (apply Zone.within; decide)
      | exact Touches.refl _ _
      | apply Touches.op (State.occSub_touches _ _ _ _)
      | apply Touches.op (State.setPort_touches _ _ _)
      | extract_lets
      | split

theorem State.reasmFull_touches (s : State) (p : Nat) (m : Msg) : Touches [.regs, .fab] s (State.reasmFull s p m) := by
  unfold State.reasmFull
  with_reducible
    repeat' first
      | (apply Zone.within; decide)
      | exact Touches.refl _ _
      | apply Touches.op (State.nak_touches _ _ _)
      | apply Touches.op (State.setPort_touches _ _ _)
      | apply Touches.op (State.event_touches _ _ _)
      | extract_lets
      | split

theorem State.ctxAdd_touches (s : State) (p : Nat) (c : Ctx) (m : Msg) : Touches [.regs, .fab, .host, .out] s (State.ctxAdd s p c m) := by
  unfold State.ctxAdd
  with_reducible
    repeat' first
      | (apply Zone.within; decide)
      | exact Touches.refl _ _
      | apply Touches.op (State.ctxDrop_touches _ _ _)
      | apply Touches.op (State.occAdd_touches _ _ _ _)
      | apply Touches.op (State.messageIn_touches _ _)
      | apply Touches.op (State.setPort_touches _ _ _)
      | extract_lets
      | split
      | dsimp +zetaDelta only

theorem State.reassemble_touches (s : State) (p cls : Nat) (m : Msg) : Touches [.regs, .fab, .host, .out] s (State.reassemble s p cls m)
    := by
  unfold State.reassemble
  with_reducible
    repeat' first
      | (apply Zone.within; decide)
      | exact Touches.refl _ _
      | apply Touches.op (State.ctxAdd_touches _ _ _ _)
      | apply Touches.op (State.reasmFull_touches _ _ _)
      | apply Touches.op (State.ctxDrop_touches _ _ _)
      | apply Touches.op (State.messageIn_touches _ _)
      | apply Touches.op (State.refuseEarly_touches _ _ _)
      | apply Touches.op (State.setPort_touches _ _ _)
      | apply Touches.op (State.count_touches _ _ _)
      | extract_lets
      | split

theorem State.police_touches (s : State) (c : Conn) (f : Frame) : TouchesP [.work] s (fun x => x) (State.police s c f) := by
  unfold State.police
  with_reducible
    repeat' first
      | (apply Zone.within; decide)
      | exact Touches.refl _ _
      | intro x
      | apply TouchesP.ofSome
      | apply TouchesP.map'
      | apply Touches.op (State.modTenant_touches _ _ _)
      | split

theorem State.policed_touches (s : State) (c : Conn) (m : Msg) : Touches [.regs, .work, .fab] s (State.policed s c m) := by
  unfold State.policed
  with_reducible
    repeat' first
      | (apply Zone.within; decide)
      | exact Touches.refl _ _
      | apply Touches.op (State.nak_touches _ _ _)
      | apply Touches.op (State.modConn_touches _ _ _)
      | apply Touches.op (State.countPoliced_touches _ _)
      | extract_lets
      | split

theorem State.packetIn_touches (s : State) (p : Nat) (f : Frame) (c : Conn) : Touches [.regs, .work, .fab, .host, .out] s
    (State.packetIn s p f c) := by
  unfold State.packetIn
  with_reducible
    repeat' first
      | (apply Zone.within; decide)
      | exact Touches.refl _ _
      | (apply Zone.rest; intro p hp; cases p <;> first | exact absurd (by decide) hp | exact rfl)
      | apply Touches.op (State.policed_touches _ _ _)
      | apply Touches.op (TouchesP.app (State.police_touches _ _ _) (by assumption))
      | apply Touches.op (State.reassemble_touches _ _ _ _)
      | apply Touches.op (State.nakNoConn_touches _ _ _)
      | apply Touches.op (State.modConn_touches _ _ _)
      | extract_lets
      | split
      | apply Touches.leaf (Eq.refl _)

theorem State.connIn_touches (s : State) (p : Nat) (f : Frame) : Touches [.regs, .work, .fab, .host, .out] s (State.connIn s p f) := by
  unfold State.connIn
  with_reducible
    repeat' first
      | (apply Zone.within; decide)
      | exact Touches.refl _ _
      | (apply Zone.rest; intro p hp; cases p <;> first | exact absurd (by decide) hp | exact rfl)
      | apply Touches.op (State.packetIn_touches _ _ _ _)
      | apply Touches.op (State.nakNoConn_touches _ _ _)
      | apply Touches.op (State.emit_touches _ _)
      | apply Touches.op (State.count_touches _ _ _)
      | extract_lets
      | split
      | apply Touches.leaf (Eq.refl _)

theorem execFrameReceive_touches (p : Nat) (f : Frame) (s : State) : TouchesO [.regs, .work, .fab, .host, .out] s (execFrameReceive p f
    s) := by
  unfold execFrameReceive
  with_reducible
    repeat' first
      | (apply Zone.within; decide)
      | exact Touches.refl _ _
      | apply TouchesO.next
      | apply Touches.op (State.connIn_touches _ _ _)
      | apply Touches.op (State.count_touches _ _ _)
      | extract_lets
      | split

theorem State.onPort_touches {T : List Zone} (s : State) (p : Nat) (f : Port → State) (hT : Zone.Within ([] : List Zone) T) (hf : ∀ (x0
    : Port), Touches T s (f x0)) : TouchesO T s (State.onPort s p f) := by
  unfold State.onPort
  with_reducible
    repeat' first
      | first | exact hT | exact Zone.Within.refl _ | exact Zone.Within.trans (Zone.within (by decide)) hT
      | exact Touches.refl _ _
      | apply TouchesO.next
      | apply Touches.op (hf _)
      | extract_lets
      | split

theorem execPfcFrame_touches (p classes quanta : Nat) (s : State) : TouchesO [.regs, .fab] s (execPfcFrame p classes quanta s) := by
  unfold execPfcFrame
  with_reducible
    repeat' first
      | (apply Zone.within; decide)
      | exact Touches.refl _ _
      | intro x
      | apply State.onPort_touches
      | apply Touches.op (State.setPort_touches _ _ _)
      | apply Touches.op (State.count_touches _ _ _)

theorem execPfcRefresh_touches (p cls : Nat) (s : State) : TouchesO [.regs, .out] s (execPfcRefresh p cls s) := by
  unfold execPfcRefresh
  with_reducible
    repeat' first
      | (apply Zone.within; decide)
      | exact Touches.refl _ _
      | intro x
      | apply State.onPort_touches
      | apply Touches.op (State.sendPfc_touches _ _ _ _)
      | extract_lets
      | split

theorem execPfcwdExpiry_touches (p cls : Nat) (s : State) : TouchesO [.regs, .chk, .host, .out] s (execPfcwdExpiry p cls s) := by
  unfold execPfcwdExpiry
  with_reducible
    repeat' first
      | (apply Zone.within; decide)
      | exact Touches.refl _ _
      | intro x
      | apply State.onPort_touches
      | apply Touches.op (State.raise_touches _ _ _ _)
      | extract_lets
      | split

theorem State.markHwm_touches (s : State) (p c t ns : Nat) : Touches [.regs, .work] s (State.markHwm s p c t ns) := by
  unfold State.markHwm
  with_reducible
    repeat' first
      | (apply Zone.within; decide)
      | exact Touches.refl _ _
      | apply Touches.op (State.modTenant_touches _ _ _)
      | apply Touches.op (State.setWord_touches _ _ _)

theorem State.beginFrame_touches (s : State) (p : Nat) (x : Port) (c t : Nat) (e : Egress) (td cd : Tbl Nat) : Touches [.regs, .work,
    .fab, .host, .out] s (State.beginFrame s p x c t e td cd) := by
  unfold State.beginFrame
  with_reducible
    repeat' first
      | (apply Zone.within; decide)
      | exact Touches.refl _ _
      | apply Touches.op (State.markHwm_touches _ _ _ _ _)
      | apply Touches.op (State.unlockSent_touches _ _ _)
      | apply Touches.op (State.setPort_touches _ _ _)
      | apply Touches.op (State.modTenant_touches _ _ _)
      | apply Touches.op (State.emit_touches _ _)
      | apply Touches.op (State.count_touches _ _ _)
      | extract_lets
      | split

theorem State.gateRestart_touches (s : State) (p : Nat) : Touches [.fab] s (State.gateRestart s p) := by
  unfold State.gateRestart
  with_reducible
    repeat' first
      | (apply Zone.within; decide)
      | exact Touches.refl _ _
      | apply Touches.op (State.setPort_touches _ _ _)

theorem execEgressPick_touches (p : Nat) (s : State) : TouchesO [.regs, .work, .fab, .host, .out] s (execEgressPick p s) := by
  unfold execEgressPick
  with_reducible
    repeat' first
      | (apply Zone.within; decide)
      | exact Touches.refl _ _
      | intro x
      | apply Touches.op (State.gateRestart_touches _ _)
      | apply Touches.op (State.beginFrame_touches _ _ _ _ _ _ _ _)
      | apply State.onPort_touches
      | apply Touches.op (State.setPort_touches _ _ _)
      | extract_lets
      | split
      | dsimp +zetaDelta only

theorem execGateListEnable_touches (p : Nat) (s : State) : TouchesO [.regs, .fab] s (execGateListEnable p s) := by
  unfold execGateListEnable
  with_reducible
    repeat' first
      | (apply Zone.within; decide)
      | exact Touches.refl _ _
      | intro x
      | apply Touches.op (State.gateRestart_touches _ _)
      | apply State.onPort_touches
      | apply Touches.op (State.setFld_touches _ _ _)
      | extract_lets
      | split

theorem execGateIntervalEnd_touches (p : Nat) (s : State) : TouchesO [.fab] s (execGateIntervalEnd p s) := by
  unfold execGateIntervalEnd
  with_reducible
    repeat' first
      | (apply Zone.within; decide)
      | exact Touches.refl _ _
      | intro x
      | apply State.onPort_touches
      | apply Touches.op (State.setPort_touches _ _ _)
      | extract_lets
      | split

theorem execGateListRestart_touches (p : Nat) (s : State) : TouchesO [.regs, .fab] s (execGateListRestart p s) := by
  unfold execGateListRestart
  with_reducible
    repeat' first
      | (apply Zone.within; decide)
      | exact Touches.refl _ _
      | intro x
      | apply Touches.op (State.gateRestart_touches _ _)
      | apply State.onPort_touches
      | apply Touches.op (State.setPort_touches _ _ _)
      | apply Touches.op (State.event_touches _ _ _)
      | extract_lets
      | split

theorem State.portDown_touches (s : State) (p : Nat) : Touches [.regs, .work, .fab, .cas, .chk, .host, .out] s (State.portDown s p) := by
  unfold State.portDown
  with_reducible
    repeat' first
      | (apply Zone.within; decide)
      | exact Touches.refl _ _
      | intro x
      | apply Touches.op (State.sendPfc_touches _ _ _ _)
      | apply Touches.op (State.connFail_touches _ _)
      | apply Touches.op (State.setPort_touches _ _ _)
      | apply Touches.each
      | apply Touches.op (State.setFld_touches _ _ _)
      | apply Touches.foldl
      | extract_lets
      | split

theorem execLinkUp_touches (p : Nat) (s : State) : TouchesO [.regs, .fab] s (execLinkUp p s) := by
  unfold execLinkUp
  with_reducible
    repeat' first
      | (apply Zone.within; decide)
      | exact Touches.refl _ _
      | intro x
      | apply State.onPort_touches
      | apply Touches.op (State.setPort_touches _ _ _)
      | apply Touches.op (State.event_touches _ _ _)
      | apply Touches.op (State.setFld_touches _ _ _)
      | extract_lets
      | split

theorem execLinkDown_touches (p : Nat) (s : State) : TouchesO [.regs, .work, .fab, .cas, .chk, .host, .out] s (execLinkDown p s) := by
  unfold execLinkDown
  with_reducible
    repeat' first
      | (apply Zone.within; decide)
      | exact Touches.refl _ _
      | intro x
      | apply Touches.op (State.portDown_touches _ _)
      | apply State.onPort_touches
      | apply Touches.op (State.event_touches _ _ _)
      | extract_lets
      | split

theorem State.portLost_touches (s : State) (p : Nat) : Touches [.regs, .fab, .chk, .host, .out] s (State.portLost s p) := by
  unfold State.portLost
  with_reducible
    repeat' first
      | (apply Zone.within; decide)
      | exact Touches.refl _ _
      | apply Touches.op (State.setPort_touches _ _ _)
      | apply Touches.op (State.replace_touches _ _)
      | apply Touches.op (State.raise_touches _ _ _ _)
      | extract_lets
      | split

theorem execLosttimeExpiry_touches (p : Nat) (s : State) : TouchesO [.regs, .fab, .chk, .host, .out] s (execLosttimeExpiry p s) := by
  unfold execLosttimeExpiry
  with_reducible
    repeat' first
      | (apply Zone.within; decide)
      | exact Touches.refl _ _
      | intro x
      | apply Touches.op (State.portLost_touches _ _)
      | apply State.onPort_touches
      | extract_lets
      | split

theorem execLinkTrainingFailure_touches (p : Nat) (s : State) : TouchesO [.regs, .fab, .chk, .host, .out] s (execLinkTrainingFailure p
    s) := by
  unfold execLinkTrainingFailure
  with_reducible
    repeat' first
      | (apply Zone.within; decide)
      | exact Touches.refl _ _
      | intro x
      | apply Touches.op (State.portLost_touches _ _)
      | apply State.onPort_touches
      | extract_lets
      | split

theorem execReasmtoExpiry_touches (p dconn msgid : Nat) (s : State) : TouchesO [.regs, .fab, .out] s (execReasmtoExpiry p dconn msgid s)
    := by
  unfold execReasmtoExpiry
  with_reducible
    repeat' first
      | (apply Zone.within; decide)
      | exact Touches.refl _ _
      | intro x
      | apply State.onPort_touches
      | apply Touches.op (State.ctxDrop_touches _ _ _)
      | apply Touches.op (State.nak_touches _ _ _)
      | apply Touches.op (State.setPort_touches _ _ _)
      | apply Touches.op (State.count_touches _ _ _)
      | extract_lets
      | split

theorem execDeadListExpiry_touches (p dconn msgid : Nat) (s : State) : TouchesO [.fab] s (execDeadListExpiry p dconn msgid s) := by
  unfold execDeadListExpiry
  with_reducible
    repeat' first
      | (apply Zone.within; decide)
      | exact Touches.refl _ _
      | intro x
      | apply State.onPort_touches
      | apply Touches.op (State.setPort_touches _ _ _)

theorem execReordertoExpiry_touches (conn seq : Nat) (s : State) : TouchesO [.regs, .fab] s (execReordertoExpiry conn seq s) := by
  unfold execReordertoExpiry
  with_reducible
    repeat' first
      | (apply Zone.within; decide)
      | exact Touches.refl _ _
      | apply Touches.op (State.setConn_touches _ _ _)
      | apply State.whenServing_touches
      | apply Touches.op (State.count_touches _ _ _)
      | extract_lets
      | split

theorem execXrdytoExpiry_touches (buf : Nat) (s : State) : TouchesO [.regs, .fab, .host, .out] s (execXrdytoExpiry buf s) := by
  unfold execXrdytoExpiry
  with_reducible
    repeat' first
      | (apply Zone.within; decide)
      | exact Touches.refl _ _
      | apply Touches.op (State.withdrawPost_touches _ _ _)
      | apply Touches.op (State.refuseOn_touches _ _ _)
      | apply Touches.op (State.replyTo_touches _ _ _ _)
      | apply Touches.op (State.freeStaging_touches _ _ _)
      | apply State.whenServing_touches
      | extract_lets
      | split

theorem State.resend_touches (s : State) (conn seq : Nat) : Touches [.regs, .work, .fab, .cas, .chk, .host, .out] s (State.resend s conn
    seq) := by
  unfold State.resend
  with_reducible
    repeat' first
      | (apply Zone.within; decide)
      | exact Touches.refl _ _
      | apply Touches.op (State.connFail_touches _ _)
      | apply Touches.op (State.sendMsg_touches _ _ _)
      | apply Touches.op (State.setConn_touches _ _ _)
      | apply Touches.op (State.count_touches _ _ _)
      | split

theorem execRtoExpiry_touches (conn seq : Nat) (s : State) : TouchesO [.regs, .work, .fab, .cas, .chk, .host, .out] s (execRtoExpiry
    conn seq s) := by
  unfold execRtoExpiry
  with_reducible
    repeat' first
      | (apply Zone.within; decide)
      | exact Touches.refl _ _
      | apply Touches.op (State.resend_touches _ _ _)
      | apply State.whenServing_touches
      | extract_lets
      | split

theorem execAckintExpiry_touches (conn : Nat) (s : State) : TouchesO [.fab] s (execAckintExpiry conn s) := by
  unfold execAckintExpiry
  with_reducible
    repeat' first
      | (apply Zone.within; decide)
      | exact Touches.refl _ _
      | apply Touches.op (State.ackSend_touches _ _)
      | apply State.whenServing_touches
      | extract_lets
      | split

theorem execReswaitExpiry_touches (conn seq : Nat) (s : State) : TouchesO [.regs, .fab, .host, .out] s (execReswaitExpiry conn seq s) :=
    by
  unfold execReswaitExpiry
  with_reducible
    repeat' first
      | (apply Zone.within; decide)
      | exact Touches.refl _ _
      | apply Touches.op (State.unlock_touches _ _ _)
      | apply Touches.op (State.inflDone_touches _ _ _)
      | apply Touches.op (State.nak_touches _ _ _)
      | apply State.whenServing_touches
      | apply Touches.op (State.count_touches _ _ _)
      | extract_lets
      | split

theorem State.spillOut_touches (s : State) (conn : Nat) : Touches [.out, .free] s (State.spillOut s conn) := by
  unfold State.spillOut
  with_reducible
    repeat' first
      | (apply Zone.within; decide)
      | exact Touches.refl _ _
      | (apply Zone.rest; intro p hp; cases p <;> first | exact absurd (by decide) hp | exact rfl)
      | apply Touches.op (State.emit_touches _ _)
      | extract_lets
      | apply Touches.leaf (Eq.refl _)

theorem State.cacheConn_touches (s : State) (conn : Nat) : Touches [.regs, .fab, .out, .free] s (State.cacheConn s conn) := by
  unfold State.cacheConn
  with_reducible
    repeat' first
      | (apply Zone.within; decide)
      | exact Touches.refl _ _
      | (apply Zone.rest; intro p hp; cases p <;> first | exact absurd (by decide) hp | exact rfl)
      | apply Touches.op (State.spillOut_touches _ _)
      | apply Touches.op (State.modConn_touches _ _ _)
      | apply Touches.op (State.count_touches _ _ _)
      | extract_lets
      | split
      | apply Touches.leaf (Eq.refl _)

theorem execConnStateFetched_touches (conn : Nat) (ok : Bool) (s : State) : TouchesO [.regs, .work, .fab, .chk, .host, .out, .free] s
    (execConnStateFetched conn ok s) := by
  unfold execConnStateFetched
  with_reducible
    repeat' first
      | (apply Zone.within; decide)
      | exact Touches.refl _ _
      | (apply Zone.rest; intro p hp; cases p <;> first | exact absurd (by decide) hp | exact rfl)
      | intro x
      | apply Touches.op (State.cacheConn_touches _ _)
      | apply Touches.op (State.packetIn_touches _ _ _ _)
      | apply Touches.op (State.raise_touches _ _ _ _)
      | apply State.whenServing_touches
      | apply Touches.foldl
      | extract_lets
      | split
      | apply Touches.leaf (Eq.refl _)

theorem execStagingBufferGrant_touches (s : State) : TouchesO [.fab] s (execStagingBufferGrant s) := by
  unfold execStagingBufferGrant
  with_reducible
    repeat' first
      | (apply Zone.within; decide)
      | exact Touches.refl _ _
      | (apply Zone.rest; intro p hp; cases p <;> first | exact absurd (by decide) hp | exact rfl)
      | apply Touches.op (State.grantBuf_touches _ _ _)
      | apply State.whenServing_touches
      | extract_lets
      | split
      | apply Touches.leaf (Eq.refl _)

theorem State.fillLocks_touches (s : State) (g n : Nat) : Touches [.fab] s (State.fillLocks s g n) := by
  induction n generalizing s g with
  | zero =>
  unfold State.fillLocks
  with_reducible
    repeat' first
      | exact Touches.refl _ _
  | succ m ih =>
  unfold State.fillLocks
  with_reducible
    repeat' first
      | (apply Zone.within; decide)
      | exact Touches.refl _ _
      | (apply Zone.rest; intro p hp; cases p <;> first | exact absurd (by decide) hp | exact rfl)
      | apply Touches.op (ih _ _)
      | apply Touches.op (State.takeLock_touches _ _ _ _)
      | apply Touches.op (State.setWait_touches _ _ _)
      | apply Touches.op (State.readyUp_touches _ _)
      | extract_lets
      | split
      | apply Touches.leaf (Eq.refl _)

theorem execRangeLockGrant_touches (g : Nat) (s : State) : TouchesO [.fab] s (execRangeLockGrant g s) := by
  unfold execRangeLockGrant
  with_reducible
    repeat' first
      | (apply Zone.within; decide)
      | exact Touches.refl _ _
      | apply Touches.op (State.fillLocks_touches _ _ _)
      | apply Touches.op (State.setWait_touches _ _ _)
      | apply Touches.op (State.readyUp_touches _ _)
      | apply State.whenServing_touches
      | extract_lets
      | split

/-! ## Nbu -/

theorem State.onCh_touches {T : List Zone} (s : State) (ch : Nat) (f : State → State) (hT : Zone.Within ([] : List Zone) T) (hf : ∀ (x0
    : State), Touches T x0 (f x0)) : TouchesO T s (State.onCh s ch f) := by
  unfold State.onCh
  with_reducible
    repeat' first
      | first | exact hT | exact Zone.Within.refl _ | exact Zone.Within.trans (Zone.within (by decide)) hT
      | exact Touches.refl _ _
      | apply TouchesO.next
      | apply Touches.op (hf _)
      | extract_lets
      | split

theorem execSlotStart_touches (ch qwait : Nat) (s : State) : TouchesO [.regs, .work, .nbu, .out, .free] s (execSlotStart ch qwait s) := by
  unfold execSlotStart
  with_reducible
    repeat' first
      | (apply Zone.within; decide)
      | exact Touches.refl _ _
      | intro x
      | apply State.onCh_touches
      | apply Touches.op (State.scanSlot_touches _ _ _ _)
      | apply Touches.op (State.slotSet_touches _ _ _ _ _ _)
      | apply Touches.op (State.setCur_touches _ _ _)
      | apply Touches.op (State.hostErr_touches _ _)
      | extract_lets
      | split

theorem execSlotRelease_touches (ch slot : Nat) (s : State) : TouchesO [.regs, .out, .free] s (execSlotRelease ch slot s) := by
  unfold execSlotRelease
  with_reducible
    repeat' first
      | (apply Zone.within; decide)
      | exact Touches.refl _ _
      | intro x
      | apply State.onCh_touches
      | apply Touches.op (State.slotSet_touches _ _ _ _ _ _)
      | apply Touches.op (State.hostErr_touches _ _)
      | extract_lets
      | split

theorem execRefDue_touches (ch : Nat) (s : State) : TouchesO [.nbu] s (execRefDue ch s) := by
  unfold execRefDue
  with_reducible
    repeat' first
      | (apply Zone.within; decide)
      | exact Touches.refl _ _
      | intro x
      | apply State.onCh_touches
      | apply Touches.op (State.setCur_touches _ _ _)
      | extract_lets
      | split

theorem execForcedPause_touches (ch : Nat) (s : State) : TouchesO [.regs, .nbu, .chk, .host, .out] s (execForcedPause ch s) := by
  unfold execForcedPause
  with_reducible
    repeat' first
      | (apply Zone.within; decide)
      | exact Touches.refl _ _
      | intro x
      | apply State.onCh_touches
      | apply Touches.op (State.slotSet_touches _ _ _ _ _ _)
      | apply Touches.op (State.setCur_touches _ _ _)
      | apply Touches.op (State.raise_touches _ _ _ _)
      | apply Touches.op (State.count_touches _ _ _)
      | extract_lets
      | split

theorem execRefreshComplete_touches (ch cyc : Nat) (s : State) : TouchesO [.regs, .nbu] s (execRefreshComplete ch cyc s) := by
  unfold execRefreshComplete
  with_reducible
    repeat' first
      | (apply Zone.within; decide)
      | exact Touches.refl _ _
      | intro x
      | apply State.onCh_touches
      | apply Touches.op (State.slotSet_touches _ _ _ _ _ _)
      | apply Touches.op (State.setCur_touches _ _ _)
      | apply Touches.op (State.count_touches _ _ _)
      | extract_lets
      | split

theorem execCewarnInterval_touches (ch : Nat) (s : State) : TouchesO [.nbu] s (execCewarnInterval ch s) := by
  unfold execCewarnInterval
  with_reducible
    repeat' first
      | (apply Zone.within; decide)
      | exact Touches.refl _ _
      | intro x
      | apply State.onCh_touches
      | apply Touches.op (State.setCur_touches _ _ _)

theorem State.nbuGo_touches (s : State) (blk mask : Nat) : Touches [.regs, .nbu, .out, .free] s (State.nbuGo s blk mask) := by
  unfold State.nbuGo
  with_reducible
    repeat' first
      | (apply Zone.within; decide)
      | exact Touches.refl _ _
      | intro x
      | apply Touches.op (State.nbuGoOn_touches _ _ _)
      | apply Touches.each

/-! ## RegBus -/

theorem State.setRegister_touches (s : State) (n : Nat) (r : Reg) (v : Nat) : Touches [.regs] s (State.setRegister s n r v) := by
  unfold State.setRegister
  with_reducible
    repeat' first
      | (apply Zone.within; decide)
      | exact Touches.refl _ _
      | intro x
      | apply Touches.each
      | apply Touches.op (State.setWord_touches _ _ _)

theorem State.resetUnloaded_touches (s : State) (n : Nat) : Touches [.regs, .stagedW] s (State.resetUnloaded s n) := by
  unfold State.resetUnloaded
  with_reducible
    repeat' first
      | exact Touches.refl _ _
      | (apply Zone.rest; intro p hp; cases p <;> first | exact absurd (by decide) hp | exact rfl)
      | extract_lets
      | apply Touches.leaf (Eq.refl _)

theorem State.portResetGo_touches (s : State) (p : Nat) : Touches [.regs, .stagedW, .work, .fab, .cas, .chk, .host, .out] s
    (State.portResetGo s p) := by
  unfold State.portResetGo
  with_reducible
    repeat' first
      | (apply Zone.within; decide)
      | exact Touches.refl _ _
      | apply Touches.op (State.resetUnloaded_touches _ _)
      | apply Touches.op (State.portDown_touches _ _)
      | apply Touches.op (State.setPort_touches _ _ _)
      | apply Touches.op (State.setFld_touches _ _ _)

theorem State.shaperChange_touches (s : State) (p c full : Nat) : Touches [.fab] s (State.shaperChange s p c full) := by
  unfold State.shaperChange
  with_reducible
    repeat' first
      | (apply Zone.within; decide)
      | exact Touches.refl _ _
      | apply Touches.op (State.setPort_touches _ _ _)

theorem State.regStarts_touches (s : State) (n : Nat) (r : Reg) (old : Nat) : Touches [.regs, .stagedW, .work, .fab, .cas, .chk, .host,
    .out] s (State.regStarts s n r old) := by
  unfold State.regStarts
  with_reducible
    repeat' first
      | (apply Zone.within; decide)
      | exact Touches.refl _ _
      | apply Touches.op (State.shaperChange_touches _ _ _ _)
      | apply Touches.op (State.portResetGo_touches _ _)
      | apply Touches.op (State.gateRestart_touches _ _)
      | apply Touches.op (State.setFld_touches _ _ _)
      | split

theorem State.spoilReg_touches (s : State) (req : Requester) (n : Nat) (r : Reg) (rule : Nat) : Touches [.regs, .stagedW, .work, .fab,
    .cas, .chk, .host, .out, .free] s (State.spoilReg s req n r rule) := by
  unfold State.spoilReg
  with_reducible
    repeat' first
      | (apply Zone.within; decide)
      | exact Touches.refl _ _
      | apply Touches.op (State.regStarts_touches _ _ _ _)
      | apply Touches.op (State.setRegister_touches _ _ _ _)
      | apply Touches.op (State.hostErr_touches _ _)

theorem State.commitReg_touches (s : State) (req : Requester) (n : Nat) (r : Reg) (v : Nat) : TouchesO [.regs, .stagedW, .work, .fab,
    .cas, .chk, .host, .out, .free] s (State.commitReg s req n r v) := by
  unfold State.commitReg
  with_reducible
    repeat' first
      | (apply Zone.within; decide)
      | exact Touches.refl _ _
      | apply TouchesO.next
      | apply Touches.op (State.spoilReg_touches _ _ _ _ _)
      | apply Touches.op (State.regStarts_touches _ _ _ _)
      | apply Touches.op (State.setRegister_touches _ _ _ _)
      | extract_lets
      | split

theorem State.sqWrite_touches (s : State) (n : Nat) (r : Reg) (x : W32) : Touches [.regs] s (State.sqWrite s n r x) := by
  unfold State.sqWrite
  with_reducible
    repeat' first
      | (apply Zone.within; decide)
      | exact Touches.refl _ _
      | apply Touches.op (State.count_touches _ _ _)
      | apply Touches.op (State.setWord_touches _ _ _)
      | extract_lets
      | split

theorem State.stagedWrite_touches (s : State) (req : Requester) (n : Nat) (r : Reg) (o : Nat) (x : W32) : TouchesO [.regs, .stagedW,
    .work, .fab, .cas, .chk, .host, .out, .free] s (State.stagedWrite s req n r o x) := by
  unfold State.stagedWrite
  with_reducible
    repeat' first
      | (apply Zone.within; decide)
      | exact Touches.refl _ _
      | (apply Zone.rest; intro p hp; cases p <;> first | exact absurd (by decide) hp | exact rfl)
      | apply TouchesO.next
      | apply TouchesO.op (State.commitReg_touches _ _ _ _ _)
      | extract_lets
      | split
      | apply Touches.leaf (Eq.refl _)

theorem State.baseWrite_touches (s : State) (req : Requester) (n o : Nat) (x : W32) : TouchesO [.regs, .stagedW, .work, .nbu, .fab,
    .cas, .chk, .host, .out, .free] s (State.baseWrite s req n o x) := by
  unfold State.baseWrite
  with_reducible
    repeat' first
      | (apply Zone.within; decide)
      | exact Touches.refl _ _
      | apply TouchesO.next
      | apply TouchesO.op (State.stagedWrite_touches _ _ _ _ _ _)
      | apply Touches.op (State.sqWrite_touches _ _ _ _)
      | apply TouchesO.op (State.commitReg_touches _ _ _ _ _)
      | apply Touches.op (State.spoilReg_touches _ _ _ _ _)
      | apply Touches.op (State.nbuGo_touches _ _ _)
      | extract_lets
      | split

theorem State.aliasWrite_touches (s : State) (req : Requester) (k : Alias) (n o : Nat) (x : W32) : TouchesO [.regs, .stagedW, .work,
    .fab, .cas, .chk, .host, .out, .free] s (State.aliasWrite s req k n o x) := by
  unfold State.aliasWrite
  with_reducible
    repeat' first
      | (apply Zone.within; decide)
      | exact Touches.refl _ _
      | apply TouchesO.next
      | apply TouchesO.op (State.commitReg_touches _ _ _ _ _)
      | apply Touches.op (State.spoilReg_touches _ _ _ _ _)
      | extract_lets
      | split

theorem State.onBus_touches {T : List Zone} (s : State) (a : Nat) (f : Nat → Nat → State → Outcome) (hT : Zone.Within ([.out, .free] :
    List Zone) T) (hf : ∀ (x0 : Nat) (x1 : Nat) (x2 : State), TouchesO T x2 (f x0 x1 x2)) : TouchesO T s (State.onBus s a f) := by
  unfold State.onBus
  extract_lets n b go
  split
  · exact TouchesO.next ((State.hostErr_touches _ _).mono hT)
  · split
    · exact TouchesO.next (Touches.refl _ _)
    · split
      · exact hf _ _ _
      · refine TouchesO.foldl _ _ (fun o k ho => ?_) (TouchesO.next (Touches.refl _ _))
        cases o with
        | next t => exact TouchesO.op (hf _ _ _) (Zone.Within.refl _) ho.get
        | fault r => exact ho
        | refused r => exact ho

theorem State.busWrite_touches (s : State) (req : Requester) (a : Nat) (x : W32) : TouchesO [.regs, .stagedW, .work, .nbu, .fab, .cas,
    .chk, .host, .out, .free] s (State.busWrite s req a x) := by
  unfold State.busWrite
  with_reducible
    repeat' first
      | (apply Zone.within; decide)
      | exact Touches.refl _ _
      | intro x
      | apply State.onBus_touches
      | apply TouchesO.op (State.aliasWrite_touches _ _ _ _ _ _)
      | apply TouchesO.op (State.baseWrite_touches _ _ _ _ _)
      | split

theorem State.ctlPath_touches {T : List Zone} (s : State) (par : Nat) (lost go : State → Outcome) (hT : Zone.Within [.regs, .chk, .host,
    .out] T)
    (hl : ∀ u, TouchesO T u (lost u)) (hg : ∀ u, TouchesO T u (go u)) : TouchesO T s (s.ctlPath par lost go) := by
  unfold State.ctlPath
  have hc : Touches T s (s.count kChkParreplay (min par 4)) := (State.count_touches _ _ _).mono (Zone.Within.trans (Zone.within (by decide)) hT)
  split
  · exact hg s
  · split
    · split
      · exact hg s
      · exact hl s
    · split
      · exact TouchesO.op (hg _) (Zone.Within.refl _) hc
      · exact TouchesO.op (hl _) (Zone.Within.refl _)
          (Touches.op (State.raise_touches _ _ _ _) (Zone.Within.trans (Zone.within (by decide)) hT) hc)

/-! ## PowerOps -/

theorem State.wholeReset_touches (s : State) (cold : Bool) : Touches [.pwr, .boot, .regs, .stagedW, .mem, .alloc, .idx, .work, .nbu,
    .comp, .tables, .flash, .fab, .cas, .chk, .nrg, .host, .mgmt, .uptime] s (State.wholeReset s cold) := by
  unfold State.wholeReset
  with_reducible
    repeat' first
      | exact Touches.refl _ _
      | (apply Zone.rest; intro p hp; cases p <;> first | exact absurd (by decide) hp | exact rfl)
      | extract_lets
      | split
      | apply Touches.leaf (Eq.refl _)

theorem State.restart_touches (s : State) (cause wd : Nat) : Touches [.pwr, .boot, .regs, .stagedW, .mem, .alloc, .idx, .work, .nbu,
    .comp, .tables, .flash, .fab, .cas, .chk, .nrg, .host, .mgmt, .uptime] s (State.restart s cause wd) := by
  unfold State.restart
  with_reducible
    repeat' first
      | (apply Zone.within; decide)
      | exact Touches.refl _ _
      | (apply Zone.rest; intro p hp; cases p <;> first | exact absurd (by decide) hp | exact rfl)
      | apply Touches.op (State.wholeReset_touches _ _)
      | extract_lets
      | apply Touches.leaf (Eq.refl _)

theorem State.stopHere_touches (s : State) : Touches [.pwr, .boot, .regs, .stagedW, .mem, .alloc, .idx, .work, .nbu, .comp, .tables,
    .flash, .fab, .cas, .chk, .nrg, .host, .mgmt, .uptime] s (State.stopHere s) := by
  unfold State.stopHere
  with_reducible
    repeat' first
      | (apply Zone.within; decide)
      | exact Touches.refl _ _
      | (apply Zone.rest; intro p hp; cases p <;> first | exact absurd (by decide) hp | exact rfl)
      | apply Touches.op (State.wholeReset_touches _ _)
      | extract_lets
      | apply Touches.leaf (Eq.refl _)

theorem State.keepBlock_touches (t s : State) (n : Nat) : Touches [.regs] t (State.keepBlock t s n) := by
  unfold State.keepBlock
  with_reducible
    repeat' first
      | (apply Zone.within; decide)
      | exact Touches.refl _ _
      | intro x
      | apply Touches.each
      | apply Touches.op (State.setWord_touches _ _ _)

theorem State.enterRecovery_touches (s : State) (mseq : Nat) : Touches [.pwr, .boot, .regs, .stagedW, .mem, .alloc, .idx, .work, .nbu,
    .comp, .tables, .flash, .fab, .cas, .chk, .nrg, .host, .mgmt, .uptime, .out] s (State.enterRecovery s mseq) := by
  unfold State.enterRecovery
  with_reducible
    repeat' first
      | (apply Zone.within; decide)
      | exact Touches.refl _ _
      | (apply Zone.rest; intro p hp; cases p <;> first | exact absurd (by decide) hp | exact rfl)
      | apply Touches.op (State.keepBlock_touches _ _ _)
      | apply Touches.op (State.wholeReset_touches _ _)
      | apply Touches.op (State.emit_touches _ _)
      | apply Touches.op (State.event_touches _ _ _)
      | apply Touches.op (State.setFld_touches _ _ _)
      | extract_lets
      | apply Touches.leaf (Eq.refl _)

theorem State.powerDone_touches (s : State) (k : Nat) : Touches [.regs, .host, .out] s (State.powerDone s k) := by
  unfold State.powerDone
  with_reducible
    repeat' first
      | (apply Zone.within; decide)
      | exact Touches.refl _ _
      | (apply Zone.rest; intro p hp; cases p <;> first | exact absurd (by decide) hp | exact rfl)
      | intro x
      | apply Touches.op (State.completeSt_touches _ _ _)
      | apply Touches.foldl
      | extract_lets
      | apply Touches.leaf (Eq.refl _)

theorem State.enterStandby_touches (s : State) : Touches [.pwr, .boot, .regs, .stagedW, .mem, .alloc, .idx, .work, .nbu, .comp, .tables,
    .flash, .fab, .cas, .chk, .nrg, .host, .mgmt, .uptime, .out] s (State.enterStandby s) := by
  unfold State.enterStandby
  with_reducible
    repeat' first
      | (apply Zone.within; decide)
      | exact Touches.refl _ _
      | (apply Zone.rest; intro p hp; cases p <;> first | exact absurd (by decide) hp | exact rfl)
      | apply Touches.op (State.powerDone_touches _ _)
      | apply Touches.op (State.wholeReset_touches _ _)
      | apply Touches.op (State.emit_touches _ _)
      | extract_lets
      | split
      | apply Touches.leaf (Eq.refl _)

theorem State.clearCurrants_touches (s : State) : Touches [.regs, .nbu] s (State.clearCurrants s) := by
  unfold State.clearCurrants
  with_reducible
    repeat' first
      | exact Touches.refl _ _
      | (apply Zone.rest; intro p hp; cases p <;> first | exact absurd (by decide) hp | exact rfl)
      | apply Touches.leaf (Eq.refl _)

theorem State.clearCompute_touches (s : State) : Touches [.regs, .mem, .comp] s (State.clearCompute s) := by
  unfold State.clearCompute
  with_reducible
    repeat' first
      | exact Touches.refl _ _
      | (apply Zone.rest; intro p hp; cases p <;> first | exact absurd (by decide) hp | exact rfl)
      | extract_lets
      | apply Touches.leaf (Eq.refl _)

theorem State.enterIdle2_touches (s : State) : Touches [.regs, .mem, .nbu, .comp, .cas, .host, .out] s (State.enterIdle2 s) := by
  unfold State.enterIdle2
  with_reducible
    repeat' first
      | (apply Zone.within; decide)
      | exact Touches.refl _ _
      | (apply Zone.rest; intro p hp; cases p <;> first | exact absurd (by decide) hp | exact rfl)
      | apply Touches.op (State.clearCompute_touches _)
      | apply Touches.op (State.clearCurrants_touches _)
      | apply Touches.op (State.powerDone_touches _ _)
      | apply Touches.op (State.setFld_touches _ _ _)
      | extract_lets
      | apply Touches.leaf (Eq.refl _)

theorem State.flushGoOn_touches (s : State) (why : FlushWhy) : Touches [.pwr, .boot, .regs, .stagedW, .mem, .alloc, .idx, .work, .nbu,
    .comp, .tables, .flash, .fab, .cas, .chk, .nrg, .host, .mgmt, .uptime, .out] s (State.flushGoOn s why) := by
  unfold State.flushGoOn
  with_reducible
    repeat' first
      | (apply Zone.within; decide)
      | exact Touches.refl _ _
      | apply Touches.op (State.enterIdle2_touches _)
      | apply Touches.op (State.enterStandby_touches _)
      | apply Touches.op (State.enterRecovery_touches _ _)
      | apply Touches.op (State.stopHere_touches _)
      | apply Touches.op (State.restart_touches _ _ _)
      | split

theorem State.flushBegin_touches (s : State) (why : FlushWhy) : Touches [.pwr, .boot, .regs, .stagedW, .mem, .alloc, .idx, .work, .nbu,
    .comp, .tables, .flash, .fab, .cas, .chk, .nrg, .host, .mgmt, .uptime, .out] s (State.flushBegin s why) := by
  unfold State.flushBegin
  with_reducible
    repeat' first
      | (apply Zone.within; decide)
      | exact Touches.refl _ _
      | (apply Zone.rest; intro p hp; cases p <;> first | exact absurd (by decide) hp | exact rfl)
      | apply Touches.op (State.flushGoOn_touches _ _)
      | apply Touches.op (State.progPending_touches _)
      | apply Touches.op (State.setFld_touches _ _ _)
      | extract_lets
      | split
      | apply Touches.leaf (Eq.refl _)

theorem State.goBusy_touches (s : State) : Touches [.regs] s (State.goBusy s) := by
  unfold State.goBusy
  with_reducible
    repeat' first
      | (apply Zone.within; decide)
      | exact Touches.refl _ _
      | apply Touches.op (State.setFld_touches _ _ _)

theorem State.resetNode_touches (s : State) (why : FlushWhy) : Touches [.pwr, .boot, .regs, .stagedW, .mem, .alloc, .idx, .work, .nbu,
    .comp, .tables, .flash, .fab, .cas, .chk, .nrg, .host, .mgmt, .uptime, .out] s (State.resetNode s why) := by
  unfold State.resetNode
  with_reducible
    repeat' first
      | (apply Zone.within; decide)
      | exact Touches.refl _ _
      | (apply Zone.rest; intro p hp; cases p <;> first | exact absurd (by decide) hp | exact rfl)
      | apply Touches.op (State.goBusy_touches _)
      | apply Touches.op (State.flushBegin_touches _ _)
      | apply Touches.op (State.flushGoOn_touches _ _)
      | extract_lets
      | split
      | apply Touches.leaf (Eq.refl _)

theorem State.ballastOff_touches (s : State) : Touches [.regs] s (State.ballastOff s) := by
  unfold State.ballastOff
  with_reducible
    repeat' first
      | (apply Zone.within; decide)
      | exact Touches.refl _ _
      | intro x
      | apply Touches.each
      | apply Touches.op (State.setFld_touches _ _ _)

theorem State.pauseSlot_touches (s : State) (ch : Nat) : Touches [.regs, .nbu] s (State.pauseSlot s ch) := by
  unfold State.pauseSlot
  with_reducible
    repeat' first
      | (apply Zone.within; decide)
      | exact Touches.refl _ _
      | apply Touches.op (State.slotSet_touches _ _ _ _ _ _)
      | apply Touches.op (State.setCur_touches _ _ _)
      | extract_lets
      | split

theorem State.resumeSlot_touches (s : State) (ch : Nat) : Touches [.regs, .nbu] s (State.resumeSlot s ch) := by
  unfold State.resumeSlot
  with_reducible
    repeat' first
      | (apply Zone.within; decide)
      | exact Touches.refl _ _
      | apply Touches.op (State.slotSet_touches _ _ _ _ _ _)
      | apply Touches.op (State.setCur_touches _ _ _)
      | extract_lets
      | split

theorem State.powerHold_touches (s : State) : Touches [.regs, .work, .nbu, .nrg] s (State.powerHold s) := by
  unfold State.powerHold
  with_reducible
    repeat' first
      | (apply Zone.within; decide)
      | exact Touches.refl _ _
      | (apply Zone.rest; intro p hp; cases p <;> first | exact absurd (by decide) hp | exact rfl)
      | intro x
      | apply Touches.op (State.pauseSlot_touches _ _)
      | apply Touches.op (State.ballastOff_touches _)
      | apply Touches.op (State.holdLease_touches _ _)
      | apply Touches.each
      | apply Touches.op (State.setFld_touches _ _ _)
      | apply Touches.foldl
      | extract_lets
      | split
      | apply Touches.leaf (Eq.refl _)

theorem State.powerUnhold_touches (s : State) : Touches [.regs, .nbu, .nrg] s (State.powerUnhold s) := by
  unfold State.powerUnhold
  with_reducible
    repeat' first
      | (apply Zone.within; decide)
      | exact Touches.refl _ _
      | (apply Zone.rest; intro p hp; cases p <;> first | exact absurd (by decide) hp | exact rfl)
      | intro x
      | apply Touches.op (State.resumeSlot_touches _ _)
      | apply Touches.each
      | apply Touches.op (State.setFld_touches _ _ _)
      | extract_lets
      | split
      | apply Touches.leaf (Eq.refl _)

theorem State.nrgEvent_touches (s : State) (bit code sev : Nat) (dat : List Nat) : Touches [.regs, .chk, .host, .out] s (State.nrgEvent
    s bit code sev dat) := by
  unfold State.nrgEvent
  with_reducible
    repeat' first
      | (apply Zone.within; decide)
      | exact Touches.refl _ _
      | apply Touches.op (State.raise_touches _ _ _ _)

theorem State.setPstate_touches (s : State) (v : Nat) : Touches [.regs] s (State.setPstate s v) := by
  unfold State.setPstate
  with_reducible
    repeat' first
      | (apply Zone.within; decide)
      | exact Touches.refl _ _
      | apply Touches.op (State.setFld_touches _ _ _)
      | split

theorem State.threshold_touches (s : State) : Touches [.pwr, .boot, .regs, .stagedW, .mem, .alloc, .idx, .work, .nbu, .comp, .tables,
    .flash, .fab, .cas, .chk, .nrg, .host, .mgmt, .uptime, .out] s (State.threshold s) := by
  unfold State.threshold
  with_reducible
    repeat' first
      | (apply Zone.within; decide)
      | exact Touches.refl _ _
      | apply Touches.op (State.nrgEvent_touches _ _ _ _ _)
      | apply Touches.op (State.flushBegin_touches _ _)
      | apply Touches.op (State.stopHere_touches _)
      | apply Touches.op (State.count_touches _ _ _)
      | apply Touches.op (State.setFld_touches _ _ _)
      | extract_lets
      | split
      | dsimp +zetaDelta only

/-! ## HostQueues -/

theorem execCreateCq_touches (h : HostHdr) (fn q depth : Nat) (ien : Bool) (ring : Nat) (s : State) : TouchesO [.regs, .work, .host,
    .out, .free] s (execCreateCq h fn q depth ien ring s) := by
  unfold execCreateCq
  with_reducible
    repeat' first
      | (apply Zone.within; decide)
      | exact Touches.refl _ _
      | intro x
      | apply TouchesO.next
      | apply State.wellFormed_touches
      | apply State.hostRun_touches
      | apply Touches.op (State.completeSt_touches _ _ _)
      | apply Touches.op (State.setCq_touches _ _ _)

theorem execCreateSq_touches (h : HostHdr) (fn q depth cq ring : Nat) (s : State) : TouchesO [.regs, .work, .host, .out, .free] s
    (execCreateSq h fn q depth cq ring s) := by
  unfold execCreateSq
  with_reducible
    repeat' first
      | (apply Zone.within; decide)
      | exact Touches.refl _ _
      | intro x
      | apply TouchesO.next
      | apply State.wellFormed_touches
      | apply State.hostRun_touches
      | apply Touches.op (State.completeSt_touches _ _ _)
      | apply Touches.op (State.setSq_touches _ _ _)

theorem execDeleteSq_touches (h : HostHdr) (fn q : Nat) (s : State) : TouchesO [.regs, .work, .host, .out, .free] s (execDeleteSq h fn q
    s) := by
  unfold execDeleteSq
  with_reducible
    repeat' first
      | (apply Zone.within; decide)
      | exact Touches.refl _ _
      | (apply Zone.rest; intro p hp; cases p <;> first | exact absurd (by decide) hp | exact rfl)
      | intro x
      | apply TouchesO.next
      | apply State.need_touches
      | apply State.wellFormed_touches
      | apply State.hostRun_touches
      | apply Touches.op (State.settleSq_touches _ _)
      | apply Touches.op (State.setSq_touches _ _ _)
      | extract_lets
      | apply Touches.leaf (Eq.refl _)

theorem execDeleteCq_touches (h : HostHdr) (fn q : Nat) (s : State) : TouchesO [.regs, .work, .host, .out, .free] s (execDeleteCq h fn q
    s) := by
  unfold execDeleteCq
  with_reducible
    repeat' first
      | (apply Zone.within; decide)
      | exact Touches.refl _ _
      | (apply Zone.rest; intro p hp; cases p <;> first | exact absurd (by decide) hp | exact rfl)
      | intro x
      | apply TouchesO.next
      | apply State.need_touches
      | apply State.wellFormed_touches
      | apply State.hostRun_touches
      | apply Touches.op (State.completeSt_touches _ _ _)
      | extract_lets
      | apply Touches.leaf (Eq.refl _)

theorem execVfBind_touches (h : HostHdr) (vf tenant : Nat) (s : State) : TouchesO [.regs, .work, .host, .out, .free] s (execVfBind h vf
    tenant s) := by
  unfold execVfBind
  with_reducible
    repeat' first
      | (apply Zone.within; decide)
      | exact Touches.refl _ _
      | (apply Zone.rest; intro p hp; cases p <;> first | exact absurd (by decide) hp | exact rfl)
      | intro x
      | apply TouchesO.next
      | apply State.need_touches
      | apply State.wellFormed_touches
      | apply State.hostRun_touches
      | apply Touches.op (State.completeSt_touches _ _ _)
      | extract_lets
      | split
      | apply Touches.leaf (Eq.refl _)

theorem execTenantCreate_touches (h : HostHdr) (tenant : Nat) (s : State) : TouchesO [.regs, .work, .host, .out] s (execTenantCreate h
    tenant s) := by
  unfold execTenantCreate
  with_reducible
    repeat' first
      | (apply Zone.within; decide)
      | exact Touches.refl _ _
      | (apply Zone.rest; intro p hp; cases p <;> first | exact absurd (by decide) hp | exact rfl)
      | intro x
      | apply State.hostCmd_touches
      | apply Touches.op (State.completeSt_touches _ _ _)
      | extract_lets
      | split
      | apply Touches.leaf (Eq.refl _)

theorem execTenantDelete_touches (h : HostHdr) (tenant : Nat) (s : State) : TouchesO [.regs, .work, .host, .out, .free] s
    (execTenantDelete h tenant s) := by
  unfold execTenantDelete
  with_reducible
    repeat' first
      | (apply Zone.within; decide)
      | exact Touches.refl _ _
      | (apply Zone.rest; intro p hp; cases p <;> first | exact absurd (by decide) hp | exact rfl)
      | intro x
      | apply TouchesO.next
      | apply State.need_touches
      | apply State.wellFormed_touches
      | apply State.hostRun_touches
      | apply Touches.op (State.completeSt_touches _ _ _)
      | extract_lets
      | apply Touches.leaf (Eq.refl _)

theorem execSetQuota_touches (h : HostHdr) (tenant : Nat) (q : QuotaRec) (s : State) : TouchesO [.regs, .work, .host, .out, .free] s
    (execSetQuota h tenant q s) := by
  unfold execSetQuota
  with_reducible
    repeat' first
      | (apply Zone.within; decide)
      | exact Touches.refl _ _
      | intro x
      | apply TouchesO.next
      | apply State.need_touches
      | apply State.wellFormed_touches
      | apply State.hostRun_touches
      | apply Touches.op (State.modTenant_touches _ _ _)
      | apply Touches.op (State.completeSt_touches _ _ _)
      | extract_lets
      | split

theorem execQuotaStats_touches (h : HostHdr) (tenant : Nat) (s : State) : TouchesO [.regs, .work, .host, .out, .free] s (execQuotaStats
    h tenant s) := by
  unfold execQuotaStats
  with_reducible
    repeat' first
      | (apply Zone.within; decide)
      | exact Touches.refl _ _
      | intro x
      | apply State.need_touches
      | apply TouchesO.op (State.answerWith_touches _ _ _)
      | apply State.hostRun_touches

theorem execSetRate_touches (h : HostHdr) (tenant : Nat) (r : RateRec) (s : State) : TouchesO [.regs, .work, .host, .out, .free] s
    (execSetRate h tenant r s) := by
  unfold execSetRate
  with_reducible
    repeat' first
      | (apply Zone.within; decide)
      | exact Touches.refl _ _
      | intro x
      | apply TouchesO.next
      | apply State.need_touches
      | apply State.wellFormed_touches
      | apply State.hostRun_touches
      | apply Touches.op (State.modTenant_touches _ _ _)
      | apply Touches.op (State.completeSt_touches _ _ _)

theorem execSetClass_touches (h : HostHdr) (tenant cls : Nat) (s : State) : TouchesO [.regs, .work, .host, .out, .free] s (execSetClass
    h tenant cls s) := by
  unfold execSetClass
  with_reducible
    repeat' first
      | (apply Zone.within; decide)
      | exact Touches.refl _ _
      | intro x
      | apply TouchesO.next
      | apply State.need_touches
      | apply State.wellFormed_touches
      | apply State.hostRun_touches
      | apply Touches.op (State.modTenant_touches _ _ _)
      | apply Touches.op (State.completeSt_touches _ _ _)
      | extract_lets
      | split

theorem execTierStats_touches (h : HostHdr) (s : State) : TouchesO [.regs, .work, .host, .out, .free] s (execTierStats h s) := by
  unfold execTierStats
  with_reducible
    repeat' first
      | (apply Zone.within; decide)
      | exact Touches.refl _ _
      | intro x
      | apply TouchesO.op (State.answerWith_touches _ _ _)
      | apply State.hostRun_touches

theorem execProgressStats_touches (h : HostHdr) (tenant : Nat) (s : State) : TouchesO [.regs, .work, .host, .out, .free] s
    (execProgressStats h tenant s) := by
  unfold execProgressStats
  with_reducible
    repeat' first
      | (apply Zone.within; decide)
      | exact Touches.refl _ _
      | intro x
      | apply State.need_touches
      | apply TouchesO.op (State.answerWith_touches _ _ _)
      | apply State.hostRun_touches
      | extract_lets
      | split

theorem execEnergyStats_touches (h : HostHdr) (s : State) : TouchesO [.regs, .work, .host, .out] s (execEnergyStats h s) := by
  unfold execEnergyStats
  with_reducible
    repeat' first
      | (apply Zone.within; decide)
      | exact Touches.refl _ _
      | intro x
      | apply State.hostCmd_touches
      | apply Touches.op (State.complete_touches _ _ _ _ _)

theorem execFabTstats_touches (h : HostHdr) (tenant : Nat) (clear : Bool) (s : State) : TouchesO [.regs, .work, .host, .out, .free] s
    (execFabTstats h tenant clear s) := by
  unfold execFabTstats
  with_reducible
    repeat' first
      | (apply Zone.within; decide)
      | exact Touches.refl _ _
      | intro x
      | apply State.need_touches
      | apply TouchesO.op (State.answerWith_touches _ _ _)
      | apply State.hostRun_touches
      | apply Touches.op (State.modTenant_touches _ _ _)
      | extract_lets
      | split

theorem execStepLog_touches (h : HostHdr) (s : State) : TouchesO [.regs, .work, .host, .out] s (execStepLog h s) := by
  unfold execStepLog
  with_reducible
    repeat' first
      | (apply Zone.within; decide)
      | exact Touches.refl _ _
      | (apply Zone.rest; intro p hp; cases p <;> first | exact absurd (by decide) hp | exact rfl)
      | intro x
      | apply State.hostCmd_touches
      | apply Touches.op (State.complete_touches _ _ _ _ _)
      | extract_lets
      | apply Touches.leaf (Eq.refl _)

theorem execErrLog_touches (h : HostHdr) (s : State) : TouchesO [.regs, .work, .chk, .host, .out] s (execErrLog h s) := by
  unfold execErrLog
  with_reducible
    repeat' first
      | (apply Zone.within; decide)
      | exact Touches.refl _ _
      | (apply Zone.rest; intro p hp; cases p <;> first | exact absurd (by decide) hp | exact rfl)
      | intro x
      | apply State.hostCmd_touches
      | apply Touches.op (State.complete_touches _ _ _ _ _)
      | extract_lets
      | apply Touches.leaf (Eq.refl _)

/-! ## Maintenance -/

theorem State.maintDue_touches {T : List Zone} (s : State) (f : State → State) (hT : Zone.Within ([.work] : List Zone) T) (hf : ∀ (x0 :
    State), Touches T x0 (f x0)) {z : State} (hz : Touches T z s) : Touches T z (State.maintDue s f) := by
  unfold State.maintDue
  with_reducible
    repeat' first
      | first | exact hT | exact Zone.Within.refl _ | exact Zone.Within.trans (Zone.within (by decide)) hT
      | assumption
      | apply Touches.op (TouchesE.app2 (State.openLease_touches _ _) (by assumption))
      | apply Touches.op (hf _)
      | split

theorem State.maintList_touches {T : List Zone} (s : State) (l : Nat) (f : Hdr → Desc → State → State) (hT : Zone.Within ([.regs, .work]
    : List Zone) T) (hf : ∀ (x0 : Hdr) (x1 : Desc) (x2 : State), Touches T x2 (f x0 x1 x2)) : TouchesO T s (State.maintList s l f) := by
  unfold State.maintList
  with_reducible
    repeat' first
      | first | exact hT | exact Zone.Within.refl _ | exact Zone.Within.trans (Zone.within (by decide)) hT
      | exact Touches.refl _ _
      | intro x
      | apply TouchesO.next
      | apply State.maintDue_touches
      | apply Touches.op (State.setFld_touches _ _ _)
      | apply Touches.op (hf _ _ _)
      | split

theorem State.chClear_touches (s : State) (ch off n : Nat) : Touches [.mem] s (State.chClear s ch off n) := by
  unfold State.chClear
  with_reducible
    repeat' first
      | exact Touches.refl _ _
      | (apply Zone.rest; intro p hp; cases p <;> first | exact absurd (by decide) hp | exact rfl)
      | extract_lets
      | apply Touches.leaf (Eq.refl _)

theorem State.newExt_touches (s : State) (c : CreateFields) (ch cap : Nat) : TouchesP [.mem, .alloc] s (fun x => x.2) (State.newExt s c
    ch cap) := by
  unfold State.newExt
  with_reducible
    repeat' first
      | (apply Zone.within; decide)
      | exact Touches.refl _ _
      | intro x
      | exact TouchesP.ofNone
      | apply TouchesP.ofSome
      | apply TouchesP.map'
      | apply Touches.op (State.chClear_touches _ _ _ _)
      | apply Touches.op (TouchesP.app2 (State.rowsTake_touches _ _ _) (by assumption))
      | split

theorem State.newCopy_touches (s : State) (c : CreateFields) (copy : Bool) (cap : Nat) : TouchesP [.alloc] s (fun x => x.2)
    (State.newCopy s c copy cap) := by
  unfold State.newCopy
  with_reducible
    repeat' first
      | (apply Zone.within; decide)
      | exact Touches.refl _ _
      | apply TouchesP.ofSome
      | apply TouchesP.op (State.areaTake_touches _ _)
      | split

theorem State.rebuild_touches (s : State) (c : CreateFields) (h : Hdr) (ch mcap : Nat) : TouchesP [.mem, .alloc] s (fun x => x.2)
    (State.rebuild s c h ch mcap) := by
  unfold State.rebuild
  with_reducible
    repeat' first
      | (apply Zone.within; decide)
      | exact Touches.refl _ _
      | intro x
      | exact TouchesP.ofNone
      | apply TouchesP.map'
      | apply Touches.op (TouchesP.app2 (State.newCopy_touches _ _ _ _) (by assumption))
      | apply Touches.op (TouchesP.app2 (State.newExt_touches _ _ _ _) (by assumption))
      | split

theorem State.moveSlot_touches (s : State) (c : CreateFields) (h : Hdr) (x : SlotAt) (g : Hdr) (y : SlotAt) : Touches [.mem] s
    (State.moveSlot s c h x g y) := by
  unfold State.moveSlot
  with_reducible
    repeat' first
      | (apply Zone.within; decide)
      | exact Touches.refl _ _
      | apply Touches.op (State.writeSlot_touches _ _ _ _ _ _ _ _ _)
      | apply Touches.op (State.ilvStore_touches _ _ _ _)
      | apply Touches.op (State.hbmPoisonLines_touches _ _)
      | extract_lets
      | split

theorem State.moveSlots_touches (s : State) (c : CreateFields) (xs : List (Hdr × SlotAt)) (g : Hdr) : Touches [.mem] s (State.moveSlots
    s c xs g) := by
  unfold State.moveSlots
  with_reducible
    repeat' first
      | (apply Zone.within; decide)
      | exact Touches.refl _ _
      | intro x
      | apply Touches.op (State.moveSlot_touches _ _ _ _ _ _)
      | apply Touches.foldl

theorem State.retire_touches (s : State) (c : CreateFields) (l : Nat) (h : Hdr) (recs : List Nat) : Touches [.alloc] s (State.retire s c
    l h recs) := by
  unfold State.retire
  with_reducible
    repeat' first
      | exact Touches.refl _ _
      | (apply Zone.rest; intro p hp; cases p <;> first | exact absurd (by decide) hp | exact rfl)
      | extract_lets
      | apply Touches.leaf (Eq.refl _)

theorem State.mergeInto_touches (s : State) (l : Nat) (h : Hdr) (d : Desc) (ch : Nat) : TouchesP [.mem, .alloc, .idx] s (fun x => x)
    (State.mergeInto s l h d ch) := by
  unfold State.mergeInto
  with_reducible
    repeat' first
      | (apply Zone.within; decide)
      | exact Touches.refl _ _
      | (apply Zone.rest; intro p hp; cases p <;> first | exact absurd (by decide) hp | exact rfl)
      | intro x
      | apply TouchesP.map'
      | apply Touches.op (State.retire_touches _ _ _ _ _)
      | apply Touches.op (State.moveSlots_touches _ _ _ _)
      | apply Touches.op (TouchesP.app2 (State.rebuild_touches _ _ _ _ _) (by assumption))
      | apply Touches.op (State.setHdr_touches _ _ _)
      | extract_lets
      | apply Touches.leaf (Eq.refl _)

theorem State.mergeRetry_touches (s : State) (l : Nat) : Touches [.mem, .alloc, .idx] s (State.mergeRetry s l) := by
  unfold State.mergeRetry
  have hd : ∀ l, Touches [.mem, .alloc, .idx] s { s with idx := { s.idx with deferred := l } } := fun l p hp => by
    cases p <;> first | exact absurd (by decide) hp | exact rfl
  split
  · exact hd _
  · split
    · exact hd _
    · exact Touches.getD (TouchesP.findSome (fun x => TouchesP.mono (State.mergeInto_touches _ _ _ _ _) (by decide))) (Touches.refl _ _)

theorem State.afterRetire_touches (s : State) (chs : List Nat) : Touches [.regs, .mem, .alloc, .idx, .work, .flash, .fab, .chk, .host,
    .out] s (State.afterRetire s chs) := by
  unfold State.afterRetire
  with_reducible
    repeat' first
      | (apply Zone.within; decide)
      | exact Touches.refl _ _
      | intro x
      | apply Touches.op (State.mergeRetry_touches _ _)
      | apply Touches.op (State.retryUpdates_touches _)
      | apply Touches.foldl

theorem State.mergeList_touches (s : State) (l : Nat) (h : Hdr) (d : Desc) : Touches [.regs, .mem, .alloc, .idx, .work, .flash, .fab,
    .chk, .host, .out] s (State.mergeList s l h d) := by
  unfold State.mergeList
  with_reducible
    repeat' first
      | (apply Zone.within; decide)
      | exact Touches.refl _ _
      | (apply Zone.rest; intro p hp; cases p <;> first | exact absurd (by decide) hp | exact rfl)
      | apply Touches.op (State.afterRetire_touches _ _)
      | apply Touches.op (TouchesP.app (State.mergeInto_touches _ _ _ _ _) (by assumption))
      | apply Touches.op (State.modDesc_touches _ _ _)
      | extract_lets
      | split
      | apply Touches.leaf (Eq.refl _)

theorem execMerge_touches (l : Nat) (s : State) : TouchesO [.regs, .mem, .alloc, .idx, .work, .flash, .fab, .chk, .host, .out] s
    (execMerge l s) := by
  unfold execMerge
  with_reducible
    repeat' first
      | (apply Zone.within; decide)
      | exact Touches.refl _ _
      | intro x
      | apply Touches.op (State.mergeList_touches _ _ _ _)
      | apply State.maintList_touches
      | extract_lets
      | split

theorem execCompaction_touches (l : Nat) (s : State) : TouchesO [.regs, .mem, .alloc, .idx, .work, .flash, .fab, .chk, .host, .out] s
    (execCompaction l s) := by
  unfold execCompaction
  with_reducible
    repeat' first
      | (apply Zone.within; decide)
      | exact Touches.refl _ _
      | intro x
      | apply Touches.op (State.mergeList_touches _ _ _ _)
      | apply State.maintList_touches
      | extract_lets
      | split

theorem State.setFine_touches (s : State) (d : Desc) (l : Nat) (bs : List Byte) : Touches [.mem] s (State.setFine s d l bs) := by
  unfold State.setFine
  with_reducible
    repeat' first
      | (apply Zone.within; decide)
      | exact Touches.refl _ _
      | apply Touches.op (State.ilvStore_touches _ _ _ _)

theorem State.markChanged_touches (s : State) (k : Nat) : Touches [.idx] s (State.markChanged s k) := by
  unfold State.markChanged
  with_reducible
    repeat' first
      | exact Touches.refl _ _
      | (apply Zone.rest; intro p hp; cases p <;> first | exact absurd (by decide) hp | exact rfl)
      | extract_lets
      | apply Touches.leaf (Eq.refl _)

theorem State.moveDirs_touches (s : State) (n : Nat) (d : Desc) (h : Hdr) (xs : List SlotAt) (old new : Nat) : Touches [.idx] s
    (State.moveDirs s n d h xs old new) := by
  unfold State.moveDirs
  with_reducible
    repeat' first
      | (apply Zone.within; decide)
      | exact Touches.refl _ _
      | intro x
      | apply Touches.op (State.moveDir_touches _ _ _ _ _ _)
      | apply Touches.foldl

theorem State.joinLists_touches (s : State) (d : Desc) (a b : Nat) (ha hb : Hdr) : TouchesP [.regs, .mem, .alloc, .idx, .work, .flash,
    .fab, .chk, .host, .out] s (fun x => x) (State.joinLists s d a b ha hb) := by
  unfold State.joinLists
  with_reducible
    repeat' first
      | (apply Zone.within; decide)
      | exact Touches.refl _ _
      | intro x
      | apply TouchesP.map'
      | apply Touches.op (State.moveDirs_touches _ _ _ _ _ _ _)
      | apply Touches.op (State.markChanged_touches _ _)
      | apply Touches.op (State.setFine_touches _ _ _ _)
      | apply Touches.op (State.afterRetire_touches _ _)
      | apply Touches.op (State.retire_touches _ _ _ _ _)
      | apply Touches.op (State.moveSlots_touches _ _ _ _)
      | apply Touches.op (TouchesP.app2 (State.rebuild_touches _ _ _ _ _) (by assumption))
      | apply Touches.op (State.setMask_touches _ _ _)
      | apply Touches.op (State.setHdr_touches _ _ _)

theorem execListMerge_touches (a b : Nat) (s : State) : TouchesO [.regs, .mem, .alloc, .idx, .work, .flash, .fab, .chk, .host, .out] s
    (execListMerge a b s) := by
  unfold execListMerge
  with_reducible
    repeat' first
      | (apply Zone.within; decide)
      | exact Touches.refl _ _
      | intro x
      | apply TouchesP.op (State.joinLists_touches _ _ _ _ _ _)
      | apply State.maintList_touches
      | apply Touches.getD
      | extract_lets
      | split

theorem State.joinPairs_touches (s : State) (k n : Nat) : Touches [.regs, .mem, .alloc, .idx, .work, .flash, .fab, .chk, .host, .out] s
    (State.joinPairs s k n) := by
  induction n generalizing s k with
  | zero =>
  unfold State.joinPairs
  with_reducible
    repeat' first
      | exact Touches.refl _ _
  | succ m ih =>
  unfold State.joinPairs
  with_reducible
    repeat' first
      | (apply Zone.within; decide)
      | exact Touches.refl _ _
      | apply Touches.op (ih _ _)
      | apply Touches.op (TouchesP.app (State.joinLists_touches _ _ _ _ _ _) (by assumption))
      | extract_lets
      | split
      | dsimp +zetaDelta only

theorem State.splitList_touches (s : State) (l : Nat) (h : Hdr) (d : Desc) (b1 b2 : List Byte) (errs : List ReadErr) : Touches [.regs,
    .mem, .alloc, .idx, .flash, .chk, .host, .out] s (State.splitList s l h d b1 b2 errs) := by
  unfold State.splitList
  with_reducible
    repeat' first
      | (apply Zone.within; decide)
      | exact Touches.refl _ _
      | apply Touches.op (State.moveDirs_touches _ _ _ _ _ _ _)
      | apply Touches.op (State.markChanged_touches _ _)
      | apply Touches.op (State.setFine_touches _ _ _ _)
      | apply Touches.op (State.retire_touches _ _ _ _ _)
      | apply Touches.op (State.moveSlots_touches _ _ _ _)
      | apply Touches.op (TouchesP.app2 (State.rebuild_touches _ _ _ _ _) (by assumption))
      | apply Touches.op (State.candVectors_touches _ _ _ _)
      | apply Touches.op (State.setMask_touches _ _ _)
      | apply Touches.op (State.setHdr_touches _ _ _)
      | apply Touches.op (State.modDesc_touches _ _ _)
      | extract_lets
      | split

theorem execSplit_touches (l : Nat) (cs : SplitCents) (errs : List ReadErr) (s : State) : TouchesO [.regs, .mem, .alloc, .idx, .work,
    .flash, .fab, .chk, .host, .out] s (execSplit l cs errs s) := by
  unfold execSplit
  with_reducible
    repeat' first
      | (apply Zone.within; decide)
      | exact Touches.refl _ _
      | intro x
      | apply Touches.op (State.splitList_touches _ _ _ _ _ _ _)
      | apply Touches.op (State.joinPairs_touches _ _ _)
      | apply Touches.op (State.afterRetire_touches _ _)
      | apply State.maintList_touches
      | extract_lets
      | split

theorem State.passEnd_touches (s : State) (n : Nat) (d : Desc) : Touches [.mem, .idx] s (State.passEnd s n d) := by
  unfold State.passEnd
  with_reducible
    repeat' first
      | (apply Zone.within; decide)
      | exact Touches.refl _ _
      | (apply Zone.rest; intro p hp; cases p <;> first | exact absurd (by decide) hp | exact rfl)
      | intro x
      | apply Touches.op (State.setAdj_touches _ _ _)
      | apply Touches.op (State.setHdr_touches _ _ _)
      | apply Touches.op (State.modDesc_touches _ _ _)
      | apply Touches.foldl
      | extract_lets
      | apply Touches.leaf (Eq.refl _)

theorem execReclusterPassEnd_touches (n : Nat) (s : State) : TouchesO [.mem, .idx, .work] s (execReclusterPassEnd n s) := by
  unfold execReclusterPassEnd
  with_reducible
    repeat' first
      | (apply Zone.within; decide)
      | exact Touches.refl _ _
      | intro x
      | apply TouchesO.next
      | apply Touches.op (State.passEnd_touches _ _ _)
      | apply State.maintDue_touches
      | extract_lets
      | split

theorem State.discardRecs_touches (s : State) (n : Nat) (c : CreateFields) (rs : List Nat) : Touches [.regs, .alloc, .flash] s
    (State.discardRecs s n c rs) := by
  unfold State.discardRecs
  with_reducible
    repeat' first
      | (apply Zone.within; decide)
      | exact Touches.refl _ _
      | intro x
      | apply Touches.op (State.discardSector_touches _ _ _ _)
      | apply Touches.foldl
      | extract_lets
      | split

theorem State.freeRetired_touches (s : State) (e : Retired) : Touches [.regs, .mem, .alloc, .idx, .flash] s (State.freeRetired s e) := by
  unfold State.freeRetired
  with_reducible
    repeat' first
      | (apply Zone.within; decide)
      | exact Touches.refl _ _
      | (apply Zone.rest; intro p hp; cases p <;> first | exact absurd (by decide) hp | exact rfl)
      | intro x
      | apply Touches.op (State.discardRecs_touches _ _ _ _)
      | apply Touches.op (State.areaFree_touches _ _)
      | apply Touches.op (State.rowsFree_touches _ _ _)
      | apply Touches.foldl
      | extract_lets
      | split
      | apply Touches.leaf (Eq.refl _)

theorem execExtentFree_touches (l gen : Nat) (s : State) : TouchesO [.regs, .mem, .alloc, .idx, .work, .flash, .fab, .chk, .host, .out]
    s (execExtentFree l gen s) := by
  unfold execExtentFree
  with_reducible
    repeat' first
      | (apply Zone.within; decide)
      | exact Touches.refl _ _
      | (apply Zone.rest; intro p hp; cases p <;> first | exact absurd (by decide) hp | exact rfl)
      | intro x
      | apply Touches.op (State.freeRetired_touches _ _)
      | apply Touches.op (State.afterRetire_touches _ _)
      | apply State.whenServing_touches
      | apply Touches.foldl
      | extract_lets
      | split
      | apply Touches.leaf (Eq.refl _)

theorem execSideFullTimeout_touches (id : Nat) (s : State) : TouchesO [.regs, .idx, .work, .fab, .host, .out] s (execSideFullTimeout id
    s) := by
  unfold execSideFullTimeout
  with_reducible
    repeat' first
      | (apply Zone.within; decide)
      | exact Touches.refl _ _
      | apply Touches.op (State.modDesc_touches _ _ _)
      | apply Touches.op (State.finishReq_touches _ _ _ _)
      | apply State.whenServing_touches
      | extract_lets
      | split

/-! ## HostObjects -/

theorem State.newList_touches (s : State) (c : CreateFields) (l : Nat) : TouchesP [.mem, .alloc, .idx] s (fun x => x) (State.newList s c
    l) := by
  unfold State.newList
  with_reducible
    repeat' first
      | (apply Zone.within; decide)
      | exact Touches.refl _ _
      | intro x
      | apply TouchesP.map'
      | apply Touches.op (TouchesP.app2 (State.rebuild_touches _ _ _ _ _) (by assumption))
      | apply Touches.op (State.setMask_touches _ _ _)
      | apply Touches.op (State.setAdj_touches _ _ _)
      | apply Touches.op (State.setHdr_touches _ _ _)

theorem State.newLists_touches (s : State) (c : CreateFields) (ls : List Nat) : TouchesP [.mem, .alloc, .idx] s (fun x => x)
    (State.newLists s c ls) := by
  induction ls generalizing s c with
  | nil =>
  unfold State.newLists
  with_reducible
    repeat' first
      | exact Touches.refl _ _
      | apply TouchesP.ofSome
  | cons x r ih =>
  unfold State.newLists
  with_reducible
    repeat' first
      | (apply Zone.within; decide)
      | exact Touches.refl _ _
      | exact TouchesP.ofNone
      | apply TouchesP.op (ih _ _)
      | apply Touches.op (TouchesP.app (State.newList_touches _ _ _) (by assumption))
      | split

theorem State.newAreas_touches (s : State) (ns : List Nat) : TouchesP [.alloc] s (fun x => x.2) (State.newAreas s ns) := by
  induction ns generalizing s with
  | nil =>
  unfold State.newAreas
  with_reducible
    repeat' first
      | exact Touches.refl _ _
      | apply TouchesP.ofSome
  | cons x r ih =>
  unfold State.newAreas
  with_reducible
    repeat' first
      | (apply Zone.within; decide)
      | exact Touches.refl _ _
      | intro x
      | exact TouchesP.ofNone
      | apply TouchesP.map'
      | apply Touches.op (TouchesP.app (ih _) (by assumption))
      | apply Touches.op (TouchesP.app2 (State.areaTake_touches _ _) (by assumption))
      | extract_lets
      | split
      | dsimp +zetaDelta only

theorem State.placeIndex_touches (s : State) (c : CreateFields) (splan uplan : Nat) : TouchesP [.regs, .mem, .alloc, .idx, .flash] s
    (fun x => x) (State.placeIndex s c splan uplan) := by
  unfold State.placeIndex
  with_reducible
    repeat' first
      | (apply Zone.within; decide)
      | exact Touches.refl _ _
      | (apply Zone.rest; intro p hp; cases p <;> first | exact absurd (by decide) hp | exact rfl)
      | exact TouchesP.ofNone
      | apply TouchesP.ofSome
      | apply Touches.op (TouchesP.app2 (State.newAreas_touches _ _) (by assumption))
      | apply Touches.op (State.newNs_touches _ _ _)
      | apply Touches.op (State.countOrphans_touches _)
      | apply Touches.op (State.discardNs_touches _ _)
      | apply Touches.op (State.ilvClean_touches _ _ _)
      | extract_lets
      | split
      | apply Touches.leaf (Eq.refl _)

theorem State.buildIndex_touches (s : State) (c : CreateFields) (splan uplan : Nat) : TouchesP [.regs, .mem, .alloc, .idx, .flash] s
    (fun x => x) (State.buildIndex s c splan uplan) := by
  unfold State.buildIndex
  with_reducible
    repeat' first
      | (apply Zone.within; decide)
      | exact Touches.refl _ _
      | intro x
      | apply TouchesP.bind
      | apply Touches.op (TouchesP.app (State.placeIndex_touches _ _ _ _) (by assumption))
      | apply TouchesP.op (State.newLists_touches _ _ _)

theorem execIndexCreate_touches (h : HostHdr) (c0 : CreateFields) (splan uplan : Nat) (s : State) : TouchesO [.regs, .mem, .alloc, .idx,
    .work, .flash, .host, .out] s (execIndexCreate h c0 splan uplan s) := by
  unfold execIndexCreate
  with_reducible
    repeat' first
      | (apply Zone.within; decide)
      | exact Touches.refl _ _
      | intro x
      | apply TouchesO.next
      | apply Touches.op (TouchesP.app (State.buildIndex_touches _ _ _ _) (by assumption))
      | apply State.need_touches
      | apply State.hostRun_touches
      | apply Touches.op (State.charge_touches _ _ _)
      | apply Touches.op (State.completeSt_touches _ _ _)
      | extract_lets
      | split

theorem execIndexDelete_touches (h : HostHdr) (n : Nat) (s : State) : TouchesO [.regs, .mem, .alloc, .idx, .work, .flash, .host, .out] s
    (execIndexDelete h n s) := by
  unfold execIndexDelete
  with_reducible
    repeat' first
      | (apply Zone.within; decide)
      | exact Touches.refl _ _
      | (apply Zone.rest; intro p hp; cases p <;> first | exact absurd (by decide) hp | exact rfl)
      | intro x
      | apply Touches.op (State.modDesc_touches _ _ _)
      | apply Touches.op (State.countOrphans_touches _)
      | apply Touches.op (State.discardNs_touches _ _)
      | apply State.hostCmd_touches
      | apply Touches.op (State.completeSt_touches _ _ _)
      | extract_lets
      | split
      | apply Touches.leaf (Eq.refl _)

theorem State.freeIndex_touches (s : State) (n : Nat) (d : Desc) : Touches [.regs, .mem, .alloc, .idx, .flash] s (State.freeIndex s n d)
    := by
  unfold State.freeIndex
  with_reducible
    repeat' first
      | (apply Zone.within; decide)
      | exact Touches.refl _ _
      | (apply Zone.rest; intro p hp; cases p <;> first | exact absurd (by decide) hp | exact rfl)
      | intro x
      | apply Touches.op (State.retire_touches _ _ _ _ _)
      | apply Touches.op (State.countOrphans_touches _)
      | apply Touches.op (State.discardNs_touches _ _)
      | apply Touches.op (State.areaFree_touches _ _)
      | apply Touches.op (State.rowsFree_touches _ _ _)
      | apply Touches.foldl
      | extract_lets
      | apply Touches.leaf (Eq.refl _)

theorem execDeletionFinish_touches (n : Nat) (s : State) : TouchesO [.regs, .mem, .alloc, .idx, .work, .flash, .host, .out] s
    (execDeletionFinish n s) := by
  unfold execDeletionFinish
  with_reducible
    repeat' first
      | (apply Zone.within; decide)
      | exact Touches.refl _ _
      | (apply Zone.rest; intro p hp; cases p <;> first | exact absurd (by decide) hp | exact rfl)
      | intro x
      | apply Touches.op (State.freeIndex_touches _ _ _)
      | apply Touches.op (State.release_touches _ _ _)
      | apply Touches.op (State.completeSt_touches _ _ _)
      | apply State.whenServing_touches
      | apply Touches.foldl
      | extract_lets
      | split
      | apply Touches.leaf (Eq.refl _)

theorem execIndexQuiesce_touches (h : HostHdr) (n : Nat) (s : State) : TouchesO [.regs, .idx, .work, .host, .out] s (execIndexQuiesce h
    n s) := by
  unfold execIndexQuiesce
  with_reducible
    repeat' first
      | (apply Zone.within; decide)
      | exact Touches.refl _ _
      | intro x
      | apply Touches.op (State.modDesc_touches _ _ _)
      | apply State.hostCmd_touches
      | apply Touches.op (State.completeSt_touches _ _ _)
      | apply Touches.op (State.complete_touches _ _ _ _ _)
      | extract_lets
      | split

theorem execIndexAttach_touches (h : HostHdr) (n splan uplan : Nat) (s : State) : TouchesO [.regs, .idx, .work, .host, .out] s
    (execIndexAttach h n splan uplan s) := by
  unfold execIndexAttach
  with_reducible
    repeat' first
      | (apply Zone.within; decide)
      | exact Touches.refl _ _
      | intro x
      | apply Touches.op (State.modDesc_touches _ _ _)
      | apply State.hostCmd_touches
      | apply Touches.op (State.charge_touches _ _ _)
      | apply Touches.op (State.completeSt_touches _ _ _)
      | apply Touches.op (State.complete_touches _ _ _ _ _)
      | extract_lets
      | split

theorem execSetHot_touches (h : HostHdr) (ns : Nat) (hot : Bool) (first count : Nat) (s : State) : TouchesO [.regs, .alloc, .work,
    .flash, .host, .out, .free] s (execSetHot h ns hot first count s) := by
  unfold execSetHot
  with_reducible
    repeat' first
      | (apply Zone.within; decide)
      | exact Touches.refl _ _
      | intro x
      | apply TouchesO.next
      | apply Touches.op (State.setMap_touches _ _ _ _)
      | apply State.need_touches
      | apply State.wellFormed_touches
      | apply State.hostRun_touches
      | apply Touches.op (State.completeSt_touches _ _ _)
      | apply Touches.foldl
      | extract_lets
      | split

theorem execCreateTable_touches (h : HostHdr) (d : TableDesc) (s : State) : TouchesO [.regs, .alloc, .work, .tables, .host, .out, .free]
    s (execCreateTable h d s) := by
  unfold execCreateTable
  with_reducible
    repeat' first
      | (apply Zone.within; decide)
      | exact Touches.refl _ _
      | (apply Zone.rest; intro p hp; cases p <;> first | exact absurd (by decide) hp | exact rfl)
      | intro x
      | apply TouchesO.next
      | apply State.need_touches
      | apply State.wellFormed_touches
      | apply State.hostRun_touches
      | apply Touches.op (State.charge_touches _ _ _)
      | apply Touches.op (State.completeSt_touches _ _ _)
      | extract_lets
      | split
      | apply Touches.leaf (Eq.refl _)

theorem execDeleteTable_touches (h : HostHdr) (n : Nat) (s : State) : TouchesO [.regs, .mem, .alloc, .work, .tables, .host, .out] s
    (execDeleteTable h n s) := by
  unfold execDeleteTable
  with_reducible
    repeat' first
      | (apply Zone.within; decide)
      | exact Touches.refl _ _
      | (apply Zone.rest; intro p hp; cases p <;> first | exact absurd (by decide) hp | exact rfl)
      | intro x
      | apply TouchesO.next
      | apply State.need_touches
      | apply State.hostRun_touches
      | apply Touches.op (State.release_touches _ _ _)
      | apply Touches.op (State.completeSt_touches _ _ _)
      | apply Touches.op (State.areaFree_touches _ _)
      | apply Touches.each
      | extract_lets
      | apply Touches.leaf (Eq.refl _)

theorem execGroupIndex_touches (h : HostHdr) (n mask : Nat) (s : State) : TouchesO [.regs, .idx, .work, .host, .out, .free] s
    (execGroupIndex h n mask s) := by
  unfold execGroupIndex
  with_reducible
    repeat' first
      | (apply Zone.within; decide)
      | exact Touches.refl _ _
      | (apply Zone.rest; intro p hp; cases p <;> first | exact absurd (by decide) hp | exact rfl)
      | intro x
      | apply TouchesO.next
      | apply State.need_touches
      | apply State.wellFormed_touches
      | apply State.hostRun_touches
      | apply Touches.op (State.completeSt_touches _ _ _)
      | extract_lets
      | apply Touches.leaf (Eq.refl _)

theorem State.placeSections_touches (s : State) (plan : Nat) (xs : List PlanSection) (i : Nat) : TouchesP [.mem, .alloc] s (fun x =>
    x.2) (State.placeSections s plan xs i) := by
  induction xs generalizing s plan i with
  | nil =>
  unfold State.placeSections
  with_reducible
    repeat' first
      | exact Touches.refl _ _
      | apply TouchesP.ofSome
  | cons x r ih =>
  unfold State.placeSections
  with_reducible
    repeat' first
      | (apply Zone.within; decide)
      | exact Touches.refl _ _
      | intro x
      | exact TouchesP.ofNone
      | apply TouchesP.map'
      | apply Touches.op (TouchesP.app (ih _ _ _) (by assumption))
      | apply Touches.op (State.ilvStore_touches _ _ _ _)
      | apply Touches.op (State.checkMake_touches _ _ _)
      | apply Touches.op (TouchesP.app2 (State.areaTake_touches _ _) (by assumption))
      | apply Touches.each
      | extract_lets
      | split
      | dsimp +zetaDelta only

theorem State.placePlans_touches (s : State) (owner pack n : Nat) (ps : List PlanHdr) : TouchesP [.mem, .alloc, .work] s (fun x => x)
    (State.placePlans s owner pack n ps) := by
  induction ps generalizing s owner pack n with
  | nil =>
  unfold State.placePlans
  with_reducible
    repeat' first
      | exact Touches.refl _ _
      | apply TouchesP.ofSome
  | cons x r ih =>
  unfold State.placePlans
  with_reducible
    repeat' first
      | (apply Zone.within; decide)
      | exact Touches.refl _ _
      | (apply Zone.rest; intro p hp; cases p <;> first | exact absurd (by decide) hp | exact rfl)
      | exact TouchesP.ofNone
      | apply TouchesP.op (ih _ _ _ _)
      | apply Touches.op (TouchesP.app2 (State.placeSections_touches _ _ _ _) (by assumption))
      | extract_lets
      | split
      | apply Touches.leaf (Eq.refl _)

theorem State.loadEnd_touches (s : State) : Touches [.mem, .alloc, .work] s (State.loadEnd s) := by
  unfold State.loadEnd
  with_reducible
    repeat' first
      | (apply Zone.within; decide)
      | exact Touches.refl _ _
      | (apply Zone.rest; intro p hp; cases p <;> first | exact absurd (by decide) hp | exact rfl)
      | apply Touches.op (State.areaFree_touches _ _)
      | extract_lets
      | split
      | apply Touches.leaf (Eq.refl _)

theorem execLoadPack_touches (h : HostHdr) (part : PackPart) (pk : PackBytes) (s : State) : TouchesO [.regs, .mem, .alloc, .work, .host,
    .out, .free] s (execLoadPack h part pk s) := by
  unfold execLoadPack
  with_reducible
    repeat' first
      | (apply Zone.within; decide)
      | exact Touches.refl _ _
      | (apply Zone.rest; intro p hp; cases p <;> first | exact absurd (by decide) hp | exact rfl)
      | intro x
      | apply TouchesO.next
      | apply Touches.op (State.loadEnd_touches _)
      | apply Touches.op (TouchesP.app (State.placePlans_touches _ _ _ _ _) (by assumption))
      | apply State.wellFormed_touches
      | apply State.hostRun_touches
      | apply Touches.op (State.charge_touches _ _ _)
      | apply Touches.op (State.completeSt_touches _ _ _)
      | apply Touches.op (State.complete_touches _ _ _ _ _)
      | apply Touches.op (TouchesP.app2 (State.areaTake_touches _ _) (by assumption))
      | apply Touches.op (State.event_touches _ _ _)
      | extract_lets
      | split
      | apply Touches.leaf (Eq.refl _)

theorem execPackLoadTimeout_touches (s : State) : TouchesO [.mem, .alloc, .work] s (execPackLoadTimeout s) := by
  unfold execPackLoadTimeout
  with_reducible
    repeat' first
      | (apply Zone.within; decide)
      | exact Touches.refl _ _
      | apply Touches.op (State.loadEnd_touches _)
      | apply State.whenServing_touches

theorem execUnloadPlan_touches (h : HostHdr) (n : Nat) (s : State) : TouchesO [.regs, .mem, .alloc, .work, .host, .out] s
    (execUnloadPlan h n s) := by
  unfold execUnloadPlan
  with_reducible
    repeat' first
      | (apply Zone.within; decide)
      | exact Touches.refl _ _
      | (apply Zone.rest; intro p hp; cases p <;> first | exact absurd (by decide) hp | exact rfl)
      | intro x
      | apply TouchesO.next
      | apply State.need_touches
      | apply State.hostRun_touches
      | apply Touches.op (State.release_touches _ _ _)
      | apply Touches.op (State.completeSt_touches _ _ _)
      | apply Touches.op (State.areaFree_touches _ _)
      | apply Touches.foldl
      | extract_lets
      | split
      | apply Touches.leaf (Eq.refl _)

theorem execLeaseOpen_touches (h : HostHdr) (plan : Nat) (s : State) : TouchesO [.regs, .work, .host, .out] s (execLeaseOpen h plan s)
    := by
  unfold execLeaseOpen
  with_reducible
    repeat' first
      | (apply Zone.within; decide)
      | exact Touches.refl _ _
      | intro x
      | apply TouchesO.next
      | apply Touches.op (TouchesE.app2 (State.openLease_touches _ _) (by assumption))
      | apply State.need_touches
      | apply State.hostRun_touches
      | apply Touches.op (State.completeSt_touches _ _ _)
      | apply Touches.op (State.complete_touches _ _ _ _ _)
      | extract_lets
      | split

theorem execLeaseClose_touches (h : HostHdr) (l : Nat) (s : State) : TouchesO [.regs, .mem, .alloc, .work, .comp, .flash, .fab, .cas,
    .nrg, .host, .out] s (execLeaseClose h l s) := by
  unfold execLeaseClose
  with_reducible
    repeat' first
      | (apply Zone.within; decide)
      | exact Touches.refl _ _
      | intro x
      | apply TouchesO.next
      | apply Touches.op (State.closeLease_touches _ _ _)
      | apply State.need_touches
      | apply State.hostRun_touches
      | apply Touches.op (State.completeSt_touches _ _ _)
      | extract_lets
      | split

theorem execPlanStats_touches (h : HostHdr) (l : Nat) (s : State) : TouchesO [.regs, .work, .host, .out, .free] s (execPlanStats h l s)
    := by
  unfold execPlanStats
  with_reducible
    repeat' first
      | (apply Zone.within; decide)
      | exact Touches.refl _ _
      | intro x
      | apply State.need_touches
      | apply TouchesO.op (State.answerWith_touches _ _ _)
      | apply State.hostRun_touches
      | extract_lets
      | split

end Sys2Proof.Machine
end

