-- ==== Sys2Proof/Laws/Touch4.lean ====
section
/-! SUPPORT. What the operations and commands of the flash commands, power, boot, the group, its snapshots and the planner may touch: one lemma each (Laws/Touch.lean). -/

namespace Sys2Proof.Machine

/-! ## Sloe -/

theorem State.leaveDisp_touches (s : State) (d : SloeDesc) : Touches [.flash] s (State.leaveDisp s d) := by
  unfold State.leaveDisp
  with_reducible
    repeat' first
      | exact Touches.refl _ _
      | (apply Zone.rest; intro p hp; cases p <;> first | exact absurd (by decide) hp | exact rfl)
      | extract_lets
      | apply Touches.leaf (Eq.refl _)

theorem State.fetchResult_touches (s : State) (d : SloeDesc) (query bytes : List Byte) (bad : Bool) (flags : Nat) : Touches [.out] s
    (State.fetchResult s d query bytes bad flags) := by
  unfold State.fetchResult
  with_reducible
    repeat' first
      | (apply Zone.within; decide)
      | exact Touches.refl _ _
      | apply Touches.op (State.emit_touches _ _)
      | extract_lets
      | split

theorem execLoadq_touches (d : SloeDesc) (s : State) : TouchesO [.regs, .flash, .out, .free] s (execLoadq d s) := by
  unfold execLoadq
  with_reducible
    repeat' first
      | (apply Zone.within; decide)
      | exact Touches.refl _ _
      | (apply Zone.rest; intro p hp; cases p <;> first | exact absurd (by decide) hp | exact rfl)
      | intro x
      | apply TouchesO.next
      | apply Touches.op (State.leaveDisp_touches _ _)
      | apply Touches.each
      | apply Touches.op (State.hostErr_touches _ _)
      | apply Touches.op (State.count_touches _ _ _)
      | extract_lets
      | split
      | apply Touches.leaf (Eq.refl _)

theorem State.startPart_touches (s : State) (d : SloeDesc) (x : FPart) : Touches [.regs, .flash, .out] s (State.startPart s d x) := by
  unfold State.startPart
  with_reducible
    repeat' first
      | (apply Zone.within; decide)
      | exact Touches.refl _ _
      | (apply Zone.rest; intro p hp; cases p <;> first | exact absurd (by decide) hp | exact rfl)
      | apply Touches.op (State.emit_touches _ _)
      | apply Touches.op (State.count_touches _ _ _)
      | extract_lets
      | apply Touches.leaf (Eq.refl _)

theorem State.startParts_touches (s : State) (f : Fetch) : Touches [.regs, .flash, .out] s (State.startParts s f).1 := by
  unfold State.startParts
  repeat' split
  all_goals with_reducible
    repeat' first
      | (apply Zone.within; decide)
      | exact Touches.refl _ _
      | intro x
      | apply Touches.op (State.startPart_touches _ _ _)
      | apply Touches.foldl1
      | extract_lets
      | split

theorem State.sloeNext_touches (s : State) : Touches [.regs, .flash, .out] s (State.sloeNext s) := by
  unfold State.sloeNext
  with_reducible
    repeat' first
      | (apply Zone.within; decide)
      | exact Touches.refl _ _
      | (apply Zone.rest; intro p hp; cases p <;> first | exact absurd (by decide) hp | exact rfl)
      | intro x
      | apply Touches.op (State.startParts_touches _ _)
      | apply Touches.foldl1
      | extract_lets
      | split
      | apply Touches.leaf (Eq.refl _)

theorem execFetch_touches (d : SloeDesc) (s : State) : TouchesO [.regs, .flash, .chk, .host, .out] s (execFetch d s) := by
  unfold execFetch
  with_reducible
    repeat' first
      | (apply Zone.within; decide)
      | exact Touches.refl _ _
      | (apply Zone.rest; intro p hp; cases p <;> first | exact absurd (by decide) hp | exact rfl)
      | apply TouchesO.next
      | apply Touches.op (State.startParts_touches _ _)
      | apply Touches.op (State.fetchResult_touches _ _ _ _ _ _)
      | apply Touches.op (State.leaveDisp_touches _ _)
      | apply Touches.op (State.mapPoison_touches _)
      | apply Touches.op (State.count_touches _ _ _)
      | extract_lets
      | split
      | apply Touches.leaf (Eq.refl _)

theorem execFlashStatusPoll_touches (ch ce : Nat) (ready : Bool) (fails : List Nat) (s : State) : TouchesO [.flash, .out] s
    (execFlashStatusPoll ch ce ready fails s) := by
  unfold execFlashStatusPoll
  with_reducible
    repeat' first
      | (apply Zone.within; decide)
      | exact Touches.refl _ _
      | (apply Zone.rest; intro p hp; cases p <;> first | exact absurd (by decide) hp | exact rfl)
      | apply TouchesO.next
      | apply Touches.op (State.emit_touches _ _)
      | extract_lets
      | split
      | apply Touches.leaf (Eq.refl _)

theorem State.dieFree_touches (s : State) (ch ce : Nat) : Touches [.flash] s (State.dieFree s ch ce) := by
  unfold State.dieFree
  with_reducible
    repeat' first
      | exact Touches.refl _ _
      | (apply Zone.rest; intro p hp; cases p <;> first | exact absurd (by decide) hp | exact rfl)
      | extract_lets
      | apply Touches.leaf (Eq.refl _)

theorem State.fetchDone_touches (s : State) (f : Fetch) : Touches [.regs, .alloc, .flash, .chk, .host, .out] s (State.fetchDone s f) := by
  unfold State.fetchDone
  with_reducible
    repeat' first
      | (apply Zone.within; decide)
      | exact Touches.refl _ _
      | apply Touches.op (State.fetchResult_touches _ _ _ _ _ _)
      | apply Touches.op (State.leaveDisp_touches _ _)
      | apply Touches.op (State.readDone_touches _ _ _ _ _ _ _)
      | apply Touches.op (State.count_touches _ _ _)

theorem State.partDone_touches (s : State) (p : Nat) (e : NandEnv) : Touches [.regs, .alloc, .flash, .chk, .host, .out] s
    (State.partDone s p e) := by
  unfold State.partDone
  with_reducible
    repeat' first
      | (apply Zone.within; decide)
      | exact Touches.refl _ _
      | (apply Zone.rest; intro p hp; cases p <;> first | exact absurd (by decide) hp | exact rfl)
      | apply Touches.op (State.fetchDone_touches _ _)
      | extract_lets
      | split
      | apply Touches.leaf (Eq.refl _)

theorem execNandReadComplete_touches (ch ce : Nat) (e : NandEnv) (s : State) : TouchesO [.regs, .alloc, .flash, .chk, .host, .out] s
    (execNandReadComplete ch ce e s) := by
  unfold execNandReadComplete
  with_reducible
    repeat' first
      | (apply Zone.within; decide)
      | exact Touches.refl _ _
      | apply TouchesO.next
      | apply Touches.op (State.partDone_touches _ _ _)
      | apply Touches.op (State.dieFree_touches _ _ _)
      | apply Touches.op (State.sloeNext_touches _)
      | apply Touches.op (State.progPending_touches _)
      | split

theorem State.sloeScanOne_touches (s : State) (d : SloeDesc) (q : List Byte × Bool) (errs : List ReadErr) (i kept bad : Nat) : Touches
    [.out] s (State.sloeScanOne s d q errs i kept bad).1 := by
  unfold State.sloeScanOne
  repeat' split
  all_goals with_reducible
    repeat' first
      | (apply Zone.within; decide)
      | exact Touches.refl _ _
      | apply Touches.op (State.emit_touches _ _)
      | extract_lets
      | split

theorem State.cacheReads_touches (s : State) (ps : Tbl (List Nat)) : Touches [.out] s (State.cacheReads s ps) := by
  unfold State.cacheReads
  with_reducible
    repeat' first
      | (apply Zone.within; decide)
      | exact Touches.refl _ _
      | intro x
      | apply Touches.each
      | apply Touches.op (State.emit_touches _ _)
      | extract_lets
      | split

theorem State.readCached_touches (s : State) (ps : Tbl (List Nat)) (errs : List ReadErr) : Touches [.regs, .alloc, .flash, .chk, .host,
    .out] s (State.readCached s ps errs) := by
  unfold State.readCached
  with_reducible
    repeat' first
      | (apply Zone.within; decide)
      | exact Touches.refl _ _
      | intro x
      | apply Touches.op (State.cacheReads_touches _ _)
      | apply Touches.op (State.decodeAt_touches _ _ _ _ _)
      | apply Touches.each
      | apply Touches.op (State.count_touches _ _ _)

theorem execScan_touches (d : SloeDesc) (errs : List ReadErr) (s : State) : TouchesO [.regs, .alloc, .flash, .chk, .host, .out, .free] s
    (execScan d errs s) := by
  unfold execScan
  with_reducible
    repeat' first
      | (apply Zone.within; decide)
      | exact Touches.refl _ _
      | intro x
      | apply TouchesO.next
      | apply Touches.op (State.readCached_touches _ _ _)
      | apply Touches.op (State.sloeScanOne_touches _ _ _ _ _ _ _)
      | apply Touches.op (State.leaveDisp_touches _ _)
      | apply Touches.op (State.mapPoison_touches _)
      | apply Touches.each
      | apply Touches.op (State.hostErr_touches _ _)
      | apply Touches.op (State.emit_touches _ _)
      | apply Touches.op (State.count_touches _ _ _)
      | apply Touches.foldl1
      | extract_lets
      | split

/-! ## Power -/

theorem execColdPowerOn_touches (s : State) : TouchesO [.pwr, .boot, .regs, .stagedW, .mem, .alloc, .idx, .work, .nbu, .comp, .tables,
    .flash, .fab, .cas, .chk, .nrg, .host, .mgmt, .uptime] s (execColdPowerOn s) := by
  unfold execColdPowerOn
  with_reducible
    repeat' first
      | (apply Zone.within; decide)
      | exact Touches.refl _ _
      | (apply Zone.rest; intro p hp; cases p <;> first | exact absurd (by decide) hp | exact rfl)
      | apply Touches.op (State.wholeReset_touches _ _)
      | apply State.onlyIf_touches
      | extract_lets
      | apply Touches.leaf (Eq.refl _)

theorem execPowerLoss_touches (s : State) : TouchesO [.pwr, .boot, .regs, .stagedW, .mem, .alloc, .idx, .work, .nbu, .comp, .tables,
    .flash, .fab, .cas, .chk, .nrg, .host, .mgmt, .uptime] s (execPowerLoss s) := by
  unfold execPowerLoss
  with_reducible
    repeat' first
      | (apply Zone.within; decide)
      | exact Touches.refl _ _
      | (apply Zone.rest; intro p hp; cases p <;> first | exact absurd (by decide) hp | exact rfl)
      | apply TouchesO.next
      | apply Touches.op (State.wholeReset_touches _ _)
      | extract_lets
      | apply Touches.leaf (Eq.refl _)

theorem execPerstAssert_touches (s : State) : TouchesO [.pwr, .boot, .regs, .stagedW, .mem, .alloc, .idx, .work, .nbu, .comp, .tables,
    .flash, .fab, .cas, .chk, .nrg, .host, .mgmt, .uptime, .out] s (execPerstAssert s) := by
  unfold execPerstAssert
  with_reducible
    repeat' first
      | (apply Zone.within; decide)
      | exact Touches.refl _ _
      | (apply Zone.rest; intro p hp; cases p <;> first | exact absurd (by decide) hp | exact rfl)
      | apply Touches.op (State.resetNode_touches _ _)
      | apply Touches.op (State.restart_touches _ _ _)
      | apply State.onlyIf_touches
      | extract_lets
      | split
      | apply Touches.leaf (Eq.refl _)

theorem execPerstRelease_touches (bist7Ok : Bool) (s : State) : TouchesO [.pwr, .regs] s (execPerstRelease bist7Ok s) := by
  unfold execPerstRelease
  with_reducible
    repeat' first
      | (apply Zone.within; decide)
      | exact Touches.refl _ _
      | (apply Zone.rest; intro p hp; cases p <;> first | exact absurd (by decide) hp | exact rfl)
      | apply State.onlyIf_touches
      | apply Touches.op (State.setFld_touches _ _ _)
      | extract_lets
      | split
      | apply Touches.leaf (Eq.refl _)

theorem State.watchdog_touches (s : State) (src : Nat) : Touches [.pwr, .boot, .regs, .stagedW, .mem, .alloc, .idx, .work, .nbu, .comp,
    .tables, .flash, .fab, .cas, .chk, .nrg, .host, .mgmt, .uptime, .out] s (State.watchdog s src) := by
  unfold State.watchdog
  with_reducible
    repeat' first
      | (apply Zone.within; decide)
      | exact Touches.refl _ _
      | apply Touches.op (State.resetNode_touches _ _)
      | split

theorem execWatchdogReset_touches (s : State) : TouchesO [.pwr, .boot, .regs, .stagedW, .mem, .alloc, .idx, .work, .nbu, .comp, .tables,
    .flash, .fab, .cas, .chk, .nrg, .host, .mgmt, .uptime, .out] s (execWatchdogReset s) := by
  unfold execWatchdogReset
  with_reducible
    repeat' first
      | (apply Zone.within; decide)
      | exact Touches.refl _ _
      | apply TouchesO.next
      | apply Touches.op (State.watchdog_touches _ _)

theorem execElderWatchdog_touches (s : State) : TouchesO [.pwr, .boot, .regs, .stagedW, .mem, .alloc, .idx, .work, .nbu, .comp, .tables,
    .flash, .fab, .cas, .chk, .nrg, .host, .mgmt, .uptime, .out] s (execElderWatchdog s) := by
  unfold execElderWatchdog
  with_reducible
    repeat' first
      | (apply Zone.within; decide)
      | exact Touches.refl _ _
      | apply TouchesO.next
      | apply Touches.op (State.watchdog_touches _ _)

theorem execRefclkLoss_touches (s : State) : TouchesO [.pwr, .regs, .work, .fab, .cas, .chk, .host, .out] s (execRefclkLoss s) := by
  unfold execRefclkLoss
  with_reducible
    repeat' first
      | (apply Zone.within; decide)
      | exact Touches.refl _ _
      | (apply Zone.rest; intro p hp; cases p <;> first | exact absurd (by decide) hp | exact rfl)
      | intro x
      | apply Touches.op (State.nrgEvent_touches _ _ _ _ _)
      | apply Touches.op (State.portDown_touches _ _)
      | apply State.onlyIf_touches
      | apply Touches.each
      | apply Touches.op (State.setFld_touches _ _ _)
      | extract_lets
      | split
      | apply Touches.leaf (Eq.refl _)

theorem execRefclkRestore_touches (s : State) : TouchesO [.pwr, .boot, .regs, .stagedW, .mem, .alloc, .idx, .work, .nbu, .comp, .tables,
    .flash, .fab, .cas, .chk, .nrg, .host, .mgmt, .uptime, .out] s (execRefclkRestore s) := by
  unfold execRefclkRestore
  with_reducible
    repeat' first
      | (apply Zone.within; decide)
      | exact Touches.refl _ _
      | (apply Zone.rest; intro p hp; cases p <;> first | exact absurd (by decide) hp | exact rfl)
      | apply Touches.op (State.watchdog_touches _ _)
      | apply State.onlyIf_touches
      | apply Touches.op (State.setFld_touches _ _ _)
      | extract_lets
      | apply Touches.leaf (Eq.refl _)

theorem execPllUnlock_touches (s : State) : TouchesO [.pwr, .boot, .regs, .stagedW, .mem, .alloc, .idx, .work, .nbu, .comp, .tables,
    .flash, .fab, .cas, .chk, .nrg, .host, .mgmt, .uptime, .out] s (execPllUnlock s) := by
  unfold execPllUnlock
  with_reducible
    repeat' first
      | (apply Zone.within; decide)
      | exact Touches.refl _ _
      | apply Touches.op (State.watchdog_touches _ _)
      | apply Touches.op (State.nrgEvent_touches _ _ _ _ _)
      | apply State.onlyIf_touches
      | apply Touches.op (State.setFld_touches _ _ _)
      | extract_lets
      | split

theorem execVwarnTaken_touches (s : State) : TouchesO [.pwr, .regs, .work, .nbu, .chk, .nrg, .host, .out] s (execVwarnTaken s) := by
  unfold execVwarnTaken
  with_reducible
    repeat' first
      | (apply Zone.within; decide)
      | exact Touches.refl _ _
      | (apply Zone.rest; intro p hp; cases p <;> first | exact absurd (by decide) hp | exact rfl)
      | apply Touches.op (State.setPstate_touches _ _)
      | apply Touches.op (State.nrgEvent_touches _ _ _ _ _)
      | apply Touches.op (State.powerHold_touches _)
      | apply State.onlyIf_touches
      | apply Touches.op (State.count_touches _ _ _)
      | apply Touches.op (State.setFld_touches _ _ _)
      | extract_lets
      | split
      | apply Touches.leaf (Eq.refl _)

theorem execVwarnRelease_touches (s : State) : TouchesO [.pwr, .regs] s (execVwarnRelease s) := by
  unfold execVwarnRelease
  with_reducible
    repeat' first
      | (apply Zone.within; decide)
      | exact Touches.refl _ _
      | (apply Zone.rest; intro p hp; cases p <;> first | exact absurd (by decide) hp | exact rfl)
      | apply Touches.op (State.setPstate_touches _ _)
      | apply State.onlyIf_touches
      | apply Touches.op (State.setFld_touches _ _ _)
      | extract_lets
      | split
      | apply Touches.leaf (Eq.refl _)

theorem execBrownoutRecovery_touches (s : State) : TouchesO [.pwr, .regs, .nbu, .flash, .chk, .nrg, .host, .out] s (execBrownoutRecovery
    s) := by
  unfold execBrownoutRecovery
  with_reducible
    repeat' first
      | (apply Zone.within; decide)
      | exact Touches.refl _ _
      | (apply Zone.rest; intro p hp; cases p <;> first | exact absurd (by decide) hp | exact rfl)
      | apply Touches.op (State.sloeNext_touches _)
      | apply Touches.op (State.setPstate_touches _ _)
      | apply Touches.op (State.nrgEvent_touches _ _ _ _ _)
      | apply Touches.op (State.powerUnhold_touches _)
      | apply Touches.op (State.progPending_touches _)
      | apply State.onlyIf_touches
      | extract_lets
      | split
      | apply Touches.leaf (Eq.refl _)

theorem execVwmaxExpiry_touches (s : State) : TouchesO [.pwr, .boot, .regs, .stagedW, .mem, .alloc, .idx, .work, .nbu, .comp, .tables,
    .flash, .fab, .cas, .chk, .nrg, .host, .mgmt, .uptime, .out] s (execVwmaxExpiry s) := by
  unfold execVwmaxExpiry
  with_reducible
    repeat' first
      | (apply Zone.within; decide)
      | exact Touches.refl _ _
      | apply Touches.op (State.threshold_touches _)
      | apply State.onlyIf_touches

theorem execResetThreshold_touches (s : State) : TouchesO [.pwr, .boot, .regs, .stagedW, .mem, .alloc, .idx, .work, .nbu, .comp,
    .tables, .flash, .fab, .cas, .chk, .nrg, .host, .mgmt, .uptime, .out] s (execResetThreshold s) := by
  unfold execResetThreshold
  with_reducible
    repeat' first
      | (apply Zone.within; decide)
      | exact Touches.refl _ _
      | apply TouchesO.next
      | apply Touches.op (State.threshold_touches _)

theorem execFlushComplete_touches (s : State) : TouchesO [.pwr, .boot, .regs, .stagedW, .mem, .alloc, .idx, .work, .nbu, .comp, .tables,
    .flash, .fab, .cas, .chk, .nrg, .host, .mgmt, .uptime, .out] s (execFlushComplete s) := by
  unfold execFlushComplete
  with_reducible
    repeat' first
      | (apply Zone.within; decide)
      | exact Touches.refl _ _
      | (apply Zone.rest; intro p hp; cases p <;> first | exact absurd (by decide) hp | exact rfl)
      | apply Touches.op (State.sloeNext_touches _)
      | apply Touches.op (State.flushGoOn_touches _ _)
      | apply Touches.op (State.retryUpdates_touches _)
      | apply Touches.op (State.journal_touches _ _ _ _ _ _ _)
      | apply State.onlyIf_touches
      | apply Touches.op (State.setFld_touches _ _ _)
      | extract_lets
      | split
      | apply Touches.leaf (Eq.refl _)

theorem execThermalTrip_touches (s : State) : TouchesO [.pwr, .boot, .regs, .stagedW, .mem, .alloc, .idx, .work, .nbu, .comp, .tables,
    .flash, .fab, .cas, .chk, .nrg, .host, .mgmt, .uptime, .out] s (execThermalTrip s) := by
  unfold execThermalTrip
  with_reducible
    repeat' first
      | (apply Zone.within; decide)
      | exact Touches.refl _ _
      | (apply Zone.rest; intro p hp; cases p <;> first | exact absurd (by decide) hp | exact rfl)
      | apply Touches.op (State.powerHold_touches _)
      | apply Touches.op (State.flushBegin_touches _ _)
      | apply Touches.op (State.stopHere_touches _)
      | apply State.onlyIf_touches
      | apply Touches.op (State.setFld_touches _ _ _)
      | extract_lets
      | split
      | apply Touches.leaf (Eq.refl _)

theorem execPwrLimChange_touches (code : Nat) (s : State) : TouchesO [.regs, .chk, .host, .out] s (execPwrLimChange code s) := by
  unfold execPwrLimChange
  with_reducible
    repeat' first
      | (apply Zone.within; decide)
      | exact Touches.refl _ _
      | apply Touches.op (State.nrgEvent_touches _ _ _ _ _)
      | apply State.onlyIf_touches
      | apply Touches.op (State.setFld_touches _ _ _)

theorem execHoldupOkDeassert_touches (s : State) : TouchesO [.pwr, .regs] s (execHoldupOkDeassert s) := by
  unfold execHoldupOkDeassert
  with_reducible
    repeat' first
      | (apply Zone.within; decide)
      | exact Touches.refl _ _
      | (apply Zone.rest; intro p hp; cases p <;> first | exact absurd (by decide) hp | exact rfl)
      | apply TouchesO.next
      | apply Touches.op (State.setFld_touches _ _ _)
      | apply Touches.op (State.setReg64_touches _ _ _)
      | extract_lets
      | apply Touches.leaf (Eq.refl _)

theorem execHoldupOkAssert_touches (s : State) : TouchesO [.pwr, .regs] s (execHoldupOkAssert s) := by
  unfold execHoldupOkAssert
  with_reducible
    repeat' first
      | (apply Zone.within; decide)
      | exact Touches.refl _ _
      | (apply Zone.rest; intro p hp; cases p <;> first | exact absurd (by decide) hp | exact rfl)
      | apply State.onlyIf_touches
      | apply Touches.op (State.setFld_touches _ _ _)
      | extract_lets
      | apply Touches.leaf (Eq.refl _)

theorem execHoldupRead_touches (mv : Option Nat) (s : State) : TouchesO [.pwr, .regs, .chk, .host, .out] s (execHoldupRead mv s) := by
  unfold execHoldupRead
  with_reducible
    repeat' first
      | (apply Zone.within; decide)
      | exact Touches.refl _ _
      | (apply Zone.rest; intro p hp; cases p <;> first | exact absurd (by decide) hp | exact rfl)
      | apply Touches.op (State.nrgEvent_touches _ _ _ _ _)
      | apply State.onlyIf_touches
      | apply Touches.op (State.setFld_touches _ _ _)
      | apply Touches.op (State.setReg64_touches _ _ _)
      | extract_lets
      | split
      | apply Touches.leaf (Eq.refl _)

theorem execCalibrationUpdate_touches (regulator : Nat) (factor : Option Nat) (s : State) : TouchesO [.regs, .chk, .nrg, .host, .out] s
    (execCalibrationUpdate regulator factor s) := by
  unfold execCalibrationUpdate
  with_reducible
    repeat' first
      | (apply Zone.within; decide)
      | exact Touches.refl _ _
      | (apply Zone.rest; intro p hp; cases p <;> first | exact absurd (by decide) hp | exact rfl)
      | apply TouchesO.next
      | apply Touches.op (State.nrgEvent_touches _ _ _ _ _)
      | apply State.onlyIf_touches
      | extract_lets
      | split
      | apply Touches.leaf (Eq.refl _)

/-! ## Flash -/

theorem State.mapProgram_touches (s : State) (ns unit p : Nat) (sects : List Nat) : Touches [.regs, .alloc, .flash] s (State.mapProgram
    s ns unit p sects) := by
  unfold State.mapProgram
  with_reducible
    repeat' first
      | (apply Zone.within; decide)
      | exact Touches.refl _ _
      | intro x
      | apply Touches.op (State.journal_touches _ _ _ _ _ _ _)
      | apply Touches.op (State.setMap_touches _ _ _ _)
      | apply Touches.each
      | extract_lets
      | split

theorem State.bufDone_touches (s : State) (ns unit : Nat) : Touches [.flash] s (State.bufDone s ns unit) := by
  unfold State.bufDone
  with_reducible
    repeat' first
      | (apply Zone.within; decide)
      | exact Touches.refl _ _
      | apply Touches.op (State.dropBuf_touches _ _ _)
      | apply Touches.op (State.modBuf_touches _ _ _ _)
      | split

theorem State.pageLost_touches (s : State) (p unit : Nat) (fails : List Nat) : Touches [.regs, .flash, .chk, .host, .out] s
    (State.pageLost s p unit fails) := by
  unfold State.pageLost
  with_reducible
    repeat' first
      | (apply Zone.within; decide)
      | exact Touches.refl _ _
      | (apply Zone.rest; intro p hp; cases p <;> first | exact absurd (by decide) hp | exact rfl)
      | apply Touches.op (State.relocate_touches _ _ _)
      | apply Touches.op (State.pageEvent_touches _ _ _ _ _ _ _)
      | extract_lets
      | apply Touches.leaf (Eq.refl _)

theorem State.progFail_touches (s : State) (p ns unit : Nat) (sects fails : List Nat) : Touches [.regs, .flash, .chk, .host, .out] s
    (State.progFail s p ns unit sects fails) := by
  unfold State.progFail
  with_reducible
    repeat' first
      | (apply Zone.within; decide)
      | exact Touches.refl _ _
      | apply Touches.op (State.pageLost_touches _ _ _ _)
      | apply Touches.op (State.progStart_touches _ _ _)
      | apply Touches.op (State.modBuf_touches _ _ _ _)
      | extract_lets
      | split

theorem execNandProgramComplete_touches (ch ce : Nat) (s : State) : TouchesO [.regs, .mem, .alloc, .idx, .work, .flash, .fab, .chk,
    .host, .out] s (execNandProgramComplete ch ce s) := by
  unfold execNandProgramComplete
  with_reducible
    repeat' first
      | (apply Zone.within; decide)
      | exact Touches.refl _ _
      | apply TouchesO.next
      | apply Touches.op (State.progFail_touches _ _ _ _ _ _)
      | apply Touches.op (State.bufDone_touches _ _ _)
      | apply Touches.op (State.mapProgram_touches _ _ _ _ _)
      | apply Touches.op (State.dieFree_touches _ _ _)
      | apply Touches.op (State.sloeNext_touches _)
      | apply Touches.op (State.finishWthru_touches _)
      | apply Touches.op (State.retryUpdates_touches _)
      | apply Touches.op (State.roCheck_touches _ _)
      | apply Touches.op (State.progPending_touches _)
      | apply Touches.op (State.capRecompute_touches _)
      | apply Touches.op (State.count_touches _ _ _)
      | extract_lets
      | split

theorem execWbageExpiry_touches (ns unit : Nat) (s : State) : TouchesO [.regs, .flash, .chk, .host, .out] s (execWbageExpiry ns unit s)
    := by
  unfold execWbageExpiry
  with_reducible
    repeat' first
      | (apply Zone.within; decide)
      | exact Touches.refl _ _
      | apply Touches.op (State.progStart_touches _ _ _)
      | apply State.onlyIf_touches

theorem execWriteAdmitTimeout_touches (req : Nat) (s : State) : TouchesO [.regs, .work, .fab, .host, .out] s (execWriteAdmitTimeout req
    s) := by
  unfold execWriteAdmitTimeout
  with_reducible
    repeat' first
      | (apply Zone.within; decide)
      | exact Touches.refl _ _
      | apply TouchesO.next
      | apply Touches.op (State.finishReq_touches _ _ _ _)
      | apply State.onlyIf_touches
      | apply Touches.op (State.count_touches _ _ _)
      | split

theorem State.gcMarks_touches (s : State) : Touches [.regs, .flash] s (State.gcMarks s) := by
  unfold State.gcMarks
  with_reducible
    repeat' first
      | (apply Zone.within; decide)
      | exact Touches.refl _ _
      | (apply Zone.rest; intro p hp; cases p <;> first | exact absurd (by decide) hp | exact rfl)
      | apply Touches.op (State.setFld_touches _ _ _)
      | extract_lets
      | apply Touches.leaf (Eq.refl _)

theorem Copies.unit_touches (z : Copies) (ch k : Nat) (fails : List (Nat × List Nat)) (fuel key : Nat) : TouchesP [.regs, .flash, .chk,
    .host, .out] z.st (fun x => x.st) (Copies.unit z ch k fails fuel key) := by
  induction fuel generalizing z with
  | zero => exact TouchesP.ofNone
  | succ n ih =>
    unfold Copies.unit
    extract_lets s ns unit e is
    split
    · exact TouchesP.ofNone
    · rename_i q t h
      have ht : Touches [.regs, .flash, .chk, .host, .out] z.st t := (TouchesP.app2 (State.takePage_touches _ _ _) h).mono (by decide)
      extract_lets u
      have hu : Touches [.regs, .flash, .chk, .host, .out] z.st u := Touches.op (State.emit_touches _ _) (by decide) ht
      clear_value u
      split
      · exact fun x hx => Touches.trans (Touches.op (State.pageLost_touches _ _ _ _) (by decide) hu) (ih _ x hx)
      · refine TouchesP.ofSome (Touches.op (State.count_touches _ _ _) (by decide) (Touches.op (State.count_touches _ _ _) (by decide)
          (Touches.trans hu (fun p hp => ?_))))
        cases p <;> first | exact absurd (by decide) hp | exact rfl

theorem Copies.units_touches (z : Copies) (ch k : Nat) (fails : List (Nat × List Nat)) (keys : List Nat) : TouchesP [.regs, .flash,
    .chk, .host, .out] z.st (fun x => x.st) (Copies.units z ch k fails keys) := by
  induction keys generalizing z with
  | nil => exact TouchesP.ofSome (Touches.refl _ _)
  | cons x r ih =>
    unfold Copies.units
    exact TouchesP.bind (fun y hy => fun w hw => Touches.trans (Copies.unit_touches _ _ _ _ _ _ y hy) (ih y w hw))

theorem State.mapMoved_touches (s : State) (ch k key q : Nat) : Touches [.regs, .alloc, .flash] s (State.mapMoved s ch k key q) := by
  unfold State.mapMoved
  with_reducible
    repeat' first
      | (apply Zone.within; decide)
      | exact Touches.refl _ _
      | intro x
      | apply Touches.op (State.journal_touches _ _ _ _ _ _ _)
      | apply Touches.op (State.setMap_touches _ _ _ _)
      | apply Touches.each
      | extract_lets
      | split

theorem State.collected_touches (s : State) (ch k : Nat) (fold : Bool) (n : Nat) (done : List (Nat × Nat)) : Touches [.regs, .alloc,
    .flash] s (State.collected s ch k fold n done) := by
  unfold State.collected
  with_reducible
    repeat' first
      | (apply Zone.within; decide)
      | exact Touches.refl _ _
      | (apply Zone.rest; intro p hp; cases p <;> first | exact absurd (by decide) hp | exact rfl)
      | intro x
      | apply Touches.op (State.mapMoved_touches _ _ _ _ _)
      | apply Touches.op (State.gcMarks_touches _)
      | apply Touches.op (State.journal_touches _ _ _ _ _ _ _)
      | apply Touches.op (State.setStripe_touches _ _ _ _)
      | apply Touches.each
      | apply Touches.op (State.count_touches _ _ _)
      | extract_lets
      | split
      | apply Touches.leaf (Eq.refl _)

theorem State.collect_touches (s : State) (ch k : Nat) (fold : Bool) (env : CopyEnv) : Touches [.regs, .alloc, .flash, .chk, .host,
    .out] s (State.collect s ch k fold env) := by
  unfold State.collect
  with_reducible
    repeat' first
      | (apply Zone.within; decide)
      | exact Touches.refl _ _
      | apply Touches.op (State.collected_touches _ _ _ _ _ _)
      | apply Touches.op (TouchesP.app (Copies.units_touches _ _ _ _ _) (by assumption))
      | apply Touches.op (State.readCached_touches _ _ _)
      | apply Touches.op (State.roCheck_touches _ _)
      | extract_lets
      | split

theorem execFoldStart_touches (ch : Nat) (e : CopyEnv) (s : State) : TouchesO [.regs, .alloc, .flash, .chk, .host, .out] s
    (execFoldStart ch e s) := by
  unfold execFoldStart
  with_reducible
    repeat' first
      | (apply Zone.within; decide)
      | exact Touches.refl _ _
      | (apply Zone.rest; intro p hp; cases p <;> first | exact absurd (by decide) hp | exact rfl)
      | apply Touches.op (State.collect_touches _ _ _ _ _)
      | apply Touches.op (State.gcMarks_touches _)
      | apply State.onlyIf_touches
      | extract_lets
      | split
      | apply Touches.leaf (Eq.refl _)

theorem execGcStart_touches (ch : Nat) (e : CopyEnv) (s : State) : TouchesO [.regs, .alloc, .flash, .chk, .host, .out] s (execGcStart ch
    e s) := by
  unfold execGcStart
  with_reducible
    repeat' first
      | (apply Zone.within; decide)
      | exact Touches.refl _ _
      | (apply Zone.rest; intro p hp; cases p <;> first | exact absurd (by decide) hp | exact rfl)
      | apply Touches.op (State.collect_touches _ _ _ _ _)
      | apply Touches.op (State.gcMarks_touches _)
      | apply Touches.op (State.roCheck_touches _ _)
      | apply State.onlyIf_touches
      | extract_lets
      | split
      | apply Touches.leaf (Eq.refl _)

theorem State.markBadBlock_touches (s : State) (ch k plane : Nat) : Touches [.regs, .flash] s (State.markBadBlock s ch k plane) := by
  unfold State.markBadBlock
  with_reducible
    repeat' first
      | (apply Zone.within; decide)
      | exact Touches.refl _ _
      | (apply Zone.rest; intro p hp; cases p <;> first | exact absurd (by decide) hp | exact rfl)
      | apply Touches.op (State.journal_touches _ _ _ _ _ _ _)
      | apply Touches.op (State.count_touches _ _ _)
      | extract_lets
      | apply Touches.leaf (Eq.refl _)

theorem State.spareIn_touches (s : State) (ch k plane n : Nat) : Touches [.regs, .flash, .chk, .host, .out] s (State.spareIn s ch k
    plane n) := by
  unfold State.spareIn
  with_reducible
    repeat' first
      | (apply Zone.within; decide)
      | exact Touches.refl _ _
      | (apply Zone.rest; intro p hp; cases p <;> first | exact absurd (by decide) hp | exact rfl)
      | apply Touches.op (State.flashEvent_touches _ _ _ _ _ _)
      | apply Touches.op (State.putSupers_touches _ _)
      | apply Touches.op (State.replace_touches _ _)
      | extract_lets
      | split
      | apply Touches.leaf (Eq.refl _)

theorem State.retireBlock_touches (s : State) (ch k plane : Nat) : Touches [.regs, .flash, .chk, .host, .out] s (State.retireBlock s ch
    k plane).1 := by
  unfold State.retireBlock
  repeat' split
  all_goals with_reducible
    repeat' first
      | (apply Zone.within; decide)
      | exact Touches.refl _ _
      | apply Touches.op (State.spareIn_touches _ _ _ _ _)
      | apply Touches.op (State.markBadBlock_touches _ _ _ _)
      | apply Touches.op (State.flashEvent_touches _ _ _ _ _ _)
      | extract_lets
      | split

theorem State.wearEvents_touches (t s : State) (ch : Nat) : Touches [.regs, .chk, .host, .out] t (State.wearEvents t s ch) := by
  unfold State.wearEvents
  with_reducible
    repeat' first
      | (apply Zone.within; decide)
      | exact Touches.refl _ _
      | apply Touches.op (State.flashEvent_touches _ _ _ _ _ _)
      | extract_lets
      | split
      | dsimp +zetaDelta only

theorem State.stripeErased_touches (s : State) (ch k : Nat) (gone : Bool) : Touches [.flash] s (State.stripeErased s ch k gone) := by
  unfold State.stripeErased
  with_reducible
    repeat' first
      | (apply Zone.within; decide)
      | exact Touches.refl _ _
      | (apply Zone.rest; intro p hp; cases p <;> first | exact absurd (by decide) hp | exact rfl)
      | apply Touches.op (State.setStripe_touches _ _ _ _)
      | extract_lets
      | split
      | apply Touches.leaf (Eq.refl _)

theorem State.eraseDone_touches (s : State) (ch k : Nat) (bad : List Nat) : Touches [.regs, .flash, .chk, .host, .out] s
    (State.eraseDone s ch k bad) := by
  unfold State.eraseDone
  with_reducible
    repeat' first
      | (apply Zone.within; decide)
      | exact Touches.refl _ _
      | intro x
      | apply Touches.op (State.stripeErased_touches _ _ _ _)
      | apply Touches.op (State.wearEvents_touches _ _ _)
      | apply Touches.op (State.retireBlock_touches _ _ _ _)
      | apply Touches.op (State.roCheck_touches _ _)
      | apply Touches.op (State.flashEvent_touches _ _ _ _ _ _)
      | apply Touches.op (State.journal_touches _ _ _ _ _ _ _)
      | apply Touches.each
      | apply Touches.op (State.count_touches _ _ _)
      | apply Touches.foldl1

theorem State.afterErase_touches (s : State) : Touches [.regs, .mem, .alloc, .idx, .work, .flash, .fab, .chk, .host, .out] s
    (State.afterErase s) := by
  unfold State.afterErase
  with_reducible
    repeat' first
      | (apply Zone.within; decide)
      | exact Touches.refl _ _
      | apply Touches.op (State.gcMarks_touches _)
      | apply Touches.op (State.sloeNext_touches _)
      | apply Touches.op (State.retryUpdates_touches _)
      | apply Touches.op (State.progPending_touches _)
      | apply Touches.op (State.capRecompute_touches _)

theorem execVictimErase_touches (ch : Nat) (s : State) : TouchesO [.regs, .mem, .alloc, .idx, .work, .flash, .fab, .chk, .host, .out] s
    (execVictimErase ch s) := by
  unfold execVictimErase
  with_reducible
    repeat' first
      | (apply Zone.within; decide)
      | exact Touches.refl _ _
      | (apply Zone.rest; intro p hp; cases p <;> first | exact absurd (by decide) hp | exact rfl)
      | intro x
      | apply Touches.op (State.afterErase_touches _)
      | apply Touches.op (State.eraseDone_touches _ _ _ _)
      | apply State.onlyIf_touches
      | apply Touches.each
      | apply Touches.op (State.emit_touches _ _)
      | extract_lets
      | split
      | apply Touches.leaf (Eq.refl _)

theorem execNandEraseComplete_touches (ch k : Nat) (fails : List Nat) (s : State) : TouchesO [.regs, .mem, .alloc, .idx, .work, .flash,
    .fab, .chk, .host, .out] s (execNandEraseComplete ch k fails s) := by
  unfold execNandEraseComplete
  with_reducible
    repeat' first
      | (apply Zone.within; decide)
      | exact Touches.refl _ _
      | intro x
      | apply Touches.op (State.afterErase_touches _)
      | apply Touches.op (State.eraseDone_touches _ _ _ _)
      | apply Touches.op (State.dieFree_touches _ _ _)
      | apply State.onlyIf_touches
      | apply Touches.each

theorem State.putCkpt_touches (s : State) : Touches [.regs, .flash] s (State.putCkpt s) := by
  unfold State.putCkpt
  with_reducible
    repeat' first
      | (apply Zone.within; decide)
      | exact Touches.refl _ _
      | (apply Zone.rest; intro p hp; cases p <;> first | exact absurd (by decide) hp | exact rfl)
      | apply Touches.op (State.putSupers_touches _ _)
      | apply Touches.op (State.journal_touches _ _ _ _ _ _ _)
      | apply Touches.op (State.count_touches _ _ _)
      | extract_lets
      | apply Touches.leaf (Eq.refl _)

theorem execCheckpoint_touches (s : State) : TouchesO [.regs, .flash] s (execCheckpoint s) := by
  unfold execCheckpoint
  with_reducible
    repeat' first
      | (apply Zone.within; decide)
      | exact Touches.refl _ _
      | apply Touches.op (State.putCkpt_touches _)
      | apply State.onlyIf_touches

theorem execZqCalibration_touches (s : State) : TouchesO [.out] s (execZqCalibration s) := by
  unfold execZqCalibration
  with_reducible
    repeat' first
      | (apply Zone.within; decide)
      | exact Touches.refl _ _
      | intro x
      | apply State.onlyIf_touches
      | apply Touches.each
      | apply Touches.op (State.emit_touches _ _)

theorem State.poisonLine_touches (s : State) (ch row line : Nat) : Touches [.mem, .flash] s (State.poisonLine s ch row line) := by
  unfold State.poisonLine
  with_reducible
    repeat' first
      | (apply Zone.within; decide)
      | exact Touches.refl _ _
      | (apply Zone.rest; intro p hp; cases p <;> first | exact absurd (by decide) hp | exact rfl)
      | apply Touches.op (State.hbmPoisonLines_touches _ _)
      | extract_lets
      | split
      | apply Touches.leaf (Eq.refl _)

theorem State.scrubOne_touches (s : State) (f : ScrubFind) : Touches [.regs, .mem, .alloc, .flash, .chk, .host, .out] s (State.scrubOne
    s f) := by
  unfold State.scrubOne
  with_reducible
    repeat' first
      | (apply Zone.within; decide)
      | exact Touches.refl _ _
      | (apply Zone.rest; intro p hp; cases p <;> first | exact absurd (by decide) hp | exact rfl)
      | apply Touches.op (State.poisonLine_touches _ _ _ _)
      | apply Touches.op (State.retireRow_touches _ _ _)
      | apply Touches.op (State.cper_touches _ _)
      | apply Touches.op (State.count_touches _ _ _)
      | extract_lets
      | split
      | apply Touches.leaf (Eq.refl _)

theorem execScrubPass_touches (finds : List ScrubFind) (s : State) : TouchesO [.regs, .mem, .alloc, .flash, .chk, .host, .out] s
    (execScrubPass finds s) := by
  unfold execScrubPass
  with_reducible
    repeat' first
      | (apply Zone.within; decide)
      | exact Touches.refl _ _
      | (apply Zone.rest; intro p hp; cases p <;> first | exact absurd (by decide) hp | exact rfl)
      | intro x
      | apply Touches.op (State.scrubOne_touches _ _)
      | apply Touches.op (State.retireRow_touches _ _ _)
      | apply State.onlyIf_touches
      | apply Touches.each
      | apply Touches.foldl
      | extract_lets
      | apply Touches.leaf (Eq.refl _)

theorem execHotwinBoundary_touches (table : Nat) (s : State) : TouchesO [.regs, .tables] s (execHotwinBoundary table s) := by
  unfold execHotwinBoundary
  with_reducible
    repeat' first
      | exact Touches.refl _ _
      | (apply Zone.rest; intro p hp; cases p <;> first | exact absurd (by decide) hp | exact rfl)
      | apply TouchesO.next
      | apply State.onlyIf_touches
      | extract_lets
      | split
      | apply Touches.leaf (Eq.refl _)

/-! ## Boot -/

theorem State.configOne_touches (s : State) (n o v : Nat) : TouchesP [.regs] s (fun x => x) (State.configOne s n o v) := by
  unfold State.configOne
  with_reducible
    repeat' first
      | (apply Zone.within; decide)
      | exact Touches.refl _ _
      | exact TouchesP.ofNone
      | apply TouchesP.ofSome
      | apply Touches.op (State.setRegister_touches _ _ _ _)
      | extract_lets
      | split

theorem State.configEntry_touches (s : State) (e : Nat × Nat) : TouchesP [.regs] s (fun x => x) (State.configEntry s e) := by
  unfold State.configEntry
  with_reducible
    repeat' first
      | (apply Zone.within; decide)
      | exact Touches.refl _ _
      | exact TouchesP.ofNone
      | apply TouchesP.op (State.configOne_touches _ _ _ _)
      | refine TouchesP.foldl_bind _ (fun u k => State.configOne u k _ _) (fun u k => State.configOne_touches u k _ _)
      | extract_lets
      | split

theorem State.applyConfig_touches (s : State) (cs : List (Nat × Nat)) : TouchesP [.regs] s (fun x => x) (State.applyConfig s cs) := by
  unfold State.applyConfig
  with_reducible
    repeat' first
      | exact TouchesP.ofNone
      | refine TouchesP.foldl_bind _ (fun u k => State.configEntry u k) (fun u k => State.configEntry_touches u k)
      | split

theorem State.bootFail_touches (s : State) (code : Nat) : Touches [.pwr, .regs] s (State.bootFail s code) := by
  unfold State.bootFail
  with_reducible
    repeat' first
      | (apply Zone.within; decide)
      | exact Touches.refl _ _
      | (apply Zone.rest; intro p hp; cases p <;> first | exact absurd (by decide) hp | exact rfl)
      | apply Touches.op (State.setFld_touches _ _ _)
      | extract_lets
      | apply Touches.leaf (Eq.refl _)

theorem State.setCause_touches (s : State) : Touches [.regs] s (State.setCause s) := by
  unfold State.setCause
  with_reducible
    repeat' first
      | (apply Zone.within; decide)
      | exact Touches.refl _ _
      | apply Touches.op (State.setFld_touches _ _ _)

theorem State.setSec_touches (s : State) (i : BootImage) : Touches [.regs] s (State.setSec s i) := by
  unfold State.setSec
  with_reducible
    repeat' first
      | (apply Zone.within; decide)
      | exact Touches.refl _ _
      | apply Touches.op (State.setFld_touches _ _ _)

theorem State.setGroup_touches (s : State) (g : Option GroupSection) : Touches [.regs] s (State.setGroup s g) := by
  unfold State.setGroup
  with_reducible
    repeat' first
      | (apply Zone.within; decide)
      | exact Touches.refl _ _
      | apply Touches.op (State.setFld_touches _ _ _)
      | split

theorem State.bootPrep_touches (s : State) (i : BootImage) : Touches [.regs] s (State.bootPrep s i) := by
  unfold State.bootPrep
  with_reducible
    repeat' first
      | (apply Zone.within; decide)
      | exact Touches.refl _ _
      | intro x
      | apply Touches.op (State.setCause_touches _)
      | apply Touches.each
      | apply Touches.op (State.setFld_touches _ _ _)

theorem State.imageRuns_touches (s : State) (i : BootImage) : TouchesP [.pwr, .boot, .regs, .mem, .alloc, .work, .out, .free] s (fun x
    => x) (State.imageRuns s i) := by
  unfold State.imageRuns
  with_reducible
    repeat' first
      | (apply Zone.within; decide)
      | exact Touches.refl _ _
      | (apply Zone.rest; intro p hp; cases p <;> first | exact absurd (by decide) hp | exact rfl)
      | intro x
      | exact TouchesP.ofNone
      | apply TouchesP.map'
      | apply Touches.op (State.setGroup_touches _ _)
      | apply Touches.op (State.setSec_touches _ _)
      | apply Touches.op (TouchesP.app (State.placePlans_touches _ _ _ _ _) (by assumption))
      | apply Touches.op (State.hostErr_touches _ _)
      | extract_lets
      | split
      | apply Touches.leaf (Eq.refl _)

theorem State.bootImage_touches (s : State) (i : BootImage) : Touches [.pwr, .boot, .regs, .mem, .alloc, .work, .out, .free] s
    (State.bootImage s i) := by
  unfold State.bootImage
  with_reducible
    repeat' first
      | (apply Zone.within; decide)
      | exact Touches.refl _ _
      | apply TouchesP.op (State.imageRuns_touches _ _)
      | apply Touches.op (State.bootPrep_touches _ _)
      | apply Touches.op (State.setCause_touches _)
      | apply Touches.op (State.bootFail_touches _ _)
      | apply Touches.op (TouchesP.app (State.applyConfig_touches _ _) (by assumption))
      | apply Touches.getD
      | split

theorem execBootImageVerify_touches (e : ImageEnv) (s : State) : TouchesO [.pwr, .boot, .regs, .mem, .alloc, .work, .out, .free] s
    (execBootImageVerify e s) := by
  unfold execBootImageVerify
  with_reducible
    repeat' first
      | (apply Zone.within; decide)
      | exact Touches.refl _ _
      | apply TouchesO.next
      | apply Touches.op (State.bootImage_touches _ _)
      | split

theorem State.bistUnit_touches (s : State) (f : BistFail) : Touches [.regs, .alloc, .fab, .chk, .host, .out] s (State.bistUnit s f) := by
  unfold State.bistUnit
  with_reducible
    repeat' first
      | (apply Zone.within; decide)
      | exact Touches.refl _ _
      | (apply Zone.rest; intro p hp; cases p <;> first | exact absurd (by decide) hp | exact rfl)
      | apply Touches.op (State.portLost_touches _ _)
      | apply Touches.op (State.quarantine_touches _ _ _)
      | apply Touches.op (State.retireRow_touches _ _ _)
      | apply Touches.op (State.setFld_touches _ _ _)
      | extract_lets
      | split
      | apply Touches.leaf (Eq.refl _)

theorem State.bringUp_touches (s : State) (ch : Nat) (ces up : List Nat) : Touches [.out] s (State.bringUp s ch ces up) := by
  unfold State.bringUp
  with_reducible
    repeat' first
      | (apply Zone.within; decide)
      | exact Touches.refl _ _
      | intro x
      | apply Touches.each
      | apply Touches.op (State.emit_touches _ _)

theorem State.flashUp_touches (s : State) (n : NandReport) (bad : List Nat) : Touches [.regs, .chk, .host, .out] s (State.flashUp s n
    bad) := by
  unfold State.flashUp
  with_reducible
    repeat' first
      | (apply Zone.within; decide)
      | exact Touches.refl _ _
      | intro x
      | apply Touches.op (State.bringUp_touches _ _ _ _)
      | apply Touches.op (State.flashEvent_touches _ _ _ _ _ _)
      | apply Touches.each
      | apply Touches.op (State.setFld_touches _ _ _)

theorem State.markBad_touches (s : State) (ch plane block : Nat) : Touches [.flash] s (State.markBad s ch plane block) := by
  unfold State.markBad
  with_reducible
    repeat' first
      | (apply Zone.within; decide)
      | exact Touches.refl _ _
      | (apply Zone.rest; intro p hp; cases p <;> first | exact absurd (by decide) hp | exact rfl)
      | apply Touches.op (State.setStripe_touches _ _ _ _)
      | extract_lets
      | split
      | apply Touches.leaf (Eq.refl _)

theorem State.flashFormat_touches (s : State) (n : NandReport) : Touches [.regs, .flash] s (State.flashFormat s n) := by
  unfold State.flashFormat
  with_reducible
    repeat' first
      | (apply Zone.within; decide)
      | exact Touches.refl _ _
      | (apply Zone.rest; intro p hp; cases p <;> first | exact absurd (by decide) hp | exact rfl)
      | intro x
      | apply Touches.op (State.markBad_touches _ _ _ _)
      | apply Touches.op (State.putSupers_touches _ _)
      | apply Touches.each
      | extract_lets
      | split
      | apply Touches.leaf (Eq.refl _)

theorem State.mapRecover_touches (s : State) (p : Super) (js : List JRec) : Touches [.alloc, .flash] s (State.mapRecover s p js) := by
  unfold State.mapRecover
  with_reducible
    repeat' first
      | (apply Zone.within; decide)
      | exact Touches.refl _ _
      | intro x
      | apply Touches.op (State.mapTake_touches _ _)
      | apply Touches.op (State.setMap_touches _ _ _ _)
      | apply Touches.each
      | apply Touches.foldl

theorem State.victimErase_touches (s : State) (x : Nat) : Touches [.regs, .flash, .chk, .host, .out] s (State.victimErase s x) := by
  unfold State.victimErase
  with_reducible
    repeat' first
      | (apply Zone.within; decide)
      | exact Touches.refl _ _
      | intro x
      | apply Touches.op (State.eraseDone_touches _ _ _ _)
      | apply Touches.each
      | apply Touches.op (State.emit_touches _ _)

theorem State.wbTake_touches (s : State) : Touches [.alloc, .flash] s (State.wbTake s) := by
  unfold State.wbTake
  with_reducible
    repeat' first
      | (apply Zone.within; decide)
      | exact Touches.refl _ _
      | (apply Zone.rest; intro p hp; cases p <;> first | exact absurd (by decide) hp | exact rfl)
      | intro x
      | apply Touches.op (TouchesP.app2 (State.rowsTake_touches _ _ _) (by assumption))
      | apply Touches.each
      | extract_lets
      | split
      | apply Touches.leaf (Eq.refl _)

theorem State.ftlRecover_touches (s : State) (p : Super) (bad : List (Nat × Nat)) : Touches [.regs, .alloc, .flash, .chk, .host, .out] s
    (State.ftlRecover s p bad) := by
  unfold State.ftlRecover
  with_reducible
    repeat' first
      | (apply Zone.within; decide)
      | exact Touches.refl _ _
      | (apply Zone.rest; intro p hp; cases p <;> first | exact absurd (by decide) hp | exact rfl)
      | intro x
      | apply Touches.op (State.victimErase_touches _ _)
      | apply Touches.op (State.mapRecover_touches _ _ _)
      | apply Touches.op (State.flashEvent_touches _ _ _ _ _ _)
      | apply Touches.foldl
      | extract_lets
      | split
      | apply Touches.leaf (Eq.refl _)

theorem State.ftlBoot_touches (s : State) (n : NandReport) : Touches [.regs, .alloc, .flash, .chk, .host, .out] s (State.ftlBoot s n) :=
    by
  unfold State.ftlBoot
  with_reducible
    repeat' first
      | (apply Zone.within; decide)
      | exact Touches.refl _ _
      | apply Touches.op (State.ftlRecover_touches _ _ _)
      | apply Touches.op (State.wbTake_touches _)
      | apply Touches.op (State.flashFormat_touches _ _)
      | apply Touches.op (State.countOrphans_touches _)
      | apply Touches.op (State.capRecompute_touches _)
      | apply Touches.op (State.setFld_touches _ _ _)
      | extract_lets
      | split

theorem State.flashBoot_touches (s : State) (n : NandReport) (bad : List Nat) : Touches [.regs, .alloc, .flash, .chk, .host, .out] s
    (State.flashBoot s n bad) := by
  unfold State.flashBoot
  with_reducible
    repeat' first
      | (apply Zone.within; decide)
      | exact Touches.refl _ _
      | apply Touches.op (State.ftlBoot_touches _ _)
      | apply Touches.op (State.flashUp_touches _ _ _)
      | split

theorem State.groupBoot_touches (s : State) : Touches [.cas] s (State.groupBoot s) := by
  unfold State.groupBoot
  with_reducible
    repeat' first
      | exact Touches.refl _ _
      | (apply Zone.rest; intro p hp; cases p <;> first | exact absurd (by decide) hp | exact rfl)
      | extract_lets
      | split
      | apply Touches.leaf (Eq.refl _)

theorem State.adminQueues_touches (s : State) : Touches [.host] s (State.adminQueues s) := by
  unfold State.adminQueues
  with_reducible
    repeat' first
      | (apply Zone.within; decide)
      | exact Touches.refl _ _
      | apply Touches.op (State.setSq_touches _ _ _)
      | apply Touches.op (State.setCq_touches _ _ _)
      | split

theorem State.clocksUp_touches (s : State) : Touches [.regs] s (State.clocksUp s) := by
  unfold State.clocksUp
  with_reducible
    repeat' first
      | (apply Zone.within; decide)
      | exact Touches.refl _ _
      | apply Touches.op (State.setFld_touches _ _ _)

theorem State.openNode_touches (s : State) : Touches [.pwr, .regs, .host, .mgmt, .out] s (State.openNode s) := by
  unfold State.openNode
  with_reducible
    repeat' first
      | (apply Zone.within; decide)
      | exact Touches.refl _ _
      | (apply Zone.rest; intro p hp; cases p <;> first | exact absurd (by decide) hp | exact rfl)
      | apply Touches.op (State.adminQueues_touches _)
      | apply Touches.op (State.cqDrain_touches _ _ _ _)
      | apply Touches.op (State.emit_touches _ _)
      | apply Touches.op (State.event_touches _ _ _)
      | apply Touches.op (State.setFld_touches _ _ _)
      | extract_lets
      | split
      | apply Touches.leaf (Eq.refl _)

theorem execBootComplete_touches (fails : List BistFail) (s : State) : TouchesO [.pwr, .regs, .alloc, .flash, .fab, .cas, .chk, .host,
    .mgmt, .out] s (execBootComplete fails s) := by
  unfold execBootComplete
  with_reducible
    repeat' first
      | (apply Zone.within; decide)
      | exact Touches.refl _ _
      | intro x
      | apply TouchesO.next
      | apply Touches.op (State.openNode_touches _)
      | apply Touches.op (State.clocksUp_touches _)
      | apply Touches.op (State.groupBoot_touches _)
      | apply Touches.op (State.flashBoot_touches _ _ _)
      | apply Touches.op (State.bistUnit_touches _ _)
      | apply Touches.op (State.bootFail_touches _ _)
      | apply Touches.op (State.gateRestart_touches _ _)
      | apply Touches.each
      | apply Touches.op (State.setFld_touches _ _ _)
      | apply Touches.foldl
      | extract_lets
      | split

/-! ## Round -/

theorem State.memberArrives_touches (s : State) (pos cyc : Nat) : Touches [.cas] s (State.memberArrives s pos cyc) := by
  unfold State.memberArrives
  with_reducible
    repeat' first
      | exact Touches.refl _ _
      | (apply Zone.rest; intro p hp; cases p <;> first | exact absurd (by decide) hp | exact rfl)
      | extract_lets
      | apply Touches.leaf (Eq.refl _)

theorem State.rdySettle_touches (s : State) : Touches [.pwr, .fab, .cas] s (State.rdySettle s) := by
  unfold State.rdySettle
  with_reducible
    repeat' first
      | (apply Zone.within; decide)
      | exact Touches.refl _ _
      | (apply Zone.rest; intro p hp; cases p <;> first | exact absurd (by decide) hp | exact rfl)
      | apply Touches.op (State.memberArrives_touches _ _ _)
      | apply Touches.op (State.request_touches _ _ _ _ _ _ _)
      | extract_lets
      | split
      | apply Touches.leaf (Eq.refl _)

theorem State.caughtSettle_touches (s : State) : Touches [.fab, .cas] s (State.caughtSettle s) := by
  unfold State.caughtSettle
  with_reducible
    repeat' first
      | (apply Zone.within; decide)
      | exact Touches.refl _ _
      | (apply Zone.rest; intro p hp; cases p <;> first | exact absurd (by decide) hp | exact rfl)
      | apply Touches.op (State.request_touches _ _ _ _ _ _ _)
      | extract_lets
      | split
      | apply Touches.leaf (Eq.refl _)

theorem State.helloSettle_touches (s : State) : Touches [.fab, .cas] s (State.helloSettle s) := by
  unfold State.helloSettle
  with_reducible
    repeat' first
      | (apply Zone.within; decide)
      | exact Touches.refl _ _
      | (apply Zone.rest; intro p hp; cases p <;> first | exact absurd (by decide) hp | exact rfl)
      | apply Touches.op (State.request_touches _ _ _ _ _ _ _)
      | extract_lets
      | split
      | apply Touches.leaf (Eq.refl _)

theorem State.casSettle_touches (s : State) : Touches [.pwr, .fab, .cas] s (State.casSettle s) := by
  unfold State.casSettle
  with_reducible
    repeat' first
      | (apply Zone.within; decide)
      | exact Touches.refl _ _
      | apply Touches.op (State.helloSettle_touches _)
      | apply Touches.op (State.caughtSettle_touches _)
      | apply Touches.op (State.rdySettle_touches _)

theorem State.slowEvents_touches (s : State) (old new : Tbl Member) : Touches [.regs, .chk, .host, .out] s (State.slowEvents s old new)
    := by
  unfold State.slowEvents
  with_reducible
    repeat' first
      | (apply Zone.within; decide)
      | exact Touches.refl _ _
      | intro x
      | apply Touches.op (State.raise_touches _ _ _ _)
      | apply Touches.op (State.emit_touches _ _)
      | apply Touches.foldl

theorem State.closeRound_touches (s : State) : Touches [.regs, .cas, .chk, .host, .out] s (State.closeRound s) := by
  unfold State.closeRound
  with_reducible
    repeat' first
      | (apply Zone.within; decide)
      | exact Touches.refl _ _
      | (apply Zone.rest; intro p hp; cases p <;> first | exact absurd (by decide) hp | exact rfl)
      | apply Touches.op (State.slowEvents_touches _ _ _)
      | extract_lets
      | split
      | apply Touches.leaf (Eq.refl _)

/-! ## Snapshot -/

theorem State.startStream_touches (s : State) (node : Nat) : Touches [.fab, .cas] s (State.startStream s node) := by
  unfold State.startStream
  with_reducible
    repeat' first
      | (apply Zone.within; decide)
      | exact Touches.refl _ _
      | (apply Zone.rest; intro p hp; cases p <;> first | exact absurd (by decide) hp | exact rfl)
      | intro x
      | apply Touches.op (State.request_touches _ _ _ _ _ _ _)
      | apply Touches.foldl
      | extract_lets
      | split
      | apply Touches.leaf (Eq.refl _)

theorem State.snapDesc_touches (s : State) (b : List Byte) : Touches [.regs, .mem, .alloc, .idx, .work, .flash] s (State.snapDesc s b)
    := by
  unfold State.snapDesc
  with_reducible
    repeat' first
      | (apply Zone.within; decide)
      | exact Touches.refl _ _
      | apply Touches.op (TouchesP.app (State.placeIndex_touches _ _ _ _) (by assumption))
      | apply Touches.op (State.modDesc_touches _ _ _)
      | apply Touches.op (State.charge_touches _ _ _)
      | extract_lets
      | split

theorem State.snapExt_touches (s : State) (c : CreateFields) (ch cap : Nat) (bs : List Byte) (pois : List Bool) : TouchesP [.mem,
    .alloc] s (fun x => x.2) (State.snapExt s c ch cap bs pois) := by
  unfold State.snapExt
  with_reducible
    repeat' first
      | (apply Zone.within; decide)
      | exact Touches.refl _ _
      | intro x
      | apply TouchesP.map'
      | apply Touches.op (TouchesP.app2 (State.newExt_touches _ _ _ _) (by assumption))
      | apply Touches.op (State.hbmPoisonLines_touches _ _)
      | apply Touches.op (State.chWrite_touches _ _ _ _)
      | extract_lets
      | split

theorem State.snapCopy_touches (s : State) (c : CreateFields) (copy : Bool) (cap : Nat) (bs : List Byte) : TouchesP [.mem, .alloc] s
    (fun x => x.2) (State.snapCopy s c copy cap bs) := by
  unfold State.snapCopy
  with_reducible
    repeat' first
      | (apply Zone.within; decide)
      | exact Touches.refl _ _
      | intro x
      | apply TouchesP.map'
      | apply Touches.op (TouchesP.app2 (State.newCopy_touches _ _ _ _) (by assumption))
      | apply Touches.op (State.ilvStore_touches _ _ _ _)
      | extract_lets
      | split

theorem State.snapTake_touches (s : State) (n : Nat) (d : Desc) (rel : Nat → Nat) (l : Nat) (b : List Byte) (pois : List Bool) :
    TouchesP [.mem, .alloc, .idx, .work] s (fun x => x) (State.snapTake s n d rel l b pois) := by
  unfold State.snapTake
  with_reducible
    repeat' first
      | (apply Zone.within; decide)
      | exact Touches.refl _ _
      | (apply Zone.rest; intro p hp; cases p <;> first | exact absurd (by decide) hp | exact rfl)
      | intro x
      | exact TouchesP.ofNone
      | apply TouchesP.map'
      | apply Touches.op (TouchesP.app2 (State.snapCopy_touches _ _ _ _ _) (by assumption))
      | apply Touches.op (TouchesP.app2 (State.snapExt_touches _ _ _ _ _ _) (by assumption))
      | apply Touches.op (State.setMask_touches _ _ _)
      | apply Touches.op (State.setAdj_touches _ _ _)
      | apply Touches.op (State.setHdr_touches _ _ _)
      | apply Touches.op (State.charge_touches _ _ _)
      | extract_lets
      | split
      | apply Touches.leaf (Eq.refl _)

theorem State.snapDir_touches (s : State) (n : Nat) (rel : Nat → Nat) (b : List Byte) : Touches [.idx] s (State.snapDir s n rel b) := by
  unfold State.snapDir
  with_reducible
    repeat' first
      | (apply Zone.within; decide)
      | exact Touches.refl _ _
      | intro x
      | apply Touches.op (State.setDir_touches _ _ _)
      | apply Touches.each
      | extract_lets
      | split

theorem State.snapTableIn_touches (s : State) (b : List Byte) : Touches [.alloc, .work, .tables] s (State.snapTableIn s b) := by
  unfold State.snapTableIn
  with_reducible
    repeat' first
      | (apply Zone.within; decide)
      | exact Touches.refl _ _
      | (apply Zone.rest; intro p hp; cases p <;> first | exact absurd (by decide) hp | exact rfl)
      | apply Touches.op (State.charge_touches _ _ _)
      | apply Touches.op (TouchesP.app2 (State.areaTake_touches _ _) (by assumption))
      | extract_lets
      | split
      | apply Touches.leaf (Eq.refl _)

theorem State.snapRow_touches (s : State) (n : Nat) (b : List Byte) (pois : List Bool) : Touches [.mem] s (State.snapRow s n b pois) := by
  unfold State.snapRow
  with_reducible
    repeat' first
      | (apply Zone.within; decide)
      | exact Touches.refl _ _
      | apply Touches.op (State.ilvStore_touches _ _ _ _)
      | split

theorem State.snapPart_touches (s : State) (key : Nat) (p : SnapPart) : TouchesP [.regs, .mem, .alloc, .idx, .work, .tables, .flash,
    .chk, .host, .out] s (fun x => x) (State.snapPart s key p) := by
  unfold State.snapPart
  with_reducible
    repeat' first
      | (apply Zone.within; decide)
      | exact Touches.refl _ _
      | exact TouchesP.ofNone
      | apply TouchesP.ofSome
      | apply Touches.op (State.snapRow_touches _ _ _ _)
      | apply Touches.op (State.snapTableIn_touches _ _)
      | apply Touches.op (State.snapDir_touches _ _ _ _)
      | apply TouchesP.op (State.snapTake_touches _ _ _ _ _ _ _)
      | apply Touches.op (State.snapDesc_touches _ _)
      | apply Touches.op (State.progPending_touches _)
      | apply Touches.op (TouchesA.app (State.nsWrite_touches _ _ _ _ _) (by assumption))
      | apply Touches.op (State.flashEvent_touches _ _ _ _ _ _)
      | apply Touches.op (State.ilvStore_touches _ _ _ _)
      | apply Touches.getD
      | extract_lets
      | split

/-! ## HostFab -/

theorem execConnOpen_touches (h : HostHdr) (c : ConnRec) (s : State) : TouchesO [.regs, .work, .fab, .host, .out, .free] s (execConnOpen
    h c s) := by
  unfold execConnOpen
  with_reducible
    repeat' first
      | (apply Zone.within; decide)
      | exact Touches.refl _ _
      | intro x
      | apply TouchesO.next
      | apply Touches.op (State.cacheConn_touches _ _)
      | apply Touches.op (State.setConn_touches _ _ _)
      | apply State.need_touches
      | apply State.wellFormed_touches
      | apply State.hostRun_touches
      | apply Touches.op (State.completeSt_touches _ _ _)
      | extract_lets
      | split

theorem execConnClose_touches (h : HostHdr) (conn : Nat) (s : State) : TouchesO [.regs, .work, .fab, .host, .out] s (execConnClose h
    conn s) := by
  unfold execConnClose
  with_reducible
    repeat' first
      | (apply Zone.within; decide)
      | exact Touches.refl _ _
      | intro x
      | apply Touches.op (State.drainConn_touches _ _)
      | apply Touches.op (State.connClosed_touches _ _ _)
      | apply Touches.op (State.setConn_touches _ _ _)
      | apply State.hostCmd_touches
      | apply Touches.op (State.completeSt_touches _ _ _)
      | extract_lets
      | split

theorem execPostRecv_touches (h : HostHdr) (conn key offset length : Nat) (s : State) : TouchesO [.regs, .work, .fab, .host, .out,
    .free] s (execPostRecv h conn key offset length s) := by
  unfold execPostRecv
  with_reducible
    repeat' first
      | (apply Zone.within; decide)
      | exact Touches.refl _ _
      | intro x
      | apply TouchesO.next
      | apply Touches.op (State.setConn_touches _ _ _)
      | apply State.need_touches
      | apply State.wellFormed_touches
      | apply Touches.op (State.hostErrCmd_touches _ _ _)
      | apply State.hostRun_touches
      | apply Touches.op (State.completeSt_touches _ _ _)
      | extract_lets
      | split

theorem execRegRegion_touches (h : HostHdr) (r : RegionRec) (s : State) : TouchesO [.regs, .work, .fab, .host, .out, .free] s
    (execRegRegion h r s) := by
  unfold execRegRegion
  with_reducible
    repeat' first
      | (apply Zone.within; decide)
      | exact Touches.refl _ _
      | (apply Zone.rest; intro p hp; cases p <;> first | exact absurd (by decide) hp | exact rfl)
      | intro x
      | apply TouchesO.next
      | apply State.need_touches
      | apply State.wellFormed_touches
      | apply State.hostRun_touches
      | apply Touches.op (State.completeSt_touches _ _ _)
      | extract_lets
      | split
      | apply Touches.leaf (Eq.refl _)

theorem execDeregRegion_touches (h : HostHdr) (key : Nat) (s : State) : TouchesO [.regs, .work, .fab, .host, .out] s (execDeregRegion h
    key s) := by
  unfold execDeregRegion
  with_reducible
    repeat' first
      | (apply Zone.within; decide)
      | exact Touches.refl _ _
      | (apply Zone.rest; intro p hp; cases p <;> first | exact absurd (by decide) hp | exact rfl)
      | intro x
      | apply TouchesO.next
      | apply Touches.op (State.settleRegions_touches _)
      | apply Touches.op (State.segsRetry_touches _)
      | apply State.need_touches
      | apply State.hostRun_touches
      | extract_lets
      | apply Touches.leaf (Eq.refl _)

theorem State.setRegion_touches (s : State) (slot : Nat) (r : Region) : Touches [.fab] s (State.setRegion s slot r) := by
  unfold State.setRegion
  with_reducible
    repeat' first
      | exact Touches.refl _ _
      | (apply Zone.rest; intro p hp; cases p <;> first | exact absurd (by decide) hp | exact rfl)
      | extract_lets
      | apply Touches.leaf (Eq.refl _)

theorem execSegPresent_touches (h : HostHdr) (key seg : Nat) (s : State) : TouchesO [.regs, .work, .fab, .host, .out, .free] s
    (execSegPresent h key seg s) := by
  unfold execSegPresent
  with_reducible
    repeat' first
      | (apply Zone.within; decide)
      | exact Touches.refl _ _
      | intro x
      | apply TouchesO.next
      | apply Touches.op (State.setRegion_touches _ _ _)
      | apply Touches.op (State.segsRetry_touches _)
      | apply State.need_touches
      | apply State.wellFormed_touches
      | apply State.hostRun_touches
      | apply Touches.op (State.completeSt_touches _ _ _)

theorem execSegAbsent_touches (h : HostHdr) (key seg : Nat) (s : State) : TouchesO [.regs, .work, .fab, .host, .out, .free] s
    (execSegAbsent h key seg s) := by
  unfold execSegAbsent
  with_reducible
    repeat' first
      | (apply Zone.within; decide)
      | exact Touches.refl _ _
      | (apply Zone.rest; intro p hp; cases p <;> first | exact absurd (by decide) hp | exact rfl)
      | intro x
      | apply TouchesO.next
      | apply Touches.op (State.setRegion_touches _ _ _)
      | apply Touches.op (State.settleRegions_touches _)
      | apply State.need_touches
      | apply State.wellFormed_touches
      | apply State.hostRun_touches
      | extract_lets
      | apply Touches.leaf (Eq.refl _)

theorem State.chargeMaps_touches (s : State) : Touches [.work] s (State.chargeMaps s) := by
  unfold State.chargeMaps
  with_reducible
    repeat' first
      | exact Touches.refl _ _
      | (apply Zone.rest; intro p hp; cases p <;> first | exact absurd (by decide) hp | exact rfl)
      | extract_lets
      | apply Touches.leaf (Eq.refl _)

theorem State.epochRegs_touches (s : State) : Touches [.regs] s (State.epochRegs s) := by
  unfold State.epochRegs
  with_reducible
    repeat' first
      | (apply Zone.within; decide)
      | exact Touches.refl _ _
      | apply Touches.op (State.setFld_touches _ _ _)

theorem State.installMap_touches (s : State) (h : HostHdr) (m : RMap) : Touches [.regs, .work, .cas, .host, .out] s (State.installMap s
    h m) := by
  unfold State.installMap
  with_reducible
    repeat' first
      | (apply Zone.within; decide)
      | exact Touches.refl _ _
      | (apply Zone.rest; intro p hp; cases p <;> first | exact absurd (by decide) hp | exact rfl)
      | apply Touches.op (State.epochRegs_touches _)
      | apply Touches.op (State.chargeMaps_touches _)
      | apply Touches.op (State.completeSt_touches _ _ _)
      | extract_lets
      | split
      | apply Touches.leaf (Eq.refl _)

theorem execRouteMap_touches (h : HostHdr) (epoch : Nat) (entries : List RegionEnt) (s : State) : TouchesO [.regs, .work, .cas, .host,
    .out, .free] s (execRouteMap h epoch entries s) := by
  unfold execRouteMap
  with_reducible
    repeat' first
      | (apply Zone.within; decide)
      | exact Touches.refl _ _
      | (apply Zone.rest; intro p hp; cases p <;> first | exact absurd (by decide) hp | exact rfl)
      | intro x
      | apply TouchesO.next
      | apply Touches.op (State.installMap_touches _ _ _)
      | apply Touches.op (State.epochRegs_touches _)
      | apply State.wellFormed_touches
      | apply State.hostRun_touches
      | apply Touches.op (State.completeSt_touches _ _ _)
      | extract_lets
      | split
      | apply Touches.leaf (Eq.refl _)

theorem execCasLog_touches (h : HostHdr) (s : State) : TouchesO [.regs, .work, .cas, .host, .out] s (execCasLog h s) := by
  unfold execCasLog
  with_reducible
    repeat' first
      | (apply Zone.within; decide)
      | exact Touches.refl _ _
      | (apply Zone.rest; intro p hp; cases p <;> first | exact absurd (by decide) hp | exact rfl)
      | intro x
      | apply State.hostCmd_touches
      | apply Touches.op (State.complete_touches _ _ _ _ _)
      | extract_lets
      | apply Touches.leaf (Eq.refl _)

/-! ## Cascade -/

theorem State.sendBarrier_touches (s : State) (conn kind depth uaddr arrcyc : Nat) : Touches [.fab] s (State.sendBarrier s conn kind
    depth uaddr arrcyc) := by
  unfold State.sendBarrier
  with_reducible
    repeat' first
      | (apply Zone.within; decide)
      | exact Touches.refl _ _
      | apply Touches.op (State.request_touches _ _ _ _ _ _ _)

theorem State.abortAll_touches (s : State) (only : Step → Bool) : Touches [.regs, .mem, .alloc, .work, .nbu, .comp, .flash, .fab, .cas,
    .chk, .nrg, .host, .out, .free] s (State.abortAll s only) := by
  unfold State.abortAll
  with_reducible
    repeat' first
      | (apply Zone.within; decide)
      | exact Touches.refl _ _
      | intro x
      | apply Touches.op (State.abortFree_touches _ _ _)
      | apply Touches.foldl

theorem State.resetMember_touches (s : State) : Touches [.pwr, .regs, .mem, .alloc, .work, .nbu, .comp, .flash, .fab, .cas, .chk, .nrg,
    .host, .out, .free] s (State.resetMember s) := by
  unfold State.resetMember
  with_reducible
    repeat' first
      | (apply Zone.within; decide)
      | exact Touches.refl _ _
      | (apply Zone.rest; intro p hp; cases p <;> first | exact absurd (by decide) hp | exact rfl)
      | apply Touches.op (State.abortAll_touches _ _)
      | apply Touches.op (State.clearCurrants_touches _)
      | extract_lets
      | apply Touches.leaf (Eq.refl _)

theorem State.resetSettle_touches (s : State) : Touches [.regs, .cas, .host, .out] s (State.resetSettle s) := by
  unfold State.resetSettle
  with_reducible
    repeat' first
      | (apply Zone.within; decide)
      | exact Touches.refl _ _
      | (apply Zone.rest; intro p hp; cases p <;> first | exact absurd (by decide) hp | exact rfl)
      | apply Touches.op (State.completeSt_touches _ _ _)
      | apply Touches.op (State.setWord_touches _ _ _)
      | extract_lets
      | split
      | apply Touches.leaf (Eq.refl _)

theorem execGroupReset_touches (h : HostHdr) (s : State) : TouchesO [.pwr, .regs, .mem, .alloc, .work, .nbu, .comp, .flash, .fab, .cas,
    .chk, .nrg, .host, .out, .free] s (execGroupReset h s) := by
  unfold execGroupReset
  with_reducible
    repeat' first
      | (apply Zone.within; decide)
      | exact Touches.refl _ _
      | (apply Zone.rest; intro p hp; cases p <;> first | exact absurd (by decide) hp | exact rfl)
      | intro x
      | apply TouchesO.next
      | apply Touches.op (State.resetSettle_touches _)
      | apply Touches.op (State.resetMember_touches _)
      | apply Touches.op (State.toMember_touches _ _ _ _)
      | apply State.wellFormed_touches
      | apply State.hostRun_touches
      | apply Touches.foldl
      | extract_lets
      | apply Touches.leaf (Eq.refl _)

theorem execBarrierReset_touches (m : Msg) (s : State) : TouchesO [.pwr, .regs, .mem, .alloc, .work, .nbu, .comp, .flash, .fab, .cas,
    .chk, .nrg, .host, .out, .free] s (execBarrierReset m s) := by
  unfold execBarrierReset
  with_reducible
    repeat' first
      | (apply Zone.within; decide)
      | exact Touches.refl _ _
      | intro x
      | apply Touches.op (State.resetMember_touches _)
      | apply Touches.op (State.sendBarrier_touches _ _ _ _ _ _)
      | apply State.onSys_touches
      | apply Touches.op (State.setFld_touches _ _ _)
      | extract_lets
      | split

theorem execArrive_touches (m : Msg) (s : State) : TouchesO [.regs, .fab, .cas, .host, .out] s (execArrive m s) := by
  unfold execArrive
  with_reducible
    repeat' first
      | (apply Zone.within; decide)
      | exact Touches.refl _ _
      | (apply Zone.rest; intro p hp; cases p <;> first | exact absurd (by decide) hp | exact rfl)
      | intro x
      | apply Touches.op (State.resetSettle_touches _)
      | apply Touches.op (State.memberArrives_touches _ _ _)
      | apply State.onSys_touches
      | extract_lets
      | split
      | apply Touches.leaf (Eq.refl _)

theorem execGo_touches (m : Msg) (s : State) : TouchesO [.regs, .fab, .cas, .host, .out] s (execGo m s) := by
  unfold execGo
  with_reducible
    repeat' first
      | (apply Zone.within; decide)
      | exact Touches.refl _ _
      | (apply Zone.rest; intro p hp; cases p <;> first | exact absurd (by decide) hp | exact rfl)
      | intro x
      | apply State.onSys_touches
      | apply Touches.op (State.setFld_touches _ _ _)
      | extract_lets
      | split
      | apply Touches.leaf (Eq.refl _)

theorem execExpel_touches (m : Msg) (s : State) : TouchesO [.pwr, .regs, .mem, .alloc, .work, .nbu, .comp, .flash, .fab, .cas, .chk,
    .nrg, .host, .out, .free] s (execExpel m s) := by
  unfold execExpel
  with_reducible
    repeat' first
      | (apply Zone.within; decide)
      | exact Touches.refl _ _
      | (apply Zone.rest; intro p hp; cases p <;> first | exact absurd (by decide) hp | exact rfl)
      | intro x
      | apply Touches.op (State.abortAll_touches _ _)
      | apply State.onSys_touches
      | extract_lets
      | split
      | apply Touches.leaf (Eq.refl _)

theorem State.releaseNow_touches (s : State) : Touches [.pwr, .regs, .fab, .cas, .chk, .host, .out] s (State.releaseNow s) := by
  unfold State.releaseNow
  with_reducible
    repeat' first
      | (apply Zone.within; decide)
      | exact Touches.refl _ _
      | (apply Zone.rest; intro p hp; cases p <;> first | exact absurd (by decide) hp | exact rfl)
      | intro x
      | apply Touches.op (State.sendBarrier_touches _ _ _ _ _ _)
      | apply Touches.op (State.closeRound_touches _)
      | apply Touches.op (State.setMember_touches _ _ _)
      | apply Touches.op (State.count_touches _ _ _)
      | apply Touches.op (State.setFld_touches _ _ _)
      | apply Touches.foldl
      | extract_lets
      | apply Touches.leaf (Eq.refl _)

theorem execBarrierRelease_touches (s : State) : TouchesO [.pwr, .regs, .fab, .cas, .chk, .host, .out] s (execBarrierRelease s) := by
  unfold execBarrierRelease
  with_reducible
    repeat' first
      | (apply Zone.within; decide)
      | exact Touches.refl _ _
      | (apply Zone.rest; intro p hp; cases p <;> first | exact absurd (by decide) hp | exact rfl)
      | apply Touches.op (State.releaseNow_touches _)
      | apply Touches.op (State.sendBarrier_touches _ _ _ _ _ _)
      | apply Touches.op (State.rdySettle_touches _)
      | apply State.onlyIf_touches
      | apply Touches.op (State.setFld_touches _ _ _)
      | extract_lets
      | split
      | apply Touches.leaf (Eq.refl _)

theorem State.applyRows_touches (s : State) : Touches [.mem, .work, .cas] s (State.applyRows s) := by
  unfold State.applyRows
  with_reducible
    repeat' first
      | (apply Zone.within; decide)
      | exact Touches.refl _ _
      | (apply Zone.rest; intro p hp; cases p <;> first | exact absurd (by decide) hp | exact rfl)
      | intro x
      | apply Touches.op (State.rowPut_touches _ _ _)
      | apply Touches.foldl
      | extract_lets
      | split
      | apply Touches.leaf (Eq.refl _)

theorem State.sendApplied_touches (s : State) : Touches [.fab, .cas] s (State.sendApplied s) := by
  unfold State.sendApplied
  with_reducible
    repeat' first
      | (apply Zone.within; decide)
      | exact Touches.refl _ _
      | (apply Zone.rest; intro p hp; cases p <;> first | exact absurd (by decide) hp | exact rfl)
      | intro x
      | apply Touches.op (State.toMember_touches _ _ _ _)
      | apply Touches.foldl
      | extract_lets
      | split
      | apply Touches.leaf (Eq.refl _)

theorem State.markGroup_touches (s : State) : Touches [.work] s (State.markGroup s) := by
  unfold State.markGroup
  with_reducible
    repeat' first
      | exact Touches.refl _ _
      | (apply Zone.rest; intro p hp; cases p <;> first | exact absurd (by decide) hp | exact rfl)
      | extract_lets
      | apply Touches.leaf (Eq.refl _)

theorem State.armGates_touches (s : State) : Touches [.fab] s (State.armGates s) := by
  unfold State.armGates
  with_reducible
    repeat' first
      | (apply Zone.within; decide)
      | exact Touches.refl _ _
      | intro x
      | apply Touches.op (State.setPort_touches _ _ _)
      | apply Touches.each

theorem State.takeRelease_touches (s : State) : Touches [.pwr, .mem, .work, .fab, .cas] s (State.takeRelease s) := by
  unfold State.takeRelease
  with_reducible
    repeat' first
      | (apply Zone.within; decide)
      | exact Touches.refl _ _
      | (apply Zone.rest; intro p hp; cases p <;> first | exact absurd (by decide) hp | exact rfl)
      | apply Touches.op (State.markGroup_touches _)
      | apply Touches.op (State.sendApplied_touches _)
      | apply Touches.op (State.applyRows_touches _)
      | extract_lets
      | apply Touches.leaf (Eq.refl _)

theorem execReleaseDetect_touches (s : State) : TouchesO [.pwr, .regs, .mem, .work, .fab, .cas] s (execReleaseDetect s) := by
  unfold execReleaseDetect
  with_reducible
    repeat' first
      | (apply Zone.within; decide)
      | exact Touches.refl _ _
      | (apply Zone.rest; intro p hp; cases p <;> first | exact absurd (by decide) hp | exact rfl)
      | apply Touches.op (State.takeRelease_touches _)
      | apply Touches.op (State.armGates_touches _)
      | apply State.onlyIf_touches
      | apply Touches.op (State.count_touches _ _ _)
      | apply Touches.op (State.setFld_touches _ _ _)
      | extract_lets
      | split
      | apply Touches.leaf (Eq.refl _)

theorem State.loseMember_touches (s : State) (p : Nat) : Touches [.regs, .cas, .chk, .host, .out] s (State.loseMember s p) := by
  unfold State.loseMember
  with_reducible
    repeat' first
      | (apply Zone.within; decide)
      | exact Touches.refl _ _
      | (apply Zone.rest; intro p hp; cases p <;> first | exact absurd (by decide) hp | exact rfl)
      | apply Touches.op (State.setMember_touches _ _ _)
      | extract_lets
      | apply Touches.leaf (Eq.refl _)

theorem execBartoExpiry_touches (s : State) : TouchesO [.regs, .fab, .cas, .chk, .host, .out] s (execBartoExpiry s) := by
  unfold execBartoExpiry
  with_reducible
    repeat' first
      | (apply Zone.within; decide)
      | exact Touches.refl _ _
      | (apply Zone.rest; intro p hp; cases p <;> first | exact absurd (by decide) hp | exact rfl)
      | intro x
      | apply Touches.op (State.loseMember_touches _ _)
      | apply Touches.op (State.toMember_touches _ _ _ _)
      | apply State.onlyIf_touches
      | apply Touches.foldl
      | extract_lets
      | apply Touches.leaf (Eq.refl _)

theorem execBarstuck_touches (s : State) : TouchesO [.regs, .cas, .chk, .host, .out] s (execBarstuck s) := by
  unfold execBarstuck
  with_reducible
    repeat' first
      | (apply Zone.within; decide)
      | exact Touches.refl _ _
      | (apply Zone.rest; intro p hp; cases p <;> first | exact absurd (by decide) hp | exact rfl)
      | apply Touches.op (State.raise_touches _ _ _ _)
      | apply State.onlyIf_touches
      | extract_lets
      | apply Touches.leaf (Eq.refl _)

theorem execMembtoExpiry_touches (tag pos : Nat) (s : State) : TouchesO [.fab, .cas] s (execMembtoExpiry tag pos s) := by
  unfold execMembtoExpiry
  with_reducible
    repeat' first
      | (apply Zone.within; decide)
      | exact Touches.refl _ _
      | apply Touches.op (State.setPart_touches _ _ _ _)
      | apply Touches.op (State.sendMsg_touches _ _ _)
      | apply State.onlyIf_touches
      | extract_lets
      | split

theorem execGroupRecordSend_touches (tag : Nat) (s : State) : TouchesO [.regs, .work, .fab, .cas, .host, .out] s (execGroupRecordSend
    tag s) := by
  unfold execGroupRecordSend
  with_reducible
    repeat' first
      | (apply Zone.within; decide)
      | exact Touches.refl _ _
      | (apply Zone.rest; intro p hp; cases p <;> first | exact absurd (by decide) hp | exact rfl)
      | apply Touches.op (State.finishReq_touches _ _ _ _)
      | apply State.onlyIf_touches
      | extract_lets
      | split
      | apply Touches.leaf (Eq.refl _)

theorem State.mapParts_touches (s : State) (pos tag : Nat) (f : Part → Part) : Touches [.cas] s (State.mapParts s pos tag f) := by
  unfold State.mapParts
  with_reducible
    repeat' first
      | exact Touches.refl _ _
      | (apply Zone.rest; intro p hp; cases p <;> first | exact absurd (by decide) hp | exact rfl)
      | extract_lets
      | apply Touches.leaf (Eq.refl _)

theorem execConfirm_touches (m : Msg) (s : State) : TouchesO [.regs, .fab, .cas, .host, .out] s (execConfirm m s) := by
  unfold execConfirm
  with_reducible
    repeat' first
      | (apply Zone.within; decide)
      | exact Touches.refl _ _
      | (apply Zone.rest; intro p hp; cases p <;> first | exact absurd (by decide) hp | exact rfl)
      | intro x
      | apply Touches.op (State.mapParts_touches _ _ _ _)
      | apply State.onSys_touches
      | apply Touches.op (State.count_touches _ _ _)
      | extract_lets
      | split
      | apply Touches.leaf (Eq.refl _)

theorem State.discardStep_touches (s : State) (pos tag : Nat) : Touches [.regs, .fab, .cas] s (State.discardStep s pos tag) := by
  unfold State.discardStep
  with_reducible
    repeat' first
      | (apply Zone.within; decide)
      | exact Touches.refl _ _
      | (apply Zone.rest; intro p hp; cases p <;> first | exact absurd (by decide) hp | exact rfl)
      | apply Touches.op (State.mapParts_touches _ _ _ _)
      | apply Touches.op (State.request_touches _ _ _ _ _ _ _)
      | apply Touches.op (State.count_touches _ _ _)
      | extract_lets
      | split
      | apply Touches.leaf (Eq.refl _)

theorem execRetract_touches (m : Msg) (s : State) : TouchesO [.regs, .fab, .cas, .chk, .host, .out] s (execRetract m s) := by
  unfold execRetract
  with_reducible
    repeat' first
      | (apply Zone.within; decide)
      | exact Touches.refl _ _
      | intro x
      | apply Touches.op (State.discardStep_touches _ _ _)
      | apply State.onSys_touches
      | apply Touches.op (State.raise_touches _ _ _ _)
      | extract_lets
      | split

theorem execReplayTimeout_touches (steptag : Nat) (s : State) : TouchesO [.regs, .fab, .cas] s (execReplayTimeout steptag s) := by
  unfold execReplayTimeout
  with_reducible
    repeat' first
      | (apply Zone.within; decide)
      | exact Touches.refl _ _
      | apply Touches.op (State.discardStep_touches _ _ _)
      | apply State.onlyIf_touches
      | extract_lets
      | split

theorem execGone_touches (m : Msg) (s : State) : TouchesO [.regs, .fab, .cas, .host, .out] s (execGone m s) := by
  unfold execGone
  with_reducible
    repeat' first
      | (apply Zone.within; decide)
      | exact Touches.refl _ _
      | intro x
      | apply Touches.op (State.mapParts_touches _ _ _ _)
      | apply State.onSys_touches
      | extract_lets
      | split

theorem execReplay_touches (m : Msg) (s : State) : TouchesO [.regs, .mem, .work, .comp, .fab, .cas, .host, .out] s (execReplay m s) := by
  unfold execReplay
  with_reducible
    repeat' first
      | (apply Zone.within; decide)
      | exact Touches.refl _ _
      | (apply Zone.rest; intro p hp; cases p <;> first | exact absurd (by decide) hp | exact rfl)
      | intro x
      | apply State.onSys_touches
      | apply Touches.op (State.replayWaiting_touches _ _)
      | apply Touches.op (State.request_touches _ _ _ _ _ _ _)
      | extract_lets
      | split
      | apply Touches.leaf (Eq.refl _)

theorem execVerdictTimeout_touches (steptag : Nat) (s : State) : TouchesO [.regs, .fab, .cas, .chk, .host, .out] s (execVerdictTimeout
    steptag s) := by
  unfold execVerdictTimeout
  with_reducible
    repeat' first
      | (apply Zone.within; decide)
      | exact Touches.refl _ _
      | apply Touches.op (State.sendVerdict_touches _ _ _)
      | apply State.whenServing_touches

theorem execRpkeepExpiry_touches (steptag : Nat) (s : State) : TouchesO [.cas] s (execRpkeepExpiry steptag s) := by
  unfold execRpkeepExpiry
  with_reducible
    repeat' first
      | exact Touches.refl _ _
      | (apply Zone.rest; intro p hp; cases p <;> first | exact absurd (by decide) hp | exact rfl)
      | apply State.whenServing_touches
      | extract_lets
      | apply Touches.leaf (Eq.refl _)

theorem State.barrierLines_touches (s : State) : Touches [.regs, .mem, .alloc, .work, .nbu, .comp, .tables, .flash, .fab, .cas, .chk,
    .nrg, .host, .out, .free] s (State.barrierLines s) := by
  unfold State.barrierLines
  with_reducible
    repeat' first
      | (apply Zone.within; decide)
      | exact Touches.refl _ _
      | intro x
      | apply Touches.op (State.fillBarrier_touches _ _)
      | apply Touches.op (State.goOn_touches _ _)
      | apply Touches.each

theorem execApplied_touches (m : Msg) (s : State) : TouchesO [.regs, .mem, .alloc, .work, .nbu, .comp, .tables, .flash, .fab, .cas,
    .chk, .nrg, .host, .out, .free] s (execApplied m s) := by
  unfold execApplied
  with_reducible
    repeat' first
      | (apply Zone.within; decide)
      | exact Touches.refl _ _
      | (apply Zone.rest; intro p hp; cases p <;> first | exact absurd (by decide) hp | exact rfl)
      | apply TouchesO.next
      | apply Touches.op (State.barrierLines_touches _)
      | apply Touches.op (State.sysDone_touches _ _)
      | extract_lets
      | split
      | apply Touches.leaf (Eq.refl _)

theorem execEpochDrain_touches (s : State) : TouchesO [.regs, .work, .cas, .host, .out] s (execEpochDrain s) := by
  unfold execEpochDrain
  with_reducible
    repeat' first
      | (apply Zone.within; decide)
      | exact Touches.refl _ _
      | (apply Zone.rest; intro p hp; cases p <;> first | exact absurd (by decide) hp | exact rfl)
      | apply Touches.op (State.installMap_touches _ _ _)
      | apply Touches.op (State.epochRegs_touches _)
      | apply Touches.op (State.chargeMaps_touches _)
      | apply State.onlyIf_touches
      | apply Touches.op (State.event_touches _ _ _)
      | extract_lets
      | split
      | apply Touches.leaf (Eq.refl _)

theorem execHello_touches (m : Msg) (s : State) : TouchesO [.regs, .fab, .cas, .chk, .host, .out] s (execHello m s) := by
  unfold execHello
  with_reducible
    repeat' first
      | (apply Zone.within; decide)
      | exact Touches.refl _ _
      | intro x
      | apply Touches.op (State.startStream_touches _ _)
      | apply State.onSys_touches
      | apply Touches.op (State.toNode_touches _ _ _ _)
      | apply Touches.op (State.setMember_touches _ _ _)
      | apply Touches.op (State.request_touches _ _ _ _ _ _ _)
      | extract_lets
      | split

theorem execAccept_touches (m : Msg) (s : State) : TouchesO [.regs, .fab, .cas, .host, .out] s (execAccept m s) := by
  unfold execAccept
  with_reducible
    repeat' first
      | (apply Zone.within; decide)
      | exact Touches.refl _ _
      | (apply Zone.rest; intro p hp; cases p <;> first | exact absurd (by decide) hp | exact rfl)
      | intro x
      | apply Touches.op (State.startStream_touches _ _)
      | apply State.onSys_touches
      | extract_lets
      | split
      | apply Touches.leaf (Eq.refl _)

theorem execRefuse_touches (m : Msg) (s : State) : TouchesO [.regs, .fab, .cas, .host, .out] s (execRefuse m s) := by
  unfold execRefuse
  with_reducible
    repeat' first
      | (apply Zone.within; decide)
      | exact Touches.refl _ _
      | (apply Zone.rest; intro p hp; cases p <;> first | exact absurd (by decide) hp | exact rfl)
      | intro x
      | apply State.onSys_touches
      | extract_lets
      | split
      | apply Touches.leaf (Eq.refl _)

theorem execSnapend_touches (m : Msg) (s : State) : TouchesO [.regs, .fab, .cas, .host, .out] s (execSnapend m s) := by
  unfold execSnapend
  with_reducible
    repeat' first
      | (apply Zone.within; decide)
      | exact Touches.refl _ _
      | (apply Zone.rest; intro p hp; cases p <;> first | exact absurd (by decide) hp | exact rfl)
      | intro x
      | apply Touches.op (State.caughtSettle_touches _)
      | apply State.onSys_touches
      | extract_lets
      | split
      | apply Touches.leaf (Eq.refl _)

theorem execCaughtup_touches (m : Msg) (s : State) : TouchesO [.regs, .fab, .cas, .host, .out] s (execCaughtup m s) := by
  unfold execCaughtup
  with_reducible
    repeat' first
      | (apply Zone.within; decide)
      | exact Touches.refl _ _
      | (apply Zone.rest; intro p hp; cases p <;> first | exact absurd (by decide) hp | exact rfl)
      | intro x
      | apply State.onSys_touches
      | apply Touches.op (State.request_touches _ _ _ _ _ _ _)
      | extract_lets
      | split
      | apply Touches.leaf (Eq.refl _)

theorem execJoinAdmit_touches (m : Msg) (s : State) : TouchesO [.regs, .fab, .cas, .host, .out] s (execJoinAdmit m s) := by
  unfold execJoinAdmit
  with_reducible
    repeat' first
      | (apply Zone.within; decide)
      | exact Touches.refl _ _
      | (apply Zone.rest; intro p hp; cases p <;> first | exact absurd (by decide) hp | exact rfl)
      | intro x
      | apply State.onSys_touches
      | apply Touches.op (State.setFld_touches _ _ _)
      | extract_lets
      | split
      | apply Touches.leaf (Eq.refl _)

theorem execJointoExpiry_touches (pos : Nat) (s : State) : TouchesO [.regs, .cas, .chk, .host, .out] s (execJointoExpiry pos s) := by
  unfold execJointoExpiry
  with_reducible
    repeat' first
      | (apply Zone.within; decide)
      | exact Touches.refl _ _
      | (apply Zone.rest; intro p hp; cases p <;> first | exact absurd (by decide) hp | exact rfl)
      | apply Touches.op (State.setMember_touches _ _ _)
      | apply State.onlyIf_touches
      | extract_lets
      | split
      | apply Touches.leaf (Eq.refl _)

/-! ## Energy -/

theorem State.windowCores_touches (s : State) (ebal : Nat) : Touches [.regs, .work] s (State.windowCores s ebal) := by
  unfold State.windowCores
  with_reducible
    repeat' first
      | (apply Zone.within; decide)
      | exact Touches.refl _ _
      | intro x
      | apply Touches.op (State.modTenant_touches _ _ _)
      | apply Touches.each
      | apply Touches.op (State.count_touches _ _ _)
      | extract_lets
      | split

theorem State.heldWindows_touches (s : State) : Touches [.work] s (State.heldWindows s) := by
  unfold State.heldWindows
  with_reducible
    repeat' first
      | (apply Zone.within; decide)
      | exact Touches.refl _ _
      | intro x
      | apply Touches.op (State.modTenant_touches _ _ _)
      | apply Touches.foldl

theorem State.planHold_touches (s : State) (l : Nat) : Touches [.regs, .work, .nrg] s (State.planHold s l) := by
  unfold State.planHold
  with_reducible
    repeat' first
      | (apply Zone.within; decide)
      | exact Touches.refl _ _
      | (apply Zone.rest; intro p hp; cases p <;> first | exact absurd (by decide) hp | exact rfl)
      | apply Touches.op (State.holdLease_touches _ _)
      | apply Touches.op (State.count_touches _ _ _)
      | extract_lets
      | apply Touches.leaf (Eq.refl _)

theorem State.holdUntil_touches (s : State) (ls : List (Nat × Lease)) (eplan pcap : Nat) : Touches [.regs, .work, .nrg] s
    (State.holdUntil s ls eplan pcap) := by
  induction ls generalizing s eplan pcap with
  | nil =>
  unfold State.holdUntil
  with_reducible
    repeat' first
      | exact Touches.refl _ _
  | cons x r ih =>
  unfold State.holdUntil
  with_reducible
    repeat' first
      | (apply Zone.within; decide)
      | exact Touches.refl _ _
      | apply Touches.op (ih _ _ _)
      | apply Touches.op (State.planHold_touches _ _)
      | split

theorem State.releaseWhile_touches (s : State) (ls : List Nat) (pcap : Nat) : Touches [.regs, .mem, .alloc, .work, .nbu, .comp, .tables,
    .flash, .fab, .cas, .chk, .nrg, .host, .out, .free] s (State.releaseWhile s ls pcap) := by
  induction ls generalizing s pcap with
  | nil =>
  unfold State.releaseWhile
  with_reducible
    repeat' first
      | exact Touches.refl _ _
  | cons x r ih =>
  unfold State.releaseWhile
  with_reducible
    repeat' first
      | (apply Zone.within; decide)
      | exact Touches.refl _ _
      | (apply Zone.rest; intro p hp; cases p <;> first | exact absurd (by decide) hp | exact rfl)
      | apply Touches.op (ih _ _)
      | apply Touches.op (State.goOn_touches _ _)
      | apply Touches.op (State.unhold_touches _ _)
      | extract_lets
      | split
      | apply Touches.leaf (Eq.refl _)

theorem State.ballast_touches (s : State) (pmin ebal : Nat) : Touches [.regs, .comp, .chk, .host, .out] s (State.ballast s pmin ebal) :=
    by
  unfold State.ballast
  with_reducible
    repeat' first
      | (apply Zone.within; decide)
      | exact Touches.refl _ _
      | intro x
      | apply Touches.op (State.nrgEvent_touches _ _ _ _ _)
      | apply Touches.op (State.setCore_touches _ _ _)
      | apply Touches.each
      | apply Touches.op (State.count_touches _ _ _)
      | apply Touches.op (State.setFld_touches _ _ _)
      | extract_lets
      | split

theorem State.powerMoves_touches (s : State) : Touches [.pwr, .boot, .regs, .stagedW, .mem, .alloc, .idx, .work, .nbu, .comp, .tables,
    .flash, .fab, .cas, .chk, .nrg, .host, .mgmt, .uptime, .out] s (State.powerMoves s) := by
  unfold State.powerMoves
  with_reducible
    repeat' first
      | (apply Zone.within; decide)
      | exact Touches.refl _ _
      | intro x
      | apply Touches.op (State.flushBegin_touches _ _)
      | apply Touches.op (State.powerDone_touches _ _)
      | apply Touches.op (State.closeLease_touches _ _ _)
      | apply Touches.each
      | apply Touches.op (State.setFld_touches _ _ _)
      | extract_lets
      | split
      | dsimp +zetaDelta only

theorem execEnergyWindow_touches (w : WindowMeas) (s : State) : TouchesO [.pwr, .boot, .regs, .stagedW, .mem, .alloc, .idx, .work, .nbu,
    .comp, .tables, .flash, .fab, .cas, .chk, .nrg, .host, .mgmt, .uptime, .out, .free] s (execEnergyWindow w s) := by
  unfold execEnergyWindow
  with_reducible
    repeat' first
      | (apply Zone.within; decide)
      | exact Touches.refl _ _
      | (apply Zone.rest; intro p hp; cases p <;> first | exact absurd (by decide) hp | exact rfl)
      | apply Touches.op (State.powerMoves_touches _)
      | apply Touches.op (State.ballast_touches _ _ _)
      | apply Touches.op (State.releaseWhile_touches _ _ _)
      | apply Touches.op (State.holdUntil_touches _ _ _ _)
      | apply Touches.op (State.heldWindows_touches _)
      | apply Touches.op (State.windowCores_touches _ _)
      | apply Touches.op (State.retryUpdates_touches _)
      | apply Touches.op (State.progPending_touches _)
      | apply Touches.op (State.capRecompute_touches _)
      | apply State.whenServing_touches
      | apply Touches.op (State.count_touches _ _ _)
      | apply Touches.op (State.setFld_touches _ _ _)
      | extract_lets
      | split
      | apply Touches.leaf (Eq.refl _)

theorem execIdle1Entry_touches (core : Nat) (s : State) : TouchesO [.comp] s (execIdle1Entry core s) := by
  unfold execIdle1Entry
  with_reducible
    repeat' first
      | (apply Zone.within; decide)
      | exact Touches.refl _ _
      | apply Touches.op (State.setCore_touches _ _ _)
      | apply State.whenServing_touches
      | extract_lets
      | split

theorem State.powerWait_touches (s : State) (h : HostHdr) (k : Nat) : Touches [.host] s (State.powerWait s h k) := by
  unfold State.powerWait
  with_reducible
    repeat' first
      | exact Touches.refl _ _
      | (apply Zone.rest; intro p hp; cases p <;> first | exact absurd (by decide) hp | exact rfl)
      | extract_lets
      | apply Touches.leaf (Eq.refl _)

theorem execSetPowerRun_touches (h : HostHdr) (autowake : Bool) (s : State) : TouchesO [.regs, .work, .host, .out] s (execSetPowerRun h
    autowake s) := by
  unfold execSetPowerRun
  with_reducible
    repeat' first
      | (apply Zone.within; decide)
      | exact Touches.refl _ _
      | intro x
      | apply Touches.op (State.powerWait_touches _ _ _)
      | apply State.hostCmd_touches
      | apply Touches.op (State.completeSt_touches _ _ _)
      | apply Touches.op (State.setFld_touches _ _ _)
      | extract_lets
      | split

theorem execSetPowerIdle2_touches (h : HostHdr) (autowake : Bool) (s : State) : TouchesO [.regs, .work, .host, .out] s
    (execSetPowerIdle2 h autowake s) := by
  unfold execSetPowerIdle2
  with_reducible
    repeat' first
      | (apply Zone.within; decide)
      | exact Touches.refl _ _
      | intro x
      | apply Touches.op (State.powerWait_touches _ _ _)
      | apply State.hostCmd_touches
      | apply Touches.op (State.completeSt_touches _ _ _)
      | apply Touches.op (State.setFld_touches _ _ _)
      | extract_lets
      | split

theorem execSetPowerStandby_touches (h : HostHdr) (autowake : Bool) (s : State) : TouchesO [.regs, .work, .host, .out] s
    (execSetPowerStandby h autowake s) := by
  unfold execSetPowerStandby
  with_reducible
    repeat' first
      | (apply Zone.within; decide)
      | exact Touches.refl _ _
      | intro x
      | apply Touches.op (State.powerWait_touches _ _ _)
      | apply State.hostCmd_touches
      | apply Touches.op (State.setFld_touches _ _ _)

end Sys2Proof.Machine
end

