-- ==== Sys2Proof/Laws/Touch5.lean ====
section
/-! SUPPORT. What the operations and commands of the host port, management, micro-ops, ownership, messages, registers, tenants, resets and steps may touch: one lemma each (Laws/Touch.lean). -/

namespace Sys2Proof.Machine

/-! ## HostPort -/

theorem State.queueError_touches {T : List Zone} (s : State) (fn q value : Nat) (off : State → State) (hT : Zone.Within ([.regs, .host,
    .out, .free] : List Zone) T) (hf : ∀ (x0 : State), Touches T x0 (off x0)) : TouchesO T s (State.queueError s fn q value off) := by
  unfold State.queueError
  with_reducible
    repeat' first
      | first | exact hT | exact Zone.Within.refl _ | exact Zone.Within.trans (Zone.within (by decide)) hT
      | exact Touches.refl _ _
      | apply TouchesO.next
      | apply Touches.op (State.postEvent_touches _ _ _)
      | apply Touches.op (State.hostErr_touches _ _)
      | apply Touches.op (State.event_touches _ _ _)
      | apply Touches.op (State.count_touches _ _ _)
      | apply Touches.op (hf _)
      | split

theorem execSqTailDoorbell_touches (fn q value : Nat) (s : State) : TouchesO [.regs, .host, .out, .free] s (execSqTailDoorbell fn q
    value s) := by
  unfold execSqTailDoorbell
  with_reducible
    repeat' first
      | (apply Zone.within; decide)
      | exact Touches.refl _ _
      | intro x
      | apply TouchesO.next
      | apply State.queueError_touches
      | apply Touches.op (State.setSq_touches _ _ _)
      | split

theorem execCqHeadDoorbell_touches (fn q value : Nat) (s : State) : TouchesO [.regs, .host, .out, .free] s (execCqHeadDoorbell fn q
    value s) := by
  unfold execCqHeadDoorbell
  with_reducible
    repeat' first
      | (apply Zone.within; decide)
      | exact Touches.refl _ _
      | intro x
      | apply TouchesO.next
      | apply State.queueError_touches
      | apply Touches.op (State.cqDrain_touches _ _ _ _)
      | apply Touches.op (State.setCq_touches _ _ _)
      | extract_lets
      | split

theorem execDmaTimeout_touches (h : HostHdr) (s : State) : TouchesO [.regs, .work, .host, .out] s (execDmaTimeout h s) := by
  unfold execDmaTimeout
  with_reducible
    repeat' first
      | (apply Zone.within; decide)
      | exact Touches.refl _ _
      | apply TouchesO.next
      | apply Touches.op (State.countPoliced_touches _ _)
      | apply Touches.op (TouchesE.app (State.vfAdmit_touches _ _) (by assumption))
      | apply Touches.op (TouchesP.app (State.fetch_touches _ _ _) (by assumption))
      | apply Touches.op (State.completeSt_touches _ _ _)
      | apply Touches.op (State.event_touches _ _ _)
      | apply Touches.op (State.count_touches _ _ _)
      | extract_lets
      | split

theorem execCxlLinkTrain_touches (width rate : Nat) (s : State) : TouchesO [.regs, .host, .out] s (execCxlLinkTrain width rate s) := by
  unfold execCxlLinkTrain
  with_reducible
    repeat' first
      | (apply Zone.within; decide)
      | exact Touches.refl _ _
      | (apply Zone.rest; intro p hp; cases p <;> first | exact absurd (by decide) hp | exact rfl)
      | apply TouchesO.next
      | apply Touches.op (State.postEvent_touches _ _ _)
      | apply Touches.op (State.event_touches _ _ _)
      | apply Touches.op (State.setFld_touches _ _ _)
      | extract_lets
      | split
      | apply Touches.leaf (Eq.refl _)

theorem execHdmCommit_touches (s : State) : TouchesO [.regs] s (execHdmCommit s) := by
  unfold execHdmCommit
  with_reducible
    repeat' first
      | (apply Zone.within; decide)
      | exact Touches.refl _ _
      | apply State.whenServing_touches
      | apply Touches.op (State.setFld_touches _ _ _)
      | extract_lets
      | split

theorem execCxlMemRead_touches (offset : Nat) (ecc : Ecc) (s : State) : TouchesO [.regs, .mem, .tables, .chk, .host, .out] s
    (execCxlMemRead offset ecc s) := by
  unfold execCxlMemRead
  with_reducible
    repeat' first
      | (apply Zone.within; decide)
      | exact Touches.refl _ _
      | apply Touches.op (State.tier_touches _ _ _)
      | apply Touches.op (State.cper_touches _ _)
      | apply State.onlyIf_touches
      | apply Touches.op (State.hbmPoisonLines_touches _ _)
      | apply Touches.op (State.emit_touches _ _)
      | extract_lets
      | split

theorem execCxlMemWrite_touches (offset : Nat) (bytes : List (Option Byte)) (s : State) : TouchesO [.mem] s (execCxlMemWrite offset
    bytes s) := by
  unfold execCxlMemWrite
  with_reducible
    repeat' first
      | (apply Zone.within; decide)
      | exact Touches.refl _ _
      | intro x
      | apply Touches.op (State.recheck_touches _ _ _)
      | apply State.onlyIf_touches
      | apply Touches.op (State.ilvWrite_touches _ _ _)
      | apply Touches.each
      | extract_lets
      | split

/-! ## Mgmt -/

theorem State.onMgmt_touches {T : List Zone} (s : State) (f : State → Outcome) (hT : Zone.Within ([] : List Zone) T) (hf : ∀ (x0 :
    State), TouchesO T x0 (f x0)) : TouchesO T s (State.onMgmt s f) := by
  unfold State.onMgmt
  with_reducible
    repeat' first
      | first | exact hT | exact Zone.Within.refl _ | exact Zone.Within.trans (Zone.within (by decide)) hT
      | exact Touches.refl _ _
      | apply TouchesO.next
      | apply TouchesO.op (hf _)
      | split

theorem State.mgmtSay_touches (s : State) (kind mseq : Nat) (st : Status) (payload : List Byte) : Touches [.out] s (State.mgmtSay s kind
    mseq st payload) := by
  unfold State.mgmtSay
  with_reducible
    repeat' first
      | (apply Zone.within; decide)
      | exact Touches.refl _ _
      | apply Touches.op (State.emit_touches _ _)

theorem execRegread_touches (mseq addr par : Nat) (s : State) : TouchesO [.regs, .chk, .host, .out, .free] s (execRegread mseq addr par
    s) := by
  unfold execRegread
  with_reducible
    repeat' first
      | (apply Zone.within; decide)
      | exact Touches.refl _ _
      | intro x
      | apply TouchesO.next
      | apply Touches.op (State.mgmtSay_touches _ _ _ _ _)
      | apply State.onMgmt_touches
      | apply State.ctlPath_touches
      | apply Touches.op (State.hostErr_touches _ _)
      | extract_lets
      | split

theorem execRegwrite_touches (mseq addr : Nat) (x : W32) (par : Nat) (s : State) : TouchesO [.regs, .stagedW, .work, .nbu, .fab, .cas,
    .chk, .host, .out, .free] s (execRegwrite mseq addr x par s) := by
  unfold execRegwrite
  with_reducible
    repeat' first
      | (apply Zone.within; decide)
      | exact Touches.refl _ _
      | intro x
      | apply TouchesO.next
      | apply Touches.op (State.mgmtSay_touches _ _ _ _ _)
      | apply State.onMgmt_touches
      | apply State.ctlPath_touches
      | apply TouchesO.op (State.busWrite_touches _ _ _ _)
      | apply Touches.op (TouchesO.app (State.ctlPath_touches (T := [.regs, .stagedW, .work, .nbu, .fab, .cas, .chk, .host, .out, .free]) _ _ _
          _ (by decide) (fun u => TouchesO.next (Touches.refl _ _)) (fun u => TouchesO.op (State.busWrite_touches _ _ _ _) (by decide)
          (Touches.refl _ _))) (by assumption))
      | extract_lets
      | split

theorem execHealth_touches (mseq : Nat) (s : State) : TouchesO [.out] s (execHealth mseq s) := by
  unfold execHealth
  with_reducible
    repeat' first
      | (apply Zone.within; decide)
      | exact Touches.refl _ _
      | intro x
      | apply TouchesO.next
      | apply Touches.op (State.mgmtSay_touches _ _ _ _ _)
      | apply State.onMgmt_touches

theorem execHealthInterval_touches (s : State) : TouchesO [.out] s (execHealthInterval s) := by
  unfold execHealthInterval
  with_reducible
    repeat' first
      | (apply Zone.within; decide)
      | exact Touches.refl _ _
      | intro x
      | apply TouchesO.next
      | apply Touches.op (State.mgmtSay_touches _ _ _ _ _)
      | apply State.onMgmt_touches
      | extract_lets
      | split

theorem execCperread_touches (mseq : Nat) (s : State) : TouchesO [.chk, .out] s (execCperread mseq s) := by
  unfold execCperread
  with_reducible
    repeat' first
      | (apply Zone.within; decide)
      | exact Touches.refl _ _
      | (apply Zone.rest; intro p hp; cases p <;> first | exact absurd (by decide) hp | exact rfl)
      | intro x
      | apply TouchesO.next
      | apply Touches.op (State.mgmtSay_touches _ _ _ _ _)
      | apply State.onMgmt_touches
      | extract_lets
      | split
      | apply Touches.leaf (Eq.refl _)

theorem execStandby_touches (mseq : Nat) (s : State) : TouchesO [.regs, .mgmt, .out] s (execStandby mseq s) := by
  unfold execStandby
  with_reducible
    repeat' first
      | (apply Zone.within; decide)
      | exact Touches.refl _ _
      | (apply Zone.rest; intro p hp; cases p <;> first | exact absurd (by decide) hp | exact rfl)
      | intro x
      | apply TouchesO.next
      | apply Touches.op (State.mgmtSay_touches _ _ _ _ _)
      | apply State.onMgmt_touches
      | apply Touches.op (State.event_touches _ _ _)
      | extract_lets
      | split
      | apply Touches.leaf (Eq.refl _)

theorem execWake_touches (mseq : Nat) (s : State) : TouchesO [.pwr, .boot, .regs, .stagedW, .mem, .alloc, .idx, .work, .nbu, .comp,
    .tables, .flash, .fab, .cas, .chk, .nrg, .host, .mgmt, .uptime, .out] s (execWake mseq s) := by
  unfold execWake
  with_reducible
    repeat' first
      | (apply Zone.within; decide)
      | exact Touches.refl _ _
      | (apply Zone.rest; intro p hp; cases p <;> first | exact absurd (by decide) hp | exact rfl)
      | intro x
      | apply TouchesO.next
      | apply Touches.op (State.mgmtSay_touches _ _ _ _ _)
      | apply State.onMgmt_touches
      | apply Touches.op (State.restart_touches _ _ _)
      | extract_lets
      | split
      | apply Touches.leaf (Eq.refl _)

theorem execRecover_touches (mseq : Nat) (s : State) : TouchesO [.pwr, .boot, .regs, .stagedW, .mem, .alloc, .idx, .work, .nbu, .comp,
    .tables, .flash, .fab, .cas, .chk, .nrg, .host, .mgmt, .uptime, .out] s (execRecover mseq s) := by
  unfold execRecover
  with_reducible
    repeat' first
      | (apply Zone.within; decide)
      | exact Touches.refl _ _
      | (apply Zone.rest; intro p hp; cases p <;> first | exact absurd (by decide) hp | exact rfl)
      | intro x
      | apply TouchesO.next
      | apply Touches.op (State.mgmtSay_touches _ _ _ _ _)
      | apply State.onMgmt_touches
      | apply Touches.op (State.flushBegin_touches _ _)
      | apply Touches.op (State.enterRecovery_touches _ _)
      | extract_lets
      | split
      | apply Touches.leaf (Eq.refl _)

theorem execReset_touches (_mseq : Nat) (s : State) : TouchesO [.pwr, .boot, .regs, .stagedW, .mem, .alloc, .idx, .work, .nbu, .comp,
    .tables, .flash, .fab, .cas, .chk, .nrg, .host, .mgmt, .uptime, .out] s (execReset _mseq s) := by
  unfold execReset
  with_reducible
    repeat' first
      | (apply Zone.within; decide)
      | exact Touches.refl _ _
      | intro x
      | apply TouchesO.next
      | apply State.onMgmt_touches
      | apply Touches.op (State.resetNode_touches _ _)
      | apply Touches.op (State.restart_touches _ _ _)
      | extract_lets
      | split

theorem State.onBootFlash_touches {T : List Zone} (s : State) (kind mseq : Nat) (ok : Bool) (f : State → State) (hT : Zone.Within
    ([.out] : List Zone) T) (hf : ∀ (x0 : State), Touches T x0 (f x0)) : TouchesO T s (State.onBootFlash s kind mseq ok f) := by
  unfold State.onBootFlash
  with_reducible
    repeat' first
      | first | exact hT | exact Zone.Within.refl _ | exact Zone.Within.trans (Zone.within (by decide)) hT
      | exact Touches.refl _ _
      | intro x
      | apply TouchesO.next
      | apply Touches.op (State.mgmtSay_touches _ _ _ _ _)
      | apply State.onMgmt_touches
      | apply Touches.op (hf _)
      | extract_lets
      | split

theorem execFlashread_touches (mseq addr len : Nat) (s : State) : TouchesO [.out] s (execFlashread mseq addr len s) := by
  unfold execFlashread
  with_reducible
    repeat' first
      | (apply Zone.within; decide)
      | exact Touches.refl _ _
      | intro x
      | apply State.onBootFlash_touches
      | apply Touches.op (State.mgmtSay_touches _ _ _ _ _)

theorem execFlasherase_touches (mseq addr : Nat) (s : State) : TouchesO [.boot, .out] s (execFlasherase mseq addr s) := by
  unfold execFlasherase
  with_reducible
    repeat' first
      | (apply Zone.within; decide)
      | exact Touches.refl _ _
      | (apply Zone.rest; intro p hp; cases p <;> first | exact absurd (by decide) hp | exact rfl)
      | intro x
      | apply State.onBootFlash_touches
      | apply Touches.op (State.mgmtSay_touches _ _ _ _ _)
      | extract_lets
      | apply Touches.leaf (Eq.refl _)

theorem State.bootByte_touches (s : State) (a : Nat) (b : Byte) : Touches [.boot, .free] s (State.bootByte s a b) := by
  unfold State.bootByte
  with_reducible
    repeat' first
      | (apply Zone.within; decide)
      | exact Touches.refl _ _
      | (apply Zone.rest; intro p hp; cases p <;> first | exact absurd (by decide) hp | exact rfl)
      | apply Touches.op (State.drawFree_touches _)
      | extract_lets
      | split
      | apply Touches.leaf (Eq.refl _)

theorem execFlashwrite_touches (mseq addr : Nat) (data : List Byte) (s : State) : TouchesO [.boot, .out, .free] s (execFlashwrite mseq
    addr data s) := by
  unfold execFlashwrite
  with_reducible
    repeat' first
      | (apply Zone.within; decide)
      | exact Touches.refl _ _
      | intro x
      | apply Touches.op (State.bootByte_touches _ _ _)
      | apply State.onBootFlash_touches
      | apply Touches.op (State.mgmtSay_touches _ _ _ _ _)
      | apply Touches.each

theorem execArbcommit_touches (mseq : Nat) (s : State) : TouchesO [.hw, .regs, .out] s (execArbcommit mseq s) := by
  unfold execArbcommit
  with_reducible
    repeat' first
      | (apply Zone.within; decide)
      | exact Touches.refl _ _
      | (apply Zone.rest; intro p hp; cases p <;> first | exact absurd (by decide) hp | exact rfl)
      | intro x
      | apply TouchesO.next
      | apply Touches.op (State.mgmtSay_touches _ _ _ _ _)
      | apply State.onMgmt_touches
      | apply Touches.op (State.event_touches _ _ _)
      | apply Touches.op (State.setFld_touches _ _ _)
      | extract_lets
      | split
      | apply Touches.leaf (Eq.refl _)

theorem execForeignMctpMessage_touches (s : State) : TouchesO [.regs] s (execForeignMctpMessage s) := by
  unfold execForeignMctpMessage
  with_reducible
    repeat' first
      | (apply Zone.within; decide)
      | exact Touches.refl _ _
      | intro x
      | apply TouchesO.next
      | apply State.onMgmt_touches
      | apply Touches.op (State.event_touches _ _ _)

theorem State.setSpdm_touches (s : State) (tr : SpdmTr) (x : Spdm) : Touches [.mgmt] s (State.setSpdm s tr x) := by
  unfold State.setSpdm
  with_reducible
    repeat' first
      | exact Touches.refl _ _
      | (apply Zone.rest; intro p hp; cases p <;> first | exact absurd (by decide) hp | exact rfl)
      | extract_lets
      | split
      | apply Touches.leaf (Eq.refl _)

theorem State.spdmSay_touches (s : State) (tr : SpdmTr) (x : Spdm) (req : List Byte) (code : Nat) (payload : List Byte) : Touches
    [.mgmt, .out] s (State.spdmSay s tr x req code payload) := by
  unfold State.spdmSay
  with_reducible
    repeat' first
      | (apply Zone.within; decide)
      | exact Touches.refl _ _
      | apply Touches.op (State.setSpdm_touches _ _ _)
      | apply Touches.op (State.emit_touches _ _)

theorem State.spdmErr_touches (s : State) (tr : SpdmTr) (code : Nat) : Touches [.out] s (State.spdmErr s tr code) := by
  unfold State.spdmErr
  with_reducible
    repeat' first
      | (apply Zone.within; decide)
      | exact Touches.refl _ _
      | apply Touches.op (State.emit_touches _ _)

theorem State.onSpdm_touches {T : List Zone} (s : State) (tr : SpdmTr) (need : Spdm → Bool) (f : Spdm → State) (hT : Zone.Within ([.out]
    : List Zone) T) (hf : ∀ (x0 : Spdm), Touches T s (f x0)) : TouchesO T s (State.onSpdm s tr need f) := by
  unfold State.onSpdm
  with_reducible
    repeat' first
      | first | exact hT | exact Zone.Within.refl _ | exact Zone.Within.trans (Zone.within (by decide)) hT
      | exact Touches.refl _ _
      | apply TouchesO.next
      | apply Touches.op (State.spdmErr_touches _ _ _)
      | apply Touches.op (hf _)
      | extract_lets
      | split

theorem execGetVersion_touches (tr : SpdmTr) (s : State) : TouchesO [.mgmt, .out] s (execGetVersion tr s) := by
  unfold execGetVersion
  with_reducible
    repeat' first
      | (apply Zone.within; decide)
      | exact Touches.refl _ _
      | intro x
      | apply State.onSpdm_touches
      | apply Touches.op (State.spdmSay_touches _ _ _ _ _ _)

theorem execGetCapabilities_touches (tr : SpdmTr) (s : State) : TouchesO [.mgmt, .out] s (execGetCapabilities tr s) := by
  unfold execGetCapabilities
  with_reducible
    repeat' first
      | (apply Zone.within; decide)
      | exact Touches.refl _ _
      | intro x
      | apply State.onSpdm_touches
      | apply Touches.op (State.spdmSay_touches _ _ _ _ _ _)

theorem execNegotiateAlgorithms_touches (tr : SpdmTr) (mldsa sha3 : Bool) (s : State) : TouchesO [.mgmt, .out] s
    (execNegotiateAlgorithms tr mldsa sha3 s) := by
  unfold execNegotiateAlgorithms
  with_reducible
    repeat' first
      | (apply Zone.within; decide)
      | exact Touches.refl _ _
      | intro x
      | apply State.onSpdm_touches
      | apply Touches.op (State.spdmErr_touches _ _ _)
      | apply Touches.op (State.spdmSay_touches _ _ _ _ _ _)
      | extract_lets
      | split

theorem execGetDigests_touches (tr : SpdmTr) (s : State) : TouchesO [.mgmt, .out] s (execGetDigests tr s) := by
  unfold execGetDigests
  with_reducible
    repeat' first
      | (apply Zone.within; decide)
      | exact Touches.refl _ _
      | intro x
      | apply State.onSpdm_touches
      | apply Touches.op (State.spdmSay_touches _ _ _ _ _ _)

theorem execGetCertificate_touches (tr : SpdmTr) (slot offset length : Nat) (s : State) : TouchesO [.mgmt, .out] s (execGetCertificate
    tr slot offset length s) := by
  unfold execGetCertificate
  with_reducible
    repeat' first
      | (apply Zone.within; decide)
      | exact Touches.refl _ _
      | intro x
      | apply State.onSpdm_touches
      | apply Touches.op (State.spdmErr_touches _ _ _)
      | apply Touches.op (State.spdmSay_touches _ _ _ _ _ _)
      | extract_lets
      | split

theorem execChallenge_touches (tr : SpdmTr) (slot : Nat) (nonce : List Byte) (s : State) : TouchesO [.mgmt, .out] s (execChallenge tr
    slot nonce s) := by
  unfold execChallenge
  with_reducible
    repeat' first
      | (apply Zone.within; decide)
      | exact Touches.refl _ _
      | intro x
      | apply State.onSpdm_touches
      | apply Touches.op (State.spdmErr_touches _ _ _)
      | apply Touches.op (State.spdmSay_touches _ _ _ _ _ _)
      | extract_lets
      | split

theorem execGetMeasurements_touches (tr : SpdmTr) (index : Nat) (sign : Bool) (nonce : List Byte) (s : State) : TouchesO [.mgmt, .out] s
    (execGetMeasurements tr index sign nonce s) := by
  unfold execGetMeasurements
  with_reducible
    repeat' first
      | (apply Zone.within; decide)
      | exact Touches.refl _ _
      | intro x
      | apply State.onSpdm_touches
      | apply Touches.op (State.spdmErr_touches _ _ _)
      | apply Touches.op (State.spdmSay_touches _ _ _ _ _ _)
      | extract_lets
      | split
      | dsimp +zetaDelta only

/-! ## MicroOps -/

theorem State.microOp_touches {T : List Zone} (s : State) (ch op : Nat) (e : UEnv) (f : State → Currant → Nat → State) (hT : Zone.Within
    ([.regs, .nbu, .out, .free] : List Zone) T) (hf : ∀ (x0 : State) (x1 : Currant) (x2 : Nat), Touches T x0 (f x0 x1 x2)) : TouchesO T
    s (State.microOp s ch op e f) := by
  unfold State.microOp
  with_reducible
    repeat' first
      | first | exact hT | exact Zone.Within.refl _ | exact Zone.Within.trans (Zone.within (by decide)) hT
      | exact Touches.refl _ _
      | intro x
      | apply State.onCh_touches
      | apply Touches.op (State.slotSet_touches _ _ _ _ _ _)
      | apply Touches.op (State.setCur_touches _ _ _)
      | apply Touches.op (State.hostErr_touches _ _)
      | apply Touches.op (State.count_touches _ _ _)
      | apply Touches.op (hf _ _ _)
      | extract_lets
      | split

theorem State.rowOp_touches {T : List Zone} (s : State) (ch row : Nat) (e : UEnv) (f : State → Currant → List Byte → List Bool → State)
    (hT : Zone.Within ([.regs, .alloc, .nbu, .chk, .host, .out, .free] : List Zone) T) (hf : ∀ (x0 : State) (x1 : Currant) (x2 : List
    Byte) (x3 : List Bool), Touches T x0 (f x0 x1 x2 x3)) {z : State} (hz : Touches T z s) : Touches T z (State.rowOp s ch row e f) :=
    by
  unfold State.rowOp
  with_reducible
    repeat' first
      | first | exact hT | exact Zone.Within.refl _ | exact Zone.Within.trans (Zone.within (by decide)) hT
      | assumption
      | apply Touches.op (State.eccNote_touches _ _ _ _)
      | apply Touches.op (State.countRowOps_touches _ _ _)
      | apply Touches.op (State.hostErr_touches _ _)
      | apply Touches.op (hf _ _ _ _)
      | extract_lets
      | split

theorem State.jumpTo_touches (s : State) (ch : Nat) (c : Currant) (a : Nat) : Touches [.nbu, .out, .free] s (State.jumpTo s ch c a) := by
  unfold State.jumpTo
  with_reducible
    repeat' first
      | (apply Zone.within; decide)
      | exact Touches.refl _ _
      | apply Touches.op (State.setCur_touches _ _ _)
      | apply Touches.op (State.hostErr_touches _ _)
      | extract_lets
      | split

theorem execUNop_touches (ch : Nat) (e : UEnv) (s : State) : TouchesO [.regs, .nbu, .out, .free] s (execUNop ch e s) := by
  unfold execUNop
  with_reducible
    repeat' first
      | (apply Zone.within; decide)
      | exact Touches.refl _ _
      | intro x
      | apply State.microOp_touches

theorem execULda_touches (ch : Nat) (e : UEnv) (s : State) : TouchesO [.regs, .nbu, .out, .free] s (execULda ch e s) := by
  unfold execULda
  with_reducible
    repeat' first
      | (apply Zone.within; decide)
      | exact Touches.refl _ _
      | intro x
      | apply State.microOp_touches
      | apply Touches.op (State.setCur_touches _ _ _)

theorem execUAdda_touches (ch : Nat) (e : UEnv) (s : State) : TouchesO [.regs, .nbu, .out, .free] s (execUAdda ch e s) := by
  unfold execUAdda
  with_reducible
    repeat' first
      | (apply Zone.within; decide)
      | exact Touches.refl _ _
      | intro x
      | apply State.microOp_touches
      | apply Touches.op (State.setCur_touches _ _ _)

theorem execULdc_touches (ch : Nat) (e : UEnv) (s : State) : TouchesO [.regs, .nbu, .out, .free] s (execULdc ch e s) := by
  unfold execULdc
  with_reducible
    repeat' first
      | (apply Zone.within; decide)
      | exact Touches.refl _ _
      | intro x
      | apply State.microOp_touches
      | apply Touches.op (State.setCur_touches _ _ _)

theorem execULoop_touches (ch : Nat) (e : UEnv) (s : State) : TouchesO [.regs, .nbu, .out, .free] s (execULoop ch e s) := by
  unfold execULoop
  with_reducible
    repeat' first
      | (apply Zone.within; decide)
      | exact Touches.refl _ _
      | intro x
      | apply Touches.op (State.jumpTo_touches _ _ _ _)
      | apply State.microOp_touches
      | apply Touches.op (State.setCur_touches _ _ _)
      | extract_lets
      | split

theorem execUJmp_touches (ch : Nat) (e : UEnv) (s : State) : TouchesO [.regs, .nbu, .out, .free] s (execUJmp ch e s) := by
  unfold execUJmp
  with_reducible
    repeat' first
      | (apply Zone.within; decide)
      | exact Touches.refl _ _
      | intro x
      | apply Touches.op (State.jumpTo_touches _ _ _ _)
      | apply State.microOp_touches

theorem execUSets_touches (ch : Nat) (e : UEnv) (s : State) : TouchesO [.regs, .nbu, .out, .free] s (execUSets ch e s) := by
  unfold execUSets
  with_reducible
    repeat' first
      | (apply Zone.within; decide)
      | exact Touches.refl _ _
      | intro x
      | apply State.microOp_touches
      | apply Touches.op (State.setCur_touches _ _ _)
      | apply Touches.op (State.hostErr_touches _ _)
      | extract_lets
      | split

theorem execURd_touches (ch : Nat) (e : UEnv) (s : State) : TouchesO [.regs, .alloc, .nbu, .chk, .host, .out, .free] s (execURd ch e s)
    := by
  unfold execURd
  with_reducible
    repeat' first
      | (apply Zone.within; decide)
      | exact Touches.refl _ _
      | intro x
      | apply State.rowOp_touches
      | apply State.microOp_touches
      | apply Touches.op (State.setCur_touches _ _ _)

theorem execUWr_touches (ch : Nat) (e : UEnv) (s : State) : TouchesO [.regs, .mem, .nbu, .out, .free] s (execUWr ch e s) := by
  unfold execUWr
  with_reducible
    repeat' first
      | (apply Zone.within; decide)
      | exact Touches.refl _ _
      | intro x
      | apply State.microOp_touches
      | apply Touches.op (State.rowWrite_touches _ _ _ _ _)
      | apply Touches.op (State.countRowOps_touches _ _ _)

theorem execUCopy_touches (ch : Nat) (e : UEnv) (s : State) : TouchesO [.regs, .mem, .alloc, .nbu, .chk, .host, .out, .free] s
    (execUCopy ch e s) := by
  unfold execUCopy
  with_reducible
    repeat' first
      | (apply Zone.within; decide)
      | exact Touches.refl _ _
      | intro x
      | apply State.rowOp_touches
      | apply State.microOp_touches
      | apply Touches.op (State.rowWrite_touches _ _ _ _ _)
      | apply Touches.op (State.countRowOps_touches _ _ _)

theorem execUInit_touches (ch : Nat) (e : UEnv) (s : State) : TouchesO [.regs, .mem, .nbu, .out, .free] s (execUInit ch e s) := by
  unfold execUInit
  with_reducible
    repeat' first
      | (apply Zone.within; decide)
      | exact Touches.refl _ _
      | intro x
      | apply State.microOp_touches
      | apply Touches.op (State.rowWrite_touches _ _ _ _ _)
      | apply Touches.op (State.countRowOps_touches _ _ _)
      | apply Touches.op (State.hostErr_touches _ _)
      | extract_lets
      | split

theorem execURdl_touches (ch : Nat) (e : UEnv) (s : State) : TouchesO [.regs, .alloc, .nbu, .chk, .host, .out, .free] s (execURdl ch e
    s) := by
  unfold execURdl
  with_reducible
    repeat' first
      | (apply Zone.within; decide)
      | exact Touches.refl _ _
      | intro x
      | apply State.microOp_touches
      | apply Touches.op (State.eccNote_touches _ _ _ _)
      | apply Touches.op (State.countRowOps_touches _ _ _)
      | apply Touches.op (State.setCur_touches _ _ _)
      | apply Touches.op (State.hostErr_touches _ _)
      | extract_lets
      | split

theorem State.bufOp_touches (s : State) (ch : Nat) (c : Currant) (w : Nat) (g : Byte → Byte → Byte) : Touches [.nbu] s (State.bufOp s ch
    c w g) := by
  unfold State.bufOp
  with_reducible
    repeat' first
      | (apply Zone.within; decide)
      | exact Touches.refl _ _
      | apply Touches.op (State.setCur_touches _ _ _)

theorem execUAnd_touches (ch : Nat) (e : UEnv) (s : State) : TouchesO [.regs, .nbu, .out, .free] s (execUAnd ch e s) := by
  unfold execUAnd
  with_reducible
    repeat' first
      | (apply Zone.within; decide)
      | exact Touches.refl _ _
      | intro x
      | apply Touches.op (State.bufOp_touches _ _ _ _ _)
      | apply State.microOp_touches

theorem execUOr_touches (ch : Nat) (e : UEnv) (s : State) : TouchesO [.regs, .nbu, .out, .free] s (execUOr ch e s) := by
  unfold execUOr
  with_reducible
    repeat' first
      | (apply Zone.within; decide)
      | exact Touches.refl _ _
      | intro x
      | apply Touches.op (State.bufOp_touches _ _ _ _ _)
      | apply State.microOp_touches

theorem execUXor_touches (ch : Nat) (e : UEnv) (s : State) : TouchesO [.regs, .nbu, .out, .free] s (execUXor ch e s) := by
  unfold execUXor
  with_reducible
    repeat' first
      | (apply Zone.within; decide)
      | exact Touches.refl _ _
      | intro x
      | apply Touches.op (State.bufOp_touches _ _ _ _ _)
      | apply State.microOp_touches

theorem execUAndnot_touches (ch : Nat) (e : UEnv) (s : State) : TouchesO [.regs, .nbu, .out, .free] s (execUAndnot ch e s) := by
  unfold execUAndnot
  with_reducible
    repeat' first
      | (apply Zone.within; decide)
      | exact Touches.refl _ _
      | intro x
      | apply Touches.op (State.bufOp_touches _ _ _ _ _)
      | apply State.microOp_touches

theorem execUNot_touches (ch : Nat) (e : UEnv) (s : State) : TouchesO [.regs, .nbu, .out, .free] s (execUNot ch e s) := by
  unfold execUNot
  with_reducible
    repeat' first
      | (apply Zone.within; decide)
      | exact Touches.refl _ _
      | intro x
      | apply State.microOp_touches
      | apply Touches.op (State.setCur_touches _ _ _)

theorem execUXpop_touches (ch : Nat) (e : UEnv) (s : State) : TouchesO [.regs, .alloc, .nbu, .chk, .host, .out, .free] s (execUXpop ch e
    s) := by
  unfold execUXpop
  with_reducible
    repeat' first
      | (apply Zone.within; decide)
      | exact Touches.refl _ _
      | intro x
      | apply State.rowOp_touches
      | apply State.microOp_touches
      | apply Touches.op (State.setCur_touches _ _ _)
      | apply Touches.op (State.count_touches _ _ _)

theorem execUMacv_touches (ch : Nat) (e : UEnv) (s : State) : TouchesO [.regs, .alloc, .nbu, .chk, .host, .out, .free] s (execUMacv ch e
    s) := by
  unfold execUMacv
  with_reducible
    repeat' first
      | (apply Zone.within; decide)
      | exact Touches.refl _ _
      | intro x
      | apply State.rowOp_touches
      | apply State.microOp_touches
      | apply Touches.op (State.setCur_touches _ _ _)
      | apply Touches.op (State.hostErr_touches _ _)
      | extract_lets
      | split

theorem execUQk_touches (ch : Nat) (e : UEnv) (s : State) : TouchesO [.regs, .alloc, .nbu, .chk, .host, .out, .free] s (execUQk ch e s)
    := by
  unfold execUQk
  with_reducible
    repeat' first
      | (apply Zone.within; decide)
      | exact Touches.refl _ _
      | intro x
      | apply State.rowOp_touches
      | apply State.microOp_touches
      | apply Touches.op (State.setCur_touches _ _ _)
      | apply Touches.op (State.hostErr_touches _ _)
      | extract_lets
      | split

theorem execUSmax_touches (ch : Nat) (e : UEnv) (s : State) : TouchesO [.regs, .nbu, .out, .free] s (execUSmax ch e s) := by
  unfold execUSmax
  with_reducible
    repeat' first
      | (apply Zone.within; decide)
      | exact Touches.refl _ _
      | intro x
      | apply State.microOp_touches
      | apply Touches.op (State.setCur_touches _ _ _)
      | apply Touches.op (State.hostErr_touches _ _)
      | extract_lets
      | split

theorem execUAv_touches (ch : Nat) (e : UEnv) (s : State) : TouchesO [.regs, .alloc, .nbu, .chk, .host, .out, .free] s (execUAv ch e s)
    := by
  unfold execUAv
  with_reducible
    repeat' first
      | (apply Zone.within; decide)
      | exact Touches.refl _ _
      | intro x
      | apply State.rowOp_touches
      | apply State.microOp_touches
      | apply Touches.op (State.setCur_touches _ _ _)
      | apply Touches.op (State.hostErr_touches _ _)
      | extract_lets
      | split

theorem execUOnorm_touches (ch : Nat) (e : UEnv) (s : State) : TouchesO [.regs, .nbu, .out, .free] s (execUOnorm ch e s) := by
  unfold execUOnorm
  with_reducible
    repeat' first
      | (apply Zone.within; decide)
      | exact Touches.refl _ _
      | intro x
      | apply State.microOp_touches
      | apply Touches.op (State.setCur_touches _ _ _)
      | apply Touches.op (State.hostErr_touches _ _)
      | extract_lets
      | split

theorem execUAccw_touches (ch : Nat) (e : UEnv) (s : State) : TouchesO [.regs, .mem, .nbu, .out, .free] s (execUAccw ch e s) := by
  unfold execUAccw
  with_reducible
    repeat' first
      | (apply Zone.within; decide)
      | exact Touches.refl _ _
      | intro x
      | apply State.microOp_touches
      | apply Touches.op (State.rowWrite_touches _ _ _ _ _)
      | apply Touches.op (State.countRowOps_touches _ _ _)
      | apply Touches.op (State.setCur_touches _ _ _)

theorem execUVld_touches (ch : Nat) (e : UEnv) (s : State) : TouchesO [.regs, .alloc, .nbu, .chk, .host, .out, .free] s (execUVld ch e
    s) := by
  unfold execUVld
  with_reducible
    repeat' first
      | (apply Zone.within; decide)
      | exact Touches.refl _ _
      | intro x
      | apply State.rowOp_touches
      | apply State.microOp_touches
      | apply Touches.op (State.setCur_touches _ _ _)

theorem execUAclr_touches (ch : Nat) (e : UEnv) (s : State) : TouchesO [.regs, .nbu, .out, .free] s (execUAclr ch e s) := by
  unfold execUAclr
  with_reducible
    repeat' first
      | (apply Zone.within; decide)
      | exact Touches.refl _ _
      | intro x
      | apply State.microOp_touches
      | apply Touches.op (State.setCur_touches _ _ _)

theorem execUSignal_touches (ch : Nat) (e : UEnv) (s : State) : TouchesO [.regs, .nbu, .out, .free] s (execUSignal ch e s) := by
  unfold execUSignal
  with_reducible
    repeat' first
      | (apply Zone.within; decide)
      | exact Touches.refl _ _
      | intro x
      | apply State.microOp_touches
      | apply Touches.op (State.emit_touches _ _)

theorem State.entryRead_touches (s : State) (ch : Nat) (x : HeapEnt) (e : Ecc) : Touches [.regs, .alloc, .nbu, .chk, .host, .out, .free]
    s (State.entryRead s ch x e).1 := by
  unfold State.entryRead
  repeat' split
  all_goals with_reducible
    repeat' first
      | (apply Zone.within; decide)
      | exact Touches.refl _ _
      | apply Touches.op (State.eccNote_touches _ _ _ _)
      | apply Touches.op (State.hostErr_touches _ _)
      | extract_lets
      | split

theorem State.heapOut_touches (s : State) (ch : Nat) (c : Currant) (es : List Ecc) : Touches [.regs, .alloc, .nbu, .chk, .host, .out,
    .free] s (State.heapOut s ch c es) := by
  unfold State.heapOut
  with_reducible
    repeat' first
      | (apply Zone.within; decide)
      | exact Touches.refl _ _
      | intro x
      | apply Touches.op (State.entryRead_touches _ _ _ _)
      | apply Touches.op (State.setCur_touches _ _ _)
      | apply Touches.op (State.emit_touches _ _)
      | apply Touches.op (State.count_touches _ _ _)
      | apply Touches.foldl1
      | extract_lets
      | split

theorem execUEnd_touches (ch : Nat) (e : UEnv) (s : State) : TouchesO [.regs, .alloc, .work, .nbu, .chk, .host, .out, .free] s (execUEnd
    ch e s) := by
  unfold execUEnd
  with_reducible
    repeat' first
      | (apply Zone.within; decide)
      | exact Touches.refl _ _
      | intro x
      | apply Touches.op (State.heapOut_touches _ _ _ _)
      | apply State.microOp_touches
      | apply Touches.op (State.slotEnd_touches _ _ _)
      | extract_lets
      | split

/-! ## Owner -/

theorem State.setOwner_touches (s : State) (o : Owner) : Touches [.cas] s (State.setOwner s o) := by
  unfold State.setOwner
  with_reducible
    repeat' first
      | exact Touches.refl _ _
      | (apply Zone.rest; intro p hp; cases p <;> first | exact absurd (by decide) hp | exact rfl)
      | extract_lets
      | apply Touches.leaf (Eq.refl _)

theorem State.endQuery_touches (s : State) (sid : Nat) : Touches [.cas] s (State.endQuery s sid) := by
  unfold State.endQuery
  with_reducible
    repeat' first
      | exact Touches.refl _ _
      | (apply Zone.rest; intro p hp; cases p <;> first | exact absurd (by decide) hp | exact rfl)
      | extract_lets
      | apply Touches.leaf (Eq.refl _)

theorem State.sendOwner_touches (s : State) (node epoch : Nat) (st : Status) (body : List Byte) : Touches [.fab] s (State.sendOwner s
    node epoch st body) := by
  unfold State.sendOwner
  with_reducible
    repeat' first
      | (apply Zone.within; decide)
      | exact Touches.refl _ _
      | apply Touches.op (State.request_touches _ _ _ _ _ _ _)
      | split

theorem State.ownerReady_touches (s : State) : Touches [.regs, .work, .fab, .cas, .host, .out] s (State.ownerReady s) := by
  unfold State.ownerReady
  with_reducible
    repeat' first
      | (apply Zone.within; decide)
      | exact Touches.refl _ _
      | intro x
      | apply Touches.op (State.deliver_touches _ _ _ _ _)
      | apply Touches.op (TouchesE.app2 (State.leaseFor_touches _ _) (by assumption))
      | apply Touches.op (State.queueOn_touches _ _ _)
      | apply Touches.op (State.modReq_touches _ _ _)
      | apply Touches.foldl
      | extract_lets
      | split

theorem State.conflictEvent_touches (s : State) : Touches [.regs, .chk, .host, .out] s (State.conflictEvent s) := by
  unfold State.conflictEvent
  with_reducible
    repeat' first
      | (apply Zone.within; decide)
      | exact Touches.refl _ _
      | apply Touches.op (State.raise_touches _ _ _ _)

theorem State.assigned_touches (s : State) (sid keeper lepoch : Nat) : Touches [.regs, .work, .fab, .cas, .host, .out] s (State.assigned
    s sid keeper lepoch) := by
  unfold State.assigned
  extract_lets copy t asked from_ u z
  have ht : Touches [.regs, .work, .fab, .cas, .host, .out] s t := (State.setOwner_touches _ _).mono (by decide)
  have hu : Touches [.regs, .work, .fab, .cas, .host, .out] s u := Touches.op (State.endQuery_touches _ _) (by decide) ht
  have hr : Touches [.regs, .work, .fab, .cas, .host, .out] s (t.endQuery sid).ownerReady := Touches.op (State.ownerReady_touches _) (by decide) hu
  clear_value z u t from_
  split
  · exact Touches.op (State.ownerReady_touches _) (by decide) (Touches.op (State.endQuery_touches _ _) (by decide)
      ((State.setOwner_touches _ _).mono (by decide)))
  · split
    · exact hr
    · split
      · exact hr
      · refine Touches.op (State.sendOwner_touches _ _ _ _ _) (by decide) (Touches.trans hu (fun p hp => ?_))
        cases p <;> first | exact absurd (by decide) hp | exact rfl

theorem State.conflictAt_touches (s : State) (sid keeper reporter : Nat) : Touches [.regs, .work, .fab, .cas, .chk, .host, .out] s
    (State.conflictAt s sid keeper reporter) := by
  unfold State.conflictAt
  with_reducible
    repeat' first
      | (apply Zone.within; decide)
      | exact Touches.refl _ _
      | intro x
      | apply Touches.op (State.assigned_touches _ _ _ _)
      | apply Touches.op (State.conflictEvent_touches _)
      | apply Touches.op (State.sendOwner_touches _ _ _ _ _)
      | apply Touches.op (State.count_touches _ _ _)
      | apply Touches.foldl
      | extract_lets
      | split

theorem State.reportConflict_touches (s : State) (sid keeper : Nat) : Touches [.regs, .work, .fab, .cas, .chk, .host, .out] s
    (State.reportConflict s sid keeper) := by
  unfold State.reportConflict
  with_reducible
    repeat' first
      | (apply Zone.within; decide)
      | exact Touches.refl _ _
      | apply Touches.op (State.conflictAt_touches _ _ _ _)
      | apply Touches.op (State.request_touches _ _ _ _ _ _ _)
      | split

theorem State.settleQuery_touches (s : State) (q : OQuery) : Touches [.regs, .work, .fab, .cas, .chk, .host, .out] s (State.settleQuery
    s q) := by
  unfold State.settleQuery
  with_reducible
    repeat' first
      | (apply Zone.within; decide)
      | exact Touches.refl _ _
      | apply Touches.op (State.reportConflict_touches _ _ _)
      | apply Touches.op (State.ownerReady_touches _)
      | apply Touches.op (State.sendOwner_touches _ _ _ _ _)
      | apply Touches.op (State.endQuery_touches _ _)
      | apply Touches.op (State.setOwner_touches _ _)
      | extract_lets
      | split

theorem State.askOwner_touches (s : State) (o : ObjRef) : Touches [.fab, .cas] s (State.askOwner s o) := by
  unfold State.askOwner
  with_reducible
    repeat' first
      | (apply Zone.within; decide)
      | exact Touches.refl _ _
      | (apply Zone.rest; intro p hp; cases p <;> first | exact absurd (by decide) hp | exact rfl)
      | intro x
      | apply Touches.op (State.sendOwner_touches _ _ _ _ _)
      | apply Touches.op (State.setOwner_touches _ _)
      | apply Touches.foldl
      | extract_lets
      | split
      | apply Touches.leaf (Eq.refl _)

theorem execOwnerQuery_touches (m : Msg) (s : State) : TouchesO [.regs, .fab, .host, .out] s (execOwnerQuery m s) := by
  unfold execOwnerQuery
  with_reducible
    repeat' first
      | (apply Zone.within; decide)
      | exact Touches.refl _ _
      | intro x
      | apply Touches.op (State.sendOwner_touches _ _ _ _ _)
      | apply State.onSys_touches
      | extract_lets
      | split

theorem execOwnerAnswer_touches (m : Msg) (s : State) : TouchesO [.regs, .work, .fab, .cas, .chk, .host, .out] s (execOwnerAnswer m s)
    := by
  unfold execOwnerAnswer
  with_reducible
    repeat' first
      | (apply Zone.within; decide)
      | exact Touches.refl _ _
      | (apply Zone.rest; intro p hp; cases p <;> first | exact absurd (by decide) hp | exact rfl)
      | intro x
      | apply Touches.op (State.settleQuery_touches _ _)
      | apply Touches.op (State.ownerReady_touches _)
      | apply Touches.op (State.endQuery_touches _ _)
      | apply Touches.op (State.setOwner_touches _ _)
      | apply State.onSys_touches
      | apply Touches.elim
      | extract_lets
      | split
      | apply Touches.leaf (Eq.refl _)

theorem execOwnerAssign_touches (m : Msg) (s : State) : TouchesO [.regs, .work, .fab, .cas, .host, .out] s (execOwnerAssign m s) := by
  unfold execOwnerAssign
  with_reducible
    repeat' first
      | (apply Zone.within; decide)
      | exact Touches.refl _ _
      | intro x
      | apply Touches.op (State.assigned_touches _ _ _ _)
      | apply State.onSys_touches
      | extract_lets
      | split

theorem execOwnerDrop_touches (m : Msg) (s : State) : TouchesO [.regs, .work, .fab, .cas, .chk, .host, .out] s (execOwnerDrop m s) := by
  unfold execOwnerDrop
  with_reducible
    repeat' first
      | (apply Zone.within; decide)
      | exact Touches.refl _ _
      | (apply Zone.rest; intro p hp; cases p <;> first | exact absurd (by decide) hp | exact rfl)
      | intro x
      | apply Touches.op (State.reportConflict_touches _ _ _)
      | apply State.onSys_touches
      | extract_lets
      | apply Touches.leaf (Eq.refl _)

theorem execOwnerFetch_touches (m : Msg) (s : State) : TouchesO [.regs, .fab, .cas, .host, .out] s (execOwnerFetch m s) := by
  unfold execOwnerFetch
  with_reducible
    repeat' first
      | (apply Zone.within; decide)
      | exact Touches.refl _ _
      | intro x
      | apply Touches.op (State.sendOwner_touches _ _ _ _ _)
      | apply Touches.op (State.setOwner_touches _ _)
      | apply State.onSys_touches
      | extract_lets
      | split

theorem execOwnerConflict_touches (m : Msg) (s : State) : TouchesO [.regs, .work, .fab, .cas, .chk, .host, .out] s (execOwnerConflict m
    s) := by
  unfold execOwnerConflict
  with_reducible
    repeat' first
      | (apply Zone.within; decide)
      | exact Touches.refl _ _
      | intro x
      | apply Touches.op (State.conflictAt_touches _ _ _ _)
      | apply State.onSys_touches
      | extract_lets
      | split

/-! ## Pustan -/

theorem State.onMsg_touches {T : List Zone} (s : State) (m : Msg) (t : Nat) (f : State → Conn → State) (hT : Zone.Within ([.fab] : List
    Zone) T) (hf : ∀ (x0 : State) (x1 : Conn), Touches T x0 (f x0 x1)) : TouchesO T s (State.onMsg s m t f) := by
  unfold State.onMsg
  with_reducible
    repeat' first
      | first | exact hT | exact Zone.Within.refl _ | exact Zone.Within.trans (Zone.within (by decide)) hT
      | exact Touches.refl _ _
      | apply TouchesO.next
      | apply Touches.op (State.unready_touches _ _)
      | apply Touches.op (hf _ _)
      | split

theorem execReply_touches (m : Msg) (s : State) : TouchesO [.fab, .cas] s (execReply m s) := by
  unfold execReply
  with_reducible
    repeat' first
      | (apply Zone.within; decide)
      | exact Touches.refl _ _
      | intro x
      | apply State.onMsg_touches
      | apply Touches.op (State.groupReply_touches _ _)
      | apply Touches.op (State.setConn_touches _ _ _)

theorem execAck_touches (m : Msg) (s : State) : TouchesO [.fab] s (execAck m s) := by
  unfold execAck
  with_reducible
    repeat' first
      | (apply Zone.within; decide)
      | exact Touches.refl _ _
      | intro x
      | apply State.onMsg_touches
      | apply Touches.op (State.setConn_touches _ _ _)

theorem execNak_touches (m : Msg) (s : State) : TouchesO [.regs, .work, .fab, .cas, .chk, .host, .out] s (execNak m s) := by
  unfold execNak
  with_reducible
    repeat' first
      | (apply Zone.within; decide)
      | exact Touches.refl _ _
      | intro x
      | apply State.onMsg_touches
      | apply Touches.op (State.resend_touches _ _ _)
      | apply Touches.op (State.failPart_touches _ _ _ _)
      | apply Touches.op (State.setConn_touches _ _ _)
      | extract_lets
      | split

theorem execXrdy_touches (m : Msg) (s : State) : TouchesO [.fab] s (execXrdy m s) := by
  unfold execXrdy
  with_reducible
    repeat' first
      | (apply Zone.within; decide)
      | exact Touches.refl _ _
      | intro x
      | apply State.onMsg_touches
      | apply Touches.op (State.sendMsg_touches _ _ _)
      | apply Touches.op (State.setConn_touches _ _ _)
      | extract_lets
      | split

theorem execRdata_touches (m : Msg) (s : State) : TouchesO [.regs, .mem, .alloc, .work, .nbu, .comp, .tables, .flash, .fab, .cas, .chk,
    .nrg, .host, .out, .free] s (execRdata m s) := by
  unfold execRdata
  with_reducible
    repeat' first
      | (apply Zone.within; decide)
      | exact Touches.refl _ _
      | intro x
      | apply State.onMsg_touches
      | apply Touches.op (State.landFill_touches _ _ _ _ _ _ _ _)
      | apply Touches.op (State.cvmisAdd_touches _ _)
      | apply Touches.op (State.setConn_touches _ _ _)
      | extract_lets
      | split

theorem execFlushed_touches (m : Msg) (s : State) : TouchesO [.fab] s (execFlushed m s) := by
  unfold execFlushed
  with_reducible
    repeat' first
      | (apply Zone.within; decide)
      | exact Touches.refl _ _
      | intro x
      | apply State.onMsg_touches
      | apply Touches.op (State.setConn_touches _ _ _)

theorem execAbortrep_touches (m : Msg) (s : State) : TouchesO [.fab] s (execAbortrep m s) := by
  unfold execAbortrep
  with_reducible
    repeat' first
      | (apply Zone.within; decide)
      | exact Touches.refl _ _
      | intro x
      | apply State.onMsg_touches

theorem execPong_touches (m : Msg) (s : State) : TouchesO [.fab] s (execPong m s) := by
  unfold execPong
  with_reducible
    repeat' first
      | (apply Zone.within; decide)
      | exact Touches.refl _ _
      | intro x
      | apply State.onMsg_touches

theorem execPing_touches (m : Msg) (s : State) : TouchesO [.fab] s (execPing m s) := by
  unfold execPing
  with_reducible
    repeat' first
      | (apply Zone.within; decide)
      | exact Touches.refl _ _
      | intro x
      | apply State.onMsg_touches
      | apply Touches.op (State.answer_touches _ _ _ _ _ _)

theorem State.placePart_touches (s : State) (conn : Nat) (b : PostBuf) (off : Nat) (bs : List Byte) (pois : List Bool) : Touches [.mem,
    .fab, .out] s (State.placePart s conn b off bs pois) := by
  unfold State.placePart
  with_reducible
    repeat' first
      | (apply Zone.within; decide)
      | exact Touches.refl _ _
      | apply Touches.op (State.noteHost_touches _ _ _)
      | apply Touches.op (State.regionWrite_touches _ _ _ _ _)
      | split

theorem State.planFilled_touches (s : State) (p : PostedBy) (body : List Byte) : Touches [.regs, .mem, .alloc, .work, .nbu, .comp,
    .tables, .flash, .fab, .cas, .chk, .nrg, .host, .out, .free] s (State.planFilled s p body) := by
  unfold State.planFilled
  with_reducible
    repeat' first
      | (apply Zone.within; decide)
      | exact Touches.refl _ _
      | apply Touches.op (State.goOn_touches _ _)
      | apply Touches.op (State.land_touches _ _ _ _ _)
      | split

theorem State.reportFilled_touches (s : State) (c : Conn) (b : PostBuf) (body : List Byte) : Touches [.regs, .mem, .alloc, .work, .nbu,
    .comp, .tables, .flash, .fab, .cas, .chk, .nrg, .host, .out, .free] s (State.reportFilled s c b body) := by
  unfold State.reportFilled
  with_reducible
    repeat' first
      | (apply Zone.within; decide)
      | exact Touches.refl _ _
      | apply Touches.op (State.planFilled_touches _ _ _)
      | apply Touches.op (State.connEvent_touches _ _ _ _)
      | split

theorem State.sendDone_touches (s : State) (m : Msg) (b : PostBuf) (n : Nat) : Touches [.regs, .mem, .alloc, .work, .nbu, .comp,
    .tables, .flash, .fab, .cas, .chk, .nrg, .host, .out, .free] s (State.sendDone s m b n) := by
  unfold State.sendDone
  with_reducible
    repeat' first
      | (apply Zone.within; decide)
      | exact Touches.refl _ _
      | apply Touches.op (State.reportFilled_touches _ _ _ _)
      | apply Touches.op (State.settleRegions_touches _)
      | apply Touches.op (State.passOn_touches _ _)
      | apply Touches.op (State.doneMsg_touches _ _)
      | apply Touches.op (State.modConn_touches _ _ _)
      | extract_lets
      | split

theorem State.deliverSend_touches (s : State) (m : Msg) (b : PostBuf) (bs : List Byte) (pois : List Bool) : Touches [.regs, .mem,
    .alloc, .work, .nbu, .comp, .tables, .flash, .fab, .cas, .chk, .nrg, .host, .out, .free] s (State.deliverSend s m b bs pois) := by
  unfold State.deliverSend
  with_reducible
    repeat' first
      | (apply Zone.within; decide)
      | exact Touches.refl _ _
      | apply Touches.op (State.sendDone_touches _ _ _ _)
      | apply Touches.op (State.placePart_touches _ _ _ _ _ _)

theorem State.dataOf_touches (s : State) (c : Conn) (bs : List Byte) : Touches [.regs] s (State.dataOf s c bs).2.2 := by
  unfold State.dataOf
  repeat' split
  all_goals with_reducible
    repeat' first
      | (apply Zone.within; decide)
      | exact Touches.refl _ _
      | apply Touches.op (State.cvmisAdd_touches _ _)

theorem execSend_touches (m : Msg) (s : State) : TouchesO [.regs, .mem, .alloc, .work, .nbu, .comp, .tables, .flash, .fab, .cas, .chk,
    .nrg, .host, .out, .free] s (execSend m s) := by
  unfold execSend
  with_reducible
    repeat' first
      | (apply Zone.within; decide)
      | exact Touches.refl _ _
      | intro x
      | apply Touches.op (State.dataOf_touches _ _ _)
      | apply Touches.op (State.deliverSend_touches _ _ _ _ _)
      | apply State.onMsg_touches
      | apply Touches.op (State.resFault_touches _ _ _ _)
      | apply Touches.op (State.refuseOn_touches _ _ _)
      | apply Touches.op (State.passOn_touches _ _)
      | apply Touches.op (State.sendXrdy_touches _ _ _ _)
      | apply Touches.op (State.setWait_touches _ _ _)
      | apply Touches.op (State.nak_touches _ _ _)
      | apply Touches.op (State.modConn_touches _ _ _)
      | extract_lets
      | split

theorem State.bulkIn_touches (s : State) (c : Conn) (i : Inflight) (buf : Nat) (b : StBuf) (z : Tbl Bool) (bs : List Byte) : Touches
    [.regs, .fab, .host, .out] s (State.bulkIn s c i buf b z bs) := by
  unfold State.bulkIn
  with_reducible
    repeat' first
      | (apply Zone.within; decide)
      | exact Touches.refl _ _
      | (apply Zone.rest; intro p hp; cases p <;> first | exact absurd (by decide) hp | exact rfl)
      | apply Touches.op (State.dataOf_touches _ _ _)
      | apply Touches.op (State.setWait_touches _ _ _)
      | apply Touches.op (State.readyUp_touches _ _)
      | apply Touches.op (State.replyTo_touches _ _ _ _)
      | extract_lets
      | split
      | apply Touches.leaf (Eq.refl _)

theorem State.dataStaging_touches (s : State) (m : Msg) (c : Conn) (i : Inflight) (buf : Nat) (b : StBuf) : Touches [.regs, .fab, .host,
    .out] s (State.dataStaging s m c i buf b) := by
  unfold State.dataStaging
  with_reducible
    repeat' first
      | (apply Zone.within; decide)
      | exact Touches.refl _ _
      | (apply Zone.rest; intro p hp; cases p <;> first | exact absurd (by decide) hp | exact rfl)
      | apply Touches.op (State.bulkIn_touches _ _ _ _ _ _ _)
      | apply Touches.op (State.nak_touches _ _ _)
      | apply Touches.op (State.count_touches _ _ _)
      | extract_lets
      | split
      | apply Touches.leaf (Eq.refl _)

theorem State.dataPosted_touches (s : State) (m : Msg) (c : Conn) (i : Inflight) (b : PostBuf) : Touches [.regs, .mem, .alloc, .work,
    .nbu, .comp, .tables, .flash, .fab, .cas, .chk, .nrg, .host, .out, .free] s (State.dataPosted s m c i b) := by
  unfold State.dataPosted
  with_reducible
    repeat' first
      | (apply Zone.within; decide)
      | exact Touches.refl _ _
      | apply Touches.op (State.dataOf_touches _ _ _)
      | apply Touches.op (State.deliverSend_touches _ _ _ _ _)
      | apply Touches.op (State.sendDone_touches _ _ _ _)
      | apply Touches.op (State.placePart_touches _ _ _ _ _ _)
      | apply Touches.op (State.nak_touches _ _ _)
      | apply Touches.op (State.modConn_touches _ _ _)
      | apply Touches.op (State.count_touches _ _ _)
      | extract_lets
      | split
      | dsimp +zetaDelta only

theorem execData_touches (m : Msg) (s : State) : TouchesO [.regs, .mem, .alloc, .work, .nbu, .comp, .tables, .flash, .fab, .cas, .chk,
    .nrg, .host, .out, .free] s (execData m s) := by
  unfold execData
  with_reducible
    repeat' first
      | (apply Zone.within; decide)
      | exact Touches.refl _ _
      | intro x
      | apply Touches.op (State.dataPosted_touches _ _ _ _ _)
      | apply Touches.op (State.dataStaging_touches _ _ _ _ _ _)
      | apply State.onMsg_touches
      | apply Touches.op (State.nak_touches _ _ _)
      | extract_lets
      | split

theorem State.onAccess_touches {T : List Zone} (s : State) (m : Msg) (c : Conn) (f : State → Access → State) (hT : Zone.Within ([.regs,
    .fab, .host, .out] : List Zone) T) (hf : ∀ (x0 : State) (x1 : Access), Touches T x0 (f x0 x1)) {z : State} (hz : Touches T z s) :
    Touches T z (State.onAccess s m c f) := by
  unfold State.onAccess
  with_reducible
    repeat' first
      | first | exact hT | exact Zone.Within.refl _ | exact Zone.Within.trans (Zone.within (by decide)) hT
      | assumption
      | apply Touches.op (State.unlock_touches _ _ _)
      | apply Touches.op (State.lockStep_touches _ _ _ _)
      | apply Touches.op (State.resFault_touches _ _ _ _)
      | apply Touches.op (State.refuseOn_touches _ _ _)
      | apply Touches.op (State.passOn_touches _ _)
      | apply Touches.op (hf _ _)
      | extract_lets
      | split

theorem execRead_touches (m : Msg) (host : List Byte) (err : Bool) (s : State) : TouchesO [.regs, .fab, .host, .out] s (execRead m host
    err s) := by
  unfold execRead
  with_reducible
    repeat' first
      | (apply Zone.within; decide)
      | exact Touches.refl _ _
      | intro x
      | apply State.onAccess_touches
      | apply State.onMsg_touches
      | apply Touches.op (State.unlockSent_touches _ _ _)
      | apply Touches.op (State.doneMsg_touches _ _)
      | apply Touches.op (State.answer_touches _ _ _ _ _ _)
      | apply Touches.op (State.emit_touches _ _)
      | extract_lets
      | split

theorem State.scatterIn_touches (s : State) (m : Msg) (c : Conn) : Touches [.regs, .fab, .cas, .host, .out] s (State.scatterIn s m c) :=
    by
  unfold State.scatterIn
  with_reducible
    repeat' first
      | (apply Zone.within; decide)
      | exact Touches.refl _ _
      | (apply Zone.rest; intro p hp; cases p <;> first | exact absurd (by decide) hp | exact rfl)
      | apply Touches.op (State.dataOf_touches _ _ _)
      | apply Touches.op (State.refuseOn_touches _ _ _)
      | apply Touches.op (State.passOn_touches _ _)
      | apply Touches.op (State.doneMsg_touches _ _)
      | extract_lets
      | split
      | apply Touches.leaf (Eq.refl _)

theorem State.snapIn_touches (s : State) (m : Msg) (c : Conn) : Touches [.regs, .mem, .alloc, .idx, .work, .tables, .flash, .fab, .chk,
    .host, .out] s (State.snapIn s m c) := by
  unfold State.snapIn
  with_reducible
    repeat' first
      | (apply Zone.within; decide)
      | exact Touches.refl _ _
      | apply Touches.op (State.dataOf_touches _ _ _)
      | apply Touches.op (TouchesP.app (State.snapPart_touches _ _ _) (by assumption))
      | apply Touches.op (State.refuseOn_touches _ _ _)
      | apply Touches.op (State.passOn_touches _ _)
      | apply Touches.op (State.readyUp_touches _ _)
      | apply Touches.op (State.doneMsg_touches _ _)
      | extract_lets
      | split

theorem execWrite_touches (m : Msg) (s : State) : TouchesO [.regs, .mem, .alloc, .idx, .work, .tables, .flash, .fab, .cas, .chk, .host,
    .out] s (execWrite m s) := by
  unfold execWrite
  with_reducible
    repeat' first
      | (apply Zone.within; decide)
      | exact Touches.refl _ _
      | intro x
      | apply Touches.op (State.snapIn_touches _ _ _)
      | apply Touches.op (State.scatterIn_touches _ _ _)
      | apply State.onAccess_touches
      | apply Touches.op (State.dataOf_touches _ _ _)
      | apply State.onMsg_touches
      | apply Touches.op (State.unlock_touches _ _ _)
      | apply Touches.op (State.noteHost_touches _ _ _)
      | apply Touches.op (State.regionWrite_touches _ _ _ _ _)
      | apply Touches.op (State.doneMsg_touches _ _)
      | extract_lets
      | split

theorem execFlush_touches (m : Msg) (err : Bool) (s : State) : TouchesO [.regs, .fab, .host, .out] s (execFlush m err s) := by
  unfold execFlush
  with_reducible
    repeat' first
      | (apply Zone.within; decide)
      | exact Touches.refl _ _
      | apply TouchesO.next
      | apply Touches.op (State.unready_touches _ _)
      | apply Touches.op (State.doneMsg_touches _ _)
      | apply Touches.op (State.answer_touches _ _ _ _ _ _)
      | apply Touches.op (State.setConn_touches _ _ _)
      | extract_lets
      | split

theorem execClose_touches (m : Msg) (s : State) : TouchesO [.regs, .fab, .host, .out] s (execClose m s) := by
  unfold execClose
  with_reducible
    repeat' first
      | (apply Zone.within; decide)
      | exact Touches.refl _ _
      | intro x
      | apply State.onMsg_touches
      | apply Touches.op (State.setWait_touches _ _ _)
      | apply Touches.op (State.drainConn_touches _ _)
      | apply Touches.op (State.setConn_touches _ _ _)

theorem execCloseack_touches (m : Msg) (s : State) : TouchesO [.regs, .fab, .host, .out] s (execCloseack m s) := by
  unfold execCloseack
  with_reducible
    repeat' first
      | (apply Zone.within; decide)
      | exact Touches.refl _ _
      | intro x
      | apply State.onMsg_touches
      | apply Touches.op (State.connClosed_touches _ _ _)
      | apply Touches.op (State.setConn_touches _ _ _)
      | extract_lets
      | split

/-! ## Register -/

theorem execRegisterWrite_touches (req : Requester) (a : Nat) (x : W32) (par : Nat) (s : State) : TouchesO [.regs, .stagedW, .work,
    .nbu, .fab, .cas, .chk, .host, .out, .free] s (execRegisterWrite req a x par s) := by
  unfold execRegisterWrite
  with_reducible
    repeat' first
      | (apply Zone.within; decide)
      | exact Touches.refl _ _
      | intro x
      | apply TouchesO.next
      | apply State.ctlPath_touches
      | apply TouchesO.op (State.busWrite_touches _ _ _ _)
      | split

theorem execSqClear_touches (req : Requester) (a : Nat) (x : W32) (par : Nat) (s : State) : TouchesO [.regs, .stagedW, .work, .nbu,
    .fab, .cas, .chk, .host, .out, .free] s (execSqClear req a x par s) := by
  unfold execSqClear
  with_reducible
    repeat' first
      | (apply Zone.within; decide)
      | exact Touches.refl _ _
      | intro x
      | apply TouchesO.next
      | apply State.ctlPath_touches
      | apply TouchesO.op (State.busWrite_touches _ _ _ _)
      | split

theorem execAliasSetWrite_touches (req : Requester) (a : Nat) (x : W32) (par : Nat) (s : State) : TouchesO [.regs, .stagedW, .work,
    .nbu, .fab, .cas, .chk, .host, .out, .free] s (execAliasSetWrite req a x par s) := by
  unfold execAliasSetWrite
  with_reducible
    repeat' first
      | (apply Zone.within; decide)
      | exact Touches.refl _ _
      | intro x
      | apply TouchesO.next
      | apply State.ctlPath_touches
      | apply TouchesO.op (State.busWrite_touches _ _ _ _)
      | split

theorem execAliasClearWrite_touches (req : Requester) (a : Nat) (x : W32) (par : Nat) (s : State) : TouchesO [.regs, .stagedW, .work,
    .nbu, .fab, .cas, .chk, .host, .out, .free] s (execAliasClearWrite req a x par s) := by
  unfold execAliasClearWrite
  with_reducible
    repeat' first
      | (apply Zone.within; decide)
      | exact Touches.refl _ _
      | intro x
      | apply TouchesO.next
      | apply State.ctlPath_touches
      | apply TouchesO.op (State.busWrite_touches _ _ _ _)
      | split

theorem execAliasToggleWrite_touches (req : Requester) (a : Nat) (x : W32) (par : Nat) (s : State) : TouchesO [.regs, .stagedW, .work,
    .nbu, .fab, .cas, .chk, .host, .out, .free] s (execAliasToggleWrite req a x par s) := by
  unfold execAliasToggleWrite
  with_reducible
    repeat' first
      | (apply Zone.within; decide)
      | exact Touches.refl _ _
      | intro x
      | apply TouchesO.next
      | apply State.ctlPath_touches
      | apply TouchesO.op (State.busWrite_touches _ _ _ _)
      | split

theorem execMultiwordStagedWrite_touches (req : Requester) (a : Nat) (x : W32) (par : Nat) (s : State) : TouchesO [.regs, .stagedW,
    .work, .nbu, .fab, .cas, .chk, .host, .out, .free] s (execMultiwordStagedWrite req a x par s) := by
  unfold execMultiwordStagedWrite
  with_reducible
    repeat' first
      | (apply Zone.within; decide)
      | exact Touches.refl _ _
      | intro x
      | apply TouchesO.next
      | apply State.ctlPath_touches
      | apply TouchesO.op (State.busWrite_touches _ _ _ _)
      | split

theorem execQuiesce_touches (s : State) : TouchesO [.regs] s (execQuiesce s) := by
  unfold execQuiesce
  with_reducible
    repeat' first
      | (apply Zone.within; decide)
      | exact Touches.refl _ _
      | apply TouchesO.next
      | apply Touches.op (State.setFld_touches _ _ _)

theorem execQuiesced_touches (s : State) : TouchesO [.regs] s (execQuiesced s) := by
  unfold execQuiesced
  with_reducible
    repeat' first
      | (apply Zone.within; decide)
      | exact Touches.refl _ _
      | apply State.onlyIf_touches
      | apply Touches.op (State.event_touches _ _ _)
      | apply Touches.op (State.setFld_touches _ _ _)

theorem execPortReset_touches (p : Nat) (s : State) : TouchesO [.regs, .stagedW, .work, .fab, .cas, .chk, .host, .out] s (execPortReset
    p s) := by
  unfold execPortReset
  with_reducible
    repeat' first
      | (apply Zone.within; decide)
      | exact Touches.refl _ _
      | intro x
      | apply Touches.op (State.portResetGo_touches _ _)
      | apply State.onPort_touches
      | extract_lets
      | split

theorem execPortResetDone_touches (p : Nat) (s : State) : TouchesO [.regs] s (execPortResetDone p s) := by
  unfold execPortResetDone
  with_reducible
    repeat' first
      | (apply Zone.within; decide)
      | exact Touches.refl _ _
      | intro x
      | apply State.onPort_touches
      | apply Touches.op (State.setFld_touches _ _ _)

theorem execScaleRegisterWrite_touches (core idx : Nat) (x : W32) (par : Nat) (s : State) : TouchesO [.regs, .stagedW, .work, .nbu,
    .fab, .cas, .chk, .host, .out, .free] s (execScaleRegisterWrite core idx x par s) := by
  unfold execScaleRegisterWrite
  with_reducible
    repeat' first
      | (apply Zone.within; decide)
      | exact Touches.refl _ _
      | intro x
      | apply TouchesO.next
      | apply State.ctlPath_touches
      | apply TouchesO.op (State.busWrite_touches _ _ _ _)
      | split

theorem execNbuGo_touches (blk mask : Nat) (s : State) : TouchesO [.regs, .stagedW, .work, .nbu, .fab, .cas, .chk, .host, .out, .free] s
    (execNbuGo blk mask s) := by
  unfold execNbuGo
  with_reducible
    repeat' first
      | (apply Zone.within; decide)
      | exact Touches.refl _ _
      | apply TouchesO.next
      | apply TouchesO.op (State.busWrite_touches _ _ _ _)
      | split

/-! ## Tenant -/

theorem State.queueReq_touches (s : State) (src : ReqSrc) (op : ReqOp) (tenant plan index : Nat) (body : List Byte) : Touches [.regs,
    .work, .fab, .host, .out] s (State.queueReq s src op tenant plan index body) := by
  unfold State.queueReq
  with_reducible
    repeat' first
      | (apply Zone.within; decide)
      | exact Touches.refl _ _
      | apply Touches.op (State.addReq_touches _ _ _ _ _ _ _ _ _ _)
      | apply Touches.op (State.refuse_touches _ _ _ _ _)
      | apply Touches.op (TouchesE.app2 (State.leaseFor_touches _ _) (by assumption))
      | apply Touches.op (State.queueOn_touches _ _ _)
      | split

theorem State.queuePart_touches (s : State) (src : ReqSrc) (op : ReqOp) (tenant plan index : Nat) (body : List Byte) : Touches [.work,
    .cas] s (State.queuePart s src op tenant plan index body) := by
  unfold State.queuePart
  with_reducible
    repeat' first
      | (apply Zone.within; decide)
      | exact Touches.refl _ _
      | apply Touches.op (State.addReq_touches _ _ _ _ _ _ _ _ _ _)
      | apply Touches.op (State.setPart_touches _ _ _ _)
      | apply Touches.op (TouchesE.app2 (State.leaseFor_touches _ _) (by assumption))
      | apply Touches.op (State.queueOn_touches _ _ _)
      | apply Touches.op (State.release_touches _ _ _)
      | split

theorem State.groupSearch_touches (s : State) (src : ReqSrc) (d : Desc) (mask : Nat) (b : List Byte) : Touches [.work, .fab, .cas] s
    (State.groupSearch s src d mask b) := by
  unfold State.groupSearch
  with_reducible
    repeat' first
      | (apply Zone.within; decide)
      | exact Touches.refl _ _
      | intro x
      | apply Touches.op (State.queuePart_touches _ _ _ _ _ _ _)
      | apply Touches.op (State.openGroup_touches _ _ _ _ _ _)
      | apply Touches.op (State.forward_touches _ _ _ _ _ _ _)
      | apply Touches.op (State.addReq_touches _ _ _ _ _ _ _ _ _ _)
      | apply Touches.foldl
      | extract_lets
      | split

theorem State.takeSearch_touches (s : State) (src : ReqSrc) (b : List Byte) (want : Nat) : Touches [.regs, .work, .fab, .cas, .host,
    .out] s (State.takeSearch s src b want) := by
  unfold State.takeSearch
  with_reducible
    repeat' first
      | (apply Zone.within; decide)
      | exact Touches.refl _ _
      | apply Touches.op (State.groupSearch_touches _ _ _ _ _)
      | apply Touches.op (State.queueReq_touches _ _ _ _ _ _ _)
      | apply Touches.op (State.refuse_touches _ _ _ _ _)
      | apply Touches.op (State.answerReq_touches _ _ _ _)
      | extract_lets
      | split

theorem execSearch_touches (src : ReqSrc) (body : List Byte) (s : State) : TouchesO [.regs, .work, .fab, .cas, .host, .out] s
    (execSearch src body s) := by
  unfold execSearch
  with_reducible
    repeat' first
      | (apply Zone.within; decide)
      | exact Touches.refl _ _
      | intro x
      | apply Touches.op (State.takeSearch_touches _ _ _ _)
      | apply State.tenantCmd_touches

theorem State.takeUpdate_touches (s : State) (src : ReqSrc) (op : ReqOp) (opc : Nat) (errs : List ReadErr) (b : List Byte) (want : Nat)
    : Touches [.regs, .mem, .alloc, .idx, .work, .flash, .fab, .cas, .chk, .host, .out] s (State.takeUpdate s src op opc errs b want) :=
    by
  unfold State.takeUpdate
  with_reducible
    repeat' first
      | (apply Zone.within; decide)
      | exact Touches.refl _ _
      | apply Touches.op (State.openGroup_touches _ _ _ _ _ _)
      | apply Touches.op (State.forward_touches _ _ _ _ _ _ _)
      | apply Touches.op (State.runUpdate_touches _ _)
      | apply Touches.op (State.addReq_touches _ _ _ _ _ _ _ _ _ _)
      | apply Touches.op (State.refuse_touches _ _ _ _ _)
      | extract_lets
      | split

theorem execInsert_touches (src : ReqSrc) (body : PutBody) (s : State) : TouchesO [.regs, .mem, .alloc, .idx, .work, .flash, .fab, .cas,
    .chk, .host, .out] s (execInsert src body s) := by
  unfold execInsert
  with_reducible
    repeat' first
      | (apply Zone.within; decide)
      | exact Touches.refl _ _
      | intro x
      | apply Touches.op (State.takeUpdate_touches _ _ _ _ _ _ _)
      | apply State.tenantCmd_touches

theorem execUpsert_touches (src : ReqSrc) (body : PutBody) (s : State) : TouchesO [.regs, .mem, .alloc, .idx, .work, .flash, .fab, .cas,
    .chk, .host, .out] s (execUpsert src body s) := by
  unfold execUpsert
  with_reducible
    repeat' first
      | (apply Zone.within; decide)
      | exact Touches.refl _ _
      | intro x
      | apply Touches.op (State.takeUpdate_touches _ _ _ _ _ _ _)
      | apply State.tenantCmd_touches

theorem execDelete_touches (src : ReqSrc) (body : List Byte) (s : State) : TouchesO [.regs, .mem, .alloc, .idx, .work, .flash, .fab,
    .cas, .chk, .host, .out] s (execDelete src body s) := by
  unfold execDelete
  with_reducible
    repeat' first
      | (apply Zone.within; decide)
      | exact Touches.refl _ _
      | intro x
      | apply Touches.op (State.takeUpdate_touches _ _ _ _ _ _ _)
      | apply State.tenantCmd_touches

theorem State.runHere_touches (s : State) (src : ReqSrc) (tenant plan : Nat) (b : List Byte) (objects : List ObjRef) (part : Bool) :
    Touches [.regs, .work, .fab, .cas, .host, .out] s (State.runHere s src tenant plan b objects part) := by
  unfold State.runHere
  with_reducible
    repeat' first
      | (apply Zone.within; decide)
      | exact Touches.refl _ _
      | intro x
      | apply Touches.op (State.queuePart_touches _ _ _ _ _ _ _)
      | apply Touches.op (State.queueReq_touches _ _ _ _ _ _ _)
      | apply Touches.op (State.askOwner_touches _ _)
      | apply Touches.op (State.ownerReady_touches _)
      | apply Touches.op (State.addReq_touches _ _ _ _ _ _ _ _ _ _)
      | apply Touches.op (State.modReq_touches _ _ _)
      | apply Touches.op (State.release_touches _ _ _)
      | apply Touches.foldl
      | extract_lets
      | split

theorem State.groupRun_touches (s : State) (src : ReqSrc) (tenant plan mask : Nat) (b : List Byte) (objects : List ObjRef) : Touches
    [.regs, .work, .fab, .cas, .host, .out] s (State.groupRun s src tenant plan mask b objects) := by
  unfold State.groupRun
  with_reducible
    repeat' first
      | (apply Zone.within; decide)
      | exact Touches.refl _ _
      | intro x
      | apply Touches.op (State.runHere_touches _ _ _ _ _ _ _)
      | apply Touches.op (State.openGroup_touches _ _ _ _ _ _)
      | apply Touches.op (State.forward_touches _ _ _ _ _ _ _)
      | apply Touches.op (State.addReq_touches _ _ _ _ _ _ _ _ _ _)
      | apply Touches.foldl
      | extract_lets
      | split

theorem State.takeRun_touches (s : State) (src : ReqSrc) (b : List Byte) (ioOk : Bool) (objects : List ObjRef) (want : Nat) : Touches
    [.regs, .work, .fab, .cas, .host, .out] s (State.takeRun s src b ioOk objects want) := by
  unfold State.takeRun
  with_reducible
    repeat' first
      | (apply Zone.within; decide)
      | exact Touches.refl _ _
      | apply Touches.op (State.groupRun_touches _ _ _ _ _ _ _)
      | apply Touches.op (State.runHere_touches _ _ _ _ _ _ _)
      | apply Touches.op (State.refuse_touches _ _ _ _ _)
      | split

theorem execRun_touches (src : ReqSrc) (body : List Byte) (ioOk : Bool) (objects : List ObjRef) (s : State) : TouchesO [.regs, .work,
    .fab, .cas, .host, .out] s (execRun src body ioOk objects s) := by
  unfold execRun
  with_reducible
    repeat' first
      | (apply Zone.within; decide)
      | exact Touches.refl _ _
      | intro x
      | apply Touches.op (State.takeRun_touches _ _ _ _ _ _)
      | apply State.tenantCmd_touches

theorem State.abortGroup_touches (s : State) (r : Req) (g : GroupReq) : Touches [.regs, .work, .fab, .cas, .host, .out] s
    (State.abortGroup s r g) := by
  unfold State.abortGroup
  with_reducible
    repeat' first
      | (apply Zone.within; decide)
      | exact Touches.refl _ _
      | (apply Zone.rest; intro p hp; cases p <;> first | exact absurd (by decide) hp | exact rfl)
      | intro x
      | apply Touches.op (State.failReq_touches _ _ _ _)
      | apply Touches.op (State.modLease_touches _ _ _)
      | apply Touches.op (State.sendMsg_touches _ _ _)
      | apply Touches.foldl
      | extract_lets
      | split
      | apply Touches.leaf (Eq.refl _)

theorem State.abortReq_touches (s : State) (r : Req) : Touches [.regs, .mem, .alloc, .work, .nbu, .comp, .flash, .fab, .cas, .chk, .nrg,
    .host, .out, .free] s (State.abortReq s r).1 := by
  unfold State.abortReq
  repeat' split
  all_goals with_reducible
    repeat' first
      | (apply Zone.within; decide)
      | exact Touches.refl _ _
      | apply Touches.op (State.abortGroup_touches _ _ _)
      | apply Touches.op (State.abortFree_touches _ _ _)
      | apply Touches.op (State.failReq_touches _ _ _ _)
      | apply Touches.op (State.modLease_touches _ _ _)
      | extract_lets
      | split

theorem State.abortedMsg_touches (s : State) (m : Msg) : Touches [.regs, .fab, .host, .out] s (State.abortedMsg s m) := by
  unfold State.abortedMsg
  with_reducible
    repeat' first
      | (apply Zone.within; decide)
      | exact Touches.refl _ _
      | apply Touches.op (State.unlock_touches _ _ _)
      | apply Touches.op (State.refuseOn_touches _ _ _)
      | apply Touches.op (State.replyTo_touches _ _ _ _)
      | split

theorem State.rdataDrop_touches (s : State) (m x : Msg) : Touches [.regs, .fab, .host, .out] s (State.rdataDrop s m x) := by
  unfold State.rdataDrop
  with_reducible
    repeat' first
      | (apply Zone.within; decide)
      | exact Touches.refl _ _
      | (apply Zone.rest; intro p hp; cases p <;> first | exact absurd (by decide) hp | exact rfl)
      | apply Touches.op (State.unlock_touches _ _ _)
      | apply Touches.op (State.keepReplay_touches _ _ _)
      | apply Touches.op (State.nak_touches _ _ _)
      | extract_lets
      | split
      | apply Touches.leaf (Eq.refl _)

theorem State.abortMsg_touches (s : State) (m : Msg) : Touches [.regs, .mem, .alloc, .work, .nbu, .comp, .flash, .fab, .cas, .chk, .nrg,
    .host, .out, .free] s (State.abortMsg s m).1 := by
  unfold State.abortMsg
  repeat' split
  all_goals with_reducible
    repeat' first
      | (apply Zone.within; decide)
      | exact Touches.refl _ _
      | apply Touches.op (State.rdataDrop_touches _ _ _)
      | apply Touches.op (State.abortedMsg_touches _ _)
      | apply Touches.op (State.abortReq_touches _ _)
      | apply Touches.op (State.stagingUnwait_touches _ _ _)
      | apply Touches.op (State.withdrawPost_touches _ _ _)
      | apply Touches.op (State.unready_touches _ _)
      | apply Touches.op (State.freeStaging_touches _ _ _)
      | apply Touches.op (State.keepReplay_touches _ _ _)
      | apply Touches.op (State.nak_touches _ _ _)
      | apply Touches.op (State.answer_touches _ _ _ _ _ _)
      | apply Touches.op (State.setConn_touches _ _ _)

theorem execAbort_touches (src : AbortSrc) (s : State) : TouchesO [.regs, .mem, .alloc, .work, .nbu, .comp, .flash, .fab, .cas, .chk,
    .nrg, .host, .out, .free] s (execAbort src s) := by
  unfold execAbort
  with_reducible
    repeat' first
      | (apply Zone.within; decide)
      | exact Touches.refl _ _
      | apply TouchesO.next
      | apply Touches.op (State.abortMsg_touches _ _)
      | apply Touches.op (State.abortReq_touches _ _)
      | apply Touches.op (State.unready_touches _ _)
      | apply Touches.op (State.answer_touches _ _ _ _ _ _)
      | apply Touches.op (State.countPoliced_touches _ _)
      | apply Touches.op (TouchesE.app (State.vfAdmit_touches _ _) (by assumption))
      | apply Touches.op (TouchesP.app (State.fetch_touches _ _ _) (by assumption))
      | apply Touches.op (State.completeSt_touches _ _ _)
      | apply Touches.op (State.complete_touches _ _ _ _ _)
      | apply Touches.op (State.count_touches _ _ _)
      | extract_lets
      | split
      | dsimp +zetaDelta only

/-! ## Reset -/

theorem State.flrWork_touches (s : State) : Touches [.regs, .mem, .alloc, .work, .nbu, .comp, .flash, .fab, .cas, .chk, .nrg, .host,
    .out, .free] s (State.flrWork s) := by
  unfold State.flrWork
  with_reducible
    repeat' first
      | (apply Zone.within; decide)
      | exact Touches.refl _ _
      | (apply Zone.rest; intro p hp; cases p <;> first | exact absurd (by decide) hp | exact rfl)
      | intro x
      | apply Touches.op (State.abortFree_touches _ _ _)
      | apply Touches.op (State.closeNow_touches _ _)
      | apply Touches.op (State.failReq_touches _ _ _ _)
      | apply Touches.each
      | extract_lets
      | split
      | apply Touches.leaf (Eq.refl _)

theorem State.flrObjects_touches (s : State) : Touches [.mem, .alloc, .idx, .work, .tables, .flash, .fab, .cas, .host] s
    (State.flrObjects s) := by
  unfold State.flrObjects
  with_reducible
    repeat' first
      | (apply Zone.within; decide)
      | exact Touches.refl _ _
      | (apply Zone.rest; intro p hp; cases p <;> first | exact absurd (by decide) hp | exact rfl)
      | intro x
      | apply Touches.op (State.areaFree_touches _ _)
      | apply Touches.each
      | extract_lets
      | apply Touches.leaf (Eq.refl _)

theorem execPf0Flr_touches (s : State) : TouchesO [.regs, .mem, .alloc, .idx, .work, .nbu, .comp, .tables, .flash, .fab, .cas, .chk,
    .nrg, .host, .out, .free] s (execPf0Flr s) := by
  unfold execPf0Flr
  with_reducible
    repeat' first
      | (apply Zone.within; decide)
      | exact Touches.refl _ _
      | apply Touches.op (State.flrObjects_touches _)
      | apply Touches.op (State.flrWork_touches _)
      | apply Touches.op (State.adminQueues_touches _)
      | apply Touches.op (State.clearCompute_touches _)
      | apply Touches.op (State.clearCurrants_touches _)
      | apply Touches.op (State.cqDrain_touches _ _ _ _)
      | apply State.whenServing_touches
      | apply Touches.op (State.event_touches _ _ _)
      | apply Touches.op (State.setFld_touches _ _ _)

theorem execVfFlr_touches (vf : Nat) (s : State) : TouchesO [.regs, .mem, .alloc, .work, .nbu, .comp, .flash, .fab, .cas, .chk, .nrg,
    .host, .out, .free] s (execVfFlr vf s) := by
  unfold execVfFlr
  with_reducible
    repeat' first
      | (apply Zone.within; decide)
      | exact Touches.refl _ _
      | (apply Zone.rest; intro p hp; cases p <;> first | exact absurd (by decide) hp | exact rfl)
      | intro x
      | apply Touches.op (State.abortReq_touches _ _)
      | apply Touches.op (State.completeSt_touches _ _ _)
      | apply State.onlyIf_touches
      | apply Touches.each
      | apply Touches.foldl
      | extract_lets
      | split
      | apply Touches.leaf (Eq.refl _)

/-! ## Steps -/

theorem State.onStep_touches {T : List Zone} (s : State) (l : Nat) (f : Lease → Step → State) (hT : Zone.Within ([] : List Zone) T) (hf
    : ∀ (x0 : Lease) (x1 : Step), Touches T s (f x0 x1)) : TouchesO T s (State.onStep s l f) := by
  unfold State.onStep
  with_reducible
    repeat' first
      | first | exact hT | exact Zone.Within.refl _ | exact Zone.Within.trans (Zone.within (by decide)) hT
      | exact Touches.refl _ _
      | apply TouchesO.next
      | apply Touches.op (hf _ _)
      | split

theorem execStepend_touches (l : Nat) (m : StepMeas) (s : State) : TouchesO [.regs, .mem, .alloc, .idx, .work, .nbu, .comp, .flash,
    .fab, .cas, .chk, .nrg, .host, .out, .free] s (execStepend l m s) := by
  unfold execStepend
  with_reducible
    repeat' first
      | (apply Zone.within; decide)
      | exact Touches.refl _ _
      | intro x
      | apply State.onStep_touches
      | apply Touches.op (State.runEnd_touches _ _ _ _ _ _)
      | apply Touches.op (State.cyc_touches _ _ _)
      | apply Touches.op (State.measOf_touches _ _ _)
      | apply Touches.each
      | extract_lets
      | split

theorem execChkwaitExpiry_touches (l : Nat) (s : State) : TouchesO [.regs, .mem, .alloc, .work, .nbu, .comp, .flash, .fab, .cas, .chk,
    .nrg, .host, .out, .free] s (execChkwaitExpiry l s) := by
  unfold execChkwaitExpiry
  with_reducible
    repeat' first
      | (apply Zone.within; decide)
      | exact Touches.refl _ _
      | intro x
      | apply State.onStep_touches
      | apply Touches.op (State.suspect_touches _ _ _)
      | apply Touches.op (State.abortFree_touches _ _ _)
      | apply Touches.op (State.retractStep_touches _ _)
      | apply Touches.op (State.endStep_touches _ _ _ _ _ _)
      | apply Touches.foldl
      | extract_lets
      | split

theorem execResultStands_touches (l : Nat) (s : State) : TouchesO [.regs, .mem, .alloc, .work, .comp, .tables, .flash, .fab, .cas, .nrg,
    .host, .out, .free] s (execResultStands l s) := by
  unfold execResultStands
  with_reducible
    repeat' first
      | (apply Zone.within; decide)
      | exact Touches.refl _ _
      | intro x
      | apply TouchesO.next
      | apply Touches.op (State.deliverStep_touches _ _)
      | apply Touches.op (State.applyScatters_touches _ _ _)
      | apply Touches.op (State.replayWaiting_touches _ _)
      | apply Touches.op (State.swapRm_touches _ _ _)
      | apply Touches.op (State.closeIfDone_touches _ _)
      | apply Touches.op (State.modLease_touches _ _ _)
      | apply Touches.op (State.setCore_touches _ _ _)
      | apply Touches.each
      | extract_lets
      | split

theorem State.admitFirst_touches (s : State) (all ls : List (Nat × Lease)) : Touches [.regs, .mem, .alloc, .work, .comp] s
    (State.admitFirst s all ls) := by
  induction ls generalizing s all with
  | nil =>
  unfold State.admitFirst
  with_reducible
    repeat' first
      | exact Touches.refl _ _
  | cons x r ih =>
  unfold State.admitFirst
  with_reducible
    repeat' first
      | (apply Zone.within; decide)
      | exact Touches.refl _ _
      | apply Touches.op (ih _ _)
      | apply Touches.op (TouchesP.app (State.tryAdmit_touches _ _) (by assumption))
      | split

theorem execLeaseAdmit_touches (s : State) : TouchesO [.regs, .mem, .alloc, .work, .comp] s (execLeaseAdmit s) := by
  unfold execLeaseAdmit
  with_reducible
    repeat' first
      | (apply Zone.within; decide)
      | exact Touches.refl _ _
      | intro x
      | apply Touches.op (State.admitFirst_touches _ _ _)
      | apply Touches.op (State.tryThird_touches _ _)
      | apply State.whenServing_touches
      | apply Touches.each

theorem execLeaseWaitLimit_touches (l : Nat) (s : State) : TouchesO [.work] s (execLeaseWaitLimit l s) := by
  unfold execLeaseWaitLimit
  with_reducible
    repeat' first
      | (apply Zone.within; decide)
      | exact Touches.refl _ _
      | apply Touches.op (State.modLease_touches _ _ _)
      | apply State.whenServing_touches

theorem execStepStart_touches (l : Nat) (errs : List ReadErr) (s : State) : TouchesO [.regs, .mem, .alloc, .work, .comp, .tables, .cas,
    .chk, .nrg, .host, .out] s (execStepStart l errs s) := by
  unfold execStepStart
  with_reducible
    repeat' first
      | (apply Zone.within; decide)
      | exact Touches.refl _ _
      | apply TouchesO.next
      | apply Touches.op (State.beginStep_touches _ _ _ _ _ _ _)
      | apply Touches.op (TouchesP.app (State.healPositions_touches _ _ _ _) (by assumption))
      | apply Touches.op (State.replayWaiting_touches _ _)
      | apply Touches.op (State.count_touches _ _ _)
      | extract_lets
      | split

theorem execBatchwaitExpiry_touches (l : Nat) (s : State) : TouchesO [.work] s (execBatchwaitExpiry l s) := by
  unfold execBatchwaitExpiry
  with_reducible
    repeat' first
      | (apply Zone.within; decide)
      | exact Touches.refl _ _
      | apply Touches.op (State.modLease_touches _ _ _)
      | apply State.whenServing_touches

theorem execLingerExpiry_touches (l : Nat) (s : State) : TouchesO [.regs, .mem, .alloc, .work, .comp, .flash, .fab, .cas, .nrg, .host,
    .out] s (execLingerExpiry l s) := by
  unfold execLingerExpiry
  with_reducible
    repeat' first
      | (apply Zone.within; decide)
      | exact Touches.refl _ _
      | apply Touches.op (State.closeLease_touches _ _ _)
      | apply State.whenServing_touches
      | extract_lets
      | split

theorem execRendezvousTimeout_touches (l rdv : Nat) (m : StepMeas) (s : State) : TouchesO [.regs, .mem, .alloc, .work, .nbu, .comp,
    .flash, .fab, .cas, .chk, .nrg, .host, .out, .free] s (execRendezvousTimeout l rdv m s) := by
  unfold execRendezvousTimeout
  with_reducible
    repeat' first
      | (apply Zone.within; decide)
      | exact Touches.refl _ _
      | intro x
      | apply State.onStep_touches
      | apply Touches.op (State.abortMeas_touches _ _ _ _ _)
      | extract_lets
      | split

theorem execStepHang_touches (l : Nat) (m : StepMeas) (s : State) : TouchesO [.regs, .mem, .alloc, .work, .nbu, .comp, .flash, .fab,
    .cas, .chk, .nrg, .host, .out, .free] s (execStepHang l m s) := by
  unfold execStepHang
  with_reducible
    repeat' first
      | (apply Zone.within; decide)
      | exact Touches.refl _ _
      | intro x
      | apply State.onStep_touches
      | apply Touches.op (State.abortMeas_touches _ _ _ _ _)
      | apply Touches.op (State.closeLease_touches _ _ _)
      | extract_lets
      | split

end Sys2Proof.Machine
end

