-- ==== Sys2Proof/Laws/Keep1.lean ====
section
/-! SUPPORT. What the operations and commands of registers, memories, completions, the fabric, currants, leases and the tiers keep: one lemma each (Laws/Keep.lean). -/

namespace Sys2Proof.Machine

/-! ## Regs -/

theorem State.hostErr_keeps (s : State) (rule : Nat) : Keeps s (State.hostErr s rule) := by
  unfold State.hostErr
  with_reducible
    repeat' first
      | exact Keeps.refl _
      | apply Keeps.op (State.drawFree_keeps _)
      | apply Keeps.op (State.emit_keeps _ _)

/-! ## Mem -/

theorem State.ilvWrite_keeps (s : State) (x : Nat) (bs : List Byte) : Keeps s (State.ilvWrite s x bs) := by
  exact ⟨State.ilvWrite_wf s x bs, List.suffix_rfl, ⟨rfl, rfl, rfl, rfl⟩, Nat.le_refl _, Nat.le_refl _⟩

theorem State.chWrite_keeps (s : State) (ch off : Nat) (bs : List Byte) : Keeps s (State.chWrite s ch off bs) := by
  exact ⟨State.chWrite_wf s ch off bs, List.suffix_rfl, ⟨rfl, rfl, rfl, rfl⟩, Nat.le_refl _, Nat.le_refl _⟩

theorem State.hbmPoisonLines_keeps (s : State) (ls : List Nat) : Keeps s (State.hbmPoisonLines s ls) := by
  unfold State.hbmPoisonLines
  with_reducible
    repeat' first
      | exact Keeps.refl _
      | (apply Mem.wf_of <;> first | exact id | exact Tbl.wf_drop _ _ _ | exact poisSet_wf _ _ | exact Tbl.wf_putAll _ _ _ _ | exact fun _ => Tbl.wf_nil _)
      | extract_lets
      | apply Keeps.leafMem (Eq.refl _) (Eq.refl _) (Eq.refl _) (Eq.refl _)

theorem State.storeWrite_keeps (s : State) (core off : Nat) (bs : List Byte) : Keeps s (State.storeWrite s core off bs) := by
  exact ⟨State.storeWrite_wf s core off bs, List.suffix_rfl, ⟨rfl, rfl, rfl, rfl⟩, Nat.le_refl _, Nat.le_refl _⟩

theorem State.storePoisonLines_keeps (s : State) (ls : List Nat) : Keeps s (State.storePoisonLines s ls) := by
  unfold State.storePoisonLines
  with_reducible
    repeat' first
      | exact Keeps.refl _
      | (apply Mem.wf_of <;> first | exact id | exact Tbl.wf_drop _ _ _ | exact poisSet_wf _ _ | exact Tbl.wf_putAll _ _ _ _ | exact fun _ => Tbl.wf_nil _)
      | extract_lets
      | apply Keeps.leafMem (Eq.refl _) (Eq.refl _) (Eq.refl _) (Eq.refl _)

theorem State.storeFill_keeps (s : State) (core off n : Nat) (filled : Bool) : Keeps s (State.storeFill s core off n filled) := by
  exact ⟨State.storeFill_wf s core off n filled, List.suffix_rfl, ⟨rfl, rfl, rfl, rfl⟩, Nat.le_refl _, Nat.le_refl _⟩

theorem State.commonsWrite_keeps (s : State) (k : Nat) (bs : List Byte) : Keeps s (State.commonsWrite s k bs) := by
  exact ⟨State.commonsWrite_wf s k bs, List.suffix_rfl, ⟨rfl, rfl, rfl, rfl⟩, Nat.le_refl _, Nat.le_refl _⟩

theorem State.ilvClean_keeps (s : State) (x n : Nat) : Keeps s (State.ilvClean s x n) := by
  unfold State.ilvClean
  with_reducible
    repeat' first
      | exact Keeps.refl _
      | (apply Mem.wf_of <;> first | exact id | exact Tbl.wf_drop _ _ _ | exact poisSet_wf _ _ | exact Tbl.wf_putAll _ _ _ _ | exact fun _ => Tbl.wf_nil _)
      | extract_lets
      | apply Keeps.leafMem (Eq.refl _) (Eq.refl _) (Eq.refl _) (Eq.refl _)

theorem State.areaFree_keeps (s : State) (base : Nat) : Keeps s (State.areaFree s base) := by
  unfold State.areaFree
  with_reducible
    repeat' first
      | exact Keeps.refl _
      | (apply Mem.wf_of <;> first | exact id | exact Tbl.wf_drop _ _ _ | exact poisSet_wf _ _ | exact Tbl.wf_putAll _ _ _ _ | exact fun _ => Tbl.wf_nil _)
      | extract_lets
      | apply Keeps.leafMem (Eq.refl _) (Eq.refl _) (Eq.refl _) (Eq.refl _)

/-! ## Ops -/

theorem State.cqWrite_keeps (s : State) (fn q : Nat) (c : Cq) (e : Cqe) : Keeps s (State.cqWrite s fn q c e) := by
  unfold State.cqWrite
  with_reducible
    repeat' first
      | (apply Zone.clear; decide)
      | exact Keeps.refl _
      | apply Keeps.past (State.setCq_touches _ _ _)
      | apply Keeps.op (State.emit_keeps _ _)
      | apply Keeps.past (State.count_touches _ _ _)

theorem State.cqPost_keeps (s : State) (fn q : Nat) (e : Cqe) : Keeps s (State.cqPost s fn q e) := by
  unfold State.cqPost
  with_reducible
    repeat' first
      | (apply Zone.clear; decide)
      | exact Keeps.refl _
      | apply Keeps.op (State.cqWrite_keeps _ _ _ _ _)
      | apply Keeps.past (State.setCq_touches _ _ _)
      | split

theorem State.postEvent_keeps (s : State) (code : Nat) (data : List Byte) : Keeps s (State.postEvent s code data) := by
  unfold State.postEvent
  with_reducible
    repeat' first
      | (apply Zone.clear; decide)
      | exact Keeps.refl _
      | apply Keeps.op (State.cqWrite_keeps _ _ _ _ _)
      | apply Keeps.past (State.event_touches _ _ _)
      | apply Keeps.past (State.count_touches _ _ _)
      | extract_lets
      | split
      | apply Keeps.leaf (Eq.refl _) (Eq.refl _) (Eq.refl _) (Eq.refl _) (Eq.refl _)

theorem State.cqDrain_keeps (s : State) (fn q n : Nat) : Keeps s (State.cqDrain s fn q n) := by
  induction n generalizing s fn q with
  | zero =>
  unfold State.cqDrain
  with_reducible
    repeat' first
      | exact Keeps.refl _
  | succ m ih =>
  unfold State.cqDrain
  with_reducible
    repeat' first
      | exact Keeps.refl _
      | apply Keeps.op (ih _ _ _)
      | apply Keeps.op (State.cqWrite_keeps _ _ _ _ _)
      | extract_lets
      | split
      | apply Keeps.leaf (Eq.refl _) (Eq.refl _) (Eq.refl _) (Eq.refl _) (Eq.refl _)

theorem State.completeOne_keeps (s : State) (h : HostHdr) (st : Status) (result : List Byte) (inline_ : List Byte) : Keeps s
    (State.completeOne s h st result inline_) := by
  unfold State.completeOne
  with_reducible
    repeat' first
      | (apply Zone.clear; decide)
      | exact Keeps.refl _
      | apply Keeps.op (State.cqPost_keeps _ _ _ _)
      | apply Keeps.past (State.setSq_touches _ _ _)
      | apply Keeps.op (State.emit_keeps _ _)
      | extract_lets
      | split

theorem State.settleSq_keeps (s : State) (w : HostHdr × HostWait) : Keeps s (State.settleSq s w) := by
  unfold State.settleSq
  with_reducible
    repeat' first
      | exact Keeps.refl _
      | apply Keeps.op (State.completeOne_keeps _ _ _ _ _)
      | extract_lets
      | split
      | apply Keeps.leaf (Eq.refl _) (Eq.refl _) (Eq.refl _) (Eq.refl _) (Eq.refl _)

theorem State.complete_keeps (s : State) (h : HostHdr) (st : Status) (result : List Byte) (inline_ : List Byte) : Keeps s
    (State.complete s h st result inline_) := by
  unfold State.complete
  with_reducible
    repeat' first
      | exact Keeps.refl _
      | intro x
      | apply Keeps.op (State.settleSq_keeps _ _)
      | apply Keeps.op (State.completeOne_keeps _ _ _ _ _)
      | apply Keeps.foldl

theorem State.completeSt_keeps (s : State) (h : HostHdr) (st : Status) : Keeps s (State.completeSt s h st) := by
  unfold State.completeSt
  with_reducible
    repeat' first
      | exact Keeps.refl _
      | apply Keeps.op (State.complete_keeps _ _ _ _ _)

theorem State.cper_keeps (s : State) (r : Report) : Keeps s (State.cper s r) := by
  unfold State.cper
  with_reducible
    repeat' first
      | (apply Zone.clear; decide)
      | exact Keeps.refl _
      | apply Keeps.op (State.postEvent_keeps _ _ _)
      | apply Keeps.past (State.event_touches _ _ _)
      | apply Keeps.past (State.count_touches _ _ _)
      | extract_lets
      | split
      | apply Keeps.leaf (Eq.refl _) (Eq.refl _) (Eq.refl _) (Eq.refl _) (Eq.refl _)

theorem State.raise_keeps (s : State) (reg bit : Nat) (r : Report) : Keeps s (State.raise s reg bit r) := by
  unfold State.raise
  with_reducible
    repeat' first
      | (apply Zone.clear; decide)
      | exact Keeps.refl _
      | apply Keeps.op (State.cper_keeps _ _)
      | apply Keeps.past (State.event_touches _ _ _)

theorem State.replace_keeps (s : State) (bit : Nat) : Keeps s (State.replace s bit) := by
  unfold State.replace
  with_reducible
    repeat' first
      | (apply Zone.clear; decide)
      | exact Keeps.refl _
      | apply Keeps.op (State.raise_keeps _ _ _ _)
      | apply Keeps.op (State.emit_keeps _ _)
      | apply Keeps.past (State.setFld_touches _ _ _)
      | extract_lets
      | split

theorem State.retireRow_keeps (s : State) (ch row : Nat) : Keeps s (State.retireRow s ch row) := by
  unfold State.retireRow
  with_reducible
    repeat' first
      | (apply Zone.clear; decide)
      | exact Keeps.refl _
      | apply Keeps.op (State.replace_keeps _ _)
      | apply Keeps.op (State.raise_keeps _ _ _ _)
      | apply Keeps.past (State.count_touches _ _ _)
      | extract_lets
      | split
      | apply Keeps.leaf (Eq.refl _) (Eq.refl _) (Eq.refl _) (Eq.refl _) (Eq.refl _)

theorem State.hostRun_keeps (s : State) (h : HostHdr) (f : State → Outcome) (hf : ∀ (x0 : State), KeepsO x0 (f x0)) : KeepsO s
    (State.hostRun s h f) := by
  unfold State.hostRun
  with_reducible
    repeat' first
      | (apply Zone.clear; decide)
      | exact Keeps.refl _
      | apply KeepsO.next
      | apply Keeps.past (State.countPoliced_touches _ _)
      | apply Keeps.past (TouchesE.app (State.vfAdmit_touches _ _) (by assumption))
      | apply Keeps.past (TouchesP.app (State.fetch_touches _ _ _) (by assumption))
      | apply Keeps.op (State.completeSt_keeps _ _ _)
      | apply KeepsO.op (hf _)
      | extract_lets
      | split

theorem State.hostCmd_keeps (s : State) (h : HostHdr) (f : State → State) (hf : ∀ (x0 : State), Keeps x0 (f x0)) : KeepsO s
    (State.hostCmd s h f) := by
  unfold State.hostCmd
  with_reducible
    repeat' first
      | exact Keeps.refl _
      | intro x
      | apply KeepsO.next
      | apply State.hostRun_keeps
      | apply Keeps.op (hf _)

theorem State.hostErrCmd_keeps (s : State) (h : HostHdr) (rule : Nat) : Keeps s (State.hostErrCmd s h rule) := by
  unfold State.hostErrCmd
  with_reducible
    repeat' first
      | exact Keeps.refl _
      | apply Keeps.op (State.completeSt_keeps _ _ _)
      | apply Keeps.op (State.hostErr_keeps _ _)
      | extract_lets
      | split

theorem State.wellFormed_keeps {z : State} (s : State) (h : HostHdr) (rule : Nat) (c : Bool) {f : Outcome}
    (hz : Keeps z s) (hf : KeepsO z f) : KeepsO z (s.wellFormed h rule c f) := by
  unfold State.wellFormed
  split
  · exact hf
  · exact KeepsO.next (Keeps.op (State.hostErrCmd_keeps _ _ _) hz)

theorem State.answerWith_keeps (s : State) (h : HostHdr) (bs : List Byte) : KeepsO s (State.answerWith s h bs) := by
  unfold State.answerWith
  with_reducible
    repeat' first
      | exact Keeps.refl _
      | apply KeepsO.next
      | apply State.wellFormed_keeps
      | apply Keeps.op (State.complete_keeps _ _ _ _ _)

theorem State.need_keeps {α : Type} (s : State) (h : HostHdr) (o : Option α) (f : α → Outcome) (hf : ∀ (x0 : α), KeepsO s (f x0)) :
    KeepsO s (State.need s h o f) := by
  unfold State.need
  with_reducible
    repeat' first
      | exact Keeps.refl _
      | apply KeepsO.next
      | apply Keeps.op (State.completeSt_keeps _ _ _)
      | apply KeepsO.op (hf _)
      | split

/-! ## FabOps -/

theorem State.connEvent_keeps (s : State) (c : Conn) (code : Nat) (data : List Byte) : Keeps s (State.connEvent s c code data) := by
  unfold State.connEvent
  with_reducible
    repeat' first
      | exact Keeps.refl _
      | apply Keeps.op (State.cqPost_keeps _ _ _ _)

theorem State.connClosed_keeps (s : State) (conn : Nat) (st : Status) : Keeps s (State.connClosed s conn st) := by
  unfold State.connClosed
  with_reducible
    repeat' first
      | (apply Zone.clear; decide)
      | exact Keeps.refl _
      | apply Keeps.op (State.connEvent_keeps _ _ _ _)
      | apply Keeps.past (State.setConn_touches _ _ _)
      | split

theorem State.drainConn_keeps (s : State) (conn : Nat) : Keeps s (State.drainConn s conn) := by
  unfold State.drainConn
  with_reducible
    repeat' first
      | (apply Zone.clear; decide)
      | exact Keeps.refl _
      | apply Keeps.op (State.connClosed_keeps _ _ _)
      | apply Keeps.past (State.request_touches _ _ _ _ _ _ _)
      | apply Keeps.past (State.answer_touches _ _ _ _ _ _)
      | apply Keeps.past (State.setConn_touches _ _ _)
      | split

theorem State.inflDone_keeps (s : State) (conn seq : Nat) : Keeps s (State.inflDone s conn seq) := by
  unfold State.inflDone
  with_reducible
    repeat' first
      | (apply Zone.clear; decide)
      | exact Keeps.refl _
      | apply Keeps.op (State.drainConn_keeps _ _)
      | apply Keeps.past (State.modConn_touches _ _ _)

theorem State.doneMsg_keeps (s : State) (m : Msg) : Keeps s (State.doneMsg s m) := by
  unfold State.doneMsg
  with_reducible
    repeat' first
      | (apply Zone.clear; decide)
      | exact Keeps.refl _
      | apply Keeps.op (State.inflDone_keeps _ _ _)
      | apply Keeps.past (State.keepReplay_touches _ _ _)
      | split

theorem State.replyTo_keeps (s : State) (m : Msg) (st : Status) (body : List Byte) : Keeps s (State.replyTo s m st body) := by
  unfold State.replyTo
  with_reducible
    repeat' first
      | (apply Zone.clear; decide)
      | exact Keeps.refl _
      | apply Keeps.op (State.inflDone_keeps _ _ _)
      | apply Keeps.past (State.freeStaging_touches _ _ _)
      | apply Keeps.past (State.keepReplay_touches _ _ _)
      | apply Keeps.past (State.answer_touches _ _ _ _ _ _)
      | apply Keeps.past (State.setConn_touches _ _ _)
      | split

/-! ## NbuOps -/

theorem State.eccNote_keeps (s : State) (ch row : Nat) (e : Ecc) : Keeps s (State.eccNote s ch row e) := by
  unfold State.eccNote
  with_reducible
    repeat' first
      | (apply Zone.clear; decide)
      | exact Keeps.refl _
      | apply Keeps.past (State.setCur_touches _ _ _)
      | apply Keeps.op (State.raise_keeps _ _ _ _)
      | apply Keeps.past (State.count_touches _ _ _)
      | extract_lets
      | split
      | apply Keeps.leaf (Eq.refl _) (Eq.refl _) (Eq.refl _) (Eq.refl _) (Eq.refl _)

theorem State.rowWrite_keeps (s : State) (ch row : Nat) (bs : List Byte) (pois : List Bool) : Keeps s (State.rowWrite s ch row bs pois)
    := by
  unfold State.rowWrite
  with_reducible
    repeat' first
      | exact Keeps.refl _
      | apply Keeps.op (State.hbmPoisonLines_keeps _ _)
      | apply Keeps.op (State.chWrite_keeps _ _ _ _)
      | apply Keeps.op (State.hostErr_keeps _ _)
      | split

theorem State.slotDone_keeps (s : State) (ch slot : Nat) (st : Status) : Keeps s (State.slotDone s ch slot st) := by
  unfold State.slotDone
  with_reducible
    repeat' first
      | (apply Zone.clear; decide)
      | exact Keeps.refl _
      | apply Keeps.past (State.slotSet_touches _ _ _ _ _ _)
      | apply Keeps.op (State.emit_keeps _ _)
      | extract_lets
      | split

theorem State.slotEnd_keeps (s : State) (ch : Nat) (st : Status) : Keeps s (State.slotEnd s ch st) := by
  unfold State.slotEnd
  with_reducible
    repeat' first
      | (apply Zone.clear; decide)
      | exact Keeps.refl _
      | apply Keeps.op (State.slotDone_keeps _ _ _ _)
      | apply Keeps.past (State.setCur_touches _ _ _)
      | extract_lets
      | split
      | apply Keeps.leaf (Eq.refl _) (Eq.refl _) (Eq.refl _) (Eq.refl _) (Eq.refl _)

theorem State.slotSkip_keeps (s : State) (ch slot : Nat) (st : Status) : Keeps s (State.slotSkip s ch slot st) := by
  unfold State.slotSkip
  with_reducible
    repeat' first
      | (apply Zone.clear; decide)
      | exact Keeps.refl _
      | apply Keeps.op (State.slotDone_keeps _ _ _ _)
      | apply Keeps.past (State.setCur_touches _ _ _)

theorem State.nbuAbort_keeps (s : State) (ch lease : Nat) : Keeps s (State.nbuAbort s ch lease) := by
  unfold State.nbuAbort
  with_reducible
    repeat' first
      | (apply Zone.clear; decide)
      | exact Keeps.refl _
      | intro x
      | apply Keeps.op (State.slotSkip_keeps _ _ _ _)
      | apply Keeps.op (State.slotEnd_keeps _ _ _)
      | apply Keeps.past (State.setCur_touches _ _ _)
      | apply Keeps.each
      | extract_lets
      | split

theorem State.nbuGoOn_keeps (s : State) (ch mask : Nat) : Keeps s (State.nbuGoOn s ch mask) := by
  unfold State.nbuGoOn
  with_reducible
    repeat' first
      | (apply Zone.clear; decide)
      | exact Keeps.refl _
      | intro x
      | apply Keeps.op (State.slotSkip_keeps _ _ _ _)
      | apply Keeps.past (State.slotSet_touches _ _ _ _ _ _)
      | apply Keeps.past (State.setCur_touches _ _ _)
      | apply Keeps.each
      | apply Keeps.op (State.hostErr_keeps _ _)
      | apply Keeps.past (State.event_touches _ _ _)
      | extract_lets
      | split
      | dsimp +zetaDelta only

/-! ## LeaseOps -/

theorem State.ilvClear_keeps (s : State) (sp : Span) : Keeps s (State.ilvClear s sp) := by
  unfold State.ilvClear
  with_reducible
    repeat' first
      | exact Keeps.refl _
      | (apply Mem.wf_of <;> first | exact id | exact Tbl.wf_drop _ _ _ | exact poisSet_wf _ _ | exact Tbl.wf_putAll _ _ _ _ | exact fun _ => Tbl.wf_nil _)
      | extract_lets
      | apply Keeps.leafMem (Eq.refl _) (Eq.refl _) (Eq.refl _) (Eq.refl _)

theorem State.clearStore_keeps (s : State) (c : Nat) : Keeps s (State.clearStore s c) := by
  unfold State.clearStore
  with_reducible
    repeat' first
      | exact Keeps.refl _
      | (apply Mem.wf_of <;> first | exact id | exact Tbl.wf_drop _ _ _ | exact poisSet_wf _ _ | exact Tbl.wf_putAll _ _ _ _ | exact fun _ => Tbl.wf_nil _)
      | extract_lets
      | apply Keeps.leafMem (Eq.refl _) (Eq.refl _) (Eq.refl _) (Eq.refl _)

theorem State.clearCommons_keeps (s : State) (sp : Span) : Keeps s (State.clearCommons s sp) := by
  unfold State.clearCommons
  with_reducible
    repeat' first
      | exact Keeps.refl _
      | (apply Mem.wf_of <;> first | exact id | exact Tbl.wf_drop _ _ _ | exact poisSet_wf _ _ | exact Tbl.wf_putAll _ _ _ _ | exact fun _ => Tbl.wf_nil _)
      | extract_lets
      | apply Keeps.leafMem (Eq.refl _) (Eq.refl _) (Eq.refl _) (Eq.refl _)

theorem State.loadResident_keeps (s : State) (h : PlanHdr) (cores : List Nat) (resident : Bool) : Keeps s (State.loadResident s h cores
    resident) := by
  unfold State.loadResident
  with_reducible
    repeat' first
      | exact Keeps.refl _
      | intro x
      | apply Keeps.op (State.storeFill_keeps _ _ _ _ _)
      | apply Keeps.op (State.storeWrite_keeps _ _ _ _)
      | apply Keeps.each
      | extract_lets
      | split

theorem State.kvFree_keeps (s : State) (kv : List (Nat × Span)) : Keeps s (State.kvFree s kv) := by
  unfold State.kvFree
  with_reducible
    repeat' first
      | (apply Zone.clear; decide)
      | exact Keeps.refl _
      | (apply Mem.wf_of <;> first | exact id | exact Tbl.wf_drop _ _ _ | exact poisSet_wf _ _ | exact Tbl.wf_putAll _ _ _ _ | exact fun _ => Tbl.wf_nil _)
      | intro x
      | apply Keeps.past (State.rowsFree_touches _ _ _)
      | apply Keeps.foldl
      | extract_lets
      | apply Keeps.leafMem (Eq.refl _) (Eq.refl _) (Eq.refl _) (Eq.refl _)

theorem State.tryAdmit_keeps (s : State) (l : Nat) : KeepsP s (fun x => x) (State.tryAdmit s l) := by
  unfold State.tryAdmit
  with_reducible
    repeat' first
      | (apply Zone.clear; decide)
      | exact Keeps.refl _
      | intro x
      | exact KeepsP.ofNone
      | apply KeepsP.ofSome
      | apply Keeps.past (State.ballastYield_touches _ _)
      | apply Keeps.past (TouchesP.app3 (State.leaseHbm_touches _ _ _) (by assumption))
      | apply Keeps.op (State.loadResident_keeps _ _ _ _)
      | apply Keeps.past (State.loadUprog_touches _ _ _ _)
      | apply Keeps.past (State.setLease_touches _ _ _)
      | apply Keeps.past (State.setCore_touches _ _ _)
      | apply Keeps.past (State.charge_touches _ _ _)
      | apply Keeps.each
      | apply Keeps.past (State.setFld_touches _ _ _)
      | extract_lets
      | split

theorem State.answerReq_keeps (s : State) (src : ReqSrc) (st : Status) (body : List Byte) : Keeps s (State.answerReq s src st body) := by
  unfold State.answerReq
  with_reducible
    repeat' first
      | exact Keeps.refl _
      | apply Keeps.op (State.replyTo_keeps _ _ _ _)
      | apply Keeps.op (State.complete_keeps _ _ _ _ _)
      | split

theorem State.finishReq_keeps (s : State) (r : Req) (st : Status) (body : List Byte) : Keeps s (State.finishReq s r st body) := by
  unfold State.finishReq
  with_reducible
    repeat' first
      | (apply Zone.clear; decide)
      | exact Keeps.refl _
      | apply Keeps.op (State.answerReq_keeps _ _ _ _)
      | apply Keeps.past (State.release_touches _ _ _)
      | extract_lets
      | apply Keeps.leaf (Eq.refl _) (Eq.refl _) (Eq.refl _) (Eq.refl _) (Eq.refl _)

theorem State.deliver_keeps (s : State) (r : Req) (st : Status) (rec_ : Option SearchRec) (out : List Byte) : Keeps s (State.deliver s r
    st rec_ out) := by
  unfold State.deliver
  with_reducible
    repeat' first
      | (apply Zone.clear; decide)
      | exact Keeps.refl _
      | apply Keeps.past (State.setPart_touches _ _ _ _)
      | apply Keeps.op (State.finishReq_keeps _ _ _ _)
      | extract_lets
      | split
      | apply Keeps.leaf (Eq.refl _) (Eq.refl _) (Eq.refl _) (Eq.refl _) (Eq.refl _)

theorem State.failReq_keeps (s : State) (id : Nat) (st : Status) (tag : Nat) : Keeps s (State.failReq s id st tag) := by
  unfold State.failReq
  with_reducible
    repeat' first
      | exact Keeps.refl _
      | apply Keeps.op (State.deliver_keeps _ _ _ _ _)
      | split

theorem State.closeNow_keeps (s : State) (l : Nat) : Keeps s (State.closeNow s l) := by
  unfold State.closeNow
  with_reducible
    repeat' first
      | (apply Zone.clear; decide)
      | exact Keeps.refl _
      | intro x
      | apply Keeps.past (State.unhold_touches _ _)
      | apply Keeps.op (State.failReq_keeps _ _ _ _)
      | apply Keeps.op (State.kvFree_keeps _ _)
      | apply Keeps.op (State.clearCommons_keeps _ _)
      | apply Keeps.op (State.clearStore_keeps _ _)
      | apply Keeps.op (State.ilvClear_keeps _ _)
      | apply Keeps.past (State.setCore_touches _ _ _)
      | apply Keeps.past (State.release_touches _ _ _)
      | apply Keeps.op (State.completeSt_keeps _ _ _)
      | apply Keeps.op (State.areaFree_keeps _ _)
      | apply Keeps.each
      | apply Keeps.past (State.setFld_touches _ _ _)
      | apply Keeps.elim
      | extract_lets
      | split
      | apply Keeps.leaf (Eq.refl _) (Eq.refl _) (Eq.refl _) (Eq.refl _) (Eq.refl _)

theorem State.closeLease_keeps (s : State) (l : Nat) (req : Option HostHdr) : Keeps s (State.closeLease s l req) := by
  unfold State.closeLease
  with_reducible
    repeat' first
      | (apply Zone.clear; decide)
      | exact Keeps.refl _
      | intro x
      | apply Keeps.op (State.closeNow_keeps _ _)
      | apply Keeps.op (State.failReq_keeps _ _ _ _)
      | apply Keeps.past (State.modLease_touches _ _ _)
      | apply Keeps.each
      | extract_lets
      | split

theorem State.closeIfDone_keeps (s : State) (l : Nat) : Keeps s (State.closeIfDone s l) := by
  unfold State.closeIfDone
  with_reducible
    repeat' first
      | exact Keeps.refl _
      | apply Keeps.op (State.closeNow_keeps _ _)
      | split

theorem State.measOf_keeps (s : State) (l : Nat) (m : StepMeas) : Keeps s (State.measOf s l m).2 := by
  have hf : ∀ n, Keeps s { s with free := s.free + n } := fun n => ⟨fun h => h, List.suffix_rfl, ⟨rfl, rfl, rfl, rfl⟩, Nat.le_refl _, Nat.le_add_right _ _⟩
  unfold State.measOf
  split
  · exact Keeps.refl _
  · split
    · exact hf _
    · exact Keeps.refl _

theorem State.sloeAbort_keeps (s : State) (l : Nat) : Keeps s (State.sloeAbort s l) := by
  unfold State.sloeAbort
  with_reducible
    repeat' first
      | exact Keeps.refl _
      | intro x
      | apply Keeps.each
      | apply Keeps.op (State.emit_keeps _ _)
      | extract_lets
      | apply Keeps.leaf (Eq.refl _) (Eq.refl _) (Eq.refl _) (Eq.refl _) (Eq.refl _)

theorem State.endStep_keeps (s : State) (l : Nat) (st : Status) (tordv : Nat) (m : Meas) (acc : Bool) : Keeps s (State.endStep s l st
    tordv m acc) := by
  unfold State.endStep
  with_reducible
    repeat' first
      | (apply Zone.clear; decide)
      | exact Keeps.refl _
      | intro x
      | apply Keeps.op (State.sloeAbort_keeps _ _)
      | apply Keeps.past (State.haltCores_touches _ _)
      | apply Keeps.past (State.coreCycles_touches _ _ _)
      | apply Keeps.past (State.recordStep_touches _ _ _ _ _)
      | apply Keeps.past (State.progress_touches _ _ _ _ _ _)
      | apply Keeps.op (State.closeIfDone_keeps _ _)
      | apply Keeps.past (State.unhold_touches _ _)
      | apply Keeps.op (State.failReq_keeps _ _ _ _)
      | apply Keeps.past (State.modLease_touches _ _ _)
      | apply Keeps.op (State.nbuAbort_keeps _ _ _)
      | apply Keeps.op (State.raise_keeps _ _ _ _)
      | apply Keeps.op (State.cper_keeps _ _)
      | apply Keeps.each
      | apply Keeps.past (State.count_touches _ _ _)
      | extract_lets
      | split

theorem State.drawMeas_keeps (s : State) (l : Nat) : Keeps s (State.drawMeas s l).2 := by
  have hf : ∀ n m, Keeps s { s with free := s.free + n + m } := fun n m => (Nat.add_assoc s.free n m).symm ▸ ⟨fun h => h, List.suffix_rfl, ⟨rfl, rfl, rfl, rfl⟩, Nat.le_refl _, Nat.le_add_right _ _⟩
  exact hf _ _

theorem State.sendVerdict_keeps (s : State) (tag : Nat) (keep : Bool) : Keeps s (State.sendVerdict s tag keep) := by
  unfold State.sendVerdict
  with_reducible
    repeat' first
      | (apply Zone.clear; decide)
      | exact Keeps.refl _
      | apply Keeps.past (State.request_touches _ _ _ _ _ _ _)
      | apply Keeps.op (State.raise_keeps _ _ _ _)
      | apply Keeps.past (State.count_touches _ _ _)
      | extract_lets
      | split
      | apply Keeps.leaf (Eq.refl _) (Eq.refl _) (Eq.refl _) (Eq.refl _) (Eq.refl _)

theorem State.retractStep_keeps (s : State) (l : Nat) : Keeps s (State.retractStep s l) := by
  unfold State.retractStep
  with_reducible
    repeat' first
      | (apply Zone.clear; decide)
      | exact Keeps.refl _
      | apply Keeps.past (State.dropReqs_touches _ _)
      | apply Keeps.past (State.swapRm_touches _ _ _)
      | apply Keeps.op (State.sendVerdict_keeps _ _ _)
      | apply Keeps.past (State.request_touches _ _ _ _ _ _ _)
      | extract_lets
      | split
      | apply Keeps.leaf (Eq.refl _) (Eq.refl _) (Eq.refl _) (Eq.refl _) (Eq.refl _)

theorem State.abortStep_keeps (s : State) (l : Nat) (st : Status) (tordv : Nat) (m : Meas) : Keeps s (State.abortStep s l st tordv m) :=
    by
  unfold State.abortStep
  with_reducible
    repeat' first
      | exact Keeps.refl _
      | apply Keeps.op (State.retractStep_keeps _ _)
      | apply Keeps.op (State.endStep_keeps _ _ _ _ _ _)

theorem State.abortFree_keeps (s : State) (l : Nat) (st : Status) : Keeps s (State.abortFree s l st) := by
  unfold State.abortFree
  with_reducible
    repeat' first
      | exact Keeps.refl _
      | apply Keeps.op (State.abortStep_keeps _ _ _ _ _)
      | apply Keeps.op (State.drawMeas_keeps _ _)

theorem State.abortMeas_keeps (s : State) (l : Nat) (st : Status) (tordv : Nat) (m : StepMeas) : Keeps s (State.abortMeas s l st tordv
    m) := by
  unfold State.abortMeas
  with_reducible
    repeat' first
      | exact Keeps.refl _
      | apply Keeps.op (State.abortStep_keeps _ _ _ _ _)
      | apply Keeps.op (State.measOf_keeps _ _ _)

/-! ## Tier -/

theorem State.checkMake_keeps (s : State) (g laddr : Nat) : Keeps s (State.checkMake s g laddr) := by
  unfold State.checkMake
  with_reducible
    repeat' first
      | exact Keeps.refl _
      | (apply Mem.wf_of <;> first | exact id | exact Tbl.wf_drop _ _ _ | exact poisSet_wf _ _ | exact Tbl.wf_putAll _ _ _ _ | exact fun _ => Tbl.wf_nil _)
      | extract_lets
      | apply Keeps.leafMem (Eq.refl _) (Eq.refl _) (Eq.refl _) (Eq.refl _)

theorem State.checkMakeCom_keeps (s : State) (g laddr : Nat) : Keeps s (State.checkMakeCom s g laddr) := by
  unfold State.checkMakeCom
  with_reducible
    repeat' first
      | exact Keeps.refl _
      | (apply Mem.wf_of <;> first | exact id | exact Tbl.wf_drop _ _ _ | exact poisSet_wf _ _ | exact Tbl.wf_putAll _ _ _ _ | exact fun _ => Tbl.wf_nil _)
      | extract_lets
      | apply Keeps.leafMem (Eq.refl _) (Eq.refl _) (Eq.refl _) (Eq.refl _)

theorem State.recheck_keeps (s : State) (x n : Nat) : Keeps s (State.recheck s x n) := by
  unfold State.recheck
  with_reducible
    repeat' first
      | exact Keeps.refl _
      | intro x
      | apply Keeps.op (State.checkMake_keeps _ _ _)
      | apply Keeps.each
      | extract_lets
      | split

theorem State.recheckCom_keeps (s : State) (k n : Nat) : Keeps s (State.recheckCom s k n) := by
  unfold State.recheckCom
  with_reducible
    repeat' first
      | exact Keeps.refl _
      | intro x
      | apply Keeps.op (State.checkMakeCom_keeps _ _ _)
      | apply Keeps.each
      | extract_lets
      | split

theorem State.ilvStore_keeps (s : State) (x : Nat) (bs : List Byte) (pois : List Bool) : Keeps s (State.ilvStore s x bs pois) := by
  unfold State.ilvStore
  with_reducible
    repeat' first
      | exact Keeps.refl _
      | apply Keeps.op (State.recheck_keeps _ _ _)
      | apply Keeps.op (State.hbmPoisonLines_keeps _ _)
      | apply Keeps.op (State.ilvWrite_keeps _ _ _)

theorem State.copiesPut_keeps (s : State) (d : TableDesc) (b : Nat) (x : Staged) : Keeps s (State.copiesPut s d b x) := by
  unfold State.copiesPut
  with_reducible
    repeat' first
      | exact Keeps.refl _
      | intro x
      | apply Keeps.op (State.ilvStore_keeps _ _ _ _)
      | apply Keeps.each

theorem State.rowPut_keeps (s : State) (d : TableDesc) (st : Staged) : Keeps s (State.rowPut s d st) := by
  unfold State.rowPut
  with_reducible
    repeat' first
      | exact Keeps.refl _
      | apply Keeps.op (State.copiesPut_keeps _ _ _ _)
      | apply Keeps.op (State.ilvStore_keeps _ _ _ _)
      | extract_lets
      | split
      | apply Keeps.leaf (Eq.refl _) (Eq.refl _) (Eq.refl _) (Eq.refl _) (Eq.refl _)

end Sys2Proof.Machine
end

