-- ==== Sys2Proof/Laws/Host.lean ====
section
/-! SUPPORT. What fetching and completing a host command do: a command that the node takes runs on the state after its fetch, and its
completion writes its entry. -/

namespace Sys2Proof.Machine

/-- The completion queue of `h` has room and no entry waits on it. -/
def State.hasRoom (s : State) (h : HostHdr) : Bool :=
  (Tbl.find s.host.sqs (qKey h.fn h.q)).any (fun sq =>
    (Tbl.find s.host.cqs (qKey h.fn sq.cq)).any (fun cq => cq.enabled && !cqFull cq && cq.waiting.isEmpty))

theorem State.hasRoom_congr {s t : State} (h : HostHdr) (hs : t.host.sqs = s.host.sqs) (hc : t.host.cqs = s.host.cqs) :
    t.hasRoom h = s.hasRoom h := by simp only [State.hasRoom, hs, hc]

/-- What the fetch of an entry leaves: the head of its queue, the list of its running commands and a counter move, nothing else. -/
structure Fetched (s u : State) (h : HostHdr) : Prop where
  rest  : Touches [.regs, .host] s u
  word  : ∀ a, a ≠ kHstSqfetch → a ≠ kHstSqfetch + 4 → u.word a = s.word a
  host  : ∃ sq n, Tbl.find s.host.sqs (qKey h.fn h.q) = some sq ∧ u.host = { s.host with
            sqs := Tbl.set s.host.sqs (qKey h.fn h.q) { sq with head := n, running := sq.running ++ [(h.cid, n)] } }
  room  : u.hasRoom h = true

theorem Fetched.out {s u : State} {h : HostHdr} (f : Fetched s u h) : u.out = s.out := f.rest .out (by decide)
theorem Fetched.work {s u : State} {h : HostHdr} (f : Fetched s u h) : u.work = s.work := f.rest .work (by decide)
theorem Fetched.hw {s u : State} {h : HostHdr} (f : Fetched s u h) : u.hw = s.hw := f.rest .hw (by decide)
theorem Fetched.idx {s u : State} {h : HostHdr} (f : Fetched s u h) : u.idx = s.idx := f.rest .idx (by decide)
theorem Fetched.fab {s u : State} {h : HostHdr} (f : Fetched s u h) : u.fab = s.fab := f.rest .fab (by decide)
theorem Fetched.cas {s u : State} {h : HostHdr} (f : Fetched s u h) : u.cas = s.cas := f.rest .cas (by decide)
theorem Fetched.alloc {s u : State} {h : HostHdr} (f : Fetched s u h) : u.alloc = s.alloc := f.rest .alloc (by decide)
theorem Fetched.mem {s u : State} {h : HostHdr} (f : Fetched s u h) : u.mem = s.mem := f.rest .mem (by decide)
theorem Fetched.tables {s u : State} {h : HostHdr} (f : Fetched s u h) : u.tables = s.tables := f.rest .tables (by decide)
theorem Fetched.chk {s u : State} {h : HostHdr} (f : Fetched s u h) : u.chk = s.chk := f.rest .chk (by decide)
theorem Fetched.flash {s u : State} {h : HostHdr} (f : Fetched s u h) : u.flash = s.flash := f.rest .flash (by decide)
theorem Fetched.comp {s u : State} {h : HostHdr} (f : Fetched s u h) : u.comp = s.comp := f.rest .comp (by decide)
theorem Fetched.pwr {s u : State} {h : HostHdr} (f : Fetched s u h) : u.pwr = s.pwr := f.rest .pwr (by decide)
theorem Fetched.nrg {s u : State} {h : HostHdr} (f : Fetched s u h) : u.nrg = s.nrg := f.rest .nrg (by decide)
theorem Fetched.boot {s u : State} {h : HostHdr} (f : Fetched s u h) : u.boot = s.boot := f.rest .boot (by decide)
theorem Fetched.uptime {s u : State} {h : HostHdr} (f : Fetched s u h) : u.uptime = s.uptime := f.rest .uptime (by decide)

theorem Fetched.fld {s u : State} {h : HostHdr} (f : Fetched s u h) (x : FieldAt) (h1 : x.addr + 8 ≤ kHstSqfetch ∨ kHstSqfetch + 8 ≤ x.addr) :
    u.fld x = s.fld x :=
  State.fld_of_words _ _ _ (f.word _ (by omega) (by omega)) (f.word _ (by omega) (by omega))

theorem Fetched.binds {s u : State} {h : HostHdr} (f : Fetched s u h) : u.host.binds = s.host.binds := by
  obtain ⟨_, _, _, e⟩ := f.host; rw [e]
theorem Fetched.cqs {s u : State} {h : HostHdr} (f : Fetched s u h) : u.host.cqs = s.host.cqs := by
  obtain ⟨_, _, _, e⟩ := f.host; rw [e]
theorem Fetched.waits {s u : State} {h : HostHdr} (f : Fetched s u h) : u.host.waits = s.host.waits := by
  obtain ⟨_, _, _, e⟩ := f.host; rw [e]
theorem Fetched.findSq {s u : State} {h : HostHdr} (f : Fetched s u h) (k : Nat) (hk : k ≠ qKey h.fn h.q) :
    Tbl.find u.host.sqs k = Tbl.find s.host.sqs k := by
  obtain ⟨_, _, _, e⟩ := f.host; rw [e]; exact Tbl.find_set_ne _ _ _ _ hk

/-- A host command that the node takes runs on the state after its fetch. -/
theorem State.hostRun_of_takes (s : State) (h : HostHdr) (ht : s.takes h = true) :
    ∃ u, Fetched s u h ∧ ∀ f : State → Outcome, s.hostRun h f = f u := by
  simp only [State.takes, Bool.and_eq_true, beq_iff_eq, Bool.not_eq_true', Option.any_eq_true] at ht
  obtain ⟨⟨⟨⟨hs, hfn⟩, hp⟩, hw⟩, sq, hsq, ⟨hen, hne⟩, cq, hcq, ⟨hce, hcf⟩, hcw⟩ := ht
  have hne' : (sq.head == sq.tail) = false := by simpa using hne
  let n := if sq.head + 1 == sq.depth then 0 else sq.head + 1
  let u := (s.setSq (qKey h.fn h.q) { sq with head := n, running := sq.running ++ [(h.cid, n)] }).count kHstSqfetch 1
  have hf : s.fetch h true = some u := by
    simp [State.fetch, hs, hsq, hcq, hen, hne', hcf, hce, hw, u, n]
  have hh : u.host = { s.host with sqs := Tbl.set s.host.sqs (qKey h.fn h.q) { sq with head := n, running := sq.running ++ [(h.cid, n)] } } := by
    simp [u, State.setSq]
  refine ⟨u, ⟨?_, ?_, ⟨sq, n, hsq, hh⟩, ?_⟩, ?_⟩
  · intro p hp
    cases p <;> first | exact absurd (by decide) hp | rfl
  · intro a h1 h2
    exact State.word_count_ne _ _ _ _ h1 h2
  · simp [State.hasRoom, hh, Tbl.find_set_same, hcq, hce, hcf, hcw]
  · intro f
    have hfn' : u.host.pcieOnly = false := by rw [hh]; exact hp
    simp [State.hostRun, hf, hfn', State.vfAdmit, hfn]

/-! ## Completion -/

/-- Completing a command whose completion queue has room writes its entry at once, after its result bytes if there are any. -/
theorem State.completeOne_drove (u : State) (h : HostHdr) (st : Status) (bs inl : List Byte) (hr : u.hasRoom h = true) :
    ∃ q slot phase head, (u.completeOne h st bs inl).out =
      Out.cqe h.fn q slot phase ⟨h.cid, st, h.q, head, bs.length, padTo 16 inl⟩
        :: (if bs.isEmpty then u.out else Out.result h.fn h.q h.cid bs :: u.out) := by
  simp only [State.hasRoom, Option.any_eq_true, Bool.and_eq_true, Bool.not_eq_true'] at hr
  obtain ⟨sq, hsq, cq, hcq, ⟨hce, hcf⟩, hcw⟩ := hr
  refine ⟨sq.cq, cq.tail, cq.phase, ((sq.running.find? (fun r => r.1 == h.cid)).map (·.2)).getD sq.head, ?_⟩
  cases hb : bs.isEmpty <;> simp [State.completeOne, hsq, hb, State.cqPost, hcq, hce, hcf, hcw, State.cqWrite]

theorem State.complete_drove (u : State) (h : HostHdr) (st : Status) (bs inl : List Byte) (hr : u.hasRoom h = true) :
    ∃ more q slot phase head, (u.complete h st bs inl).out = more ++
      Out.cqe h.fn q slot phase ⟨h.cid, st, h.q, head, bs.length, padTo 16 inl⟩
        :: (if bs.isEmpty then u.out else Out.result h.fn h.q h.cid bs :: u.out) := by
  obtain ⟨q, slot, phase, head, e⟩ := u.completeOne_drove h st bs inl hr
  have k : Keeps (u.completeOne h st bs inl) (u.complete h st bs inl) := by
    unfold State.complete
    exact Keeps.foldl _ _ (fun v w => State.settleSq_keeps v w) (Keeps.refl _)
  obtain ⟨more, hm⟩ := k.out
  exact ⟨more, q, slot, phase, head, by rw [← hm, e]⟩

theorem State.completeSt_answered (s u : State) (h : HostHdr) (st : Status) (hr : u.hasRoom h = true) (ho : u.out = s.out) :
    answered s (u.completeSt h st) h st := by
  obtain ⟨more, q, slot, phase, head, e⟩ := u.complete_drove h st [] [] hr
  refine ⟨more ++ [Out.cqe h.fn q slot phase ⟨h.cid, st, h.q, head, 0, padTo 16 []⟩], ?_, q, slot, phase,
    ⟨h.cid, st, h.q, head, 0, padTo 16 []⟩, by simp, rfl, rfl, rfl⟩
  simp only [drove, State.completeSt, e, List.isEmpty_nil, if_true, ho, List.append_assoc, List.cons_append, List.nil_append, List.length_nil]

theorem State.complete_answeredInline (s u : State) (h : HostHdr) (st : Status) (inl : List Byte) (hr : u.hasRoom h = true)
    (ho : u.out = s.out) : answeredInline s (u.complete h st [] inl) h st inl := by
  obtain ⟨more, q, slot, phase, head, e⟩ := u.complete_drove h st [] inl hr
  refine ⟨more ++ [Out.cqe h.fn q slot phase ⟨h.cid, st, h.q, head, 0, padTo 16 inl⟩], ?_, q, slot, phase,
    ⟨h.cid, st, h.q, head, 0, padTo 16 inl⟩, by simp, rfl, rfl, rfl, rfl⟩
  simp only [drove, e, List.isEmpty_nil, if_true, ho, List.append_assoc, List.cons_append, List.nil_append, List.length_nil]

theorem State.complete_answeredWith (s u : State) (h : HostHdr) (st : Status) (bs inl : List Byte) (hr : u.hasRoom h = true)
    (ho : u.out = s.out) : answeredWith s (u.complete h st bs inl) h st bs := by
  obtain ⟨more, q, slot, phase, head, e⟩ := u.complete_drove h st bs inl hr
  let ce : Cqe := ⟨h.cid, st, h.q, head, bs.length, padTo 16 inl⟩
  cases hb : bs with
  | nil =>
    refine ⟨more ++ [Out.cqe h.fn q slot phase ce], ?_, fun x => absurd rfl x, q, slot, phase, ce, by simp, rfl, rfl, rfl, ?_⟩
    · subst hb; simpa [drove, ho, ce] using e
    · subst hb; rfl
  | cons b r =>
    refine ⟨more ++ [Out.cqe h.fn q slot phase ce, Out.result h.fn h.q h.cid (b :: r)], ?_, fun _ => by simp, q, slot, phase, ce, by simp,
      rfl, rfl, rfl, ?_⟩
    · subst hb; simpa [drove, ho, ce] using e
    · subst hb; rfl

/-! ## What completing leaves of the host port -/

/-- The bindings, the commands that wait and the port's mode stay as they are when an entry is posted. -/
structure Posted (s t : State) : Prop where
  binds : t.host.binds = s.host.binds
  mode  : t.host.pcieOnly = s.host.pcieOnly

theorem Posted.refl (s : State) : Posted s s := ⟨rfl, rfl⟩
theorem Posted.trans {s t u : State} (h : Posted s t) (g : Posted t u) : Posted s u := ⟨g.binds.trans h.binds, g.mode.trans h.mode⟩

theorem State.cqPost_posted (s : State) (fn q : Nat) (e : Cqe) : Posted s (s.cqPost fn q e) ∧ (s.cqPost fn q e).host.waits = s.host.waits
    ∧ (s.cqPost fn q e).host.sqs = s.host.sqs ∧ ∀ k, k ≠ qKey fn q → Tbl.find (s.cqPost fn q e).host.cqs k = Tbl.find s.host.cqs k := by
  unfold State.cqPost
  split
  · exact ⟨Posted.refl s, rfl, rfl, fun _ _ => rfl⟩
  · split
    · exact ⟨⟨rfl, rfl⟩, rfl, rfl, fun k hk => Tbl.find_set_ne _ _ _ _ hk⟩
    · refine ⟨⟨?_, ?_⟩, ?_, ?_, fun k hk => ?_⟩ <;> simp [State.cqWrite, State.setCq]
      exact Tbl.find_set_ne _ _ _ _ hk

theorem State.completeOne_posted (s : State) (h : HostHdr) (st : Status) (bs inl : List Byte) :
    Posted s (s.completeOne h st bs inl) ∧ (s.completeOne h st bs inl).host.waits = s.host.waits
    ∧ (∀ k, k ≠ qKey h.fn h.q → Tbl.find (s.completeOne h st bs inl).host.sqs k = Tbl.find s.host.sqs k)
    ∧ (∀ k, (∀ sq, Tbl.find s.host.sqs (qKey h.fn h.q) = some sq → k ≠ qKey h.fn sq.cq) →
        Tbl.find (s.completeOne h st bs inl).host.cqs k = Tbl.find s.host.cqs k) := by
  unfold State.completeOne
  split
  · exact ⟨Posted.refl s, rfl, fun _ _ => rfl, fun _ _ => rfl⟩
  · rename_i sq hsq
    extract_lets head t u
    have hu : u.host = t.host := by simp only [u]; split <;> rfl
    obtain ⟨p, w, q, c⟩ := u.cqPost_posted h.fn sq.cq ⟨h.cid, st, h.q, head, bs.length, padTo 16 inl⟩
    refine ⟨⟨p.binds.trans (by rw [hu]; rfl), p.mode.trans (by rw [hu]; rfl)⟩, w.trans (by rw [hu]; rfl), fun k hk => ?_, fun k hk => ?_⟩
    · rw [q, hu]; exact Tbl.find_set_ne _ _ _ _ hk
    · rw [c k (hk sq hsq), hu]; rfl

theorem State.settleSq_posted (s : State) (w : HostHdr × HostWait) : Posted s (s.settleSq w) := by
  unfold State.settleSq
  split
  · split
    · exact Posted.refl s
    · split
      · refine Posted.trans ?_ (State.completeOne_posted _ _ _ _ _).1
        exact ⟨rfl, rfl⟩
      · exact Posted.refl s
  · exact Posted.refl s

theorem State.complete_posted (s : State) (h : HostHdr) (st : Status) (bs inl : List Byte) : Posted s (s.complete h st bs inl) := by
  unfold State.complete
  have fold : ∀ (l : List (HostHdr × HostWait)) (v : State), Posted s v → Posted s (l.foldl State.settleSq v) := by
    intro l
    induction l with
    | nil => exact fun v hv => hv
    | cons w r ih => exact fun v hv => ih _ (hv.trans (v.settleSq_posted w))
  exact fold _ _ (s.completeOne_posted h st bs inl).1

/-- With no DELETE_SQ waiting, completing a command settles nothing else. -/
theorem State.complete_quiet (s : State) (h : HostHdr) (st : Status) (bs inl : List Byte)
    (hw : ∀ w ∈ s.host.waits, ∀ fn q, w.2 ≠ .delSq fn q) : s.complete h st bs inl = s.completeOne h st bs inl := by
  unfold State.complete
  have e := (s.completeOne_posted h st bs inl).2.1
  have fold : ∀ (l : List (HostHdr × HostWait)) (v : State), (∀ w ∈ l, ∀ fn q, w.2 ≠ .delSq fn q) → l.foldl State.settleSq v = v := by
    intro l
    induction l with
    | nil => exact fun _ _ => rfl
    | cons w r ih =>
      intro v hl
      have hv : v.settleSq w = v := by
        unfold State.settleSq
        split
        · rename_i fn q hq; exact absurd hq (hl w (by simp) fn q)
        · rfl
      rw [List.foldl_cons, hv]
      exact ih v (fun x hx => hl x (by simp [hx]))
  simp only [e]
  exact fold _ _ hw

end Sys2Proof.Machine
end

