-- ==== Sys2Proof/Laws/Keep2.lean ====
section
/-! SUPPORT. What the operations and commands of cores, the flash side, indexes, searches, steps and updates keep: one lemma each (Laws/Keep.lean). -/

namespace Sys2Proof.Machine

/-! ## Cores -/

theorem State.onCore_keeps (s : State) (core : Nat) (f : Nat → Lease → Step → State → Outcome) (hf : ∀ (x0 : Nat) (x1 : Lease) (x2 :
    Step) (x3 : State), KeepsO x3 (f x0 x1 x2 x3)) : KeepsO s (State.onCore s core f) := by
  unfold State.onCore
  with_reducible
    repeat' first
      | exact Keeps.refl _
      | apply KeepsO.next
      | apply KeepsO.op (hf _ _ _ _)
      | split

theorem State.stopStep_keeps (s : State) (l : Nat) (st : Status) : Keeps s (State.stopStep s l st) := by
  unfold State.stopStep
  with_reducible
    repeat' first
      | exact Keeps.refl _
      | apply Keeps.op (State.abortFree_keeps _ _ _)

theorem State.readAt_keeps (s : State) (core l : Nat) (x : Lease) (p : Step) (i : Instr) (hit : Nat → Bool) (full : Bool) (go : State →
    State) (hf : ∀ (x0 : State), Keeps x0 (go x0)) {z : State} (hz : Keeps z s) : Keeps z (State.readAt s core l x p i hit full go) :=
    by
  unfold State.readAt
  with_reducible
    repeat' first
      | (apply Zone.clear; decide)
      | assumption
      | apply Keeps.past (State.freezeLease_touches _ _ _ _)
      | apply Keeps.past (State.modStep_touches _ _ _)
      | apply Keeps.past (State.setCore_touches _ _ _)
      | apply Keeps.op (hf _)
      | extract_lets
      | split

theorem State.wakeLease_keeps (s : State) (l : Nat) (go : Instr → State → State) (hf : ∀ (x0 : Instr) (x1 : State), Keeps x1 (go x0 x1))
    {z : State} (hz : Keeps z s) : Keeps z (State.wakeLease s l go) := by
  unfold State.wakeLease
  with_reducible
    repeat' first
      | (apply Zone.clear; decide)
      | assumption
      | apply Keeps.past (State.thawLease_touches _ _)
      | apply Keeps.past (State.setCore_touches _ _ _)
      | apply Keeps.op (hf _ _)
      | extract_lets
      | split

theorem State.drainWrite_keeps (s : State) (core base perLine : Nat) (bs : List Byte) (pois : List Bool) : Keeps s (State.drainWrite s
    core base perLine bs pois) := by
  unfold State.drainWrite
  with_reducible
    repeat' first
      | exact Keeps.refl _
      | apply Keeps.op (State.storeFill_keeps _ _ _ _ _)
      | apply Keeps.op (State.storePoisonLines_keeps _ _)
      | apply Keeps.op (State.storeWrite_keeps _ _ _ _)

theorem State.requant_keeps (s : State) (core a : Nat) (d : TileDesc) (rmcfg : Nat) (acc : List Int) (pois : List Bool) : Keeps s
    (State.requant s core a d rmcfg acc pois) := by
  unfold State.requant
  with_reducible
    repeat' first
      | (apply Zone.clear; decide)
      | exact Keeps.refl _
      | intro x
      | apply Keeps.op (State.drainWrite_keeps _ _ _ _ _ _)
      | apply Keeps.past (State.setCore_touches _ _ _)
      | apply Keeps.each
      | apply Keeps.past (State.setWord_touches _ _ _)

theorem State.drainArray_keeps (s : State) (core a : Nat) (d : TileDesc) (rmcfg : Nat) (acc : List Int) (pois : List Bool) : Keeps s
    (State.drainArray s core a d rmcfg acc pois) := by
  unfold State.drainArray
  with_reducible
    repeat' first
      | exact Keeps.refl _
      | apply Keeps.op (State.requant_keeps _ _ _ _ _ _ _)
      | apply Keeps.op (State.drainWrite_keeps _ _ _ _ _ _)
      | split

theorem State.tileGo_keeps (s : State) (core : Nat) (l : Nat) (x : Lease) (p : Step) (d : TileDesc) (errs : List CellErr) (par : List
    FeedPar) : Keeps s (State.tileGo s core l x p d errs par) := by
  unfold State.tileGo
  with_reducible
    repeat' first
      | (apply Zone.clear; decide)
      | exact Keeps.refl _
      | intro x
      | apply Keeps.past (State.markRm_touches _ _)
      | apply Keeps.past (State.feedReplays_touches _ _ _ _)
      | apply Keeps.past (State.tileTime_touches _ _ _)
      | apply Keeps.past (State.tileCheck_touches _ _ _ _ _ _)
      | apply Keeps.op (State.drainArray_keeps _ _ _ _ _ _ _)
      | apply Keeps.past (State.setOvf_touches _ _ _ _)
      | apply Keeps.past (State.usePoison_touches _ _ _ _)
      | apply Keeps.past (State.setCore_touches _ _ _)
      | apply Keeps.each
      | apply Keeps.past (State.event_touches _ _ _)
      | apply Keeps.past (State.count_touches _ _ _)
      | extract_lets
      | split
      | dsimp +zetaDelta only

theorem State.tileWrong_keeps (s : State) (core rule : Nat) (d : TileDesc) : Keeps s (State.tileWrong s core rule d) := by
  unfold State.tileWrong
  with_reducible
    repeat' first
      | (apply Zone.clear; decide)
      | exact Keeps.refl _
      | apply Keeps.past (State.cyc_touches _ _ _)
      | apply Keeps.past (State.setCore_touches _ _ _)
      | apply Keeps.op (State.hostErr_keeps _ _)
      | extract_lets
      | apply Keeps.leafFree (Eq.refl _) (Eq.refl _) (Eq.refl _) (Eq.refl _)

theorem State.tileTry_keeps (s : State) (core l : Nat) (x : Lease) (p : Step) (d : TileDesc) (e : TileEnv) : Keeps s (State.tileTry s
    core l x p d e) := by
  unfold State.tileTry
  with_reducible
    repeat' first
      | exact Keeps.refl _
      | intro x
      | apply Keeps.op (State.tileGo_keeps _ _ _ _ _ _ _ _)
      | apply State.readAt_keeps

theorem execTile_keeps (core : Nat) (d : TileDesc) (e : TileEnv) (s : State) : KeepsO s (execTile core d e s) := by
  unfold execTile
  with_reducible
    repeat' first
      | exact Keeps.refl _
      | intro x
      | apply KeepsO.next
      | apply Keeps.op (State.tileTry_keeps _ _ _ _ _ _ _)
      | apply Keeps.op (State.tileWrong_keeps _ _ _ _)
      | apply State.onCore_keeps
      | extract_lets
      | split

theorem State.land_keeps (s : State) (core a : Nat) (bs : List Byte) (pois : List Bool) : Keeps s (State.land s core a bs pois) := by
  unfold State.land
  with_reducible
    repeat' first
      | exact Keeps.refl _
      | apply Keeps.op (State.storeFill_keeps _ _ _ _ _)
      | apply Keeps.op (State.storePoisonLines_keeps _ _)
      | apply Keeps.op (State.storeWrite_keeps _ _ _ _)

theorem execFill_keeps (core : Nat) (f : Xfer) (s : State) : KeepsO s (execFill core f s) := by
  unfold execFill
  with_reducible
    repeat' first
      | (apply Zone.clear; decide)
      | exact Keeps.refl _
      | intro x
      | apply KeepsO.next
      | apply Keeps.op (State.land_keeps _ _ _ _ _)
      | apply Keeps.op (State.stopStep_keeps _ _ _)
      | apply Keeps.past (State.cyc_touches _ _ _)
      | apply State.onCore_keeps
      | apply Keeps.past (State.tier_touches _ _ _)
      | apply Keeps.past (State.setCore_touches _ _ _)
      | apply Keeps.past (State.request_touches _ _ _ _ _ _ _)
      | apply Keeps.op (State.hostErr_keeps _ _)
      | apply Keeps.op (State.emit_keeps _ _)
      | extract_lets
      | split
      | apply Keeps.leaf (Eq.refl _) (Eq.refl _) (Eq.refl _) (Eq.refl _) (Eq.refl _)

theorem State.poisonSource_keeps (s : State) (a n : Nat) : Keeps s (State.poisonSource s a n) := by
  unfold State.poisonSource
  with_reducible
    repeat' first
      | exact Keeps.refl _
      | (apply Mem.wf_of <;> first | exact id | exact Tbl.wf_drop _ _ _ | exact poisSet_wf _ _ | exact Tbl.wf_putAll _ _ _ _ | exact fun _ => Tbl.wf_nil _)
      | apply Keeps.op (State.hbmPoisonLines_keeps _ _)
      | extract_lets
      | split
      | apply Keeps.leafMem (Eq.refl _) (Eq.refl _) (Eq.refl _) (Eq.refl _)

theorem State.verifyFill_keeps (s : State) (l : Nat) (f : Xfer) (cs : List (Nat × Nat × Nat)) (bs : List Byte) (pois : List Bool) (e :
    PathEnv) : Keeps s (State.verifyFill s l f cs bs pois e).1 := by
  unfold State.verifyFill
  repeat' split
  all_goals with_reducible
    repeat' first
      | (apply Zone.clear; decide)
      | exact Keeps.refl _
      | intro x
      | apply Keeps.op (State.poisonSource_keeps _ _ _)
      | apply Keeps.op (State.raise_keeps _ _ _ _)
      | apply Keeps.past (State.count_touches _ _ _)
      | apply Keeps.foldl1
      | extract_lets
      | split

theorem State.pathParity_keeps (s : State) (l : Nat) (e : PathEnv) : Keeps s (State.pathParity s l e) := by
  unfold State.pathParity
  with_reducible
    repeat' first
      | (apply Zone.clear; decide)
      | exact Keeps.refl _
      | apply Keeps.op (State.raise_keeps _ _ _ _)
      | apply Keeps.past (State.count_touches _ _ _)
      | extract_lets
      | split

theorem State.sinkData_keeps (s : State) (x : Lease) (p : Step) (f : Xfer) (bs : List Byte) (pois : List Bool) : Keeps s (State.sinkData
    s x p f bs pois) := by
  unfold State.sinkData
  with_reducible
    repeat' first
      | (apply Zone.clear; decide)
      | exact Keeps.refl _
      | (apply Mem.wf_of <;> first | exact id | exact Tbl.wf_drop _ _ _ | exact poisSet_wf _ _ | exact Tbl.wf_putAll _ _ _ _ | exact fun _ => Tbl.wf_nil _)
      | intro x
      | apply Keeps.op (State.land_keeps _ _ _ _ _)
      | apply Keeps.op (State.ilvStore_keeps _ _ _ _)
      | apply Keeps.op (State.recheckCom_keeps _ _ _)
      | apply Keeps.op (State.checkMakeCom_keeps _ _ _)
      | apply Keeps.op (State.checkMake_keeps _ _ _)
      | apply Keeps.past (State.request_touches _ _ _ _ _ _ _)
      | apply Keeps.op (State.commonsWrite_keeps _ _ _)
      | apply Keeps.op (State.hbmPoisonLines_keeps _ _)
      | apply Keeps.op (State.chWrite_keeps _ _ _ _)
      | apply Keeps.each
      | apply Keeps.op (State.emit_keeps _ _)
      | extract_lets
      | split
      | apply Keeps.leafMem (Eq.refl _) (Eq.refl _) (Eq.refl _) (Eq.refl _)

theorem State.sendGo_keeps (s : State) (core l : Nat) (x : Lease) (p : Step) (f : Xfer) (e : PathEnv) : Keeps s (State.sendGo s core l x
    p f e) := by
  unfold State.sendGo
  with_reducible
    repeat' first
      | (apply Zone.clear; decide)
      | exact Keeps.refl _
      | apply Keeps.op (State.sinkData_keeps _ _ _ _ _ _)
      | apply Keeps.op (State.pathParity_keeps _ _ _)
      | apply Keeps.op (State.verifyFill_keeps _ _ _ _ _ _ _)
      | apply Keeps.op (State.stopStep_keeps _ _ _)
      | apply Keeps.past (State.tier_touches _ _ _)
      | extract_lets
      | split

theorem State.sendTry_keeps (s : State) (core l : Nat) (x : Lease) (p : Step) (f : SendOp) : Keeps s (State.sendTry s core l x p f) := by
  unfold State.sendTry
  with_reducible
    repeat' first
      | exact Keeps.refl _
      | intro x
      | apply Keeps.op (State.sendGo_keeps _ _ _ _ _ _ _)
      | apply State.readAt_keeps

theorem State.planPost_keeps (s : State) (core l : Nat) (x : Lease) (b : PlanPost) : Keeps s (State.planPost s core l x b) := by
  unfold State.planPost
  with_reducible
    repeat' first
      | (apply Zone.clear; decide)
      | exact Keeps.refl _
      | apply Keeps.past (State.setConn_touches _ _ _)
      | apply Keeps.op (State.hostErr_keeps _ _)
      | split

theorem execStreamSend_keeps (core : Nat) (f : SendOp) (s : State) : KeepsO s (execStreamSend core f s) := by
  unfold execStreamSend
  with_reducible
    repeat' first
      | (apply Zone.clear; decide)
      | exact Keeps.refl _
      | intro x
      | apply KeepsO.next
      | apply Keeps.op (State.planPost_keeps _ _ _ _ _)
      | apply Keeps.op (State.sendTry_keeps _ _ _ _ _ _)
      | apply Keeps.past (State.cyc_touches _ _ _)
      | apply State.onCore_keeps
      | apply Keeps.op (State.hostErr_keeps _ _)
      | extract_lets
      | split

theorem execGather_keeps (core : Nat) (g : GsCmd) (remote : List RowData) (s : State) : KeepsO s (execGather core g remote s) := by
  unfold execGather
  with_reducible
    repeat' first
      | (apply Zone.clear; decide)
      | exact Keeps.refl _
      | intro x
      | apply KeepsO.next
      | apply Keeps.past (State.touchAll_touches _ _ _)
      | apply Keeps.op (State.land_keeps _ _ _ _ _)
      | apply Keeps.op (State.stopStep_keeps _ _ _)
      | apply Keeps.past (State.usePoisonAddr_touches _ _ _)
      | apply Keeps.past (State.cyc_touches _ _ _)
      | apply State.onCore_keeps
      | apply Keeps.past (State.tier_touches _ _ _)
      | apply Keeps.op (State.storeFill_keeps _ _ _ _ _)
      | apply Keeps.op (State.storeWrite_keeps _ _ _ _)
      | apply Keeps.op (State.hostErr_keeps _ _)
      | apply Keeps.foldl
      | extract_lets
      | split
      | dsimp +zetaDelta only

theorem State.scatterGo_keeps (s : State) (core l : Nat) (x : Lease) (p : Step) (g : GsCmd) (d : TableDesc) (remote : List RowData) :
    Keeps s (State.scatterGo s core l x p g d remote) := by
  unfold State.scatterGo
  with_reducible
    repeat' first
      | (apply Zone.clear; decide)
      | exact Keeps.refl _
      | apply Keeps.past (State.touchAll_touches _ _ _)
      | apply Keeps.op (State.stopStep_keeps _ _ _)
      | apply Keeps.past (State.usePoisonAddr_touches _ _ _)
      | apply Keeps.past (State.tier_touches _ _ _)
      | apply Keeps.past (State.modStep_touches _ _ _)
      | apply Keeps.op (State.storeFill_keeps _ _ _ _ _)
      | apply Keeps.op (State.storeWrite_keeps _ _ _ _)
      | extract_lets
      | split

theorem State.scatterTry_keeps (s : State) (core l : Nat) (x : Lease) (p : Step) (g : GsCmd) (d : TableDesc) (remote : List RowData) :
    Keeps s (State.scatterTry s core l x p g d remote) := by
  unfold State.scatterTry
  with_reducible
    repeat' first
      | exact Keeps.refl _
      | intro x
      | apply Keeps.op (State.scatterGo_keeps _ _ _ _ _ _ _ _)
      | apply State.readAt_keeps

theorem execScatter_keeps (core : Nat) (g : GsCmd) (remote : List RowData) (s : State) : KeepsO s (execScatter core g remote s) := by
  unfold execScatter
  with_reducible
    repeat' first
      | (apply Zone.clear; decide)
      | exact Keeps.refl _
      | intro x
      | apply KeepsO.next
      | apply Keeps.op (State.scatterTry_keeps _ _ _ _ _ _ _ _)
      | apply Keeps.op (State.stopStep_keeps _ _ _)
      | apply Keeps.past (State.cyc_touches _ _ _)
      | apply State.onCore_keeps
      | apply Keeps.op (State.hostErr_keeps _ _)
      | extract_lets
      | split

theorem execBranch_keeps (l pos addr : Nat) (s : State) : KeepsO s (execBranch l pos addr s) := by
  unfold execBranch
  with_reducible
    repeat' first
      | (apply Zone.clear; decide)
      | exact Keeps.refl _
      | intro x
      | apply KeepsO.next
      | apply Keeps.past (State.branchTry_touches _ _ _ _ _ _ _)
      | apply Keeps.past (State.cyc_touches _ _ _)
      | apply Keeps.past (State.modStep_touches _ _ _)
      | apply Keeps.each
      | apply Keeps.op (State.hostErr_keeps _ _)
      | extract_lets
      | split

theorem State.resume_keeps (s : State) (i : Instr) : Keeps s (State.resume s i) := by
  unfold State.resume
  with_reducible
    repeat' first
      | (apply Zone.clear; decide)
      | exact Keeps.refl _
      | intro x
      | apply Keeps.past (State.branchTry_touches _ _ _ _ _ _ _)
      | apply Keeps.op (State.scatterTry_keeps _ _ _ _ _ _ _ _)
      | apply Keeps.op (State.sendTry_keeps _ _ _ _ _ _)
      | apply Keeps.op (State.tileTry_keeps _ _ _ _ _ _ _)
      | apply Keeps.elim
      | extract_lets
      | split
      | dsimp +zetaDelta only

theorem State.goOn_keeps (s : State) (l : Nat) : Keeps s (State.goOn s l) := by
  unfold State.goOn
  with_reducible
    repeat' first
      | exact Keeps.refl _
      | intro x
      | apply Keeps.op (State.resume_keeps _ _)
      | apply State.wakeLease_keeps

theorem State.landFill_keeps (s : State) (core l : Nat) (x : Lease) (f : Xfer) (bs : List Byte) (pois : List Bool) (e : PathEnv) : Keeps
    s (State.landFill s core l x f bs pois e) := by
  unfold State.landFill
  with_reducible
    repeat' first
      | (apply Zone.clear; decide)
      | exact Keeps.refl _
      | apply Keeps.op (State.goOn_keeps _ _)
      | apply Keeps.op (State.pathParity_keeps _ _ _)
      | apply Keeps.op (State.verifyFill_keeps _ _ _ _ _ _ _)
      | apply Keeps.op (State.land_keeps _ _ _ _ _)
      | apply Keeps.past (State.setCore_touches _ _ _)
      | extract_lets
      | apply Keeps.leaf (Eq.refl _) (Eq.refl _) (Eq.refl _) (Eq.refl _) (Eq.refl _)

theorem execFillComplete_keeps (core id : Nat) (e : FillEnv) (s : State) : KeepsO s (execFillComplete core id e s) := by
  unfold execFillComplete
  with_reducible
    repeat' first
      | (apply Zone.clear; decide)
      | exact Keeps.refl _
      | apply KeepsO.next
      | apply Keeps.op (State.landFill_keeps _ _ _ _ _ _ _ _)
      | apply Keeps.past (State.tier_touches _ _ _)
      | apply Keeps.op (State.cper_keeps _ _)
      | extract_lets
      | split
      | dsimp +zetaDelta only

theorem execPoolReadTimeout_keeps (core id : Nat) (s : State) : KeepsO s (execPoolReadTimeout core id s) := by
  unfold execPoolReadTimeout
  with_reducible
    repeat' first
      | (apply Zone.clear; decide)
      | exact Keeps.refl _
      | apply KeepsO.next
      | apply Keeps.op (State.landFill_keeps _ _ _ _ _ _ _ _)
      | apply Keeps.past (State.tier_touches _ _ _)
      | split

theorem execRelease_keeps (core first count : Nat) (s : State) : KeepsO s (execRelease core first count s) := by
  unfold execRelease
  with_reducible
    repeat' first
      | (apply Zone.clear; decide)
      | exact Keeps.refl _
      | intro x
      | apply KeepsO.next
      | apply Keeps.past (State.cyc_touches _ _ _)
      | apply State.onCore_keeps
      | apply Keeps.op (State.storeFill_keeps _ _ _ _ _)
      | apply Keeps.op (State.hostErr_keeps _ _)
      | extract_lets
      | split

theorem execScaleld_keeps (core base addr : Nat) (s : State) : KeepsO s (execScaleld core base addr s) := by
  unfold execScaleld
  with_reducible
    repeat' first
      | (apply Zone.clear; decide)
      | exact Keeps.refl _
      | intro x
      | apply KeepsO.next
      | apply Keeps.past (State.putScales_touches _ _ _ _)
      | apply Keeps.past (State.usePoison_touches _ _ _ _)
      | apply Keeps.past (State.cyc_touches _ _ _)
      | apply State.onCore_keeps
      | apply Keeps.op (State.hostErr_keeps _ _)
      | extract_lets
      | split
      | apply Keeps.leafFree (Eq.refl _) (Eq.refl _) (Eq.refl _) (Eq.refl _)

theorem execRmslot_keeps (core array slot : Nat) (s : State) : KeepsO s (execRmslot core array slot s) := by
  unfold execRmslot
  with_reducible
    repeat' first
      | (apply Zone.clear; decide)
      | exact Keeps.refl _
      | intro x
      | apply KeepsO.next
      | apply Keeps.past (State.markRm_touches _ _)
      | apply Keeps.past (State.cyc_touches _ _ _)
      | apply State.onCore_keeps
      | apply Keeps.past (State.setCore_touches _ _ _)
      | apply Keeps.op (State.hostErr_keeps _ _)
      | extract_lets
      | split

theorem execRmseed_keeps (core array addr : Nat) (s : State) : KeepsO s (execRmseed core array addr s) := by
  unfold execRmseed
  with_reducible
    repeat' first
      | (apply Zone.clear; decide)
      | exact Keeps.refl _
      | intro x
      | apply KeepsO.next
      | apply Keeps.past (State.markRm_touches _ _)
      | apply Keeps.past (State.usePoison_touches _ _ _ _)
      | apply Keeps.past (State.cyc_touches _ _ _)
      | apply State.onCore_keeps
      | apply Keeps.past (State.setCore_touches _ _ _)
      | apply Keeps.op (State.hostErr_keeps _ _)
      | extract_lets
      | split
      | apply Keeps.leafFree (Eq.refl _) (Eq.refl _) (Eq.refl _) (Eq.refl _)

theorem execFlagrd_keeps (core base addr : Nat) (s : State) : KeepsO s (execFlagrd core base addr s) := by
  unfold execFlagrd
  with_reducible
    repeat' first
      | (apply Zone.clear; decide)
      | exact Keeps.refl _
      | intro x
      | apply KeepsO.next
      | apply Keeps.past (State.cyc_touches _ _ _)
      | apply State.onCore_keeps
      | apply Keeps.op (State.storeWrite_keeps _ _ _ _)
      | apply Keeps.op (State.hostErr_keeps _ _)
      | extract_lets
      | split

theorem execTkopen_keeps (core k : Nat) (maxMode : Bool) (s : State) : KeepsO s (execTkopen core k maxMode s) := by
  unfold execTkopen
  with_reducible
    repeat' first
      | (apply Zone.clear; decide)
      | exact Keeps.refl _
      | intro x
      | apply KeepsO.next
      | apply Keeps.past (State.cyc_touches _ _ _)
      | apply State.onCore_keeps
      | apply Keeps.past (State.setCore_touches _ _ _)
      | apply Keeps.op (State.hostErr_keeps _ _)
      | extract_lets
      | split

theorem execTkoffer_keeps (core : Nat) (e : TkEntry) (s : State) : KeepsO s (execTkoffer core e s) := by
  unfold execTkoffer
  with_reducible
    repeat' first
      | (apply Zone.clear; decide)
      | exact Keeps.refl _
      | intro x
      | apply KeepsO.next
      | apply Keeps.past (State.cyc_touches _ _ _)
      | apply State.onCore_keeps
      | apply Keeps.past (State.setCore_touches _ _ _)
      | apply Keeps.op (State.hostErr_keeps _ _)
      | apply Keeps.past (State.count_touches _ _ _)
      | extract_lets
      | split

theorem execTkclose_keeps (core ctx : Nat) (s : State) : KeepsO s (execTkclose core ctx s) := by
  unfold execTkclose
  with_reducible
    repeat' first
      | (apply Zone.clear; decide)
      | exact Keeps.refl _
      | intro x
      | apply KeepsO.next
      | apply Keeps.past (State.merge_touches _ _ _ _ _ _ _)
      | apply Keeps.past (State.cyc_touches _ _ _)
      | apply State.onCore_keeps
      | apply Keeps.past (State.setCore_touches _ _ _)
      | apply Keeps.op (State.hostErr_keeps _ _)
      | extract_lets
      | split

theorem State.closeCtx_keeps (s : State) (unit ctx cap : Nat) (maxMode : Bool) : Keeps s (State.closeCtx s unit ctx cap maxMode) := by
  unfold State.closeCtx
  with_reducible
    repeat' first
      | exact Keeps.refl _
      | apply Keeps.op (State.emit_keeps _ _)
      | extract_lets
      | apply Keeps.leaf (Eq.refl _) (Eq.refl _) (Eq.refl _) (Eq.refl _) (Eq.refl _)

theorem execBrambleMerge_keeps (unit ctx : Nat) (o : CtxOpen) (es : List TkEntry) (e : CtxEnd) (s : State) : KeepsO s (execBrambleMerge
    unit ctx o es e s) := by
  unfold execBrambleMerge
  with_reducible
    repeat' first
      | (apply Zone.clear; decide)
      | exact Keeps.refl _
      | apply KeepsO.next
      | apply Keeps.op (State.closeCtx_keeps _ _ _ _ _)
      | apply Keeps.past (State.merge_touches _ _ _ _ _ _ _)
      | apply Keeps.op (State.hostErr_keeps _ _)
      | extract_lets
      | split

theorem execNbucmd_keeps (core ch slot : Nat) (bytes : List Byte) (s : State) : KeepsO s (execNbucmd core ch slot bytes s) := by
  unfold execNbucmd
  with_reducible
    repeat' first
      | (apply Zone.clear; decide)
      | exact Keeps.refl _
      | intro x
      | apply KeepsO.next
      | apply Keeps.past (State.slotWrite_touches _ _ _ _ _ _)
      | apply Keeps.past (State.cyc_touches _ _ _)
      | apply State.onCore_keeps
      | apply Keeps.op (State.nbuGoOn_keeps _ _ _)
      | apply Keeps.op (State.hostErr_keeps _ _)
      | extract_lets
      | split

theorem execSloedesc_keeps (core : Nat) (d : SloeDesc) (s : State) : KeepsO s (execSloedesc core d s) := by
  unfold execSloedesc
  with_reducible
    repeat' first
      | (apply Zone.clear; decide)
      | exact Keeps.refl _
      | intro x
      | apply KeepsO.next
      | apply Keeps.past (State.putDesc_touches _ _)
      | apply Keeps.past (State.cyc_touches _ _ _)
      | apply State.onCore_keeps
      | apply Keeps.op (State.hostErr_keeps _ _)
      | apply Keeps.op (State.emit_keeps _ _)
      | extract_lets
      | split

theorem execFabsend_keeps (core conn opc : Nat) (payload : List Byte) (s : State) : KeepsO s (execFabsend core conn opc payload s) := by
  unfold execFabsend
  with_reducible
    repeat' first
      | (apply Zone.clear; decide)
      | exact Keeps.refl _
      | intro x
      | apply KeepsO.next
      | apply Keeps.past (State.cyc_touches _ _ _)
      | apply State.onCore_keeps
      | apply Keeps.past (State.request_touches _ _ _ _ _ _ _)
      | apply Keeps.op (State.hostErr_keeps _ _)
      | extract_lets
      | split

/-! ## FlashOps -/

theorem State.mapGive_keeps (s : State) (ns : Nat) : Keeps s (State.mapGive s ns) := by
  unfold State.mapGive
  with_reducible
    repeat' first
      | exact Keeps.refl _
      | intro x
      | apply Keeps.op (State.areaFree_keeps _ _)
      | apply Keeps.elim
      | extract_lets
      | apply Keeps.leaf (Eq.refl _) (Eq.refl _) (Eq.refl _) (Eq.refl _) (Eq.refl _)

theorem State.flashEvent_keeps (s : State) (reg bit code sev : Nat) (loc : List Byte) : Keeps s (State.flashEvent s reg bit code sev
    loc) := by
  unfold State.flashEvent
  with_reducible
    repeat' first
      | exact Keeps.refl _
      | apply Keeps.op (State.raise_keeps _ _ _ _)
      | apply Keeps.op (State.emit_keeps _ _)

theorem State.pageEvent_keeps (s : State) (bit code sev p plane unit : Nat) : Keeps s (State.pageEvent s bit code sev p plane unit) := by
  unfold State.pageEvent
  with_reducible
    repeat' first
      | exact Keeps.refl _
      | apply Keeps.op (State.flashEvent_keeps _ _ _ _ _ _)

theorem State.mapPoison_keeps (s : State) : Keeps s (State.mapPoison s) := by
  unfold State.mapPoison
  with_reducible
    repeat' first
      | exact Keeps.refl _
      | apply Keeps.op (State.flashEvent_keeps _ _ _ _ _ _)

/-! ## FlashRead -/

theorem State.retryCmds_keeps (s : State) (p n : Nat) (is : List Nat) : Keeps s (State.retryCmds s p n is) := by
  unfold State.retryCmds
  with_reducible
    repeat' first
      | exact Keeps.refl _
      | intro x
      | apply Keeps.each
      | apply Keeps.op (State.emit_keeps _ _)
      | extract_lets
      | split

theorem State.decodeAt_keeps (s : State) (p unit : Nat) (is : List Nat) (es : List (Nat × Option Nat)) : Keeps s (State.decodeAt s p
    unit is es).1 := by
  unfold State.decodeAt
  repeat' split
  all_goals with_reducible
    repeat' first
      | (apply Zone.clear; decide)
      | exact Keeps.refl _
      | apply Keeps.op (State.retryCmds_keeps _ _ _ _)
      | apply Keeps.past (State.poisonSectors_touches _ _ _)
      | apply Keeps.past (State.relocate_touches _ _ _)
      | apply Keeps.op (State.pageEvent_keeps _ _ _ _ _ _ _)
      | apply Keeps.past (State.count_touches _ _ _)
      | extract_lets
      | split
      | dsimp +zetaDelta only

theorem State.readFull_keeps (s : State) (unit : Nat) (ps : Tbl (List Nat)) (errs : List ReadErr) : Keeps s (State.readFull s unit ps
    errs) := by
  unfold State.readFull
  with_reducible
    repeat' first
      | (apply Zone.clear; decide)
      | exact Keeps.refl _
      | intro x
      | apply Keeps.op (State.decodeAt_keeps _ _ _ _ _)
      | apply Keeps.each
      | apply Keeps.op (State.emit_keeps _ _)
      | apply Keeps.past (State.count_touches _ _ _)

theorem State.readDone_keeps (s : State) (fast raw : Bool) (bytes : List Byte) (rec_ unit : Nat) (ps : List (FPart × List (Nat × Option
    Nat))) : Keeps s (State.readDone s fast raw bytes rec_ unit ps).1 := by
  unfold State.readDone
  repeat' split
  all_goals with_reducible
    repeat' first
      | (apply Zone.clear; decide)
      | exact Keeps.refl _
      | intro x
      | apply Keeps.op (State.decodeAt_keeps _ _ _ _ _)
      | apply Keeps.each
      | apply Keeps.op (State.emit_keeps _ _)
      | apply Keeps.past (State.count_touches _ _ _)
      | apply Keeps.foldl1

theorem State.recRead_keeps (s : State) (ns off n rec_ : Nat) (errs : List ReadErr) : Keeps s (State.recRead s ns off n rec_ errs).1 := by
  unfold State.recRead
  repeat' split
  all_goals with_reducible
    repeat' first
      | (apply Zone.clear; decide)
      | exact Keeps.refl _
      | intro x
      | apply Keeps.op (State.readDone_keeps _ _ _ _ _ _ _)
      | apply Keeps.op (State.mapPoison_keeps _)
      | apply Keeps.each
      | apply Keeps.op (State.emit_keeps _ _)
      | apply Keeps.past (State.count_touches _ _ _)

/-! ## FlashWrite -/

theorem State.readIn_keeps (s : State) (ns unit : Nat) (errs : List ReadErr) : Keeps s (State.readIn s ns unit errs).1 := by
  unfold State.readIn
  repeat' split
  all_goals with_reducible
    repeat' first
      | exact Keeps.refl _
      | apply Keeps.op (State.readFull_keeps _ _ _ _)
      | apply Keeps.op (State.mapPoison_keeps _)
      | extract_lets
      | split

theorem State.stageUnit_keeps (s : State) (ns unit : Nat) (errs : List ReadErr) : KeepsA s (State.stageUnit s ns unit errs) := by
  unfold State.stageUnit
  with_reducible
    repeat' first
      | exact Keeps.refl _
      | apply KeepsA.ok
      | exact KeepsA.wait
      | exact KeepsA.noSpace
      | apply Keeps.op (State.readIn_keeps _ _ _ _)
      | extract_lets
      | split
      | apply Keeps.leaf (Eq.refl _) (Eq.refl _) (Eq.refl _) (Eq.refl _) (Eq.refl _)

theorem State.nsWrite_keeps (s : State) (ns off : Nat) (bs : List Byte) (errs : List ReadErr) : KeepsA s (State.nsWrite s ns off bs
    errs) := by
  unfold State.nsWrite
  with_reducible
    repeat' first
      | (apply Zone.clear; decide)
      | exact Keeps.refl _
      | apply KeepsA.ok
      | exact KeepsA.wait
      | exact KeepsA.noSpace
      | apply Keeps.op (KeepsA.app (State.stageUnit_keeps _ _ _ _) (by assumption))
      | apply Keeps.past (State.modBuf_touches _ _ _ _)
      | apply Keeps.past (State.count_touches _ _ _)
      | extract_lets
      | split

theorem State.progStart_keeps (s : State) (ns unit : Nat) : Keeps s (State.progStart s ns unit) := by
  unfold State.progStart
  with_reducible
    repeat' first
      | (apply Zone.clear; decide)
      | exact Keeps.refl _
      | apply Keeps.op (State.flashEvent_keeps _ _ _ _ _ _)
      | apply Keeps.past (State.modBuf_touches _ _ _ _)
      | apply Keeps.past (TouchesP.app2 (State.takePage_touches _ _ _) (by assumption))
      | apply Keeps.op (State.emit_keeps _ _)
      | extract_lets
      | split
      | apply Keeps.leaf (Eq.refl _) (Eq.refl _) (Eq.refl _) (Eq.refl _) (Eq.refl _)

theorem State.progPending_keeps (s : State) : Keeps s (State.progPending s) := by
  unfold State.progPending
  with_reducible
    repeat' first
      | exact Keeps.refl _
      | intro x
      | apply Keeps.op (State.progStart_keeps _ _ _)
      | apply Keeps.foldl
      | extract_lets
      | split

theorem State.discardNs_keeps (s : State) (ns : Nat) : Keeps s (State.discardNs s ns) := by
  unfold State.discardNs
  with_reducible
    repeat' first
      | (apply Zone.clear; decide)
      | exact Keeps.refl _
      | intro x
      | apply Keeps.past (State.journal_touches _ _ _ _ _ _ _)
      | apply Keeps.op (State.mapGive_keeps _ _)
      | apply Keeps.each
      | apply Keeps.past (State.count_touches _ _ _)
      | extract_lets
      | apply Keeps.leaf (Eq.refl _) (Eq.refl _) (Eq.refl _) (Eq.refl _) (Eq.refl _)

theorem State.roCheck_keeps (s : State) (ch : Nat) : Keeps s (State.roCheck s ch) := by
  unfold State.roCheck
  with_reducible
    repeat' first
      | (apply Zone.clear; decide)
      | exact Keeps.refl _
      | apply Keeps.op (State.flashEvent_keeps _ _ _ _ _ _)
      | apply Keeps.past (State.setFld_touches _ _ _)
      | split

/-! ## IdxOps -/

theorem State.setHdr_keeps (s : State) (l : Nat) (h : Hdr) : Keeps s (State.setHdr s l h) := by
  unfold State.setHdr
  with_reducible
    repeat' first
      | exact Keeps.refl _
      | apply Keeps.op (State.ilvClean_keeps _ _ _)
      | extract_lets
      | apply Keeps.leaf (Eq.refl _) (Eq.refl _) (Eq.refl _) (Eq.refl _) (Eq.refl _)

theorem State.setAdj_keeps (s : State) (l : Nat) (a : Adj) : Keeps s (State.setAdj s l a) := by
  unfold State.setAdj
  with_reducible
    repeat' first
      | exact Keeps.refl _
      | apply Keeps.op (State.ilvClean_keeps _ _ _)
      | extract_lets
      | apply Keeps.leaf (Eq.refl _) (Eq.refl _) (Eq.refl _) (Eq.refl _) (Eq.refl _)

theorem State.setPlaneBit_keeps (s : State) (c : CreateFields) (h : Hdr) (q : Nat) (x : SlotAt) (on : Bool) : Keeps s (State.setPlaneBit
    s c h q x on) := by
  unfold State.setPlaneBit
  with_reducible
    repeat' first
      | exact Keeps.refl _
      | apply Keeps.op (State.chWrite_keeps _ _ _ _)

theorem State.writeSlot_keeps (s : State) (c : CreateFields) (h : Hdr) (x : SlotAt) (sk vid rec_ : Nat) (tomb : Bool) (filter : Nat) :
    Keeps s (State.writeSlot s c h x sk vid rec_ tomb filter) := by
  unfold State.writeSlot
  with_reducible
    repeat' first
      | exact Keeps.refl _
      | intro x
      | apply Keeps.op (State.setPlaneBit_keeps _ _ _ _ _ _)
      | apply Keeps.op (State.chWrite_keeps _ _ _ _)
      | apply Keeps.each

/-! ## Search -/

theorem State.candVector_keeps (s : State) (c : CreateFields) (errs : List ReadErr) (x : Cand) : Keeps s (State.candVector s c errs x).1
    := by
  unfold State.candVector
  repeat' split
  all_goals with_reducible
    repeat' first
      | exact Keeps.refl _
      | apply Keeps.op (State.recRead_keeps _ _ _ _ _ _)

theorem State.candVectors_keeps (s : State) (c : CreateFields) (errs : List ReadErr) (xs : List Cand) : Keeps s (State.candVectors s c
    errs xs).1 := by
  unfold State.candVectors
  repeat' split
  all_goals with_reducible
    repeat' first
      | exact Keeps.refl _
      | intro x
      | apply Keeps.op (State.candVector_keeps _ _ _ _)
      | apply Keeps.foldl1

theorem State.searchEnd_keeps (s : State) (d : Desc) (r : Req) (k : Look) (tag q wl : Nat) (errs : List ReadErr) : Keeps s
    (State.searchEnd s d r k tag q wl errs).1 := by
  unfold State.searchEnd
  repeat' split
  all_goals with_reducible
    repeat' first
      | exact Keeps.refl _
      | apply Keeps.op (State.candVectors_keeps _ _ _ _)
      | extract_lets
      | split
      | dsimp +zetaDelta only

theorem State.runSearch_keeps (s : State) (l tag id : Nat) : Keeps s (State.runSearch s l tag id) := by
  unfold State.runSearch
  with_reducible
    repeat' first
      | (apply Zone.clear; decide)
      | exact Keeps.refl _
      | apply Keeps.past (State.modReq_touches _ _ _)
      | apply Keeps.op (State.cper_keeps _ _)
      | apply Keeps.past (State.count_touches _ _ _)
      | extract_lets
      | split

theorem State.endSearches_keeps (s : State) (l tag q wl : Nat) : Keeps s (State.endSearches s l tag q wl) := by
  unfold State.endSearches
  with_reducible
    repeat' first
      | (apply Zone.clear; decide)
      | exact Keeps.refl _
      | intro x
      | apply Keeps.op (State.searchEnd_keeps _ _ _ _ _ _ _ _)
      | apply Keeps.past (State.modDesc_touches _ _ _)
      | apply Keeps.past (State.modReq_touches _ _ _)
      | apply Keeps.each
      | extract_lets
      | split

/-! ## StepOps -/

theorem State.quarantine_keeps (s : State) (l core : Nat) : Keeps s (State.quarantine s l core) := by
  unfold State.quarantine
  with_reducible
    repeat' first
      | (apply Zone.clear; decide)
      | exact Keeps.refl _
      | apply Keeps.op (State.replace_keeps _ _)
      | apply Keeps.op (State.raise_keeps _ _ _ _)
      | apply Keeps.past (State.event_touches _ _ _)
      | apply Keeps.past (State.setFld_touches _ _ _)
      | extract_lets
      | split

theorem State.suspect_keeps (s : State) (l core : Nat) : Keeps s (State.suspect s l core) := by
  unfold State.suspect
  with_reducible
    repeat' first
      | (apply Zone.clear; decide)
      | exact Keeps.refl _
      | apply Keeps.op (State.raise_keeps _ _ _ _)
      | apply Keeps.past (State.event_touches _ _ _)
      | apply Keeps.past (State.setFld_touches _ _ _)
      | split

theorem State.compFault_keeps (s : State) (l core array tag : Nat) : Keeps s (State.compFault s l core array tag) := by
  unfold State.compFault
  with_reducible
    repeat' first
      | (apply Zone.clear; decide)
      | exact Keeps.refl _
      | apply Keeps.op (State.quarantine_keeps _ _ _)
      | apply Keeps.op (State.cper_keeps _ _)
      | apply Keeps.past (State.count_touches _ _ _)
      | extract_lets
      | split
      | apply Keeps.leaf (Eq.refl _) (Eq.refl _) (Eq.refl _) (Eq.refl _) (Eq.refl _)

theorem State.checkerFault_keeps (s : State) (l core array tag : Nat) : Keeps s (State.checkerFault s l core array tag) := by
  unfold State.checkerFault
  with_reducible
    repeat' first
      | (apply Zone.clear; decide)
      | exact Keeps.refl _
      | apply Keeps.op (State.suspect_keeps _ _ _)
      | apply Keeps.op (State.cper_keeps _ _)
      | apply Keeps.past (State.count_touches _ _ _)
      | extract_lets
      | split
      | apply Keeps.leaf (Eq.refl _) (Eq.refl _) (Eq.refl _) (Eq.refl _) (Eq.refl _)

theorem State.movePos_keeps (s : State) (l : Nat) (x : Lease) (reslines pos b : Nat) : Keeps s (State.movePos s l x reslines pos b) := by
  unfold State.movePos
  with_reducible
    repeat' first
      | (apply Zone.clear; decide)
      | exact Keeps.refl _
      | intro x
      | apply Keeps.past (State.ballastYield_touches _ _)
      | apply Keeps.op (State.clearStore_keeps _ _)
      | apply Keeps.past (State.modLease_touches _ _ _)
      | apply Keeps.past (State.setCore_touches _ _ _)
      | apply Keeps.op (State.storeFill_keeps _ _ _ _ _)
      | apply Keeps.op (State.storePoisonLines_keeps _ _)
      | apply Keeps.op (State.storeWrite_keeps _ _ _ _)
      | apply Keeps.each
      | apply Keeps.past (State.setFld_touches _ _ _)

theorem State.emptyLines_keeps (s : State) (reslines : Nat) (cores : List Nat) : Keeps s (State.emptyLines s reslines cores) := by
  unfold State.emptyLines
  with_reducible
    repeat' first
      | exact Keeps.refl _
      | (apply Mem.wf_of <;> first | exact id | exact Tbl.wf_drop _ _ _ | exact poisSet_wf _ _ | exact Tbl.wf_putAll _ _ _ _ | exact fun _ => Tbl.wf_nil _)
      | extract_lets
      | apply Keeps.leafMem (Eq.refl _) (Eq.refl _) (Eq.refl _) (Eq.refl _)

theorem State.fillBarrier_keeps (s : State) (l : Nat) : Keeps s (State.fillBarrier s l) := by
  unfold State.fillBarrier
  with_reducible
    repeat' first
      | exact Keeps.refl _
      | intro x
      | apply Keeps.op (State.storeFill_keeps _ _ _ _ _)
      | apply Keeps.each
      | extract_lets
      | split

theorem State.rerun_keeps (s : State) (l : Nat) (h : PlanHdr) (run : Nat) : Keeps s (State.rerun s l h run) := by
  unfold State.rerun
  with_reducible
    repeat' first
      | (apply Zone.clear; decide)
      | exact Keeps.refl _
      | intro x
      | apply Keeps.past (State.clearContexts_touches _ _ _)
      | apply Keeps.op (State.fillBarrier_keeps _ _)
      | apply Keeps.op (State.emptyLines_keeps _ _ _)
      | apply Keeps.past (State.dropReads_touches _ _)
      | apply Keeps.past (State.modStep_touches _ _ _)
      | apply Keeps.past (State.setCore_touches _ _ _)
      | apply Keeps.each
      | apply Keeps.past (State.setReg64_touches _ _ _)
      | split

theorem State.sendProv_keeps (s : State) (l : Nat) (x : Lease) (p : Step) : Keeps s (State.sendProv s l x p) := by
  unfold State.sendProv
  extract_lets rs t z
  have ht : Keeps s t := by
    refine Keeps.foldl _ _ (fun u r => ?_) (Keeps.refl _)
    split
    · exact Keeps.past (State.count_touches _ _ _) (by decide) (State.replyTo_keeps _ _ _ _)
    · exact Keeps.refl _
  clear_value z t rs
  split
  · exact Keeps.refl _
  · exact Keeps.past (State.modStep_touches _ _ _) (by decide) ⟨ht.mem, ht.out, ht.made, ht.arb, ht.free⟩

theorem State.startReplay_keeps (s : State) (q : Prov) : Keeps s (State.startReplay s q) := by
  unfold State.startReplay
  with_reducible
    repeat' first
      | (apply Zone.clear; decide)
      | exact Keeps.refl _
      | intro x
      | apply Keeps.op (State.fillBarrier_keeps _ _)
      | apply Keeps.op (State.emptyLines_keeps _ _ _)
      | apply Keeps.past (State.modLease_touches _ _ _)
      | apply Keeps.past (State.setCore_touches _ _ _)
      | apply Keeps.each
      | apply Keeps.past (State.count_touches _ _ _)
      | apply Keeps.past (State.setReg64_touches _ _ _)
      | extract_lets
      | split
      | apply Keeps.leaf (Eq.refl _) (Eq.refl _) (Eq.refl _) (Eq.refl _) (Eq.refl _)

theorem State.replayWaiting_keeps (s : State) (l : Nat) : Keeps s (State.replayWaiting s l) := by
  unfold State.replayWaiting
  with_reducible
    repeat' first
      | exact Keeps.refl _
      | apply Keeps.op (State.startReplay_keeps _ _)
      | split

theorem State.stepFinal_keeps (s : State) (l : Nat) (m : Meas) (second keep : Bool) : Keeps s (State.stepFinal s l m second keep) := by
  unfold State.stepFinal
  with_reducible
    repeat' first
      | (apply Zone.clear; decide)
      | exact Keeps.refl _
      | apply Keeps.op (State.sendVerdict_keeps _ _ _)
      | apply Keeps.past (State.haltCores_touches _ _)
      | apply Keeps.past (State.coreCycles_touches _ _ _)
      | apply Keeps.past (State.recordStep_touches _ _ _ _ _)
      | apply Keeps.past (State.progress_touches _ _ _ _ _ _)
      | apply Keeps.past (State.unhold_touches _ _)
      | apply Keeps.past (State.modLease_touches _ _ _)
      | extract_lets
      | split

theorem State.thirdRun_keeps (s : State) (l : Nat) (x : Lease) (p : Step) (m : Meas) : Keeps s (State.thirdRun s l x p m) := by
  unfold State.thirdRun
  with_reducible
    repeat' first
      | exact Keeps.refl _
      | intro x
      | apply Keeps.op (State.stepFinal_keeps _ _ _ _ _)
      | apply Keeps.op (State.checkerFault_keeps _ _ _ _ _)
      | apply Keeps.op (State.compFault_keeps _ _ _ _ _)
      | apply Keeps.op (State.suspect_keeps _ _ _)
      | apply Keeps.op (State.abortStep_keeps _ _ _ _ _)
      | apply Keeps.foldl
      | extract_lets
      | split

theorem State.tryThird_keeps (s : State) (l : Nat) : Keeps s (State.tryThird s l) := by
  unfold State.tryThird
  with_reducible
    repeat' first
      | (apply Zone.clear; decide)
      | exact Keeps.refl _
      | intro x
      | apply Keeps.op (State.rerun_keeps _ _ _ _)
      | apply Keeps.op (State.movePos_keeps _ _ _ _ _ _)
      | apply Keeps.past (State.modStep_touches _ _ _)
      | apply Keeps.foldl
      | extract_lets
      | split

theorem State.runEnd_keeps (s0 : State) (l : Nat) (x : Lease) (p : Step) (m : Meas) (h : PlanHdr) : Keeps s0 (State.runEnd s0 l x p m h)
    := by
  unfold State.runEnd
  with_reducible
    repeat' first
      | (apply Zone.clear; decide)
      | exact Keeps.refl _
      | intro x
      | apply Keeps.op (State.tryThird_keeps _ _)
      | apply Keeps.op (State.thirdRun_keeps _ _ _ _ _)
      | apply Keeps.op (State.stepFinal_keeps _ _ _ _ _)
      | apply Keeps.op (State.sendProv_keeps _ _ _ _)
      | apply Keeps.op (State.rerun_keeps _ _ _ _)
      | apply Keeps.op (State.endSearches_keeps _ _ _ _ _)
      | apply Keeps.op (State.abortStep_keeps _ _ _ _ _)
      | apply Keeps.past (State.coreCycles_touches _ _ _)
      | apply Keeps.past (State.modStep_touches _ _ _)
      | apply Keeps.op (State.cper_keeps _ _)
      | apply Keeps.past (State.count_touches _ _ _)
      | apply Keeps.foldl
      | extract_lets
      | split
      | dsimp +zetaDelta only

theorem State.applyScatters_keeps (s : State) (l : Nat) (p : Step) : Keeps s (State.applyScatters s l p) := by
  unfold State.applyScatters
  with_reducible
    repeat' first
      | (apply Zone.clear; decide)
      | exact Keeps.refl _
      | intro x
      | apply Keeps.op (State.rowPut_keeps _ _ _)
      | apply Keeps.past (State.tier_touches _ _ _)
      | apply Keeps.past (State.request_touches _ _ _ _ _ _ _)
      | apply Keeps.foldl
      | extract_lets
      | split
      | apply Keeps.leaf (Eq.refl _) (Eq.refl _) (Eq.refl _) (Eq.refl _) (Eq.refl _)

theorem State.deliverStep_keeps (s : State) (p : Step) : Keeps s (State.deliverStep s p) := by
  unfold State.deliverStep
  with_reducible
    repeat' first
      | (apply Zone.clear; decide)
      | exact Keeps.refl _
      | intro x
      | apply Keeps.op (State.deliver_keeps _ _ _ _ _)
      | apply Keeps.past (State.answer_touches _ _ _ _ _ _)
      | apply Keeps.past (State.release_touches _ _ _)
      | apply Keeps.op (State.drawFree_keeps _)
      | apply Keeps.foldl
      | extract_lets
      | split
      | apply Keeps.leaf (Eq.refl _) (Eq.refl _) (Eq.refl _) (Eq.refl _) (Eq.refl _)

theorem State.healPositions_keeps (s : State) (l : Nat) (h : PlanHdr) (ps : List Nat) : KeepsP s (fun x => x) (State.healPositions s l h
    ps) := by
  induction ps generalizing s l h with
  | nil =>
  unfold State.healPositions
  with_reducible
    repeat' first
      | exact Keeps.refl _
      | apply KeepsP.ofSome
  | cons x r ih =>
  unfold State.healPositions
  with_reducible
    repeat' first
      | exact Keeps.refl _
      | exact KeepsP.ofNone
      | apply KeepsP.op (ih _ _ _)
      | apply Keeps.op (State.movePos_keeps _ _ _ _ _ _)
      | extract_lets
      | split

theorem State.applyDecisions_keeps (s : State) : Keeps s (State.applyDecisions s) := by
  unfold State.applyDecisions
  with_reducible
    repeat' first
      | (apply Zone.clear; decide)
      | exact Keeps.refl _
      | intro x
      | apply Keeps.op (State.copiesPut_keeps _ _ _ _)
      | apply Keeps.past (State.tier_touches _ _ _)
      | apply Keeps.op (State.areaFree_keeps _ _)
      | apply Keeps.past (TouchesP.app2 (State.areaTake_touches _ _) (by assumption))
      | apply Keeps.foldl
      | extract_lets
      | split
      | apply Keeps.leaf (Eq.refl _) (Eq.refl _) (Eq.refl _) (Eq.refl _) (Eq.refl _)

theorem State.beginStep_keeps (s : State) (l : Nat) (x : Lease) (pl : Plan) (b : List Nat) (depth : Nat) (errs : List ReadErr) : Keeps s
    (State.beginStep s l x pl b depth errs) := by
  unfold State.beginStep
  with_reducible
    repeat' first
      | (apply Zone.clear; decide)
      | exact Keeps.refl _
      | intro x
      | apply Keeps.op (State.applyDecisions_keeps _)
      | apply Keeps.past (State.clearContexts_touches _ _ _)
      | apply Keeps.op (State.fillBarrier_keeps _ _)
      | apply Keeps.op (State.emptyLines_keeps _ _ _)
      | apply Keeps.past (State.ageCore_touches _ _)
      | apply Keeps.op (State.runSearch_keeps _ _ _ _)
      | apply Keeps.past (State.modLease_touches _ _ _)
      | apply Keeps.past (State.setCore_touches _ _ _)
      | apply Keeps.each
      | apply Keeps.past (State.setReg64_touches _ _ _)
      | apply Keeps.foldl
      | extract_lets
      | apply Keeps.leaf (Eq.refl _) (Eq.refl _) (Eq.refl _) (Eq.refl _) (Eq.refl _)

/-! ## UpdateOps -/

theorem State.tenantCmd_keeps (s : State) (src : ReqSrc) (opc : Nat) (body : List Byte) (f : List Byte → Nat → State → State) (hf : ∀
    (x0 : List Byte) (x1 : Nat) (x2 : State), Keeps x2 (f x0 x1 x2)) : KeepsO s (State.tenantCmd s src opc body f) := by
  unfold State.tenantCmd
  with_reducible
    repeat' first
      | (apply Zone.clear; decide)
      | exact Keeps.refl _
      | apply KeepsO.next
      | apply Keeps.past (State.unready_touches _ _)
      | apply Keeps.op (State.answerReq_keeps _ _ _ _)
      | apply Keeps.past (State.countPoliced_touches _ _)
      | apply Keeps.past (TouchesE.app (State.vfAdmit_touches _ _) (by assumption))
      | apply Keeps.past (TouchesP.app (State.fetch_touches _ _ _) (by assumption))
      | apply Keeps.op (State.completeSt_keeps _ _ _)
      | apply Keeps.past (State.count_touches _ _ _)
      | apply Keeps.past (State.setFld_touches _ _ _)
      | apply Keeps.op (hf _ _ _)
      | extract_lets
      | split
      | dsimp +zetaDelta only

theorem State.refuse_keeps (s : State) (src : ReqSrc) (op : ReqOp) (body : List Byte) (st : Status) : Keeps s (State.refuse s src op
    body st) := by
  unfold State.refuse
  with_reducible
    repeat' first
      | exact Keeps.refl _
      | apply Keeps.op (State.answerReq_keeps _ _ _ _)
      | split

theorem State.tombstone_keeps (s : State) (d : Desc) (l : Nat) (x : SlotAt) : Keeps s (State.tombstone s d l x) := by
  unfold State.tombstone
  with_reducible
    repeat' first
      | exact Keeps.refl _
      | apply Keeps.op (State.setPlaneBit_keeps _ _ _ _ _ _)
      | apply Keeps.op (State.setHdr_keeps _ _ _)
      | split

theorem State.storeVector_keeps (s : State) (c : CreateFields) (h : Hdr) (x : SlotAt) (vid rec_ : Nat) (norm : Bool) (es : List Nat)
    (errs : List ReadErr) : KeepsA s (State.storeVector s c h x vid rec_ norm es errs) := by
  unfold State.storeVector
  with_reducible
    repeat' first
      | exact Keeps.refl _
      | apply KeepsA.ok
      | apply Keeps.op (KeepsA.app (State.nsWrite_keeps _ _ _ _ _) (by assumption))
      | apply KeepsA.op (State.nsWrite_keeps _ _ _ _ _)
      | apply Keeps.op (State.ilvStore_keeps _ _ _ _)
      | extract_lets
      | split
      | dsimp +zetaDelta only

theorem State.publish_keeps (s : State) (n : Nat) (d : Desc) (l : Nat) (vid rec_ sk filter : Nat) (old : Option (Nat × Nat × SlotAt)) :
    Keeps s (State.publish s n d l vid rec_ sk filter old) := by
  unfold State.publish
  with_reducible
    repeat' first
      | (apply Zone.clear; decide)
      | exact Keeps.refl _
      | apply Keeps.op (State.tombstone_keeps _ _ _ _)
      | apply Keeps.past (State.setDir_touches _ _ _)
      | apply Keeps.op (State.writeSlot_keeps _ _ _ _ _ _ _ _ _)
      | apply Keeps.op (State.setHdr_keeps _ _ _)
      | apply Keeps.past (State.modDesc_touches _ _ _)
      | extract_lets
      | split
      | apply Keeps.leaf (Eq.refl _) (Eq.refl _) (Eq.refl _) (Eq.refl _) (Eq.refl _)

theorem State.runPut_keeps (s : State) (n : Nat) (d : Desc) (op : ReqOp) (b : List Byte) (errs : List ReadErr) : KeepsU s (State.runPut
    s n d op b errs) := by
  unfold State.runPut
  with_reducible
    repeat' first
      | (apply Zone.clear; decide)
      | exact Keeps.refl _
      | apply KeepsU.done
      | apply KeepsU.wthru
      | exact KeepsU.side
      | exact KeepsU.bufWait
      | apply Keeps.op (State.publish_keeps _ _ _ _ _ _ _ _ _)
      | apply Keeps.op (KeepsA.app (State.storeVector_keeps _ _ _ _ _ _ _ _ _) (by assumption))
      | apply Keeps.op (State.progPending_keeps _)
      | apply Keeps.op (State.flashEvent_keeps _ _ _ _ _ _)
      | apply Keeps.past (State.charge_touches _ _ _)
      | extract_lets
      | split
      | dsimp +zetaDelta only

theorem State.runDel_keeps (s : State) (n : Nat) (d : Desc) (b : List Byte) : KeepsU s (State.runDel s n d b) := by
  unfold State.runDel
  with_reducible
    repeat' first
      | (apply Zone.clear; decide)
      | exact Keeps.refl _
      | apply KeepsU.done
      | apply Keeps.op (State.tombstone_keeps _ _ _ _)
      | apply Keeps.past (State.setDir_touches _ _ _)
      | apply Keeps.past (State.modDesc_touches _ _ _)
      | apply Keeps.past (State.release_touches _ _ _)
      | split

theorem State.updateNow_keeps (s : State) (r : Req) (d : Desc) : KeepsU s (State.updateNow s r d) := by
  unfold State.updateNow
  with_reducible
    repeat' first
      | exact Keeps.refl _
      | apply KeepsU.done
      | apply KeepsU.mono (State.runDel_keeps _ _ _ _)
      | apply KeepsU.mono (State.runPut_keeps _ _ _ _ _ _)
      | split

theorem State.runUpdate_keeps (s : State) (id : Nat) : Keeps s (State.runUpdate s id) := by
  unfold State.runUpdate
  have hm : ∀ (i : Nat) (f : Req → Req) (u : State), Keeps s u → Keeps s (u.modReq i f) :=
    fun _ _ _ hu => Keeps.past (State.modReq_touches _ _ _) (by decide) hu
  split
  · exact Keeps.refl _
  · rename_i r hr
    have hw : Keeps s (s.waitCap r) := Keeps.past (State.waitCap_touches _ _) (by decide) (Keeps.refl _)
    split
    · exact hm _ _ _ (Keeps.refl _)
    · split
      · exact State.finishReq_keeps _ _ _ _
      · rename_i d hd
        extract_lets late
        have hn := State.updateNow_keeps s r d
        split
        · rename_i t st h
          split
          · exact hw
          · exact Keeps.op (State.finishReq_keeps _ _ _ _) (Keeps.past (State.forwardJoin_touches _ _ _) (by decide) (hn.1 _ _ h))
        · exact hm _ _ _ (Keeps.refl _)
        · exact hw
        · rename_i t us h
          split
          · exact hw
          · exact hm _ _ _ (Keeps.past (State.forwardJoin_touches _ _ _) (by decide) (hn.2 _ _ h))

theorem State.retryUpdates_keeps (s : State) : Keeps s (State.retryUpdates s) := by
  unfold State.retryUpdates
  with_reducible
    repeat' first
      | exact Keeps.refl _
      | intro x
      | apply Keeps.op (State.runUpdate_keeps _ _)
      | apply Keeps.foldl

theorem State.finishWthru_keeps (s : State) : Keeps s (State.finishWthru s) := by
  unfold State.finishWthru
  with_reducible
    repeat' first
      | exact Keeps.refl _
      | intro x
      | apply Keeps.op (State.finishReq_keeps _ _ _ _)
      | apply Keeps.foldl
      | extract_lets
      | split

end Sys2Proof.Machine
end

