-- ==== Sys2Proof/Laws/Keep3.lean ====
section
/-! SUPPORT. What the operations and commands of connections, the group, the ports, NBU_GO, the register bus, power, the queues, maintenance and host objects keep: one lemma each (Laws/Keep.lean). -/

namespace Sys2Proof.Machine

/-! ## PustanOps -/

theorem State.refuseMsg_keeps (s : State) (m : Msg) (st : Status) : Keeps s (State.refuseMsg s m st) := by
  unfold State.refuseMsg
  with_reducible
    repeat' first
      | (apply Zone.clear; decide)
      | exact Keeps.refl _
      | apply Keeps.past (State.passMsg_touches _ _)
      | apply Keeps.op (State.inflDone_keeps _ _ _)
      | apply Keeps.past (State.keepReplay_touches _ _ _)
      | apply Keeps.past (State.nak_touches _ _ _)
      | extract_lets
      | split

theorem State.enterMsg_keeps (s : State) (m : Msg) : Keeps s (State.enterMsg s m) := by
  unfold State.enterMsg
  with_reducible
    repeat' first
      | (apply Zone.clear; decide)
      | exact Keeps.refl _
      | apply Keeps.past (State.askBuf_touches _ _)
      | apply Keeps.op (State.refuseMsg_keeps _ _ _)
      | apply Keeps.past (State.inflAdd_touches _ _ _)
      | apply Keeps.past (State.readyUp_touches _ _)
      | apply Keeps.past (State.passMsg_touches _ _)
      | apply Keeps.past (State.count_touches _ _ _)
      | split

theorem State.follow_keeps (s : State) (conn n : Nat) : Keeps s (State.follow s conn n) := by
  induction n generalizing s conn with
  | zero =>
  unfold State.follow
  with_reducible
    repeat' first
      | exact Keeps.refl _
  | succ m ih =>
  unfold State.follow
  with_reducible
    repeat' first
      | (apply Zone.clear; decide)
      | exact Keeps.refl _
      | apply Keeps.op (ih _ _)
      | apply Keeps.op (State.enterMsg_keeps _ _)
      | apply Keeps.past (State.passMsg_touches _ _)
      | apply Keeps.past (State.setConn_touches _ _ _)
      | extract_lets
      | split

theorem State.passOn_keeps (s : State) (m : Msg) : Keeps s (State.passOn s m) := by
  unfold State.passOn
  with_reducible
    repeat' first
      | (apply Zone.clear; decide)
      | exact Keeps.refl _
      | apply Keeps.op (State.follow_keeps _ _ _)
      | apply Keeps.past (State.passMsg_touches _ _)

theorem State.refuseOn_keeps (s : State) (m : Msg) (st : Status) : Keeps s (State.refuseOn s m st) := by
  unfold State.refuseOn
  with_reducible
    repeat' first
      | exact Keeps.refl _
      | apply Keeps.op (State.follow_keeps _ _ _)
      | apply Keeps.op (State.refuseMsg_keeps _ _ _)

theorem State.refuseEarly_keeps (s : State) (m : Msg) (st : Status) : Keeps s (State.refuseEarly s m st) := by
  unfold State.refuseEarly
  with_reducible
    repeat' first
      | (apply Zone.clear; decide)
      | exact Keeps.refl _
      | apply Keeps.op (State.refuseOn_keeps _ _ _)
      | apply Keeps.past (State.keepReplay_touches _ _ _)
      | apply Keeps.past (State.nak_touches _ _ _)
      | apply Keeps.past (State.setConn_touches _ _ _)
      | extract_lets
      | split

theorem State.seqIn_keeps (s : State) (m : Msg) (c : Conn) : Keeps s (State.seqIn s m c) := by
  unfold State.seqIn
  with_reducible
    repeat' first
      | (apply Zone.clear; decide)
      | exact Keeps.refl _
      | apply Keeps.past (State.dupMsg_touches _ _ _)
      | apply Keeps.op (State.follow_keeps _ _ _)
      | apply Keeps.op (State.enterMsg_keeps _ _)
      | apply Keeps.past (State.nak_touches _ _ _)
      | apply Keeps.past (State.setConn_touches _ _ _)
      | extract_lets
      | split

theorem State.messageIn_keeps (s : State) (m : Msg) : Keeps s (State.messageIn s m) := by
  unfold State.messageIn
  with_reducible
    repeat' first
      | (apply Zone.clear; decide)
      | exact Keeps.refl _
      | apply Keeps.op (State.seqIn_keeps _ _ _)
      | apply Keeps.past (State.readyUp_touches _ _)
      | apply Keeps.past (State.nak_touches _ _ _)
      | split

theorem State.resFault_keeps (s : State) (m : Msg) (r : Region) (gs : List Nat) : Keeps s (State.resFault s m r gs) := by
  unfold State.resFault
  with_reducible
    repeat' first
      | (apply Zone.clear; decide)
      | exact Keeps.refl _
      | intro x
      | apply Keeps.past (State.setWait_touches _ _ _)
      | apply Keeps.op (State.postEvent_keeps _ _ _)
      | apply Keeps.past (State.event_touches _ _ _)
      | apply Keeps.past (State.count_touches _ _ _)
      | apply Keeps.foldl

theorem State.settleRegions_keeps (s : State) : Keeps s (State.settleRegions s) := by
  unfold State.settleRegions
  with_reducible
    repeat' first
      | exact Keeps.refl _
      | intro x
      | apply Keeps.op (State.completeSt_keeps _ _ _)
      | apply Keeps.foldl
      | extract_lets
      | split
      | apply Keeps.leaf (Eq.refl _) (Eq.refl _) (Eq.refl _) (Eq.refl _) (Eq.refl _)

theorem State.regionWrite_keeps (s : State) (r : RegionRec) (off : Nat) (bs : List Byte) (pois : List Bool) : Keeps s (State.regionWrite
    s r off bs pois) := by
  unfold State.regionWrite
  with_reducible
    repeat' first
      | exact Keeps.refl _
      | apply Keeps.op (State.recheck_keeps _ _ _)
      | apply Keeps.op (State.hbmPoisonLines_keeps _ _)
      | apply Keeps.op (State.chWrite_keeps _ _ _ _)
      | apply Keeps.op (State.ilvWrite_keeps _ _ _)
      | apply Keeps.op (State.emit_keeps _ _)
      | split

theorem State.unlock_keeps (s : State) (conn seq : Nat) : Keeps s (State.unlock s conn seq) := by
  unfold State.unlock
  with_reducible
    repeat' first
      | (apply Zone.clear; decide)
      | exact Keeps.refl _
      | apply Keeps.past (State.setLocks_touches _ _ _)
      | apply Keeps.op (State.settleRegions_keeps _)
      | extract_lets
      | apply Keeps.leaf (Eq.refl _) (Eq.refl _) (Eq.refl _) (Eq.refl _) (Eq.refl _)

theorem State.unlockSent_keeps (s : State) (conn seq : Nat) : Keeps s (State.unlockSent s conn seq) := by
  unfold State.unlockSent
  with_reducible
    repeat' first
      | exact Keeps.refl _
      | apply Keeps.op (State.unlock_keeps _ _ _)
      | split

theorem State.withdrawPost_keeps (s : State) (conn seq : Nat) : Keeps s (State.withdrawPost s conn seq) := by
  unfold State.withdrawPost
  with_reducible
    repeat' first
      | (apply Zone.clear; decide)
      | exact Keeps.refl _
      | apply Keeps.op (State.settleRegions_keeps _)
      | apply Keeps.past (State.modConn_touches _ _ _)

theorem State.setMember_keeps (s : State) (p : Nat) (st : MState) : Keeps s (State.setMember s p st) := by
  unfold State.setMember
  with_reducible
    repeat' first
      | exact Keeps.refl _
      | apply Keeps.op (State.raise_keeps _ _ _ _)
      | extract_lets
      | split
      | apply Keeps.leaf (Eq.refl _) (Eq.refl _) (Eq.refl _) (Eq.refl _) (Eq.refl _)

theorem State.connFail_keeps (s : State) (conn : Nat) : Keeps s (State.connFail s conn) := by
  unfold State.connFail
  with_reducible
    repeat' first
      | (apply Zone.clear; decide)
      | exact Keeps.refl _
      | intro x
      | apply Keeps.op (State.setMember_keeps _ _ _)
      | apply Keeps.past (State.failPart_touches _ _ _ _)
      | apply Keeps.past (State.setLocks_touches _ _ _)
      | apply Keeps.op (State.settleRegions_keeps _)
      | apply Keeps.op (State.finishReq_keeps _ _ _ _)
      | apply Keeps.past (State.modLease_touches _ _ _)
      | apply Keeps.past (State.freeStaging_touches _ _ _)
      | apply Keeps.past (State.setConn_touches _ _ _)
      | apply Keeps.op (State.raise_keeps _ _ _ _)
      | apply Keeps.foldl
      | extract_lets
      | split
      | apply Keeps.leaf (Eq.refl _) (Eq.refl _) (Eq.refl _) (Eq.refl _) (Eq.refl _)

/-! ## CasOps -/

theorem State.sysDone_keeps (s : State) (m : Msg) : Keeps s (State.sysDone s m) := by
  unfold State.sysDone
  with_reducible
    repeat' first
      | (apply Zone.clear; decide)
      | exact Keeps.refl _
      | apply Keeps.past (State.unready_touches _ _)
      | apply Keeps.op (State.doneMsg_keeps _ _)

theorem State.onSys_keeps (s : State) (m : Msg) (mtype kind : Nat) (f : State → State) (hf : ∀ (x0 : State), Keeps x0 (f x0)) : KeepsO s
    (State.onSys s m mtype kind f) := by
  unfold State.onSys
  with_reducible
    repeat' first
      | exact Keeps.refl _
      | apply KeepsO.next
      | apply Keeps.op (State.sysDone_keeps _ _)
      | apply Keeps.op (hf _)
      | split

/-! ## Fabric -/

theorem State.sendPfc_keeps (s : State) (p cls quanta : Nat) : Keeps s (State.sendPfc s p cls quanta) := by
  unfold State.sendPfc
  with_reducible
    repeat' first
      | (apply Zone.clear; decide)
      | exact Keeps.refl _
      | apply Keeps.op (State.emit_keeps _ _)
      | apply Keeps.past (State.count_touches _ _ _)

theorem State.occAdd_keeps (s : State) (p cls n : Nat) : Keeps s (State.occAdd s p cls n) := by
  unfold State.occAdd
  with_reducible
    repeat' first
      | (apply Zone.clear; decide)
      | exact Keeps.refl _
      | apply Keeps.op (State.sendPfc_keeps _ _ _ _)
      | apply Keeps.past (State.setPort_touches _ _ _)
      | extract_lets
      | split

theorem State.occSub_keeps (s : State) (p cls n : Nat) : Keeps s (State.occSub s p cls n) := by
  unfold State.occSub
  with_reducible
    repeat' first
      | (apply Zone.clear; decide)
      | exact Keeps.refl _
      | apply Keeps.op (State.sendPfc_keeps _ _ _ _)
      | apply Keeps.past (State.setPort_touches _ _ _)
      | extract_lets
      | split

theorem State.ctxDrop_keeps (s : State) (p : Nat) (c : Ctx) : Keeps s (State.ctxDrop s p c) := by
  unfold State.ctxDrop
  with_reducible
    repeat' first
      | (apply Zone.clear; decide)
      | exact Keeps.refl _
      | apply Keeps.op (State.occSub_keeps _ _ _ _)
      | apply Keeps.past (State.setPort_touches _ _ _)
      | extract_lets
      | split

theorem State.ctxAdd_keeps (s : State) (p : Nat) (c : Ctx) (m : Msg) : Keeps s (State.ctxAdd s p c m) := by
  unfold State.ctxAdd
  with_reducible
    repeat' first
      | (apply Zone.clear; decide)
      | exact Keeps.refl _
      | apply Keeps.op (State.ctxDrop_keeps _ _ _)
      | apply Keeps.op (State.occAdd_keeps _ _ _ _)
      | apply Keeps.op (State.messageIn_keeps _ _)
      | apply Keeps.past (State.setPort_touches _ _ _)
      | extract_lets
      | split
      | dsimp +zetaDelta only

theorem State.reassemble_keeps (s : State) (p cls : Nat) (m : Msg) : Keeps s (State.reassemble s p cls m) := by
  unfold State.reassemble
  with_reducible
    repeat' first
      | (apply Zone.clear; decide)
      | exact Keeps.refl _
      | apply Keeps.op (State.ctxAdd_keeps _ _ _ _)
      | apply Keeps.past (State.reasmFull_touches _ _ _)
      | apply Keeps.op (State.ctxDrop_keeps _ _ _)
      | apply Keeps.op (State.messageIn_keeps _ _)
      | apply Keeps.op (State.refuseEarly_keeps _ _ _)
      | apply Keeps.past (State.setPort_touches _ _ _)
      | apply Keeps.past (State.count_touches _ _ _)
      | extract_lets
      | split

theorem State.packetIn_keeps (s : State) (p : Nat) (f : Frame) (c : Conn) : Keeps s (State.packetIn s p f c) := by
  unfold State.packetIn
  with_reducible
    repeat' first
      | (apply Zone.clear; decide)
      | exact Keeps.refl _
      | apply Keeps.past (State.policed_touches _ _ _)
      | apply Keeps.past (TouchesP.app (State.police_touches _ _ _) (by assumption))
      | apply Keeps.op (State.reassemble_keeps _ _ _ _)
      | apply Keeps.past (State.nakNoConn_touches _ _ _)
      | apply Keeps.past (State.modConn_touches _ _ _)
      | extract_lets
      | split
      | apply Keeps.leaf (Eq.refl _) (Eq.refl _) (Eq.refl _) (Eq.refl _) (Eq.refl _)

theorem State.connIn_keeps (s : State) (p : Nat) (f : Frame) : Keeps s (State.connIn s p f) := by
  unfold State.connIn
  with_reducible
    repeat' first
      | (apply Zone.clear; decide)
      | exact Keeps.refl _
      | apply Keeps.op (State.packetIn_keeps _ _ _ _)
      | apply Keeps.past (State.nakNoConn_touches _ _ _)
      | apply Keeps.op (State.emit_keeps _ _)
      | apply Keeps.past (State.count_touches _ _ _)
      | extract_lets
      | split
      | apply Keeps.leaf (Eq.refl _) (Eq.refl _) (Eq.refl _) (Eq.refl _) (Eq.refl _)

theorem execFrameReceive_keeps (p : Nat) (f : Frame) (s : State) : KeepsO s (execFrameReceive p f s) := by
  unfold execFrameReceive
  with_reducible
    repeat' first
      | (apply Zone.clear; decide)
      | exact Keeps.refl _
      | apply KeepsO.next
      | apply Keeps.op (State.connIn_keeps _ _ _)
      | apply Keeps.past (State.count_touches _ _ _)
      | extract_lets
      | split

theorem State.onPort_keeps (s : State) (p : Nat) (f : Port → State) (hf : ∀ (x0 : Port), Keeps s (f x0)) : KeepsO s (State.onPort s p f)
    := by
  unfold State.onPort
  with_reducible
    repeat' first
      | exact Keeps.refl _
      | apply KeepsO.next
      | apply Keeps.op (hf _)
      | extract_lets
      | split

theorem execPfcRefresh_keeps (p cls : Nat) (s : State) : KeepsO s (execPfcRefresh p cls s) := by
  unfold execPfcRefresh
  with_reducible
    repeat' first
      | exact Keeps.refl _
      | intro x
      | apply State.onPort_keeps
      | apply Keeps.op (State.sendPfc_keeps _ _ _ _)
      | extract_lets
      | split

theorem execPfcwdExpiry_keeps (p cls : Nat) (s : State) : KeepsO s (execPfcwdExpiry p cls s) := by
  unfold execPfcwdExpiry
  with_reducible
    repeat' first
      | exact Keeps.refl _
      | intro x
      | apply State.onPort_keeps
      | apply Keeps.op (State.raise_keeps _ _ _ _)
      | extract_lets
      | split

theorem State.beginFrame_keeps (s : State) (p : Nat) (x : Port) (c t : Nat) (e : Egress) (td cd : Tbl Nat) : Keeps s (State.beginFrame s
    p x c t e td cd) := by
  unfold State.beginFrame
  with_reducible
    repeat' first
      | (apply Zone.clear; decide)
      | exact Keeps.refl _
      | apply Keeps.past (State.markHwm_touches _ _ _ _ _)
      | apply Keeps.op (State.unlockSent_keeps _ _ _)
      | apply Keeps.past (State.setPort_touches _ _ _)
      | apply Keeps.past (State.modTenant_touches _ _ _)
      | apply Keeps.op (State.emit_keeps _ _)
      | apply Keeps.past (State.count_touches _ _ _)
      | extract_lets
      | split

theorem execEgressPick_keeps (p : Nat) (s : State) : KeepsO s (execEgressPick p s) := by
  unfold execEgressPick
  with_reducible
    repeat' first
      | (apply Zone.clear; decide)
      | exact Keeps.refl _
      | intro x
      | apply Keeps.past (State.gateRestart_touches _ _)
      | apply Keeps.op (State.beginFrame_keeps _ _ _ _ _ _ _ _)
      | apply State.onPort_keeps
      | apply Keeps.past (State.setPort_touches _ _ _)
      | extract_lets
      | split
      | dsimp +zetaDelta only

theorem State.portDown_keeps (s : State) (p : Nat) : Keeps s (State.portDown s p) := by
  unfold State.portDown
  with_reducible
    repeat' first
      | (apply Zone.clear; decide)
      | exact Keeps.refl _
      | intro x
      | apply Keeps.op (State.sendPfc_keeps _ _ _ _)
      | apply Keeps.op (State.connFail_keeps _ _)
      | apply Keeps.past (State.setPort_touches _ _ _)
      | apply Keeps.each
      | apply Keeps.past (State.setFld_touches _ _ _)
      | apply Keeps.foldl
      | extract_lets
      | split

theorem execLinkDown_keeps (p : Nat) (s : State) : KeepsO s (execLinkDown p s) := by
  unfold execLinkDown
  with_reducible
    repeat' first
      | (apply Zone.clear; decide)
      | exact Keeps.refl _
      | intro x
      | apply Keeps.op (State.portDown_keeps _ _)
      | apply State.onPort_keeps
      | apply Keeps.past (State.event_touches _ _ _)
      | extract_lets
      | split

theorem State.portLost_keeps (s : State) (p : Nat) : Keeps s (State.portLost s p) := by
  unfold State.portLost
  with_reducible
    repeat' first
      | (apply Zone.clear; decide)
      | exact Keeps.refl _
      | apply Keeps.past (State.setPort_touches _ _ _)
      | apply Keeps.op (State.replace_keeps _ _)
      | apply Keeps.op (State.raise_keeps _ _ _ _)
      | extract_lets
      | split

theorem execLosttimeExpiry_keeps (p : Nat) (s : State) : KeepsO s (execLosttimeExpiry p s) := by
  unfold execLosttimeExpiry
  with_reducible
    repeat' first
      | exact Keeps.refl _
      | intro x
      | apply Keeps.op (State.portLost_keeps _ _)
      | apply State.onPort_keeps
      | extract_lets
      | split

theorem execLinkTrainingFailure_keeps (p : Nat) (s : State) : KeepsO s (execLinkTrainingFailure p s) := by
  unfold execLinkTrainingFailure
  with_reducible
    repeat' first
      | exact Keeps.refl _
      | intro x
      | apply Keeps.op (State.portLost_keeps _ _)
      | apply State.onPort_keeps
      | extract_lets
      | split

theorem execReasmtoExpiry_keeps (p dconn msgid : Nat) (s : State) : KeepsO s (execReasmtoExpiry p dconn msgid s) := by
  unfold execReasmtoExpiry
  with_reducible
    repeat' first
      | (apply Zone.clear; decide)
      | exact Keeps.refl _
      | intro x
      | apply State.onPort_keeps
      | apply Keeps.op (State.ctxDrop_keeps _ _ _)
      | apply Keeps.past (State.nak_touches _ _ _)
      | apply Keeps.past (State.setPort_touches _ _ _)
      | apply Keeps.past (State.count_touches _ _ _)
      | extract_lets
      | split

theorem execXrdytoExpiry_keeps (buf : Nat) (s : State) : KeepsO s (execXrdytoExpiry buf s) := by
  unfold execXrdytoExpiry
  with_reducible
    repeat' first
      | (apply Zone.clear; decide)
      | exact Keeps.refl _
      | apply Keeps.op (State.withdrawPost_keeps _ _ _)
      | apply Keeps.op (State.refuseOn_keeps _ _ _)
      | apply Keeps.op (State.replyTo_keeps _ _ _ _)
      | apply Keeps.past (State.freeStaging_touches _ _ _)
      | apply State.whenServing_keeps
      | extract_lets
      | split

theorem State.resend_keeps (s : State) (conn seq : Nat) : Keeps s (State.resend s conn seq) := by
  unfold State.resend
  with_reducible
    repeat' first
      | (apply Zone.clear; decide)
      | exact Keeps.refl _
      | apply Keeps.op (State.connFail_keeps _ _)
      | apply Keeps.past (State.sendMsg_touches _ _ _)
      | apply Keeps.past (State.setConn_touches _ _ _)
      | apply Keeps.past (State.count_touches _ _ _)
      | split

theorem execRtoExpiry_keeps (conn seq : Nat) (s : State) : KeepsO s (execRtoExpiry conn seq s) := by
  unfold execRtoExpiry
  with_reducible
    repeat' first
      | exact Keeps.refl _
      | apply Keeps.op (State.resend_keeps _ _ _)
      | apply State.whenServing_keeps
      | extract_lets
      | split

theorem execReswaitExpiry_keeps (conn seq : Nat) (s : State) : KeepsO s (execReswaitExpiry conn seq s) := by
  unfold execReswaitExpiry
  with_reducible
    repeat' first
      | (apply Zone.clear; decide)
      | exact Keeps.refl _
      | apply Keeps.op (State.unlock_keeps _ _ _)
      | apply Keeps.op (State.inflDone_keeps _ _ _)
      | apply Keeps.past (State.nak_touches _ _ _)
      | apply State.whenServing_keeps
      | apply Keeps.past (State.count_touches _ _ _)
      | extract_lets
      | split

theorem State.spillOut_keeps (s : State) (conn : Nat) : Keeps s (State.spillOut s conn) := by
  unfold State.spillOut
  with_reducible
    repeat' first
      | exact Keeps.refl _
      | apply Keeps.op (State.emit_keeps _ _)
      | extract_lets
      | apply Keeps.leafFree (Eq.refl _) (Eq.refl _) (Eq.refl _) (Eq.refl _)

theorem State.cacheConn_keeps (s : State) (conn : Nat) : Keeps s (State.cacheConn s conn) := by
  unfold State.cacheConn
  with_reducible
    repeat' first
      | (apply Zone.clear; decide)
      | exact Keeps.refl _
      | apply Keeps.op (State.spillOut_keeps _ _)
      | apply Keeps.past (State.modConn_touches _ _ _)
      | apply Keeps.past (State.count_touches _ _ _)
      | extract_lets
      | split
      | apply Keeps.leaf (Eq.refl _) (Eq.refl _) (Eq.refl _) (Eq.refl _) (Eq.refl _)

theorem execConnStateFetched_keeps (conn : Nat) (ok : Bool) (s : State) : KeepsO s (execConnStateFetched conn ok s) := by
  unfold execConnStateFetched
  with_reducible
    repeat' first
      | exact Keeps.refl _
      | intro x
      | apply Keeps.op (State.cacheConn_keeps _ _)
      | apply Keeps.op (State.packetIn_keeps _ _ _ _)
      | apply Keeps.op (State.raise_keeps _ _ _ _)
      | apply State.whenServing_keeps
      | apply Keeps.foldl
      | extract_lets
      | split
      | apply Keeps.leaf (Eq.refl _) (Eq.refl _) (Eq.refl _) (Eq.refl _) (Eq.refl _)

/-! ## Nbu -/

theorem State.onCh_keeps (s : State) (ch : Nat) (f : State → State) (hf : ∀ (x0 : State), Keeps x0 (f x0)) : KeepsO s (State.onCh s ch
    f) := by
  unfold State.onCh
  with_reducible
    repeat' first
      | exact Keeps.refl _
      | apply KeepsO.next
      | apply Keeps.op (hf _)
      | extract_lets
      | split

theorem execSlotStart_keeps (ch qwait : Nat) (s : State) : KeepsO s (execSlotStart ch qwait s) := by
  unfold execSlotStart
  with_reducible
    repeat' first
      | (apply Zone.clear; decide)
      | exact Keeps.refl _
      | intro x
      | apply State.onCh_keeps
      | apply Keeps.past (State.scanSlot_touches _ _ _ _)
      | apply Keeps.past (State.slotSet_touches _ _ _ _ _ _)
      | apply Keeps.past (State.setCur_touches _ _ _)
      | apply Keeps.op (State.hostErr_keeps _ _)
      | extract_lets
      | split

theorem execSlotRelease_keeps (ch slot : Nat) (s : State) : KeepsO s (execSlotRelease ch slot s) := by
  unfold execSlotRelease
  with_reducible
    repeat' first
      | (apply Zone.clear; decide)
      | exact Keeps.refl _
      | intro x
      | apply State.onCh_keeps
      | apply Keeps.past (State.slotSet_touches _ _ _ _ _ _)
      | apply Keeps.op (State.hostErr_keeps _ _)
      | extract_lets
      | split

theorem execForcedPause_keeps (ch : Nat) (s : State) : KeepsO s (execForcedPause ch s) := by
  unfold execForcedPause
  with_reducible
    repeat' first
      | (apply Zone.clear; decide)
      | exact Keeps.refl _
      | intro x
      | apply State.onCh_keeps
      | apply Keeps.past (State.slotSet_touches _ _ _ _ _ _)
      | apply Keeps.past (State.setCur_touches _ _ _)
      | apply Keeps.op (State.raise_keeps _ _ _ _)
      | apply Keeps.past (State.count_touches _ _ _)
      | extract_lets
      | split

theorem State.nbuGo_keeps (s : State) (blk mask : Nat) : Keeps s (State.nbuGo s blk mask) := by
  unfold State.nbuGo
  with_reducible
    repeat' first
      | exact Keeps.refl _
      | intro x
      | apply Keeps.op (State.nbuGoOn_keeps _ _ _)
      | apply Keeps.each

/-! ## RegBus -/

theorem State.portResetGo_keeps (s : State) (p : Nat) : Keeps s (State.portResetGo s p) := by
  unfold State.portResetGo
  with_reducible
    repeat' first
      | (apply Zone.clear; decide)
      | exact Keeps.refl _
      | apply Keeps.past (State.resetUnloaded_touches _ _)
      | apply Keeps.op (State.portDown_keeps _ _)
      | apply Keeps.past (State.setPort_touches _ _ _)
      | apply Keeps.past (State.setFld_touches _ _ _)

theorem State.regStarts_keeps (s : State) (n : Nat) (r : Reg) (old : Nat) : Keeps s (State.regStarts s n r old) := by
  unfold State.regStarts
  with_reducible
    repeat' first
      | (apply Zone.clear; decide)
      | exact Keeps.refl _
      | apply Keeps.past (State.shaperChange_touches _ _ _ _)
      | apply Keeps.op (State.portResetGo_keeps _ _)
      | apply Keeps.past (State.gateRestart_touches _ _)
      | apply Keeps.past (State.setFld_touches _ _ _)
      | split

theorem State.spoilReg_keeps (s : State) (req : Requester) (n : Nat) (r : Reg) (rule : Nat) : Keeps s (State.spoilReg s req n r rule) :=
    by
  unfold State.spoilReg
  with_reducible
    repeat' first
      | (apply Zone.clear; decide)
      | exact Keeps.refl _
      | apply Keeps.op (State.regStarts_keeps _ _ _ _)
      | apply Keeps.past (State.setRegister_touches _ _ _ _)
      | apply Keeps.op (State.hostErr_keeps _ _)

theorem State.commitReg_keeps (s : State) (req : Requester) (n : Nat) (r : Reg) (v : Nat) : KeepsO s (State.commitReg s req n r v) := by
  unfold State.commitReg
  with_reducible
    repeat' first
      | (apply Zone.clear; decide)
      | exact Keeps.refl _
      | apply KeepsO.next
      | apply Keeps.op (State.spoilReg_keeps _ _ _ _ _)
      | apply Keeps.op (State.regStarts_keeps _ _ _ _)
      | apply Keeps.past (State.setRegister_touches _ _ _ _)
      | extract_lets
      | split

theorem State.stagedWrite_keeps (s : State) (req : Requester) (n : Nat) (r : Reg) (o : Nat) (x : W32) : KeepsO s (State.stagedWrite s
    req n r o x) := by
  unfold State.stagedWrite
  with_reducible
    repeat' first
      | exact Keeps.refl _
      | apply KeepsO.next
      | apply KeepsO.op (State.commitReg_keeps _ _ _ _ _)
      | extract_lets
      | split
      | apply Keeps.leaf (Eq.refl _) (Eq.refl _) (Eq.refl _) (Eq.refl _) (Eq.refl _)

theorem State.baseWrite_keeps (s : State) (req : Requester) (n o : Nat) (x : W32) : KeepsO s (State.baseWrite s req n o x) := by
  unfold State.baseWrite
  with_reducible
    repeat' first
      | (apply Zone.clear; decide)
      | exact Keeps.refl _
      | apply KeepsO.next
      | apply KeepsO.op (State.stagedWrite_keeps _ _ _ _ _ _)
      | apply Keeps.past (State.sqWrite_touches _ _ _ _)
      | apply KeepsO.op (State.commitReg_keeps _ _ _ _ _)
      | apply Keeps.op (State.spoilReg_keeps _ _ _ _ _)
      | apply Keeps.op (State.nbuGo_keeps _ _ _)
      | extract_lets
      | split

theorem State.aliasWrite_keeps (s : State) (req : Requester) (k : Alias) (n o : Nat) (x : W32) : KeepsO s (State.aliasWrite s req k n o
    x) := by
  unfold State.aliasWrite
  with_reducible
    repeat' first
      | exact Keeps.refl _
      | apply KeepsO.next
      | apply KeepsO.op (State.commitReg_keeps _ _ _ _ _)
      | apply Keeps.op (State.spoilReg_keeps _ _ _ _ _)
      | extract_lets
      | split

theorem State.onBus_keeps (s : State) (a : Nat) (f : Nat → Nat → State → Outcome) (hf : ∀ (x0 : Nat) (x1 : Nat) (x2 : State), KeepsO x2
    (f x0 x1 x2)) : KeepsO s (State.onBus s a f) := by
  unfold State.onBus
  extract_lets n b go
  split
  · exact KeepsO.next (State.hostErr_keeps _ _)
  · split
    · exact KeepsO.next (Keeps.refl _)
    · split
      · exact hf _ _ _
      · refine KeepsO.foldl _ _ (fun o k ho => ?_) (KeepsO.next (Keeps.refl _))
        cases o with
        | next t => exact KeepsO.op (hf _ _ _) ho.get
        | fault r => exact ho
        | refused r => exact ho

theorem State.busWrite_keeps (s : State) (req : Requester) (a : Nat) (x : W32) : KeepsO s (State.busWrite s req a x) := by
  unfold State.busWrite
  with_reducible
    repeat' first
      | exact Keeps.refl _
      | intro x
      | apply State.onBus_keeps
      | apply KeepsO.op (State.aliasWrite_keeps _ _ _ _ _ _)
      | apply KeepsO.op (State.baseWrite_keeps _ _ _ _ _)
      | split

theorem State.ctlPath_keeps (s : State) (par : Nat) (lost go : State → Outcome)
    (hl : ∀ u, KeepsO u (lost u)) (hg : ∀ u, KeepsO u (go u)) : KeepsO s (s.ctlPath par lost go) := by
  unfold State.ctlPath
  have hc : Keeps s (s.count kChkParreplay (min par 4)) := Keeps.past (State.count_touches _ _ _) (by decide) (Keeps.refl _)
  split
  · exact hg s
  · split
    · split
      · exact hg s
      · exact hl s
    · split
      · exact KeepsO.op (hg _) hc
      · exact KeepsO.op (hl _) (Keeps.op (State.raise_keeps _ _ _ _) hc)

/-! ## PowerOps -/

theorem State.wholeReset_keeps (s : State) (cold : Bool) : Keeps s (State.wholeReset s cold) := by
  have hk : Mem.wf s.mem = true → Mem.wf s.mem.kept = true :=
    Mem.wf_of id id (fun _ => Tbl.wf_nil _) (fun _ => Tbl.wf_nil _) (fun _ => Tbl.wf_nil _) (fun _ => Tbl.wf_nil _)
      (fun _ => Tbl.wf_nil _)
  cases cold
  · exact ⟨hk, List.suffix_rfl, ⟨rfl, rfl, rfl, rfl⟩, Nat.le_refl _, Nat.le_refl _⟩
  · exact ⟨fun _ => Mem.wf_reset, List.suffix_rfl, ⟨rfl, rfl, rfl, rfl⟩, Nat.le_refl _, Nat.le_refl _⟩

theorem State.restart_keeps (s : State) (cause wd : Nat) : Keeps s (State.restart s cause wd) := by
  unfold State.restart
  with_reducible
    repeat' first
      | exact Keeps.refl _
      | apply Keeps.op (State.wholeReset_keeps _ _)
      | extract_lets
      | apply Keeps.leaf (Eq.refl _) (Eq.refl _) (Eq.refl _) (Eq.refl _) (Eq.refl _)

theorem State.stopHere_keeps (s : State) : Keeps s (State.stopHere s) := by
  unfold State.stopHere
  with_reducible
    repeat' first
      | exact Keeps.refl _
      | apply Keeps.op (State.wholeReset_keeps _ _)
      | extract_lets
      | apply Keeps.leaf (Eq.refl _) (Eq.refl _) (Eq.refl _) (Eq.refl _) (Eq.refl _)

theorem State.enterRecovery_keeps (s : State) (mseq : Nat) : Keeps s (State.enterRecovery s mseq) := by
  unfold State.enterRecovery
  with_reducible
    repeat' first
      | (apply Zone.clear; decide)
      | exact Keeps.refl _
      | apply Keeps.past (State.keepBlock_touches _ _ _)
      | apply Keeps.op (State.wholeReset_keeps _ _)
      | apply Keeps.op (State.emit_keeps _ _)
      | apply Keeps.past (State.event_touches _ _ _)
      | apply Keeps.past (State.setFld_touches _ _ _)
      | extract_lets
      | apply Keeps.leaf (Eq.refl _) (Eq.refl _) (Eq.refl _) (Eq.refl _) (Eq.refl _)

theorem State.powerDone_keeps (s : State) (k : Nat) : Keeps s (State.powerDone s k) := by
  unfold State.powerDone
  with_reducible
    repeat' first
      | exact Keeps.refl _
      | intro x
      | apply Keeps.op (State.completeSt_keeps _ _ _)
      | apply Keeps.foldl
      | extract_lets
      | apply Keeps.leaf (Eq.refl _) (Eq.refl _) (Eq.refl _) (Eq.refl _) (Eq.refl _)

theorem State.enterStandby_keeps (s : State) : Keeps s (State.enterStandby s) := by
  unfold State.enterStandby
  with_reducible
    repeat' first
      | exact Keeps.refl _
      | apply Keeps.op (State.powerDone_keeps _ _)
      | apply Keeps.op (State.wholeReset_keeps _ _)
      | apply Keeps.op (State.emit_keeps _ _)
      | extract_lets
      | split
      | apply Keeps.leaf (Eq.refl _) (Eq.refl _) (Eq.refl _) (Eq.refl _) (Eq.refl _)

theorem State.clearCompute_keeps (s : State) : Keeps s (State.clearCompute s) := by
  unfold State.clearCompute
  with_reducible
    repeat' first
      | exact Keeps.refl _
      | (apply Mem.wf_of <;> first | exact id | exact Tbl.wf_drop _ _ _ | exact poisSet_wf _ _ | exact Tbl.wf_putAll _ _ _ _ | exact fun _ => Tbl.wf_nil _)
      | extract_lets
      | apply Keeps.leafMem (Eq.refl _) (Eq.refl _) (Eq.refl _) (Eq.refl _)

theorem State.enterIdle2_keeps (s : State) : Keeps s (State.enterIdle2 s) := by
  unfold State.enterIdle2
  with_reducible
    repeat' first
      | (apply Zone.clear; decide)
      | exact Keeps.refl _
      | apply Keeps.op (State.clearCompute_keeps _)
      | apply Keeps.past (State.clearCurrants_touches _)
      | apply Keeps.op (State.powerDone_keeps _ _)
      | apply Keeps.past (State.setFld_touches _ _ _)
      | extract_lets
      | apply Keeps.leaf (Eq.refl _) (Eq.refl _) (Eq.refl _) (Eq.refl _) (Eq.refl _)

theorem State.flushGoOn_keeps (s : State) (why : FlushWhy) : Keeps s (State.flushGoOn s why) := by
  unfold State.flushGoOn
  with_reducible
    repeat' first
      | exact Keeps.refl _
      | apply Keeps.op (State.enterIdle2_keeps _)
      | apply Keeps.op (State.enterStandby_keeps _)
      | apply Keeps.op (State.enterRecovery_keeps _ _)
      | apply Keeps.op (State.stopHere_keeps _)
      | apply Keeps.op (State.restart_keeps _ _ _)
      | split

theorem State.flushBegin_keeps (s : State) (why : FlushWhy) : Keeps s (State.flushBegin s why) := by
  unfold State.flushBegin
  with_reducible
    repeat' first
      | (apply Zone.clear; decide)
      | exact Keeps.refl _
      | apply Keeps.op (State.flushGoOn_keeps _ _)
      | apply Keeps.op (State.progPending_keeps _)
      | apply Keeps.past (State.setFld_touches _ _ _)
      | extract_lets
      | split
      | apply Keeps.leaf (Eq.refl _) (Eq.refl _) (Eq.refl _) (Eq.refl _) (Eq.refl _)

theorem State.resetNode_keeps (s : State) (why : FlushWhy) : Keeps s (State.resetNode s why) := by
  unfold State.resetNode
  with_reducible
    repeat' first
      | (apply Zone.clear; decide)
      | exact Keeps.refl _
      | apply Keeps.past (State.goBusy_touches _)
      | apply Keeps.op (State.flushBegin_keeps _ _)
      | apply Keeps.op (State.flushGoOn_keeps _ _)
      | extract_lets
      | split
      | apply Keeps.leaf (Eq.refl _) (Eq.refl _) (Eq.refl _) (Eq.refl _) (Eq.refl _)

theorem State.nrgEvent_keeps (s : State) (bit code sev : Nat) (dat : List Nat) : Keeps s (State.nrgEvent s bit code sev dat) := by
  unfold State.nrgEvent
  with_reducible
    repeat' first
      | exact Keeps.refl _
      | apply Keeps.op (State.raise_keeps _ _ _ _)

theorem State.threshold_keeps (s : State) : Keeps s (State.threshold s) := by
  unfold State.threshold
  with_reducible
    repeat' first
      | (apply Zone.clear; decide)
      | exact Keeps.refl _
      | apply Keeps.op (State.nrgEvent_keeps _ _ _ _ _)
      | apply Keeps.op (State.flushBegin_keeps _ _)
      | apply Keeps.op (State.stopHere_keeps _)
      | apply Keeps.past (State.count_touches _ _ _)
      | apply Keeps.past (State.setFld_touches _ _ _)
      | extract_lets
      | split
      | dsimp +zetaDelta only

/-! ## HostQueues -/

theorem execCreateCq_keeps (h : HostHdr) (fn q depth : Nat) (ien : Bool) (ring : Nat) (s : State) : KeepsO s (execCreateCq h fn q depth
    ien ring s) := by
  unfold execCreateCq
  with_reducible
    repeat' first
      | (apply Zone.clear; decide)
      | exact Keeps.refl _
      | intro x
      | apply KeepsO.next
      | apply State.wellFormed_keeps
      | apply State.hostRun_keeps
      | apply Keeps.op (State.completeSt_keeps _ _ _)
      | apply Keeps.past (State.setCq_touches _ _ _)

theorem execCreateSq_keeps (h : HostHdr) (fn q depth cq ring : Nat) (s : State) : KeepsO s (execCreateSq h fn q depth cq ring s) := by
  unfold execCreateSq
  with_reducible
    repeat' first
      | (apply Zone.clear; decide)
      | exact Keeps.refl _
      | intro x
      | apply KeepsO.next
      | apply State.wellFormed_keeps
      | apply State.hostRun_keeps
      | apply Keeps.op (State.completeSt_keeps _ _ _)
      | apply Keeps.past (State.setSq_touches _ _ _)

theorem execDeleteSq_keeps (h : HostHdr) (fn q : Nat) (s : State) : KeepsO s (execDeleteSq h fn q s) := by
  unfold execDeleteSq
  with_reducible
    repeat' first
      | (apply Zone.clear; decide)
      | exact Keeps.refl _
      | intro x
      | apply KeepsO.next
      | apply State.need_keeps
      | apply State.wellFormed_keeps
      | apply State.hostRun_keeps
      | apply Keeps.op (State.settleSq_keeps _ _)
      | apply Keeps.past (State.setSq_touches _ _ _)
      | extract_lets
      | apply Keeps.leaf (Eq.refl _) (Eq.refl _) (Eq.refl _) (Eq.refl _) (Eq.refl _)

theorem execDeleteCq_keeps (h : HostHdr) (fn q : Nat) (s : State) : KeepsO s (execDeleteCq h fn q s) := by
  unfold execDeleteCq
  with_reducible
    repeat' first
      | exact Keeps.refl _
      | intro x
      | apply KeepsO.next
      | apply State.need_keeps
      | apply State.wellFormed_keeps
      | apply State.hostRun_keeps
      | apply Keeps.op (State.completeSt_keeps _ _ _)
      | extract_lets
      | apply Keeps.leaf (Eq.refl _) (Eq.refl _) (Eq.refl _) (Eq.refl _) (Eq.refl _)

theorem execVfBind_keeps (h : HostHdr) (vf tenant : Nat) (s : State) : KeepsO s (execVfBind h vf tenant s) := by
  unfold execVfBind
  with_reducible
    repeat' first
      | exact Keeps.refl _
      | intro x
      | apply KeepsO.next
      | apply State.need_keeps
      | apply State.wellFormed_keeps
      | apply State.hostRun_keeps
      | apply Keeps.op (State.completeSt_keeps _ _ _)
      | extract_lets
      | split
      | apply Keeps.leaf (Eq.refl _) (Eq.refl _) (Eq.refl _) (Eq.refl _) (Eq.refl _)

theorem execTenantCreate_keeps (h : HostHdr) (tenant : Nat) (s : State) : KeepsO s (execTenantCreate h tenant s) := by
  unfold execTenantCreate
  with_reducible
    repeat' first
      | exact Keeps.refl _
      | intro x
      | apply State.hostCmd_keeps
      | apply Keeps.op (State.completeSt_keeps _ _ _)
      | extract_lets
      | split
      | apply Keeps.leaf (Eq.refl _) (Eq.refl _) (Eq.refl _) (Eq.refl _) (Eq.refl _)

theorem execTenantDelete_keeps (h : HostHdr) (tenant : Nat) (s : State) : KeepsO s (execTenantDelete h tenant s) := by
  unfold execTenantDelete
  with_reducible
    repeat' first
      | exact Keeps.refl _
      | intro x
      | apply KeepsO.next
      | apply State.need_keeps
      | apply State.wellFormed_keeps
      | apply State.hostRun_keeps
      | apply Keeps.op (State.completeSt_keeps _ _ _)
      | extract_lets
      | apply Keeps.leaf (Eq.refl _) (Eq.refl _) (Eq.refl _) (Eq.refl _) (Eq.refl _)

theorem execSetQuota_keeps (h : HostHdr) (tenant : Nat) (q : QuotaRec) (s : State) : KeepsO s (execSetQuota h tenant q s) := by
  unfold execSetQuota
  with_reducible
    repeat' first
      | (apply Zone.clear; decide)
      | exact Keeps.refl _
      | intro x
      | apply KeepsO.next
      | apply State.need_keeps
      | apply State.wellFormed_keeps
      | apply State.hostRun_keeps
      | apply Keeps.past (State.modTenant_touches _ _ _)
      | apply Keeps.op (State.completeSt_keeps _ _ _)
      | extract_lets
      | split

theorem execQuotaStats_keeps (h : HostHdr) (tenant : Nat) (s : State) : KeepsO s (execQuotaStats h tenant s) := by
  unfold execQuotaStats
  with_reducible
    repeat' first
      | exact Keeps.refl _
      | intro x
      | apply State.need_keeps
      | apply KeepsO.op (State.answerWith_keeps _ _ _)
      | apply State.hostRun_keeps

theorem execSetRate_keeps (h : HostHdr) (tenant : Nat) (r : RateRec) (s : State) : KeepsO s (execSetRate h tenant r s) := by
  unfold execSetRate
  with_reducible
    repeat' first
      | (apply Zone.clear; decide)
      | exact Keeps.refl _
      | intro x
      | apply KeepsO.next
      | apply State.need_keeps
      | apply State.wellFormed_keeps
      | apply State.hostRun_keeps
      | apply Keeps.past (State.modTenant_touches _ _ _)
      | apply Keeps.op (State.completeSt_keeps _ _ _)

theorem execSetClass_keeps (h : HostHdr) (tenant cls : Nat) (s : State) : KeepsO s (execSetClass h tenant cls s) := by
  unfold execSetClass
  with_reducible
    repeat' first
      | (apply Zone.clear; decide)
      | exact Keeps.refl _
      | intro x
      | apply KeepsO.next
      | apply State.need_keeps
      | apply State.wellFormed_keeps
      | apply State.hostRun_keeps
      | apply Keeps.past (State.modTenant_touches _ _ _)
      | apply Keeps.op (State.completeSt_keeps _ _ _)
      | extract_lets
      | split

theorem execTierStats_keeps (h : HostHdr) (s : State) : KeepsO s (execTierStats h s) := by
  unfold execTierStats
  with_reducible
    repeat' first
      | exact Keeps.refl _
      | intro x
      | apply KeepsO.op (State.answerWith_keeps _ _ _)
      | apply State.hostRun_keeps

theorem execProgressStats_keeps (h : HostHdr) (tenant : Nat) (s : State) : KeepsO s (execProgressStats h tenant s) := by
  unfold execProgressStats
  with_reducible
    repeat' first
      | exact Keeps.refl _
      | intro x
      | apply State.need_keeps
      | apply KeepsO.op (State.answerWith_keeps _ _ _)
      | apply State.hostRun_keeps
      | extract_lets
      | split

theorem execEnergyStats_keeps (h : HostHdr) (s : State) : KeepsO s (execEnergyStats h s) := by
  unfold execEnergyStats
  with_reducible
    repeat' first
      | exact Keeps.refl _
      | intro x
      | apply State.hostCmd_keeps
      | apply Keeps.op (State.complete_keeps _ _ _ _ _)

theorem execFabTstats_keeps (h : HostHdr) (tenant : Nat) (clear : Bool) (s : State) : KeepsO s (execFabTstats h tenant clear s) := by
  unfold execFabTstats
  with_reducible
    repeat' first
      | (apply Zone.clear; decide)
      | exact Keeps.refl _
      | intro x
      | apply State.need_keeps
      | apply KeepsO.op (State.answerWith_keeps _ _ _)
      | apply State.hostRun_keeps
      | apply Keeps.past (State.modTenant_touches _ _ _)
      | extract_lets
      | split

theorem execStepLog_keeps (h : HostHdr) (s : State) : KeepsO s (execStepLog h s) := by
  unfold execStepLog
  with_reducible
    repeat' first
      | exact Keeps.refl _
      | intro x
      | apply State.hostCmd_keeps
      | apply Keeps.op (State.complete_keeps _ _ _ _ _)
      | extract_lets
      | apply Keeps.leaf (Eq.refl _) (Eq.refl _) (Eq.refl _) (Eq.refl _) (Eq.refl _)

theorem execErrLog_keeps (h : HostHdr) (s : State) : KeepsO s (execErrLog h s) := by
  unfold execErrLog
  with_reducible
    repeat' first
      | exact Keeps.refl _
      | intro x
      | apply State.hostCmd_keeps
      | apply Keeps.op (State.complete_keeps _ _ _ _ _)
      | extract_lets
      | apply Keeps.leaf (Eq.refl _) (Eq.refl _) (Eq.refl _) (Eq.refl _) (Eq.refl _)

/-! ## Maintenance -/

theorem State.maintDue_keeps (s : State) (f : State → State) (hf : ∀ (x0 : State), Keeps x0 (f x0)) {z : State} (hz : Keeps z s) : Keeps
    z (State.maintDue s f) := by
  unfold State.maintDue
  with_reducible
    repeat' first
      | (apply Zone.clear; decide)
      | assumption
      | apply Keeps.past (TouchesE.app2 (State.openLease_touches _ _) (by assumption))
      | apply Keeps.op (hf _)
      | split

theorem State.maintList_keeps (s : State) (l : Nat) (f : Hdr → Desc → State → State) (hf : ∀ (x0 : Hdr) (x1 : Desc) (x2 : State), Keeps
    x2 (f x0 x1 x2)) : KeepsO s (State.maintList s l f) := by
  unfold State.maintList
  with_reducible
    repeat' first
      | (apply Zone.clear; decide)
      | exact Keeps.refl _
      | intro x
      | apply KeepsO.next
      | apply State.maintDue_keeps
      | apply Keeps.past (State.setFld_touches _ _ _)
      | apply Keeps.op (hf _ _ _)
      | split

theorem State.chClear_keeps (s : State) (ch off n : Nat) : Keeps s (State.chClear s ch off n) := by
  unfold State.chClear
  with_reducible
    repeat' first
      | exact Keeps.refl _
      | (apply Mem.wf_of <;> first | exact id | exact Tbl.wf_drop _ _ _ | exact poisSet_wf _ _ | exact Tbl.wf_putAll _ _ _ _ | exact fun _ => Tbl.wf_nil _)
      | extract_lets
      | apply Keeps.leafMem (Eq.refl _) (Eq.refl _) (Eq.refl _) (Eq.refl _)

theorem State.newExt_keeps (s : State) (c : CreateFields) (ch cap : Nat) : KeepsP s (fun x => x.2) (State.newExt s c ch cap) := by
  unfold State.newExt
  with_reducible
    repeat' first
      | (apply Zone.clear; decide)
      | exact Keeps.refl _
      | intro x
      | exact KeepsP.ofNone
      | apply KeepsP.ofSome
      | apply KeepsP.map'
      | apply Keeps.op (State.chClear_keeps _ _ _ _)
      | apply Keeps.past (TouchesP.app2 (State.rowsTake_touches _ _ _) (by assumption))
      | split

theorem State.rebuild_keeps (s : State) (c : CreateFields) (h : Hdr) (ch mcap : Nat) : KeepsP s (fun x => x.2) (State.rebuild s c h ch
    mcap) := by
  unfold State.rebuild
  with_reducible
    repeat' first
      | (apply Zone.clear; decide)
      | exact Keeps.refl _
      | intro x
      | exact KeepsP.ofNone
      | apply KeepsP.map'
      | apply Keeps.past (TouchesP.app2 (State.newCopy_touches _ _ _ _) (by assumption))
      | apply Keeps.op (KeepsP.app2 (State.newExt_keeps _ _ _ _) (by assumption))
      | split

theorem State.moveSlot_keeps (s : State) (c : CreateFields) (h : Hdr) (x : SlotAt) (g : Hdr) (y : SlotAt) : Keeps s (State.moveSlot s c
    h x g y) := by
  unfold State.moveSlot
  with_reducible
    repeat' first
      | exact Keeps.refl _
      | apply Keeps.op (State.writeSlot_keeps _ _ _ _ _ _ _ _ _)
      | apply Keeps.op (State.ilvStore_keeps _ _ _ _)
      | apply Keeps.op (State.hbmPoisonLines_keeps _ _)
      | extract_lets
      | split

theorem State.moveSlots_keeps (s : State) (c : CreateFields) (xs : List (Hdr × SlotAt)) (g : Hdr) : Keeps s (State.moveSlots s c xs g)
    := by
  unfold State.moveSlots
  with_reducible
    repeat' first
      | exact Keeps.refl _
      | intro x
      | apply Keeps.op (State.moveSlot_keeps _ _ _ _ _ _)
      | apply Keeps.foldl

theorem State.mergeInto_keeps (s : State) (l : Nat) (h : Hdr) (d : Desc) (ch : Nat) : KeepsP s (fun x => x) (State.mergeInto s l h d ch)
    := by
  unfold State.mergeInto
  with_reducible
    repeat' first
      | (apply Zone.clear; decide)
      | exact Keeps.refl _
      | intro x
      | apply KeepsP.map'
      | apply Keeps.past (State.retire_touches _ _ _ _ _)
      | apply Keeps.op (State.moveSlots_keeps _ _ _ _)
      | apply Keeps.op (KeepsP.app2 (State.rebuild_keeps _ _ _ _ _) (by assumption))
      | apply Keeps.op (State.setHdr_keeps _ _ _)
      | extract_lets
      | apply Keeps.leaf (Eq.refl _) (Eq.refl _) (Eq.refl _) (Eq.refl _) (Eq.refl _)

theorem State.mergeRetry_keeps (s : State) (l : Nat) : Keeps s (State.mergeRetry s l) := by
  unfold State.mergeRetry
  have hd : ∀ l, Keeps s { s with idx := { s.idx with deferred := l } } := fun _ => ⟨fun h => h, List.suffix_rfl, ⟨rfl, rfl, rfl, rfl⟩, Nat.le_refl _, Nat.le_refl _⟩
  split
  · exact hd _
  · split
    · exact hd _
    · exact Keeps.getD (KeepsP.findSome (fun x => State.mergeInto_keeps _ _ _ _ _)) (Keeps.refl _)

theorem State.afterRetire_keeps (s : State) (chs : List Nat) : Keeps s (State.afterRetire s chs) := by
  unfold State.afterRetire
  with_reducible
    repeat' first
      | exact Keeps.refl _
      | intro x
      | apply Keeps.op (State.mergeRetry_keeps _ _)
      | apply Keeps.op (State.retryUpdates_keeps _)
      | apply Keeps.foldl

theorem State.mergeList_keeps (s : State) (l : Nat) (h : Hdr) (d : Desc) : Keeps s (State.mergeList s l h d) := by
  unfold State.mergeList
  with_reducible
    repeat' first
      | (apply Zone.clear; decide)
      | exact Keeps.refl _
      | apply Keeps.op (State.afterRetire_keeps _ _)
      | apply Keeps.op (KeepsP.app (State.mergeInto_keeps _ _ _ _ _) (by assumption))
      | apply Keeps.past (State.modDesc_touches _ _ _)
      | extract_lets
      | split
      | apply Keeps.leaf (Eq.refl _) (Eq.refl _) (Eq.refl _) (Eq.refl _) (Eq.refl _)

theorem execMerge_keeps (l : Nat) (s : State) : KeepsO s (execMerge l s) := by
  unfold execMerge
  with_reducible
    repeat' first
      | exact Keeps.refl _
      | intro x
      | apply Keeps.op (State.mergeList_keeps _ _ _ _)
      | apply State.maintList_keeps
      | extract_lets
      | split

theorem execCompaction_keeps (l : Nat) (s : State) : KeepsO s (execCompaction l s) := by
  unfold execCompaction
  with_reducible
    repeat' first
      | exact Keeps.refl _
      | intro x
      | apply Keeps.op (State.mergeList_keeps _ _ _ _)
      | apply State.maintList_keeps
      | extract_lets
      | split

theorem State.setFine_keeps (s : State) (d : Desc) (l : Nat) (bs : List Byte) : Keeps s (State.setFine s d l bs) := by
  unfold State.setFine
  with_reducible
    repeat' first
      | exact Keeps.refl _
      | apply Keeps.op (State.ilvStore_keeps _ _ _ _)

theorem State.joinLists_keeps (s : State) (d : Desc) (a b : Nat) (ha hb : Hdr) : KeepsP s (fun x => x) (State.joinLists s d a b ha hb)
    := by
  unfold State.joinLists
  with_reducible
    repeat' first
      | (apply Zone.clear; decide)
      | exact Keeps.refl _
      | intro x
      | apply KeepsP.map'
      | apply Keeps.past (State.moveDirs_touches _ _ _ _ _ _ _)
      | apply Keeps.past (State.markChanged_touches _ _)
      | apply Keeps.op (State.setFine_keeps _ _ _ _)
      | apply Keeps.op (State.afterRetire_keeps _ _)
      | apply Keeps.past (State.retire_touches _ _ _ _ _)
      | apply Keeps.op (State.moveSlots_keeps _ _ _ _)
      | apply Keeps.op (KeepsP.app2 (State.rebuild_keeps _ _ _ _ _) (by assumption))
      | apply Keeps.past (State.setMask_touches _ _ _)
      | apply Keeps.op (State.setHdr_keeps _ _ _)

theorem execListMerge_keeps (a b : Nat) (s : State) : KeepsO s (execListMerge a b s) := by
  unfold execListMerge
  with_reducible
    repeat' first
      | exact Keeps.refl _
      | intro x
      | apply KeepsP.op (State.joinLists_keeps _ _ _ _ _ _)
      | apply State.maintList_keeps
      | apply Keeps.getD
      | extract_lets
      | split

theorem State.joinPairs_keeps (s : State) (k n : Nat) : Keeps s (State.joinPairs s k n) := by
  induction n generalizing s k with
  | zero =>
  unfold State.joinPairs
  with_reducible
    repeat' first
      | exact Keeps.refl _
  | succ m ih =>
  unfold State.joinPairs
  with_reducible
    repeat' first
      | exact Keeps.refl _
      | apply Keeps.op (ih _ _)
      | apply Keeps.op (KeepsP.app (State.joinLists_keeps _ _ _ _ _ _) (by assumption))
      | extract_lets
      | split
      | dsimp +zetaDelta only

theorem State.splitList_keeps (s : State) (l : Nat) (h : Hdr) (d : Desc) (b1 b2 : List Byte) (errs : List ReadErr) : Keeps s
    (State.splitList s l h d b1 b2 errs) := by
  unfold State.splitList
  with_reducible
    repeat' first
      | (apply Zone.clear; decide)
      | exact Keeps.refl _
      | apply Keeps.past (State.moveDirs_touches _ _ _ _ _ _ _)
      | apply Keeps.past (State.markChanged_touches _ _)
      | apply Keeps.op (State.setFine_keeps _ _ _ _)
      | apply Keeps.past (State.retire_touches _ _ _ _ _)
      | apply Keeps.op (State.moveSlots_keeps _ _ _ _)
      | apply Keeps.op (KeepsP.app2 (State.rebuild_keeps _ _ _ _ _) (by assumption))
      | apply Keeps.op (State.candVectors_keeps _ _ _ _)
      | apply Keeps.past (State.setMask_touches _ _ _)
      | apply Keeps.op (State.setHdr_keeps _ _ _)
      | apply Keeps.past (State.modDesc_touches _ _ _)
      | extract_lets
      | split

theorem execSplit_keeps (l : Nat) (cs : SplitCents) (errs : List ReadErr) (s : State) : KeepsO s (execSplit l cs errs s) := by
  unfold execSplit
  with_reducible
    repeat' first
      | exact Keeps.refl _
      | intro x
      | apply Keeps.op (State.splitList_keeps _ _ _ _ _ _ _)
      | apply Keeps.op (State.joinPairs_keeps _ _ _)
      | apply Keeps.op (State.afterRetire_keeps _ _)
      | apply State.maintList_keeps
      | extract_lets
      | split

theorem State.passEnd_keeps (s : State) (n : Nat) (d : Desc) : Keeps s (State.passEnd s n d) := by
  unfold State.passEnd
  with_reducible
    repeat' first
      | (apply Zone.clear; decide)
      | exact Keeps.refl _
      | intro x
      | apply Keeps.op (State.setAdj_keeps _ _ _)
      | apply Keeps.op (State.setHdr_keeps _ _ _)
      | apply Keeps.past (State.modDesc_touches _ _ _)
      | apply Keeps.foldl
      | extract_lets
      | apply Keeps.leaf (Eq.refl _) (Eq.refl _) (Eq.refl _) (Eq.refl _) (Eq.refl _)

theorem execReclusterPassEnd_keeps (n : Nat) (s : State) : KeepsO s (execReclusterPassEnd n s) := by
  unfold execReclusterPassEnd
  with_reducible
    repeat' first
      | exact Keeps.refl _
      | intro x
      | apply KeepsO.next
      | apply Keeps.op (State.passEnd_keeps _ _ _)
      | apply State.maintDue_keeps
      | extract_lets
      | split

theorem State.freeRetired_keeps (s : State) (e : Retired) : Keeps s (State.freeRetired s e) := by
  unfold State.freeRetired
  with_reducible
    repeat' first
      | (apply Zone.clear; decide)
      | exact Keeps.refl _
      | intro x
      | apply Keeps.past (State.discardRecs_touches _ _ _ _)
      | apply Keeps.op (State.areaFree_keeps _ _)
      | apply Keeps.past (State.rowsFree_touches _ _ _)
      | apply Keeps.foldl
      | extract_lets
      | split
      | apply Keeps.leaf (Eq.refl _) (Eq.refl _) (Eq.refl _) (Eq.refl _) (Eq.refl _)

theorem execExtentFree_keeps (l gen : Nat) (s : State) : KeepsO s (execExtentFree l gen s) := by
  unfold execExtentFree
  with_reducible
    repeat' first
      | exact Keeps.refl _
      | intro x
      | apply Keeps.op (State.freeRetired_keeps _ _)
      | apply Keeps.op (State.afterRetire_keeps _ _)
      | apply State.whenServing_keeps
      | apply Keeps.foldl
      | extract_lets
      | split
      | apply Keeps.leaf (Eq.refl _) (Eq.refl _) (Eq.refl _) (Eq.refl _) (Eq.refl _)

theorem execSideFullTimeout_keeps (id : Nat) (s : State) : KeepsO s (execSideFullTimeout id s) := by
  unfold execSideFullTimeout
  with_reducible
    repeat' first
      | (apply Zone.clear; decide)
      | exact Keeps.refl _
      | apply Keeps.past (State.modDesc_touches _ _ _)
      | apply Keeps.op (State.finishReq_keeps _ _ _ _)
      | apply State.whenServing_keeps
      | extract_lets
      | split

/-! ## HostObjects -/

theorem State.newList_keeps (s : State) (c : CreateFields) (l : Nat) : KeepsP s (fun x => x) (State.newList s c l) := by
  unfold State.newList
  with_reducible
    repeat' first
      | (apply Zone.clear; decide)
      | exact Keeps.refl _
      | intro x
      | apply KeepsP.map'
      | apply Keeps.op (KeepsP.app2 (State.rebuild_keeps _ _ _ _ _) (by assumption))
      | apply Keeps.past (State.setMask_touches _ _ _)
      | apply Keeps.op (State.setAdj_keeps _ _ _)
      | apply Keeps.op (State.setHdr_keeps _ _ _)

theorem State.newLists_keeps (s : State) (c : CreateFields) (ls : List Nat) : KeepsP s (fun x => x) (State.newLists s c ls) := by
  induction ls generalizing s c with
  | nil =>
  unfold State.newLists
  with_reducible
    repeat' first
      | exact Keeps.refl _
      | apply KeepsP.ofSome
  | cons x r ih =>
  unfold State.newLists
  with_reducible
    repeat' first
      | exact Keeps.refl _
      | exact KeepsP.ofNone
      | apply KeepsP.op (ih _ _)
      | apply Keeps.op (KeepsP.app (State.newList_keeps _ _ _) (by assumption))
      | split

theorem State.placeIndex_keeps (s : State) (c : CreateFields) (splan uplan : Nat) : KeepsP s (fun x => x) (State.placeIndex s c splan
    uplan) := by
  unfold State.placeIndex
  with_reducible
    repeat' first
      | (apply Zone.clear; decide)
      | exact Keeps.refl _
      | exact KeepsP.ofNone
      | apply KeepsP.ofSome
      | apply Keeps.past (TouchesP.app2 (State.newAreas_touches _ _) (by assumption))
      | apply Keeps.past (State.newNs_touches _ _ _)
      | apply Keeps.past (State.countOrphans_touches _)
      | apply Keeps.op (State.discardNs_keeps _ _)
      | apply Keeps.op (State.ilvClean_keeps _ _ _)
      | extract_lets
      | split
      | apply Keeps.leaf (Eq.refl _) (Eq.refl _) (Eq.refl _) (Eq.refl _) (Eq.refl _)

theorem State.buildIndex_keeps (s : State) (c : CreateFields) (splan uplan : Nat) : KeepsP s (fun x => x) (State.buildIndex s c splan
    uplan) := by
  unfold State.buildIndex
  with_reducible
    repeat' first
      | exact Keeps.refl _
      | intro x
      | apply KeepsP.bind
      | apply Keeps.op (KeepsP.app (State.placeIndex_keeps _ _ _ _) (by assumption))
      | apply KeepsP.op (State.newLists_keeps _ _ _)

theorem execIndexCreate_keeps (h : HostHdr) (c0 : CreateFields) (splan uplan : Nat) (s : State) : KeepsO s (execIndexCreate h c0 splan
    uplan s) := by
  unfold execIndexCreate
  with_reducible
    repeat' first
      | (apply Zone.clear; decide)
      | exact Keeps.refl _
      | intro x
      | apply KeepsO.next
      | apply Keeps.op (KeepsP.app (State.buildIndex_keeps _ _ _ _) (by assumption))
      | apply State.need_keeps
      | apply State.hostRun_keeps
      | apply Keeps.past (State.charge_touches _ _ _)
      | apply Keeps.op (State.completeSt_keeps _ _ _)
      | extract_lets
      | split

theorem execIndexDelete_keeps (h : HostHdr) (n : Nat) (s : State) : KeepsO s (execIndexDelete h n s) := by
  unfold execIndexDelete
  with_reducible
    repeat' first
      | (apply Zone.clear; decide)
      | exact Keeps.refl _
      | intro x
      | apply Keeps.past (State.modDesc_touches _ _ _)
      | apply Keeps.past (State.countOrphans_touches _)
      | apply Keeps.op (State.discardNs_keeps _ _)
      | apply State.hostCmd_keeps
      | apply Keeps.op (State.completeSt_keeps _ _ _)
      | extract_lets
      | split
      | apply Keeps.leaf (Eq.refl _) (Eq.refl _) (Eq.refl _) (Eq.refl _) (Eq.refl _)

theorem State.freeIndex_keeps (s : State) (n : Nat) (d : Desc) : Keeps s (State.freeIndex s n d) := by
  unfold State.freeIndex
  with_reducible
    repeat' first
      | (apply Zone.clear; decide)
      | exact Keeps.refl _
      | intro x
      | apply Keeps.past (State.retire_touches _ _ _ _ _)
      | apply Keeps.past (State.countOrphans_touches _)
      | apply Keeps.op (State.discardNs_keeps _ _)
      | apply Keeps.op (State.areaFree_keeps _ _)
      | apply Keeps.past (State.rowsFree_touches _ _ _)
      | apply Keeps.foldl
      | extract_lets
      | apply Keeps.leaf (Eq.refl _) (Eq.refl _) (Eq.refl _) (Eq.refl _) (Eq.refl _)

theorem execDeletionFinish_keeps (n : Nat) (s : State) : KeepsO s (execDeletionFinish n s) := by
  unfold execDeletionFinish
  with_reducible
    repeat' first
      | (apply Zone.clear; decide)
      | exact Keeps.refl _
      | intro x
      | apply Keeps.op (State.freeIndex_keeps _ _ _)
      | apply Keeps.past (State.release_touches _ _ _)
      | apply Keeps.op (State.completeSt_keeps _ _ _)
      | apply State.whenServing_keeps
      | apply Keeps.foldl
      | extract_lets
      | split
      | apply Keeps.leaf (Eq.refl _) (Eq.refl _) (Eq.refl _) (Eq.refl _) (Eq.refl _)

theorem execIndexQuiesce_keeps (h : HostHdr) (n : Nat) (s : State) : KeepsO s (execIndexQuiesce h n s) := by
  unfold execIndexQuiesce
  with_reducible
    repeat' first
      | (apply Zone.clear; decide)
      | exact Keeps.refl _
      | intro x
      | apply Keeps.past (State.modDesc_touches _ _ _)
      | apply State.hostCmd_keeps
      | apply Keeps.op (State.completeSt_keeps _ _ _)
      | apply Keeps.op (State.complete_keeps _ _ _ _ _)
      | extract_lets
      | split

theorem execIndexAttach_keeps (h : HostHdr) (n splan uplan : Nat) (s : State) : KeepsO s (execIndexAttach h n splan uplan s) := by
  unfold execIndexAttach
  with_reducible
    repeat' first
      | (apply Zone.clear; decide)
      | exact Keeps.refl _
      | intro x
      | apply Keeps.past (State.modDesc_touches _ _ _)
      | apply State.hostCmd_keeps
      | apply Keeps.past (State.charge_touches _ _ _)
      | apply Keeps.op (State.completeSt_keeps _ _ _)
      | apply Keeps.op (State.complete_keeps _ _ _ _ _)
      | extract_lets
      | split

theorem execSetHot_keeps (h : HostHdr) (ns : Nat) (hot : Bool) (first count : Nat) (s : State) : KeepsO s (execSetHot h ns hot first
    count s) := by
  unfold execSetHot
  with_reducible
    repeat' first
      | (apply Zone.clear; decide)
      | exact Keeps.refl _
      | intro x
      | apply KeepsO.next
      | apply Keeps.past (State.setMap_touches _ _ _ _)
      | apply State.need_keeps
      | apply State.wellFormed_keeps
      | apply State.hostRun_keeps
      | apply Keeps.op (State.completeSt_keeps _ _ _)
      | apply Keeps.foldl
      | extract_lets
      | split

theorem execCreateTable_keeps (h : HostHdr) (d : TableDesc) (s : State) : KeepsO s (execCreateTable h d s) := by
  unfold execCreateTable
  with_reducible
    repeat' first
      | (apply Zone.clear; decide)
      | exact Keeps.refl _
      | intro x
      | apply KeepsO.next
      | apply State.need_keeps
      | apply State.wellFormed_keeps
      | apply State.hostRun_keeps
      | apply Keeps.past (State.charge_touches _ _ _)
      | apply Keeps.op (State.completeSt_keeps _ _ _)
      | extract_lets
      | split
      | apply Keeps.leaf (Eq.refl _) (Eq.refl _) (Eq.refl _) (Eq.refl _) (Eq.refl _)

theorem execDeleteTable_keeps (h : HostHdr) (n : Nat) (s : State) : KeepsO s (execDeleteTable h n s) := by
  unfold execDeleteTable
  with_reducible
    repeat' first
      | (apply Zone.clear; decide)
      | exact Keeps.refl _
      | intro x
      | apply KeepsO.next
      | apply State.need_keeps
      | apply State.hostRun_keeps
      | apply Keeps.past (State.release_touches _ _ _)
      | apply Keeps.op (State.completeSt_keeps _ _ _)
      | apply Keeps.op (State.areaFree_keeps _ _)
      | apply Keeps.each
      | extract_lets
      | apply Keeps.leaf (Eq.refl _) (Eq.refl _) (Eq.refl _) (Eq.refl _) (Eq.refl _)

theorem execGroupIndex_keeps (h : HostHdr) (n mask : Nat) (s : State) : KeepsO s (execGroupIndex h n mask s) := by
  unfold execGroupIndex
  with_reducible
    repeat' first
      | exact Keeps.refl _
      | intro x
      | apply KeepsO.next
      | apply State.need_keeps
      | apply State.wellFormed_keeps
      | apply State.hostRun_keeps
      | apply Keeps.op (State.completeSt_keeps _ _ _)
      | extract_lets
      | apply Keeps.leaf (Eq.refl _) (Eq.refl _) (Eq.refl _) (Eq.refl _) (Eq.refl _)

theorem State.placeSections_keeps (s : State) (plan : Nat) (xs : List PlanSection) (i : Nat) : KeepsP s (fun x => x.2)
    (State.placeSections s plan xs i) := by
  induction xs generalizing s plan i with
  | nil =>
  unfold State.placeSections
  with_reducible
    repeat' first
      | exact Keeps.refl _
      | apply KeepsP.ofSome
  | cons x r ih =>
  unfold State.placeSections
  with_reducible
    repeat' first
      | (apply Zone.clear; decide)
      | exact Keeps.refl _
      | intro x
      | exact KeepsP.ofNone
      | apply KeepsP.map'
      | apply Keeps.op (KeepsP.app (ih _ _ _) (by assumption))
      | apply Keeps.op (State.ilvStore_keeps _ _ _ _)
      | apply Keeps.op (State.checkMake_keeps _ _ _)
      | apply Keeps.past (TouchesP.app2 (State.areaTake_touches _ _) (by assumption))
      | apply Keeps.each
      | extract_lets
      | split
      | dsimp +zetaDelta only

theorem State.placePlans_keeps (s : State) (owner pack n : Nat) (ps : List PlanHdr) : KeepsP s (fun x => x) (State.placePlans s owner
    pack n ps) := by
  induction ps generalizing s owner pack n with
  | nil =>
  unfold State.placePlans
  with_reducible
    repeat' first
      | exact Keeps.refl _
      | apply KeepsP.ofSome
  | cons x r ih =>
  unfold State.placePlans
  with_reducible
    repeat' first
      | exact Keeps.refl _
      | exact KeepsP.ofNone
      | apply KeepsP.op (ih _ _ _ _)
      | apply Keeps.op (KeepsP.app2 (State.placeSections_keeps _ _ _ _) (by assumption))
      | extract_lets
      | split
      | apply Keeps.leaf (Eq.refl _) (Eq.refl _) (Eq.refl _) (Eq.refl _) (Eq.refl _)

theorem State.loadEnd_keeps (s : State) : Keeps s (State.loadEnd s) := by
  unfold State.loadEnd
  with_reducible
    repeat' first
      | exact Keeps.refl _
      | apply Keeps.op (State.areaFree_keeps _ _)
      | extract_lets
      | split
      | apply Keeps.leaf (Eq.refl _) (Eq.refl _) (Eq.refl _) (Eq.refl _) (Eq.refl _)

theorem execLoadPack_keeps (h : HostHdr) (part : PackPart) (pk : PackBytes) (s : State) : KeepsO s (execLoadPack h part pk s) := by
  unfold execLoadPack
  with_reducible
    repeat' first
      | (apply Zone.clear; decide)
      | exact Keeps.refl _
      | intro x
      | apply KeepsO.next
      | apply Keeps.op (State.loadEnd_keeps _)
      | apply Keeps.op (KeepsP.app (State.placePlans_keeps _ _ _ _ _) (by assumption))
      | apply State.wellFormed_keeps
      | apply State.hostRun_keeps
      | apply Keeps.past (State.charge_touches _ _ _)
      | apply Keeps.op (State.completeSt_keeps _ _ _)
      | apply Keeps.op (State.complete_keeps _ _ _ _ _)
      | apply Keeps.past (TouchesP.app2 (State.areaTake_touches _ _) (by assumption))
      | apply Keeps.past (State.event_touches _ _ _)
      | extract_lets
      | split
      | apply Keeps.leaf (Eq.refl _) (Eq.refl _) (Eq.refl _) (Eq.refl _) (Eq.refl _)

theorem execPackLoadTimeout_keeps (s : State) : KeepsO s (execPackLoadTimeout s) := by
  unfold execPackLoadTimeout
  with_reducible
    repeat' first
      | exact Keeps.refl _
      | apply Keeps.op (State.loadEnd_keeps _)
      | apply State.whenServing_keeps

theorem execUnloadPlan_keeps (h : HostHdr) (n : Nat) (s : State) : KeepsO s (execUnloadPlan h n s) := by
  unfold execUnloadPlan
  with_reducible
    repeat' first
      | (apply Zone.clear; decide)
      | exact Keeps.refl _
      | intro x
      | apply KeepsO.next
      | apply State.need_keeps
      | apply State.hostRun_keeps
      | apply Keeps.past (State.release_touches _ _ _)
      | apply Keeps.op (State.completeSt_keeps _ _ _)
      | apply Keeps.op (State.areaFree_keeps _ _)
      | apply Keeps.foldl
      | extract_lets
      | split
      | apply Keeps.leaf (Eq.refl _) (Eq.refl _) (Eq.refl _) (Eq.refl _) (Eq.refl _)

theorem execLeaseOpen_keeps (h : HostHdr) (plan : Nat) (s : State) : KeepsO s (execLeaseOpen h plan s) := by
  unfold execLeaseOpen
  with_reducible
    repeat' first
      | (apply Zone.clear; decide)
      | exact Keeps.refl _
      | intro x
      | apply KeepsO.next
      | apply Keeps.past (TouchesE.app2 (State.openLease_touches _ _) (by assumption))
      | apply State.need_keeps
      | apply State.hostRun_keeps
      | apply Keeps.op (State.completeSt_keeps _ _ _)
      | apply Keeps.op (State.complete_keeps _ _ _ _ _)
      | extract_lets
      | split

theorem execLeaseClose_keeps (h : HostHdr) (l : Nat) (s : State) : KeepsO s (execLeaseClose h l s) := by
  unfold execLeaseClose
  with_reducible
    repeat' first
      | exact Keeps.refl _
      | intro x
      | apply KeepsO.next
      | apply Keeps.op (State.closeLease_keeps _ _ _)
      | apply State.need_keeps
      | apply State.hostRun_keeps
      | apply Keeps.op (State.completeSt_keeps _ _ _)
      | extract_lets
      | split

theorem execPlanStats_keeps (h : HostHdr) (l : Nat) (s : State) : KeepsO s (execPlanStats h l s) := by
  unfold execPlanStats
  with_reducible
    repeat' first
      | exact Keeps.refl _
      | intro x
      | apply State.need_keeps
      | apply KeepsO.op (State.answerWith_keeps _ _ _)
      | apply State.hostRun_keeps
      | extract_lets
      | split

end Sys2Proof.Machine
end

