-- ==== Sys2Proof/Laws/Keep4.lean ====
section
/-! SUPPORT. What the operations and commands of the flash commands, power, boot, the group, its snapshots and the planner keep: one lemma each (Laws/Keep.lean). -/

namespace Sys2Proof.Machine

/-! ## Sloe -/

theorem State.fetchResult_keeps (s : State) (d : SloeDesc) (query bytes : List Byte) (bad : Bool) (flags : Nat) : Keeps s
    (State.fetchResult s d query bytes bad flags) := by
  unfold State.fetchResult
  with_reducible
    repeat' first
      | exact Keeps.refl _
      | apply Keeps.op (State.emit_keeps _ _)
      | extract_lets
      | split

theorem execLoadq_keeps (d : SloeDesc) (s : State) : KeepsO s (execLoadq d s) := by
  unfold execLoadq
  with_reducible
    repeat' first
      | (apply Zone.clear; decide)
      | exact Keeps.refl _
      | intro x
      | apply KeepsO.next
      | apply Keeps.past (State.leaveDisp_touches _ _)
      | apply Keeps.each
      | apply Keeps.op (State.hostErr_keeps _ _)
      | apply Keeps.past (State.count_touches _ _ _)
      | extract_lets
      | split
      | apply Keeps.leaf (Eq.refl _) (Eq.refl _) (Eq.refl _) (Eq.refl _) (Eq.refl _)

theorem State.startPart_keeps (s : State) (d : SloeDesc) (x : FPart) : Keeps s (State.startPart s d x) := by
  unfold State.startPart
  with_reducible
    repeat' first
      | (apply Zone.clear; decide)
      | exact Keeps.refl _
      | apply Keeps.op (State.emit_keeps _ _)
      | apply Keeps.past (State.count_touches _ _ _)
      | extract_lets
      | apply Keeps.leaf (Eq.refl _) (Eq.refl _) (Eq.refl _) (Eq.refl _) (Eq.refl _)

theorem State.startParts_keeps (s : State) (f : Fetch) : Keeps s (State.startParts s f).1 := by
  unfold State.startParts
  repeat' split
  all_goals with_reducible
    repeat' first
      | exact Keeps.refl _
      | intro x
      | apply Keeps.op (State.startPart_keeps _ _ _)
      | apply Keeps.foldl1
      | extract_lets
      | split

theorem State.sloeNext_keeps (s : State) : Keeps s (State.sloeNext s) := by
  unfold State.sloeNext
  with_reducible
    repeat' first
      | exact Keeps.refl _
      | intro x
      | apply Keeps.op (State.startParts_keeps _ _)
      | apply Keeps.foldl1
      | extract_lets
      | split
      | apply Keeps.leaf (Eq.refl _) (Eq.refl _) (Eq.refl _) (Eq.refl _) (Eq.refl _)

theorem execFetch_keeps (d : SloeDesc) (s : State) : KeepsO s (execFetch d s) := by
  unfold execFetch
  with_reducible
    repeat' first
      | (apply Zone.clear; decide)
      | exact Keeps.refl _
      | apply KeepsO.next
      | apply Keeps.op (State.startParts_keeps _ _)
      | apply Keeps.op (State.fetchResult_keeps _ _ _ _ _ _)
      | apply Keeps.past (State.leaveDisp_touches _ _)
      | apply Keeps.op (State.mapPoison_keeps _)
      | apply Keeps.past (State.count_touches _ _ _)
      | extract_lets
      | split
      | apply Keeps.leaf (Eq.refl _) (Eq.refl _) (Eq.refl _) (Eq.refl _) (Eq.refl _)

theorem execFlashStatusPoll_keeps (ch ce : Nat) (ready : Bool) (fails : List Nat) (s : State) : KeepsO s (execFlashStatusPoll ch ce
    ready fails s) := by
  unfold execFlashStatusPoll
  with_reducible
    repeat' first
      | exact Keeps.refl _
      | apply KeepsO.next
      | apply Keeps.op (State.emit_keeps _ _)
      | extract_lets
      | split
      | apply Keeps.leaf (Eq.refl _) (Eq.refl _) (Eq.refl _) (Eq.refl _) (Eq.refl _)

theorem State.fetchDone_keeps (s : State) (f : Fetch) : Keeps s (State.fetchDone s f) := by
  unfold State.fetchDone
  with_reducible
    repeat' first
      | (apply Zone.clear; decide)
      | exact Keeps.refl _
      | apply Keeps.op (State.fetchResult_keeps _ _ _ _ _ _)
      | apply Keeps.past (State.leaveDisp_touches _ _)
      | apply Keeps.op (State.readDone_keeps _ _ _ _ _ _ _)
      | apply Keeps.past (State.count_touches _ _ _)

theorem State.partDone_keeps (s : State) (p : Nat) (e : NandEnv) : Keeps s (State.partDone s p e) := by
  unfold State.partDone
  with_reducible
    repeat' first
      | exact Keeps.refl _
      | apply Keeps.op (State.fetchDone_keeps _ _)
      | extract_lets
      | split
      | apply Keeps.leaf (Eq.refl _) (Eq.refl _) (Eq.refl _) (Eq.refl _) (Eq.refl _)

theorem execNandReadComplete_keeps (ch ce : Nat) (e : NandEnv) (s : State) : KeepsO s (execNandReadComplete ch ce e s) := by
  unfold execNandReadComplete
  with_reducible
    repeat' first
      | (apply Zone.clear; decide)
      | exact Keeps.refl _
      | apply KeepsO.next
      | apply Keeps.op (State.partDone_keeps _ _ _)
      | apply Keeps.past (State.dieFree_touches _ _ _)
      | apply Keeps.op (State.sloeNext_keeps _)
      | apply Keeps.op (State.progPending_keeps _)
      | split

theorem State.sloeScanOne_keeps (s : State) (d : SloeDesc) (q : List Byte × Bool) (errs : List ReadErr) (i kept bad : Nat) : Keeps s
    (State.sloeScanOne s d q errs i kept bad).1 := by
  unfold State.sloeScanOne
  repeat' split
  all_goals with_reducible
    repeat' first
      | exact Keeps.refl _
      | apply Keeps.op (State.emit_keeps _ _)
      | extract_lets
      | split

theorem State.cacheReads_keeps (s : State) (ps : Tbl (List Nat)) : Keeps s (State.cacheReads s ps) := by
  unfold State.cacheReads
  with_reducible
    repeat' first
      | exact Keeps.refl _
      | intro x
      | apply Keeps.each
      | apply Keeps.op (State.emit_keeps _ _)
      | extract_lets
      | split

theorem State.readCached_keeps (s : State) (ps : Tbl (List Nat)) (errs : List ReadErr) : Keeps s (State.readCached s ps errs) := by
  unfold State.readCached
  with_reducible
    repeat' first
      | (apply Zone.clear; decide)
      | exact Keeps.refl _
      | intro x
      | apply Keeps.op (State.cacheReads_keeps _ _)
      | apply Keeps.op (State.decodeAt_keeps _ _ _ _ _)
      | apply Keeps.each
      | apply Keeps.past (State.count_touches _ _ _)

theorem execScan_keeps (d : SloeDesc) (errs : List ReadErr) (s : State) : KeepsO s (execScan d errs s) := by
  unfold execScan
  with_reducible
    repeat' first
      | (apply Zone.clear; decide)
      | exact Keeps.refl _
      | intro x
      | apply KeepsO.next
      | apply Keeps.op (State.readCached_keeps _ _ _)
      | apply Keeps.op (State.sloeScanOne_keeps _ _ _ _ _ _ _)
      | apply Keeps.past (State.leaveDisp_touches _ _)
      | apply Keeps.op (State.mapPoison_keeps _)
      | apply Keeps.each
      | apply Keeps.op (State.hostErr_keeps _ _)
      | apply Keeps.op (State.emit_keeps _ _)
      | apply Keeps.past (State.count_touches _ _ _)
      | apply Keeps.foldl1
      | extract_lets
      | split

/-! ## Power -/

theorem execColdPowerOn_keeps (s : State) : KeepsO s (execColdPowerOn s) := by
  unfold execColdPowerOn
  with_reducible
    repeat' first
      | exact Keeps.refl _
      | apply Keeps.op (State.wholeReset_keeps _ _)
      | apply State.onlyIf_keeps
      | extract_lets
      | apply Keeps.leaf (Eq.refl _) (Eq.refl _) (Eq.refl _) (Eq.refl _) (Eq.refl _)

theorem execPowerLoss_keeps (s : State) : KeepsO s (execPowerLoss s) := by
  unfold execPowerLoss
  with_reducible
    repeat' first
      | exact Keeps.refl _
      | apply KeepsO.next
      | apply Keeps.op (State.wholeReset_keeps _ _)
      | extract_lets
      | apply Keeps.leaf (Eq.refl _) (Eq.refl _) (Eq.refl _) (Eq.refl _) (Eq.refl _)

theorem execPerstAssert_keeps (s : State) : KeepsO s (execPerstAssert s) := by
  unfold execPerstAssert
  with_reducible
    repeat' first
      | exact Keeps.refl _
      | apply Keeps.op (State.resetNode_keeps _ _)
      | apply Keeps.op (State.restart_keeps _ _ _)
      | apply State.onlyIf_keeps
      | extract_lets
      | split
      | apply Keeps.leaf (Eq.refl _) (Eq.refl _) (Eq.refl _) (Eq.refl _) (Eq.refl _)

theorem State.watchdog_keeps (s : State) (src : Nat) : Keeps s (State.watchdog s src) := by
  unfold State.watchdog
  with_reducible
    repeat' first
      | exact Keeps.refl _
      | apply Keeps.op (State.resetNode_keeps _ _)
      | split

theorem execWatchdogReset_keeps (s : State) : KeepsO s (execWatchdogReset s) := by
  unfold execWatchdogReset
  with_reducible
    repeat' first
      | exact Keeps.refl _
      | apply KeepsO.next
      | apply Keeps.op (State.watchdog_keeps _ _)

theorem execElderWatchdog_keeps (s : State) : KeepsO s (execElderWatchdog s) := by
  unfold execElderWatchdog
  with_reducible
    repeat' first
      | exact Keeps.refl _
      | apply KeepsO.next
      | apply Keeps.op (State.watchdog_keeps _ _)

theorem execRefclkLoss_keeps (s : State) : KeepsO s (execRefclkLoss s) := by
  unfold execRefclkLoss
  with_reducible
    repeat' first
      | (apply Zone.clear; decide)
      | exact Keeps.refl _
      | intro x
      | apply Keeps.op (State.nrgEvent_keeps _ _ _ _ _)
      | apply Keeps.op (State.portDown_keeps _ _)
      | apply State.onlyIf_keeps
      | apply Keeps.each
      | apply Keeps.past (State.setFld_touches _ _ _)
      | extract_lets
      | split
      | apply Keeps.leaf (Eq.refl _) (Eq.refl _) (Eq.refl _) (Eq.refl _) (Eq.refl _)

theorem execRefclkRestore_keeps (s : State) : KeepsO s (execRefclkRestore s) := by
  unfold execRefclkRestore
  with_reducible
    repeat' first
      | (apply Zone.clear; decide)
      | exact Keeps.refl _
      | apply Keeps.op (State.watchdog_keeps _ _)
      | apply State.onlyIf_keeps
      | apply Keeps.past (State.setFld_touches _ _ _)
      | extract_lets
      | apply Keeps.leaf (Eq.refl _) (Eq.refl _) (Eq.refl _) (Eq.refl _) (Eq.refl _)

theorem execPllUnlock_keeps (s : State) : KeepsO s (execPllUnlock s) := by
  unfold execPllUnlock
  with_reducible
    repeat' first
      | (apply Zone.clear; decide)
      | exact Keeps.refl _
      | apply Keeps.op (State.watchdog_keeps _ _)
      | apply Keeps.op (State.nrgEvent_keeps _ _ _ _ _)
      | apply State.onlyIf_keeps
      | apply Keeps.past (State.setFld_touches _ _ _)
      | extract_lets
      | split

theorem execVwarnTaken_keeps (s : State) : KeepsO s (execVwarnTaken s) := by
  unfold execVwarnTaken
  with_reducible
    repeat' first
      | (apply Zone.clear; decide)
      | exact Keeps.refl _
      | apply Keeps.past (State.setPstate_touches _ _)
      | apply Keeps.op (State.nrgEvent_keeps _ _ _ _ _)
      | apply Keeps.past (State.powerHold_touches _)
      | apply State.onlyIf_keeps
      | apply Keeps.past (State.count_touches _ _ _)
      | apply Keeps.past (State.setFld_touches _ _ _)
      | extract_lets
      | split
      | apply Keeps.leaf (Eq.refl _) (Eq.refl _) (Eq.refl _) (Eq.refl _) (Eq.refl _)

theorem execBrownoutRecovery_keeps (s : State) : KeepsO s (execBrownoutRecovery s) := by
  unfold execBrownoutRecovery
  with_reducible
    repeat' first
      | (apply Zone.clear; decide)
      | exact Keeps.refl _
      | apply Keeps.op (State.sloeNext_keeps _)
      | apply Keeps.past (State.setPstate_touches _ _)
      | apply Keeps.op (State.nrgEvent_keeps _ _ _ _ _)
      | apply Keeps.past (State.powerUnhold_touches _)
      | apply Keeps.op (State.progPending_keeps _)
      | apply State.onlyIf_keeps
      | extract_lets
      | split
      | apply Keeps.leaf (Eq.refl _) (Eq.refl _) (Eq.refl _) (Eq.refl _) (Eq.refl _)

theorem execVwmaxExpiry_keeps (s : State) : KeepsO s (execVwmaxExpiry s) := by
  unfold execVwmaxExpiry
  with_reducible
    repeat' first
      | exact Keeps.refl _
      | apply Keeps.op (State.threshold_keeps _)
      | apply State.onlyIf_keeps

theorem execResetThreshold_keeps (s : State) : KeepsO s (execResetThreshold s) := by
  unfold execResetThreshold
  with_reducible
    repeat' first
      | exact Keeps.refl _
      | apply KeepsO.next
      | apply Keeps.op (State.threshold_keeps _)

theorem execFlushComplete_keeps (s : State) : KeepsO s (execFlushComplete s) := by
  unfold execFlushComplete
  with_reducible
    repeat' first
      | (apply Zone.clear; decide)
      | exact Keeps.refl _
      | apply Keeps.op (State.sloeNext_keeps _)
      | apply Keeps.op (State.flushGoOn_keeps _ _)
      | apply Keeps.op (State.retryUpdates_keeps _)
      | apply Keeps.past (State.journal_touches _ _ _ _ _ _ _)
      | apply State.onlyIf_keeps
      | apply Keeps.past (State.setFld_touches _ _ _)
      | extract_lets
      | split
      | apply Keeps.leaf (Eq.refl _) (Eq.refl _) (Eq.refl _) (Eq.refl _) (Eq.refl _)

theorem execThermalTrip_keeps (s : State) : KeepsO s (execThermalTrip s) := by
  unfold execThermalTrip
  with_reducible
    repeat' first
      | (apply Zone.clear; decide)
      | exact Keeps.refl _
      | apply Keeps.past (State.powerHold_touches _)
      | apply Keeps.op (State.flushBegin_keeps _ _)
      | apply Keeps.op (State.stopHere_keeps _)
      | apply State.onlyIf_keeps
      | apply Keeps.past (State.setFld_touches _ _ _)
      | extract_lets
      | split
      | apply Keeps.leaf (Eq.refl _) (Eq.refl _) (Eq.refl _) (Eq.refl _) (Eq.refl _)

theorem execPwrLimChange_keeps (code : Nat) (s : State) : KeepsO s (execPwrLimChange code s) := by
  unfold execPwrLimChange
  with_reducible
    repeat' first
      | (apply Zone.clear; decide)
      | exact Keeps.refl _
      | apply Keeps.op (State.nrgEvent_keeps _ _ _ _ _)
      | apply State.onlyIf_keeps
      | apply Keeps.past (State.setFld_touches _ _ _)

theorem execHoldupRead_keeps (mv : Option Nat) (s : State) : KeepsO s (execHoldupRead mv s) := by
  unfold execHoldupRead
  with_reducible
    repeat' first
      | (apply Zone.clear; decide)
      | exact Keeps.refl _
      | apply Keeps.op (State.nrgEvent_keeps _ _ _ _ _)
      | apply State.onlyIf_keeps
      | apply Keeps.past (State.setFld_touches _ _ _)
      | apply Keeps.past (State.setReg64_touches _ _ _)
      | extract_lets
      | split
      | apply Keeps.leaf (Eq.refl _) (Eq.refl _) (Eq.refl _) (Eq.refl _) (Eq.refl _)

theorem execCalibrationUpdate_keeps (regulator : Nat) (factor : Option Nat) (s : State) : KeepsO s (execCalibrationUpdate regulator
    factor s) := by
  unfold execCalibrationUpdate
  with_reducible
    repeat' first
      | exact Keeps.refl _
      | apply KeepsO.next
      | apply Keeps.op (State.nrgEvent_keeps _ _ _ _ _)
      | apply State.onlyIf_keeps
      | extract_lets
      | split
      | apply Keeps.leaf (Eq.refl _) (Eq.refl _) (Eq.refl _) (Eq.refl _) (Eq.refl _)

/-! ## Flash -/

theorem State.pageLost_keeps (s : State) (p unit : Nat) (fails : List Nat) : Keeps s (State.pageLost s p unit fails) := by
  unfold State.pageLost
  with_reducible
    repeat' first
      | (apply Zone.clear; decide)
      | exact Keeps.refl _
      | apply Keeps.past (State.relocate_touches _ _ _)
      | apply Keeps.op (State.pageEvent_keeps _ _ _ _ _ _ _)
      | extract_lets
      | apply Keeps.leaf (Eq.refl _) (Eq.refl _) (Eq.refl _) (Eq.refl _) (Eq.refl _)

theorem State.progFail_keeps (s : State) (p ns unit : Nat) (sects fails : List Nat) : Keeps s (State.progFail s p ns unit sects fails)
    := by
  unfold State.progFail
  with_reducible
    repeat' first
      | (apply Zone.clear; decide)
      | exact Keeps.refl _
      | apply Keeps.op (State.pageLost_keeps _ _ _ _)
      | apply Keeps.op (State.progStart_keeps _ _ _)
      | apply Keeps.past (State.modBuf_touches _ _ _ _)
      | extract_lets
      | split

theorem execNandProgramComplete_keeps (ch ce : Nat) (s : State) : KeepsO s (execNandProgramComplete ch ce s) := by
  unfold execNandProgramComplete
  with_reducible
    repeat' first
      | (apply Zone.clear; decide)
      | exact Keeps.refl _
      | apply KeepsO.next
      | apply Keeps.op (State.progFail_keeps _ _ _ _ _ _)
      | apply Keeps.past (State.bufDone_touches _ _ _)
      | apply Keeps.past (State.mapProgram_touches _ _ _ _ _)
      | apply Keeps.past (State.dieFree_touches _ _ _)
      | apply Keeps.op (State.sloeNext_keeps _)
      | apply Keeps.op (State.finishWthru_keeps _)
      | apply Keeps.op (State.retryUpdates_keeps _)
      | apply Keeps.op (State.roCheck_keeps _ _)
      | apply Keeps.op (State.progPending_keeps _)
      | apply Keeps.past (State.capRecompute_touches _)
      | apply Keeps.past (State.count_touches _ _ _)
      | extract_lets
      | split

theorem execWbageExpiry_keeps (ns unit : Nat) (s : State) : KeepsO s (execWbageExpiry ns unit s) := by
  unfold execWbageExpiry
  with_reducible
    repeat' first
      | exact Keeps.refl _
      | apply Keeps.op (State.progStart_keeps _ _ _)
      | apply State.onlyIf_keeps

theorem execWriteAdmitTimeout_keeps (req : Nat) (s : State) : KeepsO s (execWriteAdmitTimeout req s) := by
  unfold execWriteAdmitTimeout
  with_reducible
    repeat' first
      | (apply Zone.clear; decide)
      | exact Keeps.refl _
      | apply KeepsO.next
      | apply Keeps.op (State.finishReq_keeps _ _ _ _)
      | apply State.onlyIf_keeps
      | apply Keeps.past (State.count_touches _ _ _)
      | split

theorem Copies.unit_keeps (z : Copies) (ch k : Nat) (fails : List (Nat × List Nat)) (fuel key : Nat) : KeepsP z.st (fun x => x.st)
    (Copies.unit z ch k fails fuel key) := by
  induction fuel generalizing z with
  | zero => exact KeepsP.ofNone
  | succ n ih =>
    unfold Copies.unit
    extract_lets s ns unit e is
    split
    · exact KeepsP.ofNone
    · rename_i q t h
      have ht : Keeps z.st t := Keeps.past (TouchesP.app2 (State.takePage_touches _ _ _) h) (by decide) (Keeps.refl _)
      extract_lets u
      have hu : Keeps z.st u := Keeps.op (State.emit_keeps _ _) ht
      clear_value u
      split
      · exact fun x hx => Keeps.trans (Keeps.op (State.pageLost_keeps _ _ _ _) hu) (ih _ x hx)
      · exact KeepsP.ofSome (Keeps.past (State.count_touches _ _ _) (by decide) (Keeps.past (State.count_touches _ _ _) (by decide)
          ⟨hu.mem, hu.out, hu.made, hu.arb, hu.free⟩))

theorem Copies.units_keeps (z : Copies) (ch k : Nat) (fails : List (Nat × List Nat)) (keys : List Nat) : KeepsP z.st (fun x => x.st)
    (Copies.units z ch k fails keys) := by
  induction keys generalizing z with
  | nil => exact KeepsP.ofSome (Keeps.refl _)
  | cons x r ih =>
    unfold Copies.units
    exact KeepsP.bind (fun y hy => fun w hw => Keeps.trans (Copies.unit_keeps _ _ _ _ _ _ y hy) (ih y w hw))

theorem State.collect_keeps (s : State) (ch k : Nat) (fold : Bool) (env : CopyEnv) : Keeps s (State.collect s ch k fold env) := by
  unfold State.collect
  with_reducible
    repeat' first
      | (apply Zone.clear; decide)
      | exact Keeps.refl _
      | apply Keeps.past (State.collected_touches _ _ _ _ _ _)
      | apply Keeps.op (KeepsP.app (Copies.units_keeps _ _ _ _ _) (by assumption))
      | apply Keeps.op (State.readCached_keeps _ _ _)
      | apply Keeps.op (State.roCheck_keeps _ _)
      | extract_lets
      | split

theorem execFoldStart_keeps (ch : Nat) (e : CopyEnv) (s : State) : KeepsO s (execFoldStart ch e s) := by
  unfold execFoldStart
  with_reducible
    repeat' first
      | (apply Zone.clear; decide)
      | exact Keeps.refl _
      | apply Keeps.op (State.collect_keeps _ _ _ _ _)
      | apply Keeps.past (State.gcMarks_touches _)
      | apply State.onlyIf_keeps
      | extract_lets
      | split
      | apply Keeps.leaf (Eq.refl _) (Eq.refl _) (Eq.refl _) (Eq.refl _) (Eq.refl _)

theorem execGcStart_keeps (ch : Nat) (e : CopyEnv) (s : State) : KeepsO s (execGcStart ch e s) := by
  unfold execGcStart
  with_reducible
    repeat' first
      | (apply Zone.clear; decide)
      | exact Keeps.refl _
      | apply Keeps.op (State.collect_keeps _ _ _ _ _)
      | apply Keeps.past (State.gcMarks_touches _)
      | apply Keeps.op (State.roCheck_keeps _ _)
      | apply State.onlyIf_keeps
      | extract_lets
      | split
      | apply Keeps.leaf (Eq.refl _) (Eq.refl _) (Eq.refl _) (Eq.refl _) (Eq.refl _)

theorem State.spareIn_keeps (s : State) (ch k plane n : Nat) : Keeps s (State.spareIn s ch k plane n) := by
  unfold State.spareIn
  with_reducible
    repeat' first
      | (apply Zone.clear; decide)
      | exact Keeps.refl _
      | apply Keeps.op (State.flashEvent_keeps _ _ _ _ _ _)
      | apply Keeps.past (State.putSupers_touches _ _)
      | apply Keeps.op (State.replace_keeps _ _)
      | extract_lets
      | split
      | apply Keeps.leaf (Eq.refl _) (Eq.refl _) (Eq.refl _) (Eq.refl _) (Eq.refl _)

theorem State.retireBlock_keeps (s : State) (ch k plane : Nat) : Keeps s (State.retireBlock s ch k plane).1 := by
  unfold State.retireBlock
  repeat' split
  all_goals with_reducible
    repeat' first
      | (apply Zone.clear; decide)
      | exact Keeps.refl _
      | apply Keeps.op (State.spareIn_keeps _ _ _ _ _)
      | apply Keeps.past (State.markBadBlock_touches _ _ _ _)
      | apply Keeps.op (State.flashEvent_keeps _ _ _ _ _ _)
      | extract_lets
      | split

theorem State.wearEvents_keeps (t s : State) (ch : Nat) : Keeps t (State.wearEvents t s ch) := by
  unfold State.wearEvents
  with_reducible
    repeat' first
      | exact Keeps.refl _
      | apply Keeps.op (State.flashEvent_keeps _ _ _ _ _ _)
      | extract_lets
      | split
      | dsimp +zetaDelta only

theorem State.eraseDone_keeps (s : State) (ch k : Nat) (bad : List Nat) : Keeps s (State.eraseDone s ch k bad) := by
  unfold State.eraseDone
  with_reducible
    repeat' first
      | (apply Zone.clear; decide)
      | exact Keeps.refl _
      | intro x
      | apply Keeps.past (State.stripeErased_touches _ _ _ _)
      | apply Keeps.op (State.wearEvents_keeps _ _ _)
      | apply Keeps.op (State.retireBlock_keeps _ _ _ _)
      | apply Keeps.op (State.roCheck_keeps _ _)
      | apply Keeps.op (State.flashEvent_keeps _ _ _ _ _ _)
      | apply Keeps.past (State.journal_touches _ _ _ _ _ _ _)
      | apply Keeps.each
      | apply Keeps.past (State.count_touches _ _ _)
      | apply Keeps.foldl1

theorem State.afterErase_keeps (s : State) : Keeps s (State.afterErase s) := by
  unfold State.afterErase
  with_reducible
    repeat' first
      | (apply Zone.clear; decide)
      | exact Keeps.refl _
      | apply Keeps.past (State.gcMarks_touches _)
      | apply Keeps.op (State.sloeNext_keeps _)
      | apply Keeps.op (State.retryUpdates_keeps _)
      | apply Keeps.op (State.progPending_keeps _)
      | apply Keeps.past (State.capRecompute_touches _)

theorem execVictimErase_keeps (ch : Nat) (s : State) : KeepsO s (execVictimErase ch s) := by
  unfold execVictimErase
  with_reducible
    repeat' first
      | exact Keeps.refl _
      | intro x
      | apply Keeps.op (State.afterErase_keeps _)
      | apply Keeps.op (State.eraseDone_keeps _ _ _ _)
      | apply State.onlyIf_keeps
      | apply Keeps.each
      | apply Keeps.op (State.emit_keeps _ _)
      | extract_lets
      | split
      | apply Keeps.leaf (Eq.refl _) (Eq.refl _) (Eq.refl _) (Eq.refl _) (Eq.refl _)

theorem execNandEraseComplete_keeps (ch k : Nat) (fails : List Nat) (s : State) : KeepsO s (execNandEraseComplete ch k fails s) := by
  unfold execNandEraseComplete
  with_reducible
    repeat' first
      | (apply Zone.clear; decide)
      | exact Keeps.refl _
      | intro x
      | apply Keeps.op (State.afterErase_keeps _)
      | apply Keeps.op (State.eraseDone_keeps _ _ _ _)
      | apply Keeps.past (State.dieFree_touches _ _ _)
      | apply State.onlyIf_keeps
      | apply Keeps.each

theorem execZqCalibration_keeps (s : State) : KeepsO s (execZqCalibration s) := by
  unfold execZqCalibration
  with_reducible
    repeat' first
      | exact Keeps.refl _
      | intro x
      | apply State.onlyIf_keeps
      | apply Keeps.each
      | apply Keeps.op (State.emit_keeps _ _)

theorem State.poisonLine_keeps (s : State) (ch row line : Nat) : Keeps s (State.poisonLine s ch row line) := by
  unfold State.poisonLine
  with_reducible
    repeat' first
      | exact Keeps.refl _
      | apply Keeps.op (State.hbmPoisonLines_keeps _ _)
      | extract_lets
      | split
      | apply Keeps.leaf (Eq.refl _) (Eq.refl _) (Eq.refl _) (Eq.refl _) (Eq.refl _)

theorem State.scrubOne_keeps (s : State) (f : ScrubFind) : Keeps s (State.scrubOne s f) := by
  unfold State.scrubOne
  with_reducible
    repeat' first
      | (apply Zone.clear; decide)
      | exact Keeps.refl _
      | apply Keeps.op (State.poisonLine_keeps _ _ _ _)
      | apply Keeps.op (State.retireRow_keeps _ _ _)
      | apply Keeps.op (State.cper_keeps _ _)
      | apply Keeps.past (State.count_touches _ _ _)
      | extract_lets
      | split
      | apply Keeps.leaf (Eq.refl _) (Eq.refl _) (Eq.refl _) (Eq.refl _) (Eq.refl _)

theorem execScrubPass_keeps (finds : List ScrubFind) (s : State) : KeepsO s (execScrubPass finds s) := by
  unfold execScrubPass
  with_reducible
    repeat' first
      | exact Keeps.refl _
      | intro x
      | apply Keeps.op (State.scrubOne_keeps _ _)
      | apply Keeps.op (State.retireRow_keeps _ _ _)
      | apply State.onlyIf_keeps
      | apply Keeps.each
      | apply Keeps.foldl
      | extract_lets
      | apply Keeps.leaf (Eq.refl _) (Eq.refl _) (Eq.refl _) (Eq.refl _) (Eq.refl _)

/-! ## Boot -/

theorem State.imageRuns_keeps (s : State) (i : BootImage) : KeepsP s (fun x => x) (State.imageRuns s i) := by
  unfold State.imageRuns
  with_reducible
    repeat' first
      | (apply Zone.clear; decide)
      | exact Keeps.refl _
      | intro x
      | exact KeepsP.ofNone
      | apply KeepsP.map'
      | apply Keeps.past (State.setGroup_touches _ _)
      | apply Keeps.past (State.setSec_touches _ _)
      | apply Keeps.op (KeepsP.app (State.placePlans_keeps _ _ _ _ _) (by assumption))
      | apply Keeps.op (State.hostErr_keeps _ _)
      | extract_lets
      | split
      | apply Keeps.leaf (Eq.refl _) (Eq.refl _) (Eq.refl _) (Eq.refl _) (Eq.refl _)

theorem State.bootImage_keeps (s : State) (i : BootImage) : Keeps s (State.bootImage s i) := by
  unfold State.bootImage
  with_reducible
    repeat' first
      | (apply Zone.clear; decide)
      | exact Keeps.refl _
      | apply KeepsP.op (State.imageRuns_keeps _ _)
      | apply Keeps.past (State.bootPrep_touches _ _)
      | apply Keeps.past (State.setCause_touches _)
      | apply Keeps.past (State.bootFail_touches _ _)
      | apply Keeps.past (TouchesP.app (State.applyConfig_touches _ _) (by assumption))
      | apply Keeps.getD
      | split

theorem execBootImageVerify_keeps (e : ImageEnv) (s : State) : KeepsO s (execBootImageVerify e s) := by
  unfold execBootImageVerify
  with_reducible
    repeat' first
      | exact Keeps.refl _
      | apply KeepsO.next
      | apply Keeps.op (State.bootImage_keeps _ _)
      | split

theorem State.bistUnit_keeps (s : State) (f : BistFail) : Keeps s (State.bistUnit s f) := by
  unfold State.bistUnit
  with_reducible
    repeat' first
      | (apply Zone.clear; decide)
      | exact Keeps.refl _
      | apply Keeps.op (State.portLost_keeps _ _)
      | apply Keeps.op (State.quarantine_keeps _ _ _)
      | apply Keeps.op (State.retireRow_keeps _ _ _)
      | apply Keeps.past (State.setFld_touches _ _ _)
      | extract_lets
      | split
      | apply Keeps.leaf (Eq.refl _) (Eq.refl _) (Eq.refl _) (Eq.refl _) (Eq.refl _)

theorem State.bringUp_keeps (s : State) (ch : Nat) (ces up : List Nat) : Keeps s (State.bringUp s ch ces up) := by
  unfold State.bringUp
  with_reducible
    repeat' first
      | exact Keeps.refl _
      | intro x
      | apply Keeps.each
      | apply Keeps.op (State.emit_keeps _ _)

theorem State.flashUp_keeps (s : State) (n : NandReport) (bad : List Nat) : Keeps s (State.flashUp s n bad) := by
  unfold State.flashUp
  with_reducible
    repeat' first
      | (apply Zone.clear; decide)
      | exact Keeps.refl _
      | intro x
      | apply Keeps.op (State.bringUp_keeps _ _ _ _)
      | apply Keeps.op (State.flashEvent_keeps _ _ _ _ _ _)
      | apply Keeps.each
      | apply Keeps.past (State.setFld_touches _ _ _)

theorem State.victimErase_keeps (s : State) (x : Nat) : Keeps s (State.victimErase s x) := by
  unfold State.victimErase
  with_reducible
    repeat' first
      | exact Keeps.refl _
      | intro x
      | apply Keeps.op (State.eraseDone_keeps _ _ _ _)
      | apply Keeps.each
      | apply Keeps.op (State.emit_keeps _ _)

theorem State.ftlRecover_keeps (s : State) (p : Super) (bad : List (Nat × Nat)) : Keeps s (State.ftlRecover s p bad) := by
  unfold State.ftlRecover
  with_reducible
    repeat' first
      | (apply Zone.clear; decide)
      | exact Keeps.refl _
      | intro x
      | apply Keeps.op (State.victimErase_keeps _ _)
      | apply Keeps.past (State.mapRecover_touches _ _ _)
      | apply Keeps.op (State.flashEvent_keeps _ _ _ _ _ _)
      | apply Keeps.foldl
      | extract_lets
      | split
      | apply Keeps.leaf (Eq.refl _) (Eq.refl _) (Eq.refl _) (Eq.refl _) (Eq.refl _)

theorem State.ftlBoot_keeps (s : State) (n : NandReport) : Keeps s (State.ftlBoot s n) := by
  unfold State.ftlBoot
  with_reducible
    repeat' first
      | (apply Zone.clear; decide)
      | exact Keeps.refl _
      | apply Keeps.op (State.ftlRecover_keeps _ _ _)
      | apply Keeps.past (State.wbTake_touches _)
      | apply Keeps.past (State.flashFormat_touches _ _)
      | apply Keeps.past (State.countOrphans_touches _)
      | apply Keeps.past (State.capRecompute_touches _)
      | apply Keeps.past (State.setFld_touches _ _ _)
      | extract_lets
      | split

theorem State.flashBoot_keeps (s : State) (n : NandReport) (bad : List Nat) : Keeps s (State.flashBoot s n bad) := by
  unfold State.flashBoot
  with_reducible
    repeat' first
      | exact Keeps.refl _
      | apply Keeps.op (State.ftlBoot_keeps _ _)
      | apply Keeps.op (State.flashUp_keeps _ _ _)
      | split

theorem State.openNode_keeps (s : State) : Keeps s (State.openNode s) := by
  unfold State.openNode
  with_reducible
    repeat' first
      | (apply Zone.clear; decide)
      | exact Keeps.refl _
      | apply Keeps.past (State.adminQueues_touches _)
      | apply Keeps.op (State.cqDrain_keeps _ _ _ _)
      | apply Keeps.op (State.emit_keeps _ _)
      | apply Keeps.past (State.event_touches _ _ _)
      | apply Keeps.past (State.setFld_touches _ _ _)
      | extract_lets
      | split
      | apply Keeps.leaf (Eq.refl _) (Eq.refl _) (Eq.refl _) (Eq.refl _) (Eq.refl _)

theorem execBootComplete_keeps (fails : List BistFail) (s : State) : KeepsO s (execBootComplete fails s) := by
  unfold execBootComplete
  with_reducible
    repeat' first
      | (apply Zone.clear; decide)
      | exact Keeps.refl _
      | intro x
      | apply KeepsO.next
      | apply Keeps.op (State.openNode_keeps _)
      | apply Keeps.past (State.clocksUp_touches _)
      | apply Keeps.past (State.groupBoot_touches _)
      | apply Keeps.op (State.flashBoot_keeps _ _ _)
      | apply Keeps.op (State.bistUnit_keeps _ _)
      | apply Keeps.past (State.bootFail_touches _ _)
      | apply Keeps.past (State.gateRestart_touches _ _)
      | apply Keeps.each
      | apply Keeps.past (State.setFld_touches _ _ _)
      | apply Keeps.foldl
      | extract_lets
      | split

/-! ## Round -/

theorem State.slowEvents_keeps (s : State) (old new : Tbl Member) : Keeps s (State.slowEvents s old new) := by
  unfold State.slowEvents
  with_reducible
    repeat' first
      | exact Keeps.refl _
      | intro x
      | apply Keeps.op (State.raise_keeps _ _ _ _)
      | apply Keeps.op (State.emit_keeps _ _)
      | apply Keeps.foldl

theorem State.closeRound_keeps (s : State) : Keeps s (State.closeRound s) := by
  unfold State.closeRound
  with_reducible
    repeat' first
      | exact Keeps.refl _
      | apply Keeps.op (State.slowEvents_keeps _ _ _)
      | extract_lets
      | split
      | apply Keeps.leaf (Eq.refl _) (Eq.refl _) (Eq.refl _) (Eq.refl _) (Eq.refl _)

/-! ## Snapshot -/

theorem State.snapDesc_keeps (s : State) (b : List Byte) : Keeps s (State.snapDesc s b) := by
  unfold State.snapDesc
  with_reducible
    repeat' first
      | (apply Zone.clear; decide)
      | exact Keeps.refl _
      | apply Keeps.op (KeepsP.app (State.placeIndex_keeps _ _ _ _) (by assumption))
      | apply Keeps.past (State.modDesc_touches _ _ _)
      | apply Keeps.past (State.charge_touches _ _ _)
      | extract_lets
      | split

theorem State.snapExt_keeps (s : State) (c : CreateFields) (ch cap : Nat) (bs : List Byte) (pois : List Bool) : KeepsP s (fun x => x.2)
    (State.snapExt s c ch cap bs pois) := by
  unfold State.snapExt
  with_reducible
    repeat' first
      | exact Keeps.refl _
      | intro x
      | apply KeepsP.map'
      | apply Keeps.op (KeepsP.app2 (State.newExt_keeps _ _ _ _) (by assumption))
      | apply Keeps.op (State.hbmPoisonLines_keeps _ _)
      | apply Keeps.op (State.chWrite_keeps _ _ _ _)
      | extract_lets
      | split

theorem State.snapCopy_keeps (s : State) (c : CreateFields) (copy : Bool) (cap : Nat) (bs : List Byte) : KeepsP s (fun x => x.2)
    (State.snapCopy s c copy cap bs) := by
  unfold State.snapCopy
  with_reducible
    repeat' first
      | (apply Zone.clear; decide)
      | exact Keeps.refl _
      | intro x
      | apply KeepsP.map'
      | apply Keeps.past (TouchesP.app2 (State.newCopy_touches _ _ _ _) (by assumption))
      | apply Keeps.op (State.ilvStore_keeps _ _ _ _)
      | extract_lets
      | split

theorem State.snapTake_keeps (s : State) (n : Nat) (d : Desc) (rel : Nat → Nat) (l : Nat) (b : List Byte) (pois : List Bool) : KeepsP s
    (fun x => x) (State.snapTake s n d rel l b pois) := by
  unfold State.snapTake
  with_reducible
    repeat' first
      | (apply Zone.clear; decide)
      | exact Keeps.refl _
      | intro x
      | exact KeepsP.ofNone
      | apply KeepsP.map'
      | apply Keeps.op (KeepsP.app2 (State.snapCopy_keeps _ _ _ _ _) (by assumption))
      | apply Keeps.op (KeepsP.app2 (State.snapExt_keeps _ _ _ _ _ _) (by assumption))
      | apply Keeps.past (State.setMask_touches _ _ _)
      | apply Keeps.op (State.setAdj_keeps _ _ _)
      | apply Keeps.op (State.setHdr_keeps _ _ _)
      | apply Keeps.past (State.charge_touches _ _ _)
      | extract_lets
      | split
      | apply Keeps.leaf (Eq.refl _) (Eq.refl _) (Eq.refl _) (Eq.refl _) (Eq.refl _)

theorem State.snapRow_keeps (s : State) (n : Nat) (b : List Byte) (pois : List Bool) : Keeps s (State.snapRow s n b pois) := by
  unfold State.snapRow
  with_reducible
    repeat' first
      | exact Keeps.refl _
      | apply Keeps.op (State.ilvStore_keeps _ _ _ _)
      | split

theorem State.snapPart_keeps (s : State) (key : Nat) (p : SnapPart) : KeepsP s (fun x => x) (State.snapPart s key p) := by
  unfold State.snapPart
  with_reducible
    repeat' first
      | (apply Zone.clear; decide)
      | exact Keeps.refl _
      | exact KeepsP.ofNone
      | apply KeepsP.ofSome
      | apply Keeps.op (State.snapRow_keeps _ _ _ _)
      | apply Keeps.past (State.snapTableIn_touches _ _)
      | apply Keeps.past (State.snapDir_touches _ _ _ _)
      | apply KeepsP.op (State.snapTake_keeps _ _ _ _ _ _ _)
      | apply Keeps.op (State.snapDesc_keeps _ _)
      | apply Keeps.op (State.progPending_keeps _)
      | apply Keeps.op (KeepsA.app (State.nsWrite_keeps _ _ _ _ _) (by assumption))
      | apply Keeps.op (State.flashEvent_keeps _ _ _ _ _ _)
      | apply Keeps.op (State.ilvStore_keeps _ _ _ _)
      | apply Keeps.getD
      | extract_lets
      | split

/-! ## HostFab -/

theorem execConnOpen_keeps (h : HostHdr) (c : ConnRec) (s : State) : KeepsO s (execConnOpen h c s) := by
  unfold execConnOpen
  with_reducible
    repeat' first
      | (apply Zone.clear; decide)
      | exact Keeps.refl _
      | intro x
      | apply KeepsO.next
      | apply Keeps.op (State.cacheConn_keeps _ _)
      | apply Keeps.past (State.setConn_touches _ _ _)
      | apply State.need_keeps
      | apply State.wellFormed_keeps
      | apply State.hostRun_keeps
      | apply Keeps.op (State.completeSt_keeps _ _ _)
      | extract_lets
      | split

theorem execConnClose_keeps (h : HostHdr) (conn : Nat) (s : State) : KeepsO s (execConnClose h conn s) := by
  unfold execConnClose
  with_reducible
    repeat' first
      | (apply Zone.clear; decide)
      | exact Keeps.refl _
      | intro x
      | apply Keeps.op (State.drainConn_keeps _ _)
      | apply Keeps.op (State.connClosed_keeps _ _ _)
      | apply Keeps.past (State.setConn_touches _ _ _)
      | apply State.hostCmd_keeps
      | apply Keeps.op (State.completeSt_keeps _ _ _)
      | extract_lets
      | split

theorem execPostRecv_keeps (h : HostHdr) (conn key offset length : Nat) (s : State) : KeepsO s (execPostRecv h conn key offset length s)
    := by
  unfold execPostRecv
  with_reducible
    repeat' first
      | (apply Zone.clear; decide)
      | exact Keeps.refl _
      | intro x
      | apply KeepsO.next
      | apply Keeps.past (State.setConn_touches _ _ _)
      | apply State.need_keeps
      | apply State.wellFormed_keeps
      | apply Keeps.op (State.hostErrCmd_keeps _ _ _)
      | apply State.hostRun_keeps
      | apply Keeps.op (State.completeSt_keeps _ _ _)
      | extract_lets
      | split

theorem execRegRegion_keeps (h : HostHdr) (r : RegionRec) (s : State) : KeepsO s (execRegRegion h r s) := by
  unfold execRegRegion
  with_reducible
    repeat' first
      | exact Keeps.refl _
      | intro x
      | apply KeepsO.next
      | apply State.need_keeps
      | apply State.wellFormed_keeps
      | apply State.hostRun_keeps
      | apply Keeps.op (State.completeSt_keeps _ _ _)
      | extract_lets
      | split
      | apply Keeps.leaf (Eq.refl _) (Eq.refl _) (Eq.refl _) (Eq.refl _) (Eq.refl _)

theorem execDeregRegion_keeps (h : HostHdr) (key : Nat) (s : State) : KeepsO s (execDeregRegion h key s) := by
  unfold execDeregRegion
  with_reducible
    repeat' first
      | (apply Zone.clear; decide)
      | exact Keeps.refl _
      | intro x
      | apply KeepsO.next
      | apply Keeps.op (State.settleRegions_keeps _)
      | apply Keeps.past (State.segsRetry_touches _)
      | apply State.need_keeps
      | apply State.hostRun_keeps
      | extract_lets
      | apply Keeps.leaf (Eq.refl _) (Eq.refl _) (Eq.refl _) (Eq.refl _) (Eq.refl _)

theorem execSegPresent_keeps (h : HostHdr) (key seg : Nat) (s : State) : KeepsO s (execSegPresent h key seg s) := by
  unfold execSegPresent
  with_reducible
    repeat' first
      | (apply Zone.clear; decide)
      | exact Keeps.refl _
      | intro x
      | apply KeepsO.next
      | apply Keeps.past (State.setRegion_touches _ _ _)
      | apply Keeps.past (State.segsRetry_touches _)
      | apply State.need_keeps
      | apply State.wellFormed_keeps
      | apply State.hostRun_keeps
      | apply Keeps.op (State.completeSt_keeps _ _ _)

theorem execSegAbsent_keeps (h : HostHdr) (key seg : Nat) (s : State) : KeepsO s (execSegAbsent h key seg s) := by
  unfold execSegAbsent
  with_reducible
    repeat' first
      | (apply Zone.clear; decide)
      | exact Keeps.refl _
      | intro x
      | apply KeepsO.next
      | apply Keeps.past (State.setRegion_touches _ _ _)
      | apply Keeps.op (State.settleRegions_keeps _)
      | apply State.need_keeps
      | apply State.wellFormed_keeps
      | apply State.hostRun_keeps
      | extract_lets
      | apply Keeps.leaf (Eq.refl _) (Eq.refl _) (Eq.refl _) (Eq.refl _) (Eq.refl _)

theorem State.installMap_keeps (s : State) (h : HostHdr) (m : RMap) : Keeps s (State.installMap s h m) := by
  unfold State.installMap
  with_reducible
    repeat' first
      | (apply Zone.clear; decide)
      | exact Keeps.refl _
      | apply Keeps.past (State.epochRegs_touches _)
      | apply Keeps.past (State.chargeMaps_touches _)
      | apply Keeps.op (State.completeSt_keeps _ _ _)
      | extract_lets
      | split
      | apply Keeps.leaf (Eq.refl _) (Eq.refl _) (Eq.refl _) (Eq.refl _) (Eq.refl _)

theorem execRouteMap_keeps (h : HostHdr) (epoch : Nat) (entries : List RegionEnt) (s : State) : KeepsO s (execRouteMap h epoch entries
    s) := by
  unfold execRouteMap
  with_reducible
    repeat' first
      | (apply Zone.clear; decide)
      | exact Keeps.refl _
      | intro x
      | apply KeepsO.next
      | apply Keeps.op (State.installMap_keeps _ _ _)
      | apply Keeps.past (State.epochRegs_touches _)
      | apply State.wellFormed_keeps
      | apply State.hostRun_keeps
      | apply Keeps.op (State.completeSt_keeps _ _ _)
      | extract_lets
      | split
      | apply Keeps.leaf (Eq.refl _) (Eq.refl _) (Eq.refl _) (Eq.refl _) (Eq.refl _)

theorem execCasLog_keeps (h : HostHdr) (s : State) : KeepsO s (execCasLog h s) := by
  unfold execCasLog
  with_reducible
    repeat' first
      | exact Keeps.refl _
      | intro x
      | apply State.hostCmd_keeps
      | apply Keeps.op (State.complete_keeps _ _ _ _ _)
      | extract_lets
      | apply Keeps.leaf (Eq.refl _) (Eq.refl _) (Eq.refl _) (Eq.refl _) (Eq.refl _)

/-! ## Cascade -/

theorem State.abortAll_keeps (s : State) (only : Step → Bool) : Keeps s (State.abortAll s only) := by
  unfold State.abortAll
  with_reducible
    repeat' first
      | exact Keeps.refl _
      | intro x
      | apply Keeps.op (State.abortFree_keeps _ _ _)
      | apply Keeps.foldl

theorem State.resetMember_keeps (s : State) : Keeps s (State.resetMember s) := by
  unfold State.resetMember
  with_reducible
    repeat' first
      | (apply Zone.clear; decide)
      | exact Keeps.refl _
      | apply Keeps.op (State.abortAll_keeps _ _)
      | apply Keeps.past (State.clearCurrants_touches _)
      | extract_lets
      | apply Keeps.leaf (Eq.refl _) (Eq.refl _) (Eq.refl _) (Eq.refl _) (Eq.refl _)

theorem State.resetSettle_keeps (s : State) : Keeps s (State.resetSettle s) := by
  unfold State.resetSettle
  with_reducible
    repeat' first
      | (apply Zone.clear; decide)
      | exact Keeps.refl _
      | apply Keeps.op (State.completeSt_keeps _ _ _)
      | apply Keeps.past (State.setWord_touches _ _ _)
      | extract_lets
      | split
      | apply Keeps.leaf (Eq.refl _) (Eq.refl _) (Eq.refl _) (Eq.refl _) (Eq.refl _)

theorem execGroupReset_keeps (h : HostHdr) (s : State) : KeepsO s (execGroupReset h s) := by
  unfold execGroupReset
  with_reducible
    repeat' first
      | (apply Zone.clear; decide)
      | exact Keeps.refl _
      | intro x
      | apply KeepsO.next
      | apply Keeps.op (State.resetSettle_keeps _)
      | apply Keeps.op (State.resetMember_keeps _)
      | apply Keeps.past (State.toMember_touches _ _ _ _)
      | apply State.wellFormed_keeps
      | apply State.hostRun_keeps
      | apply Keeps.foldl
      | extract_lets
      | apply Keeps.leaf (Eq.refl _) (Eq.refl _) (Eq.refl _) (Eq.refl _) (Eq.refl _)

theorem execBarrierReset_keeps (m : Msg) (s : State) : KeepsO s (execBarrierReset m s) := by
  unfold execBarrierReset
  with_reducible
    repeat' first
      | (apply Zone.clear; decide)
      | exact Keeps.refl _
      | intro x
      | apply Keeps.op (State.resetMember_keeps _)
      | apply Keeps.past (State.sendBarrier_touches _ _ _ _ _ _)
      | apply State.onSys_keeps
      | apply Keeps.past (State.setFld_touches _ _ _)
      | extract_lets
      | split

theorem execArrive_keeps (m : Msg) (s : State) : KeepsO s (execArrive m s) := by
  unfold execArrive
  with_reducible
    repeat' first
      | (apply Zone.clear; decide)
      | exact Keeps.refl _
      | intro x
      | apply Keeps.op (State.resetSettle_keeps _)
      | apply Keeps.past (State.memberArrives_touches _ _ _)
      | apply State.onSys_keeps
      | extract_lets
      | split
      | apply Keeps.leaf (Eq.refl _) (Eq.refl _) (Eq.refl _) (Eq.refl _) (Eq.refl _)

theorem execGo_keeps (m : Msg) (s : State) : KeepsO s (execGo m s) := by
  unfold execGo
  with_reducible
    repeat' first
      | (apply Zone.clear; decide)
      | exact Keeps.refl _
      | intro x
      | apply State.onSys_keeps
      | apply Keeps.past (State.setFld_touches _ _ _)
      | extract_lets
      | split
      | apply Keeps.leaf (Eq.refl _) (Eq.refl _) (Eq.refl _) (Eq.refl _) (Eq.refl _)

theorem execExpel_keeps (m : Msg) (s : State) : KeepsO s (execExpel m s) := by
  unfold execExpel
  with_reducible
    repeat' first
      | exact Keeps.refl _
      | intro x
      | apply Keeps.op (State.abortAll_keeps _ _)
      | apply State.onSys_keeps
      | extract_lets
      | split
      | apply Keeps.leaf (Eq.refl _) (Eq.refl _) (Eq.refl _) (Eq.refl _) (Eq.refl _)

theorem State.releaseNow_keeps (s : State) : Keeps s (State.releaseNow s) := by
  unfold State.releaseNow
  with_reducible
    repeat' first
      | (apply Zone.clear; decide)
      | exact Keeps.refl _
      | intro x
      | apply Keeps.past (State.sendBarrier_touches _ _ _ _ _ _)
      | apply Keeps.op (State.closeRound_keeps _)
      | apply Keeps.op (State.setMember_keeps _ _ _)
      | apply Keeps.past (State.count_touches _ _ _)
      | apply Keeps.past (State.setFld_touches _ _ _)
      | apply Keeps.foldl
      | extract_lets
      | apply Keeps.leaf (Eq.refl _) (Eq.refl _) (Eq.refl _) (Eq.refl _) (Eq.refl _)

theorem execBarrierRelease_keeps (s : State) : KeepsO s (execBarrierRelease s) := by
  unfold execBarrierRelease
  with_reducible
    repeat' first
      | (apply Zone.clear; decide)
      | exact Keeps.refl _
      | apply Keeps.op (State.releaseNow_keeps _)
      | apply Keeps.past (State.sendBarrier_touches _ _ _ _ _ _)
      | apply Keeps.past (State.rdySettle_touches _)
      | apply State.onlyIf_keeps
      | apply Keeps.past (State.setFld_touches _ _ _)
      | extract_lets
      | split
      | apply Keeps.leaf (Eq.refl _) (Eq.refl _) (Eq.refl _) (Eq.refl _) (Eq.refl _)

theorem State.applyRows_keeps (s : State) : Keeps s (State.applyRows s) := by
  unfold State.applyRows
  with_reducible
    repeat' first
      | exact Keeps.refl _
      | intro x
      | apply Keeps.op (State.rowPut_keeps _ _ _)
      | apply Keeps.foldl
      | extract_lets
      | split
      | apply Keeps.leaf (Eq.refl _) (Eq.refl _) (Eq.refl _) (Eq.refl _) (Eq.refl _)

theorem State.takeRelease_keeps (s : State) : Keeps s (State.takeRelease s) := by
  unfold State.takeRelease
  with_reducible
    repeat' first
      | (apply Zone.clear; decide)
      | exact Keeps.refl _
      | apply Keeps.past (State.markGroup_touches _)
      | apply Keeps.past (State.sendApplied_touches _)
      | apply Keeps.op (State.applyRows_keeps _)
      | extract_lets
      | apply Keeps.leaf (Eq.refl _) (Eq.refl _) (Eq.refl _) (Eq.refl _) (Eq.refl _)

theorem execReleaseDetect_keeps (s : State) : KeepsO s (execReleaseDetect s) := by
  unfold execReleaseDetect
  with_reducible
    repeat' first
      | (apply Zone.clear; decide)
      | exact Keeps.refl _
      | apply Keeps.op (State.takeRelease_keeps _)
      | apply Keeps.past (State.armGates_touches _)
      | apply State.onlyIf_keeps
      | apply Keeps.past (State.count_touches _ _ _)
      | apply Keeps.past (State.setFld_touches _ _ _)
      | extract_lets
      | split
      | apply Keeps.leaf (Eq.refl _) (Eq.refl _) (Eq.refl _) (Eq.refl _) (Eq.refl _)

theorem State.loseMember_keeps (s : State) (p : Nat) : Keeps s (State.loseMember s p) := by
  unfold State.loseMember
  with_reducible
    repeat' first
      | exact Keeps.refl _
      | apply Keeps.op (State.setMember_keeps _ _ _)
      | extract_lets
      | apply Keeps.leaf (Eq.refl _) (Eq.refl _) (Eq.refl _) (Eq.refl _) (Eq.refl _)

theorem execBartoExpiry_keeps (s : State) : KeepsO s (execBartoExpiry s) := by
  unfold execBartoExpiry
  with_reducible
    repeat' first
      | (apply Zone.clear; decide)
      | exact Keeps.refl _
      | intro x
      | apply Keeps.op (State.loseMember_keeps _ _)
      | apply Keeps.past (State.toMember_touches _ _ _ _)
      | apply State.onlyIf_keeps
      | apply Keeps.foldl
      | extract_lets
      | apply Keeps.leaf (Eq.refl _) (Eq.refl _) (Eq.refl _) (Eq.refl _) (Eq.refl _)

theorem execBarstuck_keeps (s : State) : KeepsO s (execBarstuck s) := by
  unfold execBarstuck
  with_reducible
    repeat' first
      | exact Keeps.refl _
      | apply Keeps.op (State.raise_keeps _ _ _ _)
      | apply State.onlyIf_keeps
      | extract_lets
      | apply Keeps.leaf (Eq.refl _) (Eq.refl _) (Eq.refl _) (Eq.refl _) (Eq.refl _)

theorem execGroupRecordSend_keeps (tag : Nat) (s : State) : KeepsO s (execGroupRecordSend tag s) := by
  unfold execGroupRecordSend
  with_reducible
    repeat' first
      | exact Keeps.refl _
      | apply Keeps.op (State.finishReq_keeps _ _ _ _)
      | apply State.onlyIf_keeps
      | extract_lets
      | split
      | apply Keeps.leaf (Eq.refl _) (Eq.refl _) (Eq.refl _) (Eq.refl _) (Eq.refl _)

theorem execConfirm_keeps (m : Msg) (s : State) : KeepsO s (execConfirm m s) := by
  unfold execConfirm
  with_reducible
    repeat' first
      | (apply Zone.clear; decide)
      | exact Keeps.refl _
      | intro x
      | apply Keeps.past (State.mapParts_touches _ _ _ _)
      | apply State.onSys_keeps
      | apply Keeps.past (State.count_touches _ _ _)
      | extract_lets
      | split
      | apply Keeps.leaf (Eq.refl _) (Eq.refl _) (Eq.refl _) (Eq.refl _) (Eq.refl _)

theorem execRetract_keeps (m : Msg) (s : State) : KeepsO s (execRetract m s) := by
  unfold execRetract
  with_reducible
    repeat' first
      | (apply Zone.clear; decide)
      | exact Keeps.refl _
      | intro x
      | apply Keeps.past (State.discardStep_touches _ _ _)
      | apply State.onSys_keeps
      | apply Keeps.op (State.raise_keeps _ _ _ _)
      | extract_lets
      | split

theorem execGone_keeps (m : Msg) (s : State) : KeepsO s (execGone m s) := by
  unfold execGone
  with_reducible
    repeat' first
      | (apply Zone.clear; decide)
      | exact Keeps.refl _
      | intro x
      | apply Keeps.past (State.mapParts_touches _ _ _ _)
      | apply State.onSys_keeps
      | extract_lets
      | split

theorem execReplay_keeps (m : Msg) (s : State) : KeepsO s (execReplay m s) := by
  unfold execReplay
  with_reducible
    repeat' first
      | (apply Zone.clear; decide)
      | exact Keeps.refl _
      | intro x
      | apply State.onSys_keeps
      | apply Keeps.op (State.replayWaiting_keeps _ _)
      | apply Keeps.past (State.request_touches _ _ _ _ _ _ _)
      | extract_lets
      | split
      | apply Keeps.leaf (Eq.refl _) (Eq.refl _) (Eq.refl _) (Eq.refl _) (Eq.refl _)

theorem execVerdictTimeout_keeps (steptag : Nat) (s : State) : KeepsO s (execVerdictTimeout steptag s) := by
  unfold execVerdictTimeout
  with_reducible
    repeat' first
      | exact Keeps.refl _
      | apply Keeps.op (State.sendVerdict_keeps _ _ _)
      | apply State.whenServing_keeps

theorem State.barrierLines_keeps (s : State) : Keeps s (State.barrierLines s) := by
  unfold State.barrierLines
  with_reducible
    repeat' first
      | exact Keeps.refl _
      | intro x
      | apply Keeps.op (State.fillBarrier_keeps _ _)
      | apply Keeps.op (State.goOn_keeps _ _)
      | apply Keeps.each

theorem execApplied_keeps (m : Msg) (s : State) : KeepsO s (execApplied m s) := by
  unfold execApplied
  with_reducible
    repeat' first
      | exact Keeps.refl _
      | apply KeepsO.next
      | apply Keeps.op (State.barrierLines_keeps _)
      | apply Keeps.op (State.sysDone_keeps _ _)
      | extract_lets
      | split
      | apply Keeps.leaf (Eq.refl _) (Eq.refl _) (Eq.refl _) (Eq.refl _) (Eq.refl _)

theorem execEpochDrain_keeps (s : State) : KeepsO s (execEpochDrain s) := by
  unfold execEpochDrain
  with_reducible
    repeat' first
      | (apply Zone.clear; decide)
      | exact Keeps.refl _
      | apply Keeps.op (State.installMap_keeps _ _ _)
      | apply Keeps.past (State.epochRegs_touches _)
      | apply Keeps.past (State.chargeMaps_touches _)
      | apply State.onlyIf_keeps
      | apply Keeps.past (State.event_touches _ _ _)
      | extract_lets
      | split
      | apply Keeps.leaf (Eq.refl _) (Eq.refl _) (Eq.refl _) (Eq.refl _) (Eq.refl _)

theorem execHello_keeps (m : Msg) (s : State) : KeepsO s (execHello m s) := by
  unfold execHello
  with_reducible
    repeat' first
      | (apply Zone.clear; decide)
      | exact Keeps.refl _
      | intro x
      | apply Keeps.past (State.startStream_touches _ _)
      | apply State.onSys_keeps
      | apply Keeps.past (State.toNode_touches _ _ _ _)
      | apply Keeps.op (State.setMember_keeps _ _ _)
      | apply Keeps.past (State.request_touches _ _ _ _ _ _ _)
      | extract_lets
      | split

theorem execAccept_keeps (m : Msg) (s : State) : KeepsO s (execAccept m s) := by
  unfold execAccept
  with_reducible
    repeat' first
      | (apply Zone.clear; decide)
      | exact Keeps.refl _
      | intro x
      | apply Keeps.past (State.startStream_touches _ _)
      | apply State.onSys_keeps
      | extract_lets
      | split
      | apply Keeps.leaf (Eq.refl _) (Eq.refl _) (Eq.refl _) (Eq.refl _) (Eq.refl _)

theorem execRefuse_keeps (m : Msg) (s : State) : KeepsO s (execRefuse m s) := by
  unfold execRefuse
  with_reducible
    repeat' first
      | exact Keeps.refl _
      | intro x
      | apply State.onSys_keeps
      | extract_lets
      | split
      | apply Keeps.leaf (Eq.refl _) (Eq.refl _) (Eq.refl _) (Eq.refl _) (Eq.refl _)

theorem execSnapend_keeps (m : Msg) (s : State) : KeepsO s (execSnapend m s) := by
  unfold execSnapend
  with_reducible
    repeat' first
      | (apply Zone.clear; decide)
      | exact Keeps.refl _
      | intro x
      | apply Keeps.past (State.caughtSettle_touches _)
      | apply State.onSys_keeps
      | extract_lets
      | split
      | apply Keeps.leaf (Eq.refl _) (Eq.refl _) (Eq.refl _) (Eq.refl _) (Eq.refl _)

theorem execCaughtup_keeps (m : Msg) (s : State) : KeepsO s (execCaughtup m s) := by
  unfold execCaughtup
  with_reducible
    repeat' first
      | (apply Zone.clear; decide)
      | exact Keeps.refl _
      | intro x
      | apply State.onSys_keeps
      | apply Keeps.past (State.request_touches _ _ _ _ _ _ _)
      | extract_lets
      | split
      | apply Keeps.leaf (Eq.refl _) (Eq.refl _) (Eq.refl _) (Eq.refl _) (Eq.refl _)

theorem execJoinAdmit_keeps (m : Msg) (s : State) : KeepsO s (execJoinAdmit m s) := by
  unfold execJoinAdmit
  with_reducible
    repeat' first
      | (apply Zone.clear; decide)
      | exact Keeps.refl _
      | intro x
      | apply State.onSys_keeps
      | apply Keeps.past (State.setFld_touches _ _ _)
      | extract_lets
      | split
      | apply Keeps.leaf (Eq.refl _) (Eq.refl _) (Eq.refl _) (Eq.refl _) (Eq.refl _)

theorem execJointoExpiry_keeps (pos : Nat) (s : State) : KeepsO s (execJointoExpiry pos s) := by
  unfold execJointoExpiry
  with_reducible
    repeat' first
      | exact Keeps.refl _
      | apply Keeps.op (State.setMember_keeps _ _ _)
      | apply State.onlyIf_keeps
      | extract_lets
      | split
      | apply Keeps.leaf (Eq.refl _) (Eq.refl _) (Eq.refl _) (Eq.refl _) (Eq.refl _)

/-! ## Energy -/

theorem State.releaseWhile_keeps (s : State) (ls : List Nat) (pcap : Nat) : Keeps s (State.releaseWhile s ls pcap) := by
  induction ls generalizing s pcap with
  | nil =>
  unfold State.releaseWhile
  with_reducible
    repeat' first
      | exact Keeps.refl _
  | cons x r ih =>
  unfold State.releaseWhile
  with_reducible
    repeat' first
      | (apply Zone.clear; decide)
      | exact Keeps.refl _
      | apply Keeps.op (ih _ _)
      | apply Keeps.op (State.goOn_keeps _ _)
      | apply Keeps.past (State.unhold_touches _ _)
      | extract_lets
      | split
      | apply Keeps.leaf (Eq.refl _) (Eq.refl _) (Eq.refl _) (Eq.refl _) (Eq.refl _)

theorem State.ballast_keeps (s : State) (pmin ebal : Nat) : Keeps s (State.ballast s pmin ebal) := by
  unfold State.ballast
  with_reducible
    repeat' first
      | (apply Zone.clear; decide)
      | exact Keeps.refl _
      | intro x
      | apply Keeps.op (State.nrgEvent_keeps _ _ _ _ _)
      | apply Keeps.past (State.setCore_touches _ _ _)
      | apply Keeps.each
      | apply Keeps.past (State.count_touches _ _ _)
      | apply Keeps.past (State.setFld_touches _ _ _)
      | extract_lets
      | split

theorem State.powerMoves_keeps (s : State) : Keeps s (State.powerMoves s) := by
  unfold State.powerMoves
  with_reducible
    repeat' first
      | (apply Zone.clear; decide)
      | exact Keeps.refl _
      | intro x
      | apply Keeps.op (State.flushBegin_keeps _ _)
      | apply Keeps.op (State.powerDone_keeps _ _)
      | apply Keeps.op (State.closeLease_keeps _ _ _)
      | apply Keeps.each
      | apply Keeps.past (State.setFld_touches _ _ _)
      | extract_lets
      | split
      | dsimp +zetaDelta only

theorem execEnergyWindow_keeps (w : WindowMeas) (s : State) : KeepsO s (execEnergyWindow w s) := by
  unfold execEnergyWindow
  with_reducible
    repeat' first
      | (apply Zone.clear; decide)
      | exact Keeps.refl _
      | apply Keeps.op (State.powerMoves_keeps _)
      | apply Keeps.op (State.ballast_keeps _ _ _)
      | apply Keeps.op (State.releaseWhile_keeps _ _ _)
      | apply Keeps.past (State.holdUntil_touches _ _ _ _)
      | apply Keeps.past (State.heldWindows_touches _)
      | apply Keeps.past (State.windowCores_touches _ _)
      | apply Keeps.op (State.retryUpdates_keeps _)
      | apply Keeps.op (State.progPending_keeps _)
      | apply Keeps.past (State.capRecompute_touches _)
      | apply State.whenServing_keeps
      | apply Keeps.past (State.count_touches _ _ _)
      | apply Keeps.past (State.setFld_touches _ _ _)
      | extract_lets
      | split
      | apply Keeps.leaf (Eq.refl _) (Eq.refl _) (Eq.refl _) (Eq.refl _) (Eq.refl _)

theorem execSetPowerRun_keeps (h : HostHdr) (autowake : Bool) (s : State) : KeepsO s (execSetPowerRun h autowake s) := by
  unfold execSetPowerRun
  with_reducible
    repeat' first
      | (apply Zone.clear; decide)
      | exact Keeps.refl _
      | intro x
      | apply Keeps.past (State.powerWait_touches _ _ _)
      | apply State.hostCmd_keeps
      | apply Keeps.op (State.completeSt_keeps _ _ _)
      | apply Keeps.past (State.setFld_touches _ _ _)
      | extract_lets
      | split

theorem execSetPowerIdle2_keeps (h : HostHdr) (autowake : Bool) (s : State) : KeepsO s (execSetPowerIdle2 h autowake s) := by
  unfold execSetPowerIdle2
  with_reducible
    repeat' first
      | (apply Zone.clear; decide)
      | exact Keeps.refl _
      | intro x
      | apply Keeps.past (State.powerWait_touches _ _ _)
      | apply State.hostCmd_keeps
      | apply Keeps.op (State.completeSt_keeps _ _ _)
      | apply Keeps.past (State.setFld_touches _ _ _)
      | extract_lets
      | split

theorem execSetPowerStandby_keeps (h : HostHdr) (autowake : Bool) (s : State) : KeepsO s (execSetPowerStandby h autowake s) := by
  unfold execSetPowerStandby
  with_reducible
    repeat' first
      | (apply Zone.clear; decide)
      | exact Keeps.refl _
      | intro x
      | apply Keeps.past (State.powerWait_touches _ _ _)
      | apply State.hostCmd_keeps
      | apply Keeps.past (State.setFld_touches _ _ _)

end Sys2Proof.Machine
end

