-- ==== Sys2Proof/Laws/Keep5.lean ====
section
/-! SUPPORT. What the operations and commands of the host port, management, micro-ops, ownership, messages, registers, tenants, resets and steps keep: one lemma each (Laws/Keep.lean). -/

namespace Sys2Proof.Machine

/-! ## HostPort -/

theorem State.queueError_keeps (s : State) (fn q value : Nat) (off : State → State) (hf : ∀ (x0 : State), Keeps x0 (off x0)) : KeepsO s
    (State.queueError s fn q value off) := by
  unfold State.queueError
  with_reducible
    repeat' first
      | (apply Zone.clear; decide)
      | exact Keeps.refl _
      | apply KeepsO.next
      | apply Keeps.op (State.postEvent_keeps _ _ _)
      | apply Keeps.op (State.hostErr_keeps _ _)
      | apply Keeps.past (State.event_touches _ _ _)
      | apply Keeps.past (State.count_touches _ _ _)
      | apply Keeps.op (hf _)
      | split

theorem execSqTailDoorbell_keeps (fn q value : Nat) (s : State) : KeepsO s (execSqTailDoorbell fn q value s) := by
  unfold execSqTailDoorbell
  with_reducible
    repeat' first
      | (apply Zone.clear; decide)
      | exact Keeps.refl _
      | intro x
      | apply KeepsO.next
      | apply State.queueError_keeps
      | apply Keeps.past (State.setSq_touches _ _ _)
      | split

theorem execCqHeadDoorbell_keeps (fn q value : Nat) (s : State) : KeepsO s (execCqHeadDoorbell fn q value s) := by
  unfold execCqHeadDoorbell
  with_reducible
    repeat' first
      | (apply Zone.clear; decide)
      | exact Keeps.refl _
      | intro x
      | apply KeepsO.next
      | apply State.queueError_keeps
      | apply Keeps.op (State.cqDrain_keeps _ _ _ _)
      | apply Keeps.past (State.setCq_touches _ _ _)
      | extract_lets
      | split

theorem execDmaTimeout_keeps (h : HostHdr) (s : State) : KeepsO s (execDmaTimeout h s) := by
  unfold execDmaTimeout
  with_reducible
    repeat' first
      | (apply Zone.clear; decide)
      | exact Keeps.refl _
      | apply KeepsO.next
      | apply Keeps.past (State.countPoliced_touches _ _)
      | apply Keeps.past (TouchesE.app (State.vfAdmit_touches _ _) (by assumption))
      | apply Keeps.past (TouchesP.app (State.fetch_touches _ _ _) (by assumption))
      | apply Keeps.op (State.completeSt_keeps _ _ _)
      | apply Keeps.past (State.event_touches _ _ _)
      | apply Keeps.past (State.count_touches _ _ _)
      | extract_lets
      | split

theorem execCxlLinkTrain_keeps (width rate : Nat) (s : State) : KeepsO s (execCxlLinkTrain width rate s) := by
  unfold execCxlLinkTrain
  with_reducible
    repeat' first
      | (apply Zone.clear; decide)
      | exact Keeps.refl _
      | apply KeepsO.next
      | apply Keeps.op (State.postEvent_keeps _ _ _)
      | apply Keeps.past (State.event_touches _ _ _)
      | apply Keeps.past (State.setFld_touches _ _ _)
      | extract_lets
      | split
      | apply Keeps.leaf (Eq.refl _) (Eq.refl _) (Eq.refl _) (Eq.refl _) (Eq.refl _)

theorem execCxlMemRead_keeps (offset : Nat) (ecc : Ecc) (s : State) : KeepsO s (execCxlMemRead offset ecc s) := by
  unfold execCxlMemRead
  with_reducible
    repeat' first
      | (apply Zone.clear; decide)
      | exact Keeps.refl _
      | apply Keeps.past (State.tier_touches _ _ _)
      | apply Keeps.op (State.cper_keeps _ _)
      | apply State.onlyIf_keeps
      | apply Keeps.op (State.hbmPoisonLines_keeps _ _)
      | apply Keeps.op (State.emit_keeps _ _)
      | extract_lets
      | split

theorem execCxlMemWrite_keeps (offset : Nat) (bytes : List (Option Byte)) (s : State) : KeepsO s (execCxlMemWrite offset bytes s) := by
  unfold execCxlMemWrite
  with_reducible
    repeat' first
      | exact Keeps.refl _
      | intro x
      | apply Keeps.op (State.recheck_keeps _ _ _)
      | apply State.onlyIf_keeps
      | apply Keeps.op (State.ilvWrite_keeps _ _ _)
      | apply Keeps.each
      | extract_lets
      | split

/-! ## Mgmt -/

theorem State.onMgmt_keeps (s : State) (f : State → Outcome) (hf : ∀ (x0 : State), KeepsO x0 (f x0)) : KeepsO s (State.onMgmt s f) := by
  unfold State.onMgmt
  with_reducible
    repeat' first
      | exact Keeps.refl _
      | apply KeepsO.next
      | apply KeepsO.op (hf _)
      | split

theorem State.mgmtSay_keeps (s : State) (kind mseq : Nat) (st : Status) (payload : List Byte) : Keeps s (State.mgmtSay s kind mseq st
    payload) := by
  unfold State.mgmtSay
  with_reducible
    repeat' first
      | exact Keeps.refl _
      | apply Keeps.op (State.emit_keeps _ _)

theorem execRegread_keeps (mseq addr par : Nat) (s : State) : KeepsO s (execRegread mseq addr par s) := by
  unfold execRegread
  with_reducible
    repeat' first
      | exact Keeps.refl _
      | intro x
      | apply KeepsO.next
      | apply Keeps.op (State.mgmtSay_keeps _ _ _ _ _)
      | apply State.onMgmt_keeps
      | apply State.ctlPath_keeps
      | apply Keeps.op (State.hostErr_keeps _ _)
      | extract_lets
      | split

theorem execRegwrite_keeps (mseq addr : Nat) (x : W32) (par : Nat) (s : State) : KeepsO s (execRegwrite mseq addr x par s) := by
  unfold execRegwrite
  with_reducible
    repeat' first
      | exact Keeps.refl _
      | intro x
      | apply KeepsO.next
      | apply Keeps.op (State.mgmtSay_keeps _ _ _ _ _)
      | apply State.onMgmt_keeps
      | apply State.ctlPath_keeps
      | apply KeepsO.op (State.busWrite_keeps _ _ _ _)
      | (apply KeepsO.app (State.ctlPath_keeps _ _ _ _ (fun u => KeepsO.next (Keeps.refl _)) (fun u => State.busWrite_keeps _ _ _ _)) (by
          assumption))
      | extract_lets
      | split

theorem execHealth_keeps (mseq : Nat) (s : State) : KeepsO s (execHealth mseq s) := by
  unfold execHealth
  with_reducible
    repeat' first
      | exact Keeps.refl _
      | intro x
      | apply KeepsO.next
      | apply Keeps.op (State.mgmtSay_keeps _ _ _ _ _)
      | apply State.onMgmt_keeps

theorem execHealthInterval_keeps (s : State) : KeepsO s (execHealthInterval s) := by
  unfold execHealthInterval
  with_reducible
    repeat' first
      | exact Keeps.refl _
      | intro x
      | apply KeepsO.next
      | apply Keeps.op (State.mgmtSay_keeps _ _ _ _ _)
      | apply State.onMgmt_keeps
      | extract_lets
      | split

theorem execCperread_keeps (mseq : Nat) (s : State) : KeepsO s (execCperread mseq s) := by
  unfold execCperread
  with_reducible
    repeat' first
      | exact Keeps.refl _
      | intro x
      | apply KeepsO.next
      | apply Keeps.op (State.mgmtSay_keeps _ _ _ _ _)
      | apply State.onMgmt_keeps
      | extract_lets
      | split
      | apply Keeps.leaf (Eq.refl _) (Eq.refl _) (Eq.refl _) (Eq.refl _) (Eq.refl _)

theorem execStandby_keeps (mseq : Nat) (s : State) : KeepsO s (execStandby mseq s) := by
  unfold execStandby
  with_reducible
    repeat' first
      | (apply Zone.clear; decide)
      | exact Keeps.refl _
      | intro x
      | apply KeepsO.next
      | apply Keeps.op (State.mgmtSay_keeps _ _ _ _ _)
      | apply State.onMgmt_keeps
      | apply Keeps.past (State.event_touches _ _ _)
      | extract_lets
      | split
      | apply Keeps.leaf (Eq.refl _) (Eq.refl _) (Eq.refl _) (Eq.refl _) (Eq.refl _)

theorem execWake_keeps (mseq : Nat) (s : State) : KeepsO s (execWake mseq s) := by
  unfold execWake
  with_reducible
    repeat' first
      | exact Keeps.refl _
      | intro x
      | apply KeepsO.next
      | apply Keeps.op (State.mgmtSay_keeps _ _ _ _ _)
      | apply State.onMgmt_keeps
      | apply Keeps.op (State.restart_keeps _ _ _)
      | extract_lets
      | split
      | apply Keeps.leaf (Eq.refl _) (Eq.refl _) (Eq.refl _) (Eq.refl _) (Eq.refl _)

theorem execRecover_keeps (mseq : Nat) (s : State) : KeepsO s (execRecover mseq s) := by
  unfold execRecover
  with_reducible
    repeat' first
      | exact Keeps.refl _
      | intro x
      | apply KeepsO.next
      | apply Keeps.op (State.mgmtSay_keeps _ _ _ _ _)
      | apply State.onMgmt_keeps
      | apply Keeps.op (State.flushBegin_keeps _ _)
      | apply Keeps.op (State.enterRecovery_keeps _ _)
      | extract_lets
      | split
      | apply Keeps.leaf (Eq.refl _) (Eq.refl _) (Eq.refl _) (Eq.refl _) (Eq.refl _)

theorem execReset_keeps (_mseq : Nat) (s : State) : KeepsO s (execReset _mseq s) := by
  unfold execReset
  with_reducible
    repeat' first
      | exact Keeps.refl _
      | intro x
      | apply KeepsO.next
      | apply State.onMgmt_keeps
      | apply Keeps.op (State.resetNode_keeps _ _)
      | apply Keeps.op (State.restart_keeps _ _ _)
      | extract_lets
      | split

theorem State.onBootFlash_keeps (s : State) (kind mseq : Nat) (ok : Bool) (f : State → State) (hf : ∀ (x0 : State), Keeps x0 (f x0)) :
    KeepsO s (State.onBootFlash s kind mseq ok f) := by
  unfold State.onBootFlash
  with_reducible
    repeat' first
      | exact Keeps.refl _
      | intro x
      | apply KeepsO.next
      | apply Keeps.op (State.mgmtSay_keeps _ _ _ _ _)
      | apply State.onMgmt_keeps
      | apply Keeps.op (hf _)
      | extract_lets
      | split

theorem execFlashread_keeps (mseq addr len : Nat) (s : State) : KeepsO s (execFlashread mseq addr len s) := by
  unfold execFlashread
  with_reducible
    repeat' first
      | exact Keeps.refl _
      | intro x
      | apply State.onBootFlash_keeps
      | apply Keeps.op (State.mgmtSay_keeps _ _ _ _ _)

theorem execFlasherase_keeps (mseq addr : Nat) (s : State) : KeepsO s (execFlasherase mseq addr s) := by
  unfold execFlasherase
  with_reducible
    repeat' first
      | exact Keeps.refl _
      | intro x
      | apply State.onBootFlash_keeps
      | apply Keeps.op (State.mgmtSay_keeps _ _ _ _ _)
      | extract_lets
      | apply Keeps.leaf (Eq.refl _) (Eq.refl _) (Eq.refl _) (Eq.refl _) (Eq.refl _)

theorem State.bootByte_keeps (s : State) (a : Nat) (b : Byte) : Keeps s (State.bootByte s a b) := by
  unfold State.bootByte
  with_reducible
    repeat' first
      | exact Keeps.refl _
      | apply Keeps.op (State.drawFree_keeps _)
      | extract_lets
      | split
      | apply Keeps.leaf (Eq.refl _) (Eq.refl _) (Eq.refl _) (Eq.refl _) (Eq.refl _)

theorem execFlashwrite_keeps (mseq addr : Nat) (data : List Byte) (s : State) : KeepsO s (execFlashwrite mseq addr data s) := by
  unfold execFlashwrite
  with_reducible
    repeat' first
      | exact Keeps.refl _
      | intro x
      | apply Keeps.op (State.bootByte_keeps _ _ _)
      | apply State.onBootFlash_keeps
      | apply Keeps.op (State.mgmtSay_keeps _ _ _ _ _)
      | apply Keeps.each

theorem execArbcommit_keeps (mseq : Nat) (s : State) : KeepsO s (execArbcommit mseq s) := by
  unfold execArbcommit
  with_reducible
    repeat' first
      | (apply Zone.clear; decide)
      | exact Keeps.refl _
      | intro x
      | apply KeepsO.next
      | apply Keeps.op (State.mgmtSay_keeps _ _ _ _ _)
      | apply State.onMgmt_keeps
      | apply Keeps.past (State.event_touches _ _ _)
      | apply Keeps.past (State.setFld_touches _ _ _)
      | exact ⟨fun h => h, List.suffix_rfl, ⟨rfl, rfl, rfl, rfl⟩, Nat.le_of_lt (by assumption), Nat.le_refl _⟩
      | extract_lets
      | split

theorem State.spdmSay_keeps (s : State) (tr : SpdmTr) (x : Spdm) (req : List Byte) (code : Nat) (payload : List Byte) : Keeps s
    (State.spdmSay s tr x req code payload) := by
  unfold State.spdmSay
  with_reducible
    repeat' first
      | (apply Zone.clear; decide)
      | exact Keeps.refl _
      | apply Keeps.past (State.setSpdm_touches _ _ _)
      | apply Keeps.op (State.emit_keeps _ _)

theorem State.spdmErr_keeps (s : State) (tr : SpdmTr) (code : Nat) : Keeps s (State.spdmErr s tr code) := by
  unfold State.spdmErr
  with_reducible
    repeat' first
      | exact Keeps.refl _
      | apply Keeps.op (State.emit_keeps _ _)

theorem State.onSpdm_keeps (s : State) (tr : SpdmTr) (need : Spdm → Bool) (f : Spdm → State) (hf : ∀ (x0 : Spdm), Keeps s (f x0)) :
    KeepsO s (State.onSpdm s tr need f) := by
  unfold State.onSpdm
  with_reducible
    repeat' first
      | exact Keeps.refl _
      | apply KeepsO.next
      | apply Keeps.op (State.spdmErr_keeps _ _ _)
      | apply Keeps.op (hf _)
      | extract_lets
      | split

theorem execGetVersion_keeps (tr : SpdmTr) (s : State) : KeepsO s (execGetVersion tr s) := by
  unfold execGetVersion
  with_reducible
    repeat' first
      | exact Keeps.refl _
      | intro x
      | apply State.onSpdm_keeps
      | apply Keeps.op (State.spdmSay_keeps _ _ _ _ _ _)

theorem execGetCapabilities_keeps (tr : SpdmTr) (s : State) : KeepsO s (execGetCapabilities tr s) := by
  unfold execGetCapabilities
  with_reducible
    repeat' first
      | exact Keeps.refl _
      | intro x
      | apply State.onSpdm_keeps
      | apply Keeps.op (State.spdmSay_keeps _ _ _ _ _ _)

theorem execNegotiateAlgorithms_keeps (tr : SpdmTr) (mldsa sha3 : Bool) (s : State) : KeepsO s (execNegotiateAlgorithms tr mldsa sha3 s)
    := by
  unfold execNegotiateAlgorithms
  with_reducible
    repeat' first
      | exact Keeps.refl _
      | intro x
      | apply State.onSpdm_keeps
      | apply Keeps.op (State.spdmErr_keeps _ _ _)
      | apply Keeps.op (State.spdmSay_keeps _ _ _ _ _ _)
      | extract_lets
      | split

theorem execGetDigests_keeps (tr : SpdmTr) (s : State) : KeepsO s (execGetDigests tr s) := by
  unfold execGetDigests
  with_reducible
    repeat' first
      | exact Keeps.refl _
      | intro x
      | apply State.onSpdm_keeps
      | apply Keeps.op (State.spdmSay_keeps _ _ _ _ _ _)

theorem execGetCertificate_keeps (tr : SpdmTr) (slot offset length : Nat) (s : State) : KeepsO s (execGetCertificate tr slot offset
    length s) := by
  unfold execGetCertificate
  with_reducible
    repeat' first
      | exact Keeps.refl _
      | intro x
      | apply State.onSpdm_keeps
      | apply Keeps.op (State.spdmErr_keeps _ _ _)
      | apply Keeps.op (State.spdmSay_keeps _ _ _ _ _ _)
      | extract_lets
      | split

theorem execChallenge_keeps (tr : SpdmTr) (slot : Nat) (nonce : List Byte) (s : State) : KeepsO s (execChallenge tr slot nonce s) := by
  unfold execChallenge
  with_reducible
    repeat' first
      | exact Keeps.refl _
      | intro x
      | apply State.onSpdm_keeps
      | apply Keeps.op (State.spdmErr_keeps _ _ _)
      | apply Keeps.op (State.spdmSay_keeps _ _ _ _ _ _)
      | extract_lets
      | split

theorem execGetMeasurements_keeps (tr : SpdmTr) (index : Nat) (sign : Bool) (nonce : List Byte) (s : State) : KeepsO s
    (execGetMeasurements tr index sign nonce s) := by
  unfold execGetMeasurements
  with_reducible
    repeat' first
      | exact Keeps.refl _
      | intro x
      | apply State.onSpdm_keeps
      | apply Keeps.op (State.spdmErr_keeps _ _ _)
      | apply Keeps.op (State.spdmSay_keeps _ _ _ _ _ _)
      | extract_lets
      | split
      | dsimp +zetaDelta only

/-! ## MicroOps -/

theorem State.microOp_keeps (s : State) (ch op : Nat) (e : UEnv) (f : State → Currant → Nat → State) (hf : ∀ (x0 : State) (x1 : Currant)
    (x2 : Nat), Keeps x0 (f x0 x1 x2)) : KeepsO s (State.microOp s ch op e f) := by
  unfold State.microOp
  with_reducible
    repeat' first
      | (apply Zone.clear; decide)
      | exact Keeps.refl _
      | intro x
      | apply State.onCh_keeps
      | apply Keeps.past (State.slotSet_touches _ _ _ _ _ _)
      | apply Keeps.past (State.setCur_touches _ _ _)
      | apply Keeps.op (State.hostErr_keeps _ _)
      | apply Keeps.past (State.count_touches _ _ _)
      | apply Keeps.op (hf _ _ _)
      | extract_lets
      | split

theorem State.rowOp_keeps (s : State) (ch row : Nat) (e : UEnv) (f : State → Currant → List Byte → List Bool → State) (hf : ∀ (x0 :
    State) (x1 : Currant) (x2 : List Byte) (x3 : List Bool), Keeps x0 (f x0 x1 x2 x3)) {z : State} (hz : Keeps z s) : Keeps z
    (State.rowOp s ch row e f) := by
  unfold State.rowOp
  with_reducible
    repeat' first
      | (apply Zone.clear; decide)
      | assumption
      | apply Keeps.op (State.eccNote_keeps _ _ _ _)
      | apply Keeps.past (State.countRowOps_touches _ _ _)
      | apply Keeps.op (State.hostErr_keeps _ _)
      | apply Keeps.op (hf _ _ _ _)
      | extract_lets
      | split

theorem State.jumpTo_keeps (s : State) (ch : Nat) (c : Currant) (a : Nat) : Keeps s (State.jumpTo s ch c a) := by
  unfold State.jumpTo
  with_reducible
    repeat' first
      | (apply Zone.clear; decide)
      | exact Keeps.refl _
      | apply Keeps.past (State.setCur_touches _ _ _)
      | apply Keeps.op (State.hostErr_keeps _ _)
      | extract_lets
      | split

theorem execUNop_keeps (ch : Nat) (e : UEnv) (s : State) : KeepsO s (execUNop ch e s) := by
  unfold execUNop
  with_reducible
    repeat' first
      | exact Keeps.refl _
      | intro x
      | apply State.microOp_keeps

theorem execULda_keeps (ch : Nat) (e : UEnv) (s : State) : KeepsO s (execULda ch e s) := by
  unfold execULda
  with_reducible
    repeat' first
      | (apply Zone.clear; decide)
      | exact Keeps.refl _
      | intro x
      | apply State.microOp_keeps
      | apply Keeps.past (State.setCur_touches _ _ _)

theorem execUAdda_keeps (ch : Nat) (e : UEnv) (s : State) : KeepsO s (execUAdda ch e s) := by
  unfold execUAdda
  with_reducible
    repeat' first
      | (apply Zone.clear; decide)
      | exact Keeps.refl _
      | intro x
      | apply State.microOp_keeps
      | apply Keeps.past (State.setCur_touches _ _ _)

theorem execULdc_keeps (ch : Nat) (e : UEnv) (s : State) : KeepsO s (execULdc ch e s) := by
  unfold execULdc
  with_reducible
    repeat' first
      | (apply Zone.clear; decide)
      | exact Keeps.refl _
      | intro x
      | apply State.microOp_keeps
      | apply Keeps.past (State.setCur_touches _ _ _)

theorem execULoop_keeps (ch : Nat) (e : UEnv) (s : State) : KeepsO s (execULoop ch e s) := by
  unfold execULoop
  with_reducible
    repeat' first
      | (apply Zone.clear; decide)
      | exact Keeps.refl _
      | intro x
      | apply Keeps.op (State.jumpTo_keeps _ _ _ _)
      | apply State.microOp_keeps
      | apply Keeps.past (State.setCur_touches _ _ _)
      | extract_lets
      | split

theorem execUJmp_keeps (ch : Nat) (e : UEnv) (s : State) : KeepsO s (execUJmp ch e s) := by
  unfold execUJmp
  with_reducible
    repeat' first
      | exact Keeps.refl _
      | intro x
      | apply Keeps.op (State.jumpTo_keeps _ _ _ _)
      | apply State.microOp_keeps

theorem execUSets_keeps (ch : Nat) (e : UEnv) (s : State) : KeepsO s (execUSets ch e s) := by
  unfold execUSets
  with_reducible
    repeat' first
      | (apply Zone.clear; decide)
      | exact Keeps.refl _
      | intro x
      | apply State.microOp_keeps
      | apply Keeps.past (State.setCur_touches _ _ _)
      | apply Keeps.op (State.hostErr_keeps _ _)
      | extract_lets
      | split

theorem execURd_keeps (ch : Nat) (e : UEnv) (s : State) : KeepsO s (execURd ch e s) := by
  unfold execURd
  with_reducible
    repeat' first
      | (apply Zone.clear; decide)
      | exact Keeps.refl _
      | intro x
      | apply State.rowOp_keeps
      | apply State.microOp_keeps
      | apply Keeps.past (State.setCur_touches _ _ _)

theorem execUWr_keeps (ch : Nat) (e : UEnv) (s : State) : KeepsO s (execUWr ch e s) := by
  unfold execUWr
  with_reducible
    repeat' first
      | (apply Zone.clear; decide)
      | exact Keeps.refl _
      | intro x
      | apply State.microOp_keeps
      | apply Keeps.op (State.rowWrite_keeps _ _ _ _ _)
      | apply Keeps.past (State.countRowOps_touches _ _ _)

theorem execUCopy_keeps (ch : Nat) (e : UEnv) (s : State) : KeepsO s (execUCopy ch e s) := by
  unfold execUCopy
  with_reducible
    repeat' first
      | (apply Zone.clear; decide)
      | exact Keeps.refl _
      | intro x
      | apply State.rowOp_keeps
      | apply State.microOp_keeps
      | apply Keeps.op (State.rowWrite_keeps _ _ _ _ _)
      | apply Keeps.past (State.countRowOps_touches _ _ _)

theorem execUInit_keeps (ch : Nat) (e : UEnv) (s : State) : KeepsO s (execUInit ch e s) := by
  unfold execUInit
  with_reducible
    repeat' first
      | (apply Zone.clear; decide)
      | exact Keeps.refl _
      | intro x
      | apply State.microOp_keeps
      | apply Keeps.op (State.rowWrite_keeps _ _ _ _ _)
      | apply Keeps.past (State.countRowOps_touches _ _ _)
      | apply Keeps.op (State.hostErr_keeps _ _)
      | extract_lets
      | split

theorem execURdl_keeps (ch : Nat) (e : UEnv) (s : State) : KeepsO s (execURdl ch e s) := by
  unfold execURdl
  with_reducible
    repeat' first
      | (apply Zone.clear; decide)
      | exact Keeps.refl _
      | intro x
      | apply State.microOp_keeps
      | apply Keeps.op (State.eccNote_keeps _ _ _ _)
      | apply Keeps.past (State.countRowOps_touches _ _ _)
      | apply Keeps.past (State.setCur_touches _ _ _)
      | apply Keeps.op (State.hostErr_keeps _ _)
      | extract_lets
      | split

theorem execUAnd_keeps (ch : Nat) (e : UEnv) (s : State) : KeepsO s (execUAnd ch e s) := by
  unfold execUAnd
  with_reducible
    repeat' first
      | (apply Zone.clear; decide)
      | exact Keeps.refl _
      | intro x
      | apply Keeps.past (State.bufOp_touches _ _ _ _ _)
      | apply State.microOp_keeps

theorem execUOr_keeps (ch : Nat) (e : UEnv) (s : State) : KeepsO s (execUOr ch e s) := by
  unfold execUOr
  with_reducible
    repeat' first
      | (apply Zone.clear; decide)
      | exact Keeps.refl _
      | intro x
      | apply Keeps.past (State.bufOp_touches _ _ _ _ _)
      | apply State.microOp_keeps

theorem execUXor_keeps (ch : Nat) (e : UEnv) (s : State) : KeepsO s (execUXor ch e s) := by
  unfold execUXor
  with_reducible
    repeat' first
      | (apply Zone.clear; decide)
      | exact Keeps.refl _
      | intro x
      | apply Keeps.past (State.bufOp_touches _ _ _ _ _)
      | apply State.microOp_keeps

theorem execUAndnot_keeps (ch : Nat) (e : UEnv) (s : State) : KeepsO s (execUAndnot ch e s) := by
  unfold execUAndnot
  with_reducible
    repeat' first
      | (apply Zone.clear; decide)
      | exact Keeps.refl _
      | intro x
      | apply Keeps.past (State.bufOp_touches _ _ _ _ _)
      | apply State.microOp_keeps

theorem execUNot_keeps (ch : Nat) (e : UEnv) (s : State) : KeepsO s (execUNot ch e s) := by
  unfold execUNot
  with_reducible
    repeat' first
      | (apply Zone.clear; decide)
      | exact Keeps.refl _
      | intro x
      | apply State.microOp_keeps
      | apply Keeps.past (State.setCur_touches _ _ _)

theorem execUXpop_keeps (ch : Nat) (e : UEnv) (s : State) : KeepsO s (execUXpop ch e s) := by
  unfold execUXpop
  with_reducible
    repeat' first
      | (apply Zone.clear; decide)
      | exact Keeps.refl _
      | intro x
      | apply State.rowOp_keeps
      | apply State.microOp_keeps
      | apply Keeps.past (State.setCur_touches _ _ _)
      | apply Keeps.past (State.count_touches _ _ _)

theorem execUMacv_keeps (ch : Nat) (e : UEnv) (s : State) : KeepsO s (execUMacv ch e s) := by
  unfold execUMacv
  with_reducible
    repeat' first
      | (apply Zone.clear; decide)
      | exact Keeps.refl _
      | intro x
      | apply State.rowOp_keeps
      | apply State.microOp_keeps
      | apply Keeps.past (State.setCur_touches _ _ _)
      | apply Keeps.op (State.hostErr_keeps _ _)
      | extract_lets
      | split

theorem execUQk_keeps (ch : Nat) (e : UEnv) (s : State) : KeepsO s (execUQk ch e s) := by
  unfold execUQk
  with_reducible
    repeat' first
      | (apply Zone.clear; decide)
      | exact Keeps.refl _
      | intro x
      | apply State.rowOp_keeps
      | apply State.microOp_keeps
      | apply Keeps.past (State.setCur_touches _ _ _)
      | apply Keeps.op (State.hostErr_keeps _ _)
      | extract_lets
      | split

theorem execUSmax_keeps (ch : Nat) (e : UEnv) (s : State) : KeepsO s (execUSmax ch e s) := by
  unfold execUSmax
  with_reducible
    repeat' first
      | (apply Zone.clear; decide)
      | exact Keeps.refl _
      | intro x
      | apply State.microOp_keeps
      | apply Keeps.past (State.setCur_touches _ _ _)
      | apply Keeps.op (State.hostErr_keeps _ _)
      | extract_lets
      | split

theorem execUAv_keeps (ch : Nat) (e : UEnv) (s : State) : KeepsO s (execUAv ch e s) := by
  unfold execUAv
  with_reducible
    repeat' first
      | (apply Zone.clear; decide)
      | exact Keeps.refl _
      | intro x
      | apply State.rowOp_keeps
      | apply State.microOp_keeps
      | apply Keeps.past (State.setCur_touches _ _ _)
      | apply Keeps.op (State.hostErr_keeps _ _)
      | extract_lets
      | split

theorem execUOnorm_keeps (ch : Nat) (e : UEnv) (s : State) : KeepsO s (execUOnorm ch e s) := by
  unfold execUOnorm
  with_reducible
    repeat' first
      | (apply Zone.clear; decide)
      | exact Keeps.refl _
      | intro x
      | apply State.microOp_keeps
      | apply Keeps.past (State.setCur_touches _ _ _)
      | apply Keeps.op (State.hostErr_keeps _ _)
      | extract_lets
      | split

theorem execUAccw_keeps (ch : Nat) (e : UEnv) (s : State) : KeepsO s (execUAccw ch e s) := by
  unfold execUAccw
  with_reducible
    repeat' first
      | (apply Zone.clear; decide)
      | exact Keeps.refl _
      | intro x
      | apply State.microOp_keeps
      | apply Keeps.op (State.rowWrite_keeps _ _ _ _ _)
      | apply Keeps.past (State.countRowOps_touches _ _ _)
      | apply Keeps.past (State.setCur_touches _ _ _)

theorem execUVld_keeps (ch : Nat) (e : UEnv) (s : State) : KeepsO s (execUVld ch e s) := by
  unfold execUVld
  with_reducible
    repeat' first
      | (apply Zone.clear; decide)
      | exact Keeps.refl _
      | intro x
      | apply State.rowOp_keeps
      | apply State.microOp_keeps
      | apply Keeps.past (State.setCur_touches _ _ _)

theorem execUAclr_keeps (ch : Nat) (e : UEnv) (s : State) : KeepsO s (execUAclr ch e s) := by
  unfold execUAclr
  with_reducible
    repeat' first
      | (apply Zone.clear; decide)
      | exact Keeps.refl _
      | intro x
      | apply State.microOp_keeps
      | apply Keeps.past (State.setCur_touches _ _ _)

theorem execUSignal_keeps (ch : Nat) (e : UEnv) (s : State) : KeepsO s (execUSignal ch e s) := by
  unfold execUSignal
  with_reducible
    repeat' first
      | exact Keeps.refl _
      | intro x
      | apply State.microOp_keeps
      | apply Keeps.op (State.emit_keeps _ _)

theorem State.entryRead_keeps (s : State) (ch : Nat) (x : HeapEnt) (e : Ecc) : Keeps s (State.entryRead s ch x e).1 := by
  unfold State.entryRead
  repeat' split
  all_goals with_reducible
    repeat' first
      | exact Keeps.refl _
      | apply Keeps.op (State.eccNote_keeps _ _ _ _)
      | apply Keeps.op (State.hostErr_keeps _ _)
      | extract_lets
      | split

theorem State.heapOut_keeps (s : State) (ch : Nat) (c : Currant) (es : List Ecc) : Keeps s (State.heapOut s ch c es) := by
  unfold State.heapOut
  with_reducible
    repeat' first
      | (apply Zone.clear; decide)
      | exact Keeps.refl _
      | intro x
      | apply Keeps.op (State.entryRead_keeps _ _ _ _)
      | apply Keeps.past (State.setCur_touches _ _ _)
      | apply Keeps.op (State.emit_keeps _ _)
      | apply Keeps.past (State.count_touches _ _ _)
      | apply Keeps.foldl1
      | extract_lets
      | split

theorem execUEnd_keeps (ch : Nat) (e : UEnv) (s : State) : KeepsO s (execUEnd ch e s) := by
  unfold execUEnd
  with_reducible
    repeat' first
      | exact Keeps.refl _
      | intro x
      | apply Keeps.op (State.heapOut_keeps _ _ _ _)
      | apply State.microOp_keeps
      | apply Keeps.op (State.slotEnd_keeps _ _ _)
      | extract_lets
      | split

/-! ## Owner -/

theorem State.ownerReady_keeps (s : State) : Keeps s (State.ownerReady s) := by
  unfold State.ownerReady
  with_reducible
    repeat' first
      | (apply Zone.clear; decide)
      | exact Keeps.refl _
      | intro x
      | apply Keeps.op (State.deliver_keeps _ _ _ _ _)
      | apply Keeps.past (TouchesE.app2 (State.leaseFor_touches _ _) (by assumption))
      | apply Keeps.past (State.queueOn_touches _ _ _)
      | apply Keeps.past (State.modReq_touches _ _ _)
      | apply Keeps.foldl
      | extract_lets
      | split

theorem State.conflictEvent_keeps (s : State) : Keeps s (State.conflictEvent s) := by
  unfold State.conflictEvent
  with_reducible
    repeat' first
      | exact Keeps.refl _
      | apply Keeps.op (State.raise_keeps _ _ _ _)

theorem State.assigned_keeps (s : State) (sid keeper lepoch : Nat) : Keeps s (State.assigned s sid keeper lepoch) := by
  unfold State.assigned
  extract_lets copy t asked from_ u z
  have ht : Keeps s t := Keeps.past (State.setOwner_touches _ _) (by decide) (Keeps.refl _)
  have hu : Keeps s u := Keeps.past (State.endQuery_touches _ _) (by decide) ht
  have hr : Keeps s (t.endQuery sid).ownerReady := Keeps.op (State.ownerReady_keeps _) hu
  clear_value z u t from_
  split
  · exact Keeps.op (State.ownerReady_keeps _) (Keeps.past (State.endQuery_touches _ _) (by decide)
      (Keeps.past (State.setOwner_touches _ _) (by decide) (Keeps.refl _)))
  · split
    · exact hr
    · split
      · exact hr
      · exact Keeps.past (State.sendOwner_touches _ _ _ _ _) (by decide) ⟨hu.mem, hu.out, hu.made, hu.arb, hu.free⟩

theorem State.conflictAt_keeps (s : State) (sid keeper reporter : Nat) : Keeps s (State.conflictAt s sid keeper reporter) := by
  unfold State.conflictAt
  with_reducible
    repeat' first
      | (apply Zone.clear; decide)
      | exact Keeps.refl _
      | intro x
      | apply Keeps.op (State.assigned_keeps _ _ _ _)
      | apply Keeps.op (State.conflictEvent_keeps _)
      | apply Keeps.past (State.sendOwner_touches _ _ _ _ _)
      | apply Keeps.past (State.count_touches _ _ _)
      | apply Keeps.foldl
      | extract_lets
      | split

theorem State.reportConflict_keeps (s : State) (sid keeper : Nat) : Keeps s (State.reportConflict s sid keeper) := by
  unfold State.reportConflict
  with_reducible
    repeat' first
      | (apply Zone.clear; decide)
      | exact Keeps.refl _
      | apply Keeps.op (State.conflictAt_keeps _ _ _ _)
      | apply Keeps.past (State.request_touches _ _ _ _ _ _ _)
      | split

theorem State.settleQuery_keeps (s : State) (q : OQuery) : Keeps s (State.settleQuery s q) := by
  unfold State.settleQuery
  with_reducible
    repeat' first
      | (apply Zone.clear; decide)
      | exact Keeps.refl _
      | apply Keeps.op (State.reportConflict_keeps _ _ _)
      | apply Keeps.op (State.ownerReady_keeps _)
      | apply Keeps.past (State.sendOwner_touches _ _ _ _ _)
      | apply Keeps.past (State.endQuery_touches _ _)
      | apply Keeps.past (State.setOwner_touches _ _)
      | extract_lets
      | split

theorem execOwnerQuery_keeps (m : Msg) (s : State) : KeepsO s (execOwnerQuery m s) := by
  unfold execOwnerQuery
  with_reducible
    repeat' first
      | (apply Zone.clear; decide)
      | exact Keeps.refl _
      | intro x
      | apply Keeps.past (State.sendOwner_touches _ _ _ _ _)
      | apply State.onSys_keeps
      | extract_lets
      | split

theorem execOwnerAnswer_keeps (m : Msg) (s : State) : KeepsO s (execOwnerAnswer m s) := by
  unfold execOwnerAnswer
  with_reducible
    repeat' first
      | (apply Zone.clear; decide)
      | exact Keeps.refl _
      | intro x
      | apply Keeps.op (State.settleQuery_keeps _ _)
      | apply Keeps.op (State.ownerReady_keeps _)
      | apply Keeps.past (State.endQuery_touches _ _)
      | apply Keeps.past (State.setOwner_touches _ _)
      | apply State.onSys_keeps
      | apply Keeps.elim
      | extract_lets
      | split
      | apply Keeps.leaf (Eq.refl _) (Eq.refl _) (Eq.refl _) (Eq.refl _) (Eq.refl _)

theorem execOwnerAssign_keeps (m : Msg) (s : State) : KeepsO s (execOwnerAssign m s) := by
  unfold execOwnerAssign
  with_reducible
    repeat' first
      | exact Keeps.refl _
      | intro x
      | apply Keeps.op (State.assigned_keeps _ _ _ _)
      | apply State.onSys_keeps
      | extract_lets
      | split

theorem execOwnerDrop_keeps (m : Msg) (s : State) : KeepsO s (execOwnerDrop m s) := by
  unfold execOwnerDrop
  with_reducible
    repeat' first
      | exact Keeps.refl _
      | intro x
      | apply Keeps.op (State.reportConflict_keeps _ _ _)
      | apply State.onSys_keeps
      | extract_lets
      | apply Keeps.leaf (Eq.refl _) (Eq.refl _) (Eq.refl _) (Eq.refl _) (Eq.refl _)

theorem execOwnerFetch_keeps (m : Msg) (s : State) : KeepsO s (execOwnerFetch m s) := by
  unfold execOwnerFetch
  with_reducible
    repeat' first
      | (apply Zone.clear; decide)
      | exact Keeps.refl _
      | intro x
      | apply Keeps.past (State.sendOwner_touches _ _ _ _ _)
      | apply Keeps.past (State.setOwner_touches _ _)
      | apply State.onSys_keeps
      | extract_lets
      | split

theorem execOwnerConflict_keeps (m : Msg) (s : State) : KeepsO s (execOwnerConflict m s) := by
  unfold execOwnerConflict
  with_reducible
    repeat' first
      | exact Keeps.refl _
      | intro x
      | apply Keeps.op (State.conflictAt_keeps _ _ _ _)
      | apply State.onSys_keeps
      | extract_lets
      | split

/-! ## Pustan -/

theorem State.onMsg_keeps (s : State) (m : Msg) (t : Nat) (f : State → Conn → State) (hf : ∀ (x0 : State) (x1 : Conn), Keeps x0 (f x0
    x1)) : KeepsO s (State.onMsg s m t f) := by
  unfold State.onMsg
  with_reducible
    repeat' first
      | (apply Zone.clear; decide)
      | exact Keeps.refl _
      | apply KeepsO.next
      | apply Keeps.past (State.unready_touches _ _)
      | apply Keeps.op (hf _ _)
      | split

theorem execNak_keeps (m : Msg) (s : State) : KeepsO s (execNak m s) := by
  unfold execNak
  with_reducible
    repeat' first
      | (apply Zone.clear; decide)
      | exact Keeps.refl _
      | intro x
      | apply State.onMsg_keeps
      | apply Keeps.op (State.resend_keeps _ _ _)
      | apply Keeps.past (State.failPart_touches _ _ _ _)
      | apply Keeps.past (State.setConn_touches _ _ _)
      | extract_lets
      | split

theorem execRdata_keeps (m : Msg) (s : State) : KeepsO s (execRdata m s) := by
  unfold execRdata
  with_reducible
    repeat' first
      | (apply Zone.clear; decide)
      | exact Keeps.refl _
      | intro x
      | apply State.onMsg_keeps
      | apply Keeps.op (State.landFill_keeps _ _ _ _ _ _ _ _)
      | apply Keeps.past (State.cvmisAdd_touches _ _)
      | apply Keeps.past (State.setConn_touches _ _ _)
      | extract_lets
      | split

theorem State.placePart_keeps (s : State) (conn : Nat) (b : PostBuf) (off : Nat) (bs : List Byte) (pois : List Bool) : Keeps s
    (State.placePart s conn b off bs pois) := by
  unfold State.placePart
  with_reducible
    repeat' first
      | (apply Zone.clear; decide)
      | exact Keeps.refl _
      | apply Keeps.past (State.noteHost_touches _ _ _)
      | apply Keeps.op (State.regionWrite_keeps _ _ _ _ _)
      | split

theorem State.planFilled_keeps (s : State) (p : PostedBy) (body : List Byte) : Keeps s (State.planFilled s p body) := by
  unfold State.planFilled
  with_reducible
    repeat' first
      | exact Keeps.refl _
      | apply Keeps.op (State.goOn_keeps _ _)
      | apply Keeps.op (State.land_keeps _ _ _ _ _)
      | split

theorem State.reportFilled_keeps (s : State) (c : Conn) (b : PostBuf) (body : List Byte) : Keeps s (State.reportFilled s c b body) := by
  unfold State.reportFilled
  with_reducible
    repeat' first
      | exact Keeps.refl _
      | apply Keeps.op (State.planFilled_keeps _ _ _)
      | apply Keeps.op (State.connEvent_keeps _ _ _ _)
      | split

theorem State.sendDone_keeps (s : State) (m : Msg) (b : PostBuf) (n : Nat) : Keeps s (State.sendDone s m b n) := by
  unfold State.sendDone
  with_reducible
    repeat' first
      | (apply Zone.clear; decide)
      | exact Keeps.refl _
      | apply Keeps.op (State.reportFilled_keeps _ _ _ _)
      | apply Keeps.op (State.settleRegions_keeps _)
      | apply Keeps.op (State.passOn_keeps _ _)
      | apply Keeps.op (State.doneMsg_keeps _ _)
      | apply Keeps.past (State.modConn_touches _ _ _)
      | extract_lets
      | split

theorem State.deliverSend_keeps (s : State) (m : Msg) (b : PostBuf) (bs : List Byte) (pois : List Bool) : Keeps s (State.deliverSend s m
    b bs pois) := by
  unfold State.deliverSend
  with_reducible
    repeat' first
      | exact Keeps.refl _
      | apply Keeps.op (State.sendDone_keeps _ _ _ _)
      | apply Keeps.op (State.placePart_keeps _ _ _ _ _ _)

theorem execSend_keeps (m : Msg) (s : State) : KeepsO s (execSend m s) := by
  unfold execSend
  with_reducible
    repeat' first
      | (apply Zone.clear; decide)
      | exact Keeps.refl _
      | intro x
      | apply Keeps.past (State.dataOf_touches _ _ _)
      | apply Keeps.op (State.deliverSend_keeps _ _ _ _ _)
      | apply State.onMsg_keeps
      | apply Keeps.op (State.resFault_keeps _ _ _ _)
      | apply Keeps.op (State.refuseOn_keeps _ _ _)
      | apply Keeps.op (State.passOn_keeps _ _)
      | apply Keeps.past (State.sendXrdy_touches _ _ _ _)
      | apply Keeps.past (State.setWait_touches _ _ _)
      | apply Keeps.past (State.nak_touches _ _ _)
      | apply Keeps.past (State.modConn_touches _ _ _)
      | extract_lets
      | split

theorem State.bulkIn_keeps (s : State) (c : Conn) (i : Inflight) (buf : Nat) (b : StBuf) (z : Tbl Bool) (bs : List Byte) : Keeps s
    (State.bulkIn s c i buf b z bs) := by
  unfold State.bulkIn
  with_reducible
    repeat' first
      | (apply Zone.clear; decide)
      | exact Keeps.refl _
      | apply Keeps.past (State.dataOf_touches _ _ _)
      | apply Keeps.past (State.setWait_touches _ _ _)
      | apply Keeps.past (State.readyUp_touches _ _)
      | apply Keeps.op (State.replyTo_keeps _ _ _ _)
      | extract_lets
      | split
      | apply Keeps.leaf (Eq.refl _) (Eq.refl _) (Eq.refl _) (Eq.refl _) (Eq.refl _)

theorem State.dataStaging_keeps (s : State) (m : Msg) (c : Conn) (i : Inflight) (buf : Nat) (b : StBuf) : Keeps s (State.dataStaging s m
    c i buf b) := by
  unfold State.dataStaging
  with_reducible
    repeat' first
      | (apply Zone.clear; decide)
      | exact Keeps.refl _
      | apply Keeps.op (State.bulkIn_keeps _ _ _ _ _ _ _)
      | apply Keeps.past (State.nak_touches _ _ _)
      | apply Keeps.past (State.count_touches _ _ _)
      | extract_lets
      | split
      | apply Keeps.leaf (Eq.refl _) (Eq.refl _) (Eq.refl _) (Eq.refl _) (Eq.refl _)

theorem State.dataPosted_keeps (s : State) (m : Msg) (c : Conn) (i : Inflight) (b : PostBuf) : Keeps s (State.dataPosted s m c i b) := by
  unfold State.dataPosted
  with_reducible
    repeat' first
      | (apply Zone.clear; decide)
      | exact Keeps.refl _
      | apply Keeps.past (State.dataOf_touches _ _ _)
      | apply Keeps.op (State.deliverSend_keeps _ _ _ _ _)
      | apply Keeps.op (State.sendDone_keeps _ _ _ _)
      | apply Keeps.op (State.placePart_keeps _ _ _ _ _ _)
      | apply Keeps.past (State.nak_touches _ _ _)
      | apply Keeps.past (State.modConn_touches _ _ _)
      | apply Keeps.past (State.count_touches _ _ _)
      | extract_lets
      | split
      | dsimp +zetaDelta only

theorem execData_keeps (m : Msg) (s : State) : KeepsO s (execData m s) := by
  unfold execData
  with_reducible
    repeat' first
      | (apply Zone.clear; decide)
      | exact Keeps.refl _
      | intro x
      | apply Keeps.op (State.dataPosted_keeps _ _ _ _ _)
      | apply Keeps.op (State.dataStaging_keeps _ _ _ _ _ _)
      | apply State.onMsg_keeps
      | apply Keeps.past (State.nak_touches _ _ _)
      | extract_lets
      | split

theorem State.onAccess_keeps (s : State) (m : Msg) (c : Conn) (f : State → Access → State) (hf : ∀ (x0 : State) (x1 : Access), Keeps x0
    (f x0 x1)) {z : State} (hz : Keeps z s) : Keeps z (State.onAccess s m c f) := by
  unfold State.onAccess
  with_reducible
    repeat' first
      | (apply Zone.clear; decide)
      | assumption
      | apply Keeps.op (State.unlock_keeps _ _ _)
      | apply Keeps.past (State.lockStep_touches _ _ _ _)
      | apply Keeps.op (State.resFault_keeps _ _ _ _)
      | apply Keeps.op (State.refuseOn_keeps _ _ _)
      | apply Keeps.op (State.passOn_keeps _ _)
      | apply Keeps.op (hf _ _)
      | extract_lets
      | split

theorem execRead_keeps (m : Msg) (host : List Byte) (err : Bool) (s : State) : KeepsO s (execRead m host err s) := by
  unfold execRead
  with_reducible
    repeat' first
      | (apply Zone.clear; decide)
      | exact Keeps.refl _
      | intro x
      | apply State.onAccess_keeps
      | apply State.onMsg_keeps
      | apply Keeps.op (State.unlockSent_keeps _ _ _)
      | apply Keeps.op (State.doneMsg_keeps _ _)
      | apply Keeps.past (State.answer_touches _ _ _ _ _ _)
      | apply Keeps.op (State.emit_keeps _ _)
      | extract_lets
      | split

theorem State.scatterIn_keeps (s : State) (m : Msg) (c : Conn) : Keeps s (State.scatterIn s m c) := by
  unfold State.scatterIn
  with_reducible
    repeat' first
      | (apply Zone.clear; decide)
      | exact Keeps.refl _
      | apply Keeps.past (State.dataOf_touches _ _ _)
      | apply Keeps.op (State.refuseOn_keeps _ _ _)
      | apply Keeps.op (State.passOn_keeps _ _)
      | apply Keeps.op (State.doneMsg_keeps _ _)
      | extract_lets
      | split
      | apply Keeps.leaf (Eq.refl _) (Eq.refl _) (Eq.refl _) (Eq.refl _) (Eq.refl _)

theorem State.snapIn_keeps (s : State) (m : Msg) (c : Conn) : Keeps s (State.snapIn s m c) := by
  unfold State.snapIn
  with_reducible
    repeat' first
      | (apply Zone.clear; decide)
      | exact Keeps.refl _
      | apply Keeps.past (State.dataOf_touches _ _ _)
      | apply Keeps.op (KeepsP.app (State.snapPart_keeps _ _ _) (by assumption))
      | apply Keeps.op (State.refuseOn_keeps _ _ _)
      | apply Keeps.op (State.passOn_keeps _ _)
      | apply Keeps.past (State.readyUp_touches _ _)
      | apply Keeps.op (State.doneMsg_keeps _ _)
      | extract_lets
      | split

theorem execWrite_keeps (m : Msg) (s : State) : KeepsO s (execWrite m s) := by
  unfold execWrite
  with_reducible
    repeat' first
      | (apply Zone.clear; decide)
      | exact Keeps.refl _
      | intro x
      | apply Keeps.op (State.snapIn_keeps _ _ _)
      | apply Keeps.op (State.scatterIn_keeps _ _ _)
      | apply State.onAccess_keeps
      | apply Keeps.past (State.dataOf_touches _ _ _)
      | apply State.onMsg_keeps
      | apply Keeps.op (State.unlock_keeps _ _ _)
      | apply Keeps.past (State.noteHost_touches _ _ _)
      | apply Keeps.op (State.regionWrite_keeps _ _ _ _ _)
      | apply Keeps.op (State.doneMsg_keeps _ _)
      | extract_lets
      | split

theorem execFlush_keeps (m : Msg) (err : Bool) (s : State) : KeepsO s (execFlush m err s) := by
  unfold execFlush
  with_reducible
    repeat' first
      | (apply Zone.clear; decide)
      | exact Keeps.refl _
      | apply KeepsO.next
      | apply Keeps.past (State.unready_touches _ _)
      | apply Keeps.op (State.doneMsg_keeps _ _)
      | apply Keeps.past (State.answer_touches _ _ _ _ _ _)
      | apply Keeps.past (State.setConn_touches _ _ _)
      | extract_lets
      | split

theorem execClose_keeps (m : Msg) (s : State) : KeepsO s (execClose m s) := by
  unfold execClose
  with_reducible
    repeat' first
      | (apply Zone.clear; decide)
      | exact Keeps.refl _
      | intro x
      | apply State.onMsg_keeps
      | apply Keeps.past (State.setWait_touches _ _ _)
      | apply Keeps.op (State.drainConn_keeps _ _)
      | apply Keeps.past (State.setConn_touches _ _ _)

theorem execCloseack_keeps (m : Msg) (s : State) : KeepsO s (execCloseack m s) := by
  unfold execCloseack
  with_reducible
    repeat' first
      | (apply Zone.clear; decide)
      | exact Keeps.refl _
      | intro x
      | apply State.onMsg_keeps
      | apply Keeps.op (State.connClosed_keeps _ _ _)
      | apply Keeps.past (State.setConn_touches _ _ _)
      | extract_lets
      | split

/-! ## Register -/

theorem execRegisterWrite_keeps (req : Requester) (a : Nat) (x : W32) (par : Nat) (s : State) : KeepsO s (execRegisterWrite req a x par
    s) := by
  unfold execRegisterWrite
  with_reducible
    repeat' first
      | exact Keeps.refl _
      | intro x
      | apply KeepsO.next
      | apply State.ctlPath_keeps
      | apply KeepsO.op (State.busWrite_keeps _ _ _ _)
      | split

theorem execSqClear_keeps (req : Requester) (a : Nat) (x : W32) (par : Nat) (s : State) : KeepsO s (execSqClear req a x par s) := by
  unfold execSqClear
  with_reducible
    repeat' first
      | exact Keeps.refl _
      | intro x
      | apply KeepsO.next
      | apply State.ctlPath_keeps
      | apply KeepsO.op (State.busWrite_keeps _ _ _ _)
      | split

theorem execAliasSetWrite_keeps (req : Requester) (a : Nat) (x : W32) (par : Nat) (s : State) : KeepsO s (execAliasSetWrite req a x par
    s) := by
  unfold execAliasSetWrite
  with_reducible
    repeat' first
      | exact Keeps.refl _
      | intro x
      | apply KeepsO.next
      | apply State.ctlPath_keeps
      | apply KeepsO.op (State.busWrite_keeps _ _ _ _)
      | split

theorem execAliasClearWrite_keeps (req : Requester) (a : Nat) (x : W32) (par : Nat) (s : State) : KeepsO s (execAliasClearWrite req a x
    par s) := by
  unfold execAliasClearWrite
  with_reducible
    repeat' first
      | exact Keeps.refl _
      | intro x
      | apply KeepsO.next
      | apply State.ctlPath_keeps
      | apply KeepsO.op (State.busWrite_keeps _ _ _ _)
      | split

theorem execAliasToggleWrite_keeps (req : Requester) (a : Nat) (x : W32) (par : Nat) (s : State) : KeepsO s (execAliasToggleWrite req a
    x par s) := by
  unfold execAliasToggleWrite
  with_reducible
    repeat' first
      | exact Keeps.refl _
      | intro x
      | apply KeepsO.next
      | apply State.ctlPath_keeps
      | apply KeepsO.op (State.busWrite_keeps _ _ _ _)
      | split

theorem execMultiwordStagedWrite_keeps (req : Requester) (a : Nat) (x : W32) (par : Nat) (s : State) : KeepsO s
    (execMultiwordStagedWrite req a x par s) := by
  unfold execMultiwordStagedWrite
  with_reducible
    repeat' first
      | exact Keeps.refl _
      | intro x
      | apply KeepsO.next
      | apply State.ctlPath_keeps
      | apply KeepsO.op (State.busWrite_keeps _ _ _ _)
      | split

theorem execPortReset_keeps (p : Nat) (s : State) : KeepsO s (execPortReset p s) := by
  unfold execPortReset
  with_reducible
    repeat' first
      | exact Keeps.refl _
      | intro x
      | apply Keeps.op (State.portResetGo_keeps _ _)
      | apply State.onPort_keeps
      | extract_lets
      | split

theorem execScaleRegisterWrite_keeps (core idx : Nat) (x : W32) (par : Nat) (s : State) : KeepsO s (execScaleRegisterWrite core idx x
    par s) := by
  unfold execScaleRegisterWrite
  with_reducible
    repeat' first
      | exact Keeps.refl _
      | intro x
      | apply KeepsO.next
      | apply State.ctlPath_keeps
      | apply KeepsO.op (State.busWrite_keeps _ _ _ _)
      | split

theorem execNbuGo_keeps (blk mask : Nat) (s : State) : KeepsO s (execNbuGo blk mask s) := by
  unfold execNbuGo
  with_reducible
    repeat' first
      | exact Keeps.refl _
      | apply KeepsO.next
      | apply KeepsO.op (State.busWrite_keeps _ _ _ _)
      | split

/-! ## Tenant -/

theorem State.queueReq_keeps (s : State) (src : ReqSrc) (op : ReqOp) (tenant plan index : Nat) (body : List Byte) : Keeps s
    (State.queueReq s src op tenant plan index body) := by
  unfold State.queueReq
  with_reducible
    repeat' first
      | (apply Zone.clear; decide)
      | exact Keeps.refl _
      | apply Keeps.past (State.addReq_touches _ _ _ _ _ _ _ _ _ _)
      | apply Keeps.op (State.refuse_keeps _ _ _ _ _)
      | apply Keeps.past (TouchesE.app2 (State.leaseFor_touches _ _) (by assumption))
      | apply Keeps.past (State.queueOn_touches _ _ _)
      | split

theorem State.takeSearch_keeps (s : State) (src : ReqSrc) (b : List Byte) (want : Nat) : Keeps s (State.takeSearch s src b want) := by
  unfold State.takeSearch
  with_reducible
    repeat' first
      | (apply Zone.clear; decide)
      | exact Keeps.refl _
      | apply Keeps.past (State.groupSearch_touches _ _ _ _ _)
      | apply Keeps.op (State.queueReq_keeps _ _ _ _ _ _ _)
      | apply Keeps.op (State.refuse_keeps _ _ _ _ _)
      | apply Keeps.op (State.answerReq_keeps _ _ _ _)
      | extract_lets
      | split

theorem execSearch_keeps (src : ReqSrc) (body : List Byte) (s : State) : KeepsO s (execSearch src body s) := by
  unfold execSearch
  with_reducible
    repeat' first
      | exact Keeps.refl _
      | intro x
      | apply Keeps.op (State.takeSearch_keeps _ _ _ _)
      | apply State.tenantCmd_keeps

theorem State.takeUpdate_keeps (s : State) (src : ReqSrc) (op : ReqOp) (opc : Nat) (errs : List ReadErr) (b : List Byte) (want : Nat) :
    Keeps s (State.takeUpdate s src op opc errs b want) := by
  unfold State.takeUpdate
  with_reducible
    repeat' first
      | (apply Zone.clear; decide)
      | exact Keeps.refl _
      | apply Keeps.past (State.openGroup_touches _ _ _ _ _ _)
      | apply Keeps.past (State.forward_touches _ _ _ _ _ _ _)
      | apply Keeps.op (State.runUpdate_keeps _ _)
      | apply Keeps.past (State.addReq_touches _ _ _ _ _ _ _ _ _ _)
      | apply Keeps.op (State.refuse_keeps _ _ _ _ _)
      | extract_lets
      | split

theorem execInsert_keeps (src : ReqSrc) (body : PutBody) (s : State) : KeepsO s (execInsert src body s) := by
  unfold execInsert
  with_reducible
    repeat' first
      | exact Keeps.refl _
      | intro x
      | apply Keeps.op (State.takeUpdate_keeps _ _ _ _ _ _ _)
      | apply State.tenantCmd_keeps

theorem execUpsert_keeps (src : ReqSrc) (body : PutBody) (s : State) : KeepsO s (execUpsert src body s) := by
  unfold execUpsert
  with_reducible
    repeat' first
      | exact Keeps.refl _
      | intro x
      | apply Keeps.op (State.takeUpdate_keeps _ _ _ _ _ _ _)
      | apply State.tenantCmd_keeps

theorem execDelete_keeps (src : ReqSrc) (body : List Byte) (s : State) : KeepsO s (execDelete src body s) := by
  unfold execDelete
  with_reducible
    repeat' first
      | exact Keeps.refl _
      | intro x
      | apply Keeps.op (State.takeUpdate_keeps _ _ _ _ _ _ _)
      | apply State.tenantCmd_keeps

theorem State.runHere_keeps (s : State) (src : ReqSrc) (tenant plan : Nat) (b : List Byte) (objects : List ObjRef) (part : Bool) : Keeps
    s (State.runHere s src tenant plan b objects part) := by
  unfold State.runHere
  with_reducible
    repeat' first
      | (apply Zone.clear; decide)
      | exact Keeps.refl _
      | intro x
      | apply Keeps.past (State.queuePart_touches _ _ _ _ _ _ _)
      | apply Keeps.op (State.queueReq_keeps _ _ _ _ _ _ _)
      | apply Keeps.past (State.askOwner_touches _ _)
      | apply Keeps.op (State.ownerReady_keeps _)
      | apply Keeps.past (State.addReq_touches _ _ _ _ _ _ _ _ _ _)
      | apply Keeps.past (State.modReq_touches _ _ _)
      | apply Keeps.past (State.release_touches _ _ _)
      | apply Keeps.foldl
      | extract_lets
      | split

theorem State.groupRun_keeps (s : State) (src : ReqSrc) (tenant plan mask : Nat) (b : List Byte) (objects : List ObjRef) : Keeps s
    (State.groupRun s src tenant plan mask b objects) := by
  unfold State.groupRun
  with_reducible
    repeat' first
      | (apply Zone.clear; decide)
      | exact Keeps.refl _
      | intro x
      | apply Keeps.op (State.runHere_keeps _ _ _ _ _ _ _)
      | apply Keeps.past (State.openGroup_touches _ _ _ _ _ _)
      | apply Keeps.past (State.forward_touches _ _ _ _ _ _ _)
      | apply Keeps.past (State.addReq_touches _ _ _ _ _ _ _ _ _ _)
      | apply Keeps.foldl
      | extract_lets
      | split

theorem State.takeRun_keeps (s : State) (src : ReqSrc) (b : List Byte) (ioOk : Bool) (objects : List ObjRef) (want : Nat) : Keeps s
    (State.takeRun s src b ioOk objects want) := by
  unfold State.takeRun
  with_reducible
    repeat' first
      | exact Keeps.refl _
      | apply Keeps.op (State.groupRun_keeps _ _ _ _ _ _ _)
      | apply Keeps.op (State.runHere_keeps _ _ _ _ _ _ _)
      | apply Keeps.op (State.refuse_keeps _ _ _ _ _)
      | split

theorem execRun_keeps (src : ReqSrc) (body : List Byte) (ioOk : Bool) (objects : List ObjRef) (s : State) : KeepsO s (execRun src body
    ioOk objects s) := by
  unfold execRun
  with_reducible
    repeat' first
      | exact Keeps.refl _
      | intro x
      | apply Keeps.op (State.takeRun_keeps _ _ _ _ _ _)
      | apply State.tenantCmd_keeps

theorem State.abortGroup_keeps (s : State) (r : Req) (g : GroupReq) : Keeps s (State.abortGroup s r g) := by
  unfold State.abortGroup
  with_reducible
    repeat' first
      | (apply Zone.clear; decide)
      | exact Keeps.refl _
      | intro x
      | apply Keeps.op (State.failReq_keeps _ _ _ _)
      | apply Keeps.past (State.modLease_touches _ _ _)
      | apply Keeps.past (State.sendMsg_touches _ _ _)
      | apply Keeps.foldl
      | extract_lets
      | split
      | apply Keeps.leaf (Eq.refl _) (Eq.refl _) (Eq.refl _) (Eq.refl _) (Eq.refl _)

theorem State.abortReq_keeps (s : State) (r : Req) : Keeps s (State.abortReq s r).1 := by
  unfold State.abortReq
  repeat' split
  all_goals with_reducible
    repeat' first
      | (apply Zone.clear; decide)
      | exact Keeps.refl _
      | apply Keeps.op (State.abortGroup_keeps _ _ _)
      | apply Keeps.op (State.abortFree_keeps _ _ _)
      | apply Keeps.op (State.failReq_keeps _ _ _ _)
      | apply Keeps.past (State.modLease_touches _ _ _)
      | extract_lets
      | split

theorem State.abortedMsg_keeps (s : State) (m : Msg) : Keeps s (State.abortedMsg s m) := by
  unfold State.abortedMsg
  with_reducible
    repeat' first
      | exact Keeps.refl _
      | apply Keeps.op (State.unlock_keeps _ _ _)
      | apply Keeps.op (State.refuseOn_keeps _ _ _)
      | apply Keeps.op (State.replyTo_keeps _ _ _ _)
      | split

theorem State.rdataDrop_keeps (s : State) (m x : Msg) : Keeps s (State.rdataDrop s m x) := by
  unfold State.rdataDrop
  with_reducible
    repeat' first
      | (apply Zone.clear; decide)
      | exact Keeps.refl _
      | apply Keeps.op (State.unlock_keeps _ _ _)
      | apply Keeps.past (State.keepReplay_touches _ _ _)
      | apply Keeps.past (State.nak_touches _ _ _)
      | extract_lets
      | split
      | apply Keeps.leaf (Eq.refl _) (Eq.refl _) (Eq.refl _) (Eq.refl _) (Eq.refl _)

theorem State.abortMsg_keeps (s : State) (m : Msg) : Keeps s (State.abortMsg s m).1 := by
  unfold State.abortMsg
  repeat' split
  all_goals with_reducible
    repeat' first
      | (apply Zone.clear; decide)
      | exact Keeps.refl _
      | apply Keeps.op (State.rdataDrop_keeps _ _ _)
      | apply Keeps.op (State.abortedMsg_keeps _ _)
      | apply Keeps.op (State.abortReq_keeps _ _)
      | apply Keeps.past (State.stagingUnwait_touches _ _ _)
      | apply Keeps.op (State.withdrawPost_keeps _ _ _)
      | apply Keeps.past (State.unready_touches _ _)
      | apply Keeps.past (State.freeStaging_touches _ _ _)
      | apply Keeps.past (State.keepReplay_touches _ _ _)
      | apply Keeps.past (State.nak_touches _ _ _)
      | apply Keeps.past (State.answer_touches _ _ _ _ _ _)
      | apply Keeps.past (State.setConn_touches _ _ _)

theorem execAbort_keeps (src : AbortSrc) (s : State) : KeepsO s (execAbort src s) := by
  unfold execAbort
  with_reducible
    repeat' first
      | (apply Zone.clear; decide)
      | exact Keeps.refl _
      | apply KeepsO.next
      | apply Keeps.op (State.abortMsg_keeps _ _)
      | apply Keeps.op (State.abortReq_keeps _ _)
      | apply Keeps.past (State.unready_touches _ _)
      | apply Keeps.past (State.answer_touches _ _ _ _ _ _)
      | apply Keeps.past (State.countPoliced_touches _ _)
      | apply Keeps.past (TouchesE.app (State.vfAdmit_touches _ _) (by assumption))
      | apply Keeps.past (TouchesP.app (State.fetch_touches _ _ _) (by assumption))
      | apply Keeps.op (State.completeSt_keeps _ _ _)
      | apply Keeps.op (State.complete_keeps _ _ _ _ _)
      | apply Keeps.past (State.count_touches _ _ _)
      | extract_lets
      | split
      | dsimp +zetaDelta only

/-! ## Reset -/

theorem State.flrWork_keeps (s : State) : Keeps s (State.flrWork s) := by
  unfold State.flrWork
  with_reducible
    repeat' first
      | exact Keeps.refl _
      | intro x
      | apply Keeps.op (State.abortFree_keeps _ _ _)
      | apply Keeps.op (State.closeNow_keeps _ _)
      | apply Keeps.op (State.failReq_keeps _ _ _ _)
      | apply Keeps.each
      | extract_lets
      | split
      | apply Keeps.leaf (Eq.refl _) (Eq.refl _) (Eq.refl _) (Eq.refl _) (Eq.refl _)

theorem State.flrObjects_keeps (s : State) : Keeps s (State.flrObjects s) := by
  unfold State.flrObjects
  with_reducible
    repeat' first
      | exact Keeps.refl _
      | intro x
      | apply Keeps.op (State.areaFree_keeps _ _)
      | apply Keeps.each
      | extract_lets
      | apply Keeps.leaf (Eq.refl _) (Eq.refl _) (Eq.refl _) (Eq.refl _) (Eq.refl _)

theorem execPf0Flr_keeps (s : State) : KeepsO s (execPf0Flr s) := by
  unfold execPf0Flr
  with_reducible
    repeat' first
      | (apply Zone.clear; decide)
      | exact Keeps.refl _
      | apply Keeps.op (State.flrObjects_keeps _)
      | apply Keeps.op (State.flrWork_keeps _)
      | apply Keeps.past (State.adminQueues_touches _)
      | apply Keeps.op (State.clearCompute_keeps _)
      | apply Keeps.past (State.clearCurrants_touches _)
      | apply Keeps.op (State.cqDrain_keeps _ _ _ _)
      | apply State.whenServing_keeps
      | apply Keeps.past (State.event_touches _ _ _)
      | apply Keeps.past (State.setFld_touches _ _ _)

theorem execVfFlr_keeps (vf : Nat) (s : State) : KeepsO s (execVfFlr vf s) := by
  unfold execVfFlr
  with_reducible
    repeat' first
      | exact Keeps.refl _
      | intro x
      | apply Keeps.op (State.abortReq_keeps _ _)
      | apply Keeps.op (State.completeSt_keeps _ _ _)
      | apply State.onlyIf_keeps
      | apply Keeps.each
      | apply Keeps.foldl
      | extract_lets
      | split
      | apply Keeps.leaf (Eq.refl _) (Eq.refl _) (Eq.refl _) (Eq.refl _) (Eq.refl _)

/-! ## Steps -/

theorem State.onStep_keeps (s : State) (l : Nat) (f : Lease → Step → State) (hf : ∀ (x0 : Lease) (x1 : Step), Keeps s (f x0 x1)) :
    KeepsO s (State.onStep s l f) := by
  unfold State.onStep
  with_reducible
    repeat' first
      | exact Keeps.refl _
      | apply KeepsO.next
      | apply Keeps.op (hf _ _)
      | split

theorem execStepend_keeps (l : Nat) (m : StepMeas) (s : State) : KeepsO s (execStepend l m s) := by
  unfold execStepend
  with_reducible
    repeat' first
      | (apply Zone.clear; decide)
      | exact Keeps.refl _
      | intro x
      | apply State.onStep_keeps
      | apply Keeps.op (State.runEnd_keeps _ _ _ _ _ _)
      | apply Keeps.past (State.cyc_touches _ _ _)
      | apply Keeps.op (State.measOf_keeps _ _ _)
      | apply Keeps.each
      | extract_lets
      | split

theorem execChkwaitExpiry_keeps (l : Nat) (s : State) : KeepsO s (execChkwaitExpiry l s) := by
  unfold execChkwaitExpiry
  with_reducible
    repeat' first
      | exact Keeps.refl _
      | intro x
      | apply State.onStep_keeps
      | apply Keeps.op (State.suspect_keeps _ _ _)
      | apply Keeps.op (State.abortFree_keeps _ _ _)
      | apply Keeps.op (State.retractStep_keeps _ _)
      | apply Keeps.op (State.endStep_keeps _ _ _ _ _ _)
      | apply Keeps.foldl
      | extract_lets
      | split

theorem execResultStands_keeps (l : Nat) (s : State) : KeepsO s (execResultStands l s) := by
  unfold execResultStands
  with_reducible
    repeat' first
      | (apply Zone.clear; decide)
      | exact Keeps.refl _
      | intro x
      | apply KeepsO.next
      | apply Keeps.op (State.deliverStep_keeps _ _)
      | apply Keeps.op (State.applyScatters_keeps _ _ _)
      | apply Keeps.op (State.replayWaiting_keeps _ _)
      | apply Keeps.past (State.swapRm_touches _ _ _)
      | apply Keeps.op (State.closeIfDone_keeps _ _)
      | apply Keeps.past (State.modLease_touches _ _ _)
      | apply Keeps.past (State.setCore_touches _ _ _)
      | apply Keeps.each
      | extract_lets
      | split

theorem State.admitFirst_keeps (s : State) (all ls : List (Nat × Lease)) : Keeps s (State.admitFirst s all ls) := by
  induction ls generalizing s all with
  | nil =>
  unfold State.admitFirst
  with_reducible
    repeat' first
      | exact Keeps.refl _
  | cons x r ih =>
  unfold State.admitFirst
  with_reducible
    repeat' first
      | exact Keeps.refl _
      | apply Keeps.op (ih _ _)
      | apply Keeps.op (KeepsP.app (State.tryAdmit_keeps _ _) (by assumption))
      | split

theorem execLeaseAdmit_keeps (s : State) : KeepsO s (execLeaseAdmit s) := by
  unfold execLeaseAdmit
  with_reducible
    repeat' first
      | exact Keeps.refl _
      | intro x
      | apply Keeps.op (State.admitFirst_keeps _ _ _)
      | apply Keeps.op (State.tryThird_keeps _ _)
      | apply State.whenServing_keeps
      | apply Keeps.each

theorem execStepStart_keeps (l : Nat) (errs : List ReadErr) (s : State) : KeepsO s (execStepStart l errs s) := by
  unfold execStepStart
  with_reducible
    repeat' first
      | (apply Zone.clear; decide)
      | exact Keeps.refl _
      | apply KeepsO.next
      | apply Keeps.op (State.beginStep_keeps _ _ _ _ _ _ _)
      | apply Keeps.op (KeepsP.app (State.healPositions_keeps _ _ _ _) (by assumption))
      | apply Keeps.op (State.replayWaiting_keeps _ _)
      | apply Keeps.past (State.count_touches _ _ _)
      | extract_lets
      | split

theorem execLingerExpiry_keeps (l : Nat) (s : State) : KeepsO s (execLingerExpiry l s) := by
  unfold execLingerExpiry
  with_reducible
    repeat' first
      | exact Keeps.refl _
      | apply Keeps.op (State.closeLease_keeps _ _ _)
      | apply State.whenServing_keeps
      | extract_lets
      | split

theorem execRendezvousTimeout_keeps (l rdv : Nat) (m : StepMeas) (s : State) : KeepsO s (execRendezvousTimeout l rdv m s) := by
  unfold execRendezvousTimeout
  with_reducible
    repeat' first
      | exact Keeps.refl _
      | intro x
      | apply State.onStep_keeps
      | apply Keeps.op (State.abortMeas_keeps _ _ _ _ _)
      | extract_lets
      | split

theorem execStepHang_keeps (l : Nat) (m : StepMeas) (s : State) : KeepsO s (execStepHang l m s) := by
  unfold execStepHang
  with_reducible
    repeat' first
      | exact Keeps.refl _
      | intro x
      | apply State.onStep_keeps
      | apply Keeps.op (State.abortMeas_keeps _ _ _ _ _)
      | apply Keeps.op (State.closeLease_keeps _ _ _)
      | extract_lets
      | split

end Sys2Proof.Machine
end

