-- ==== Sys2Proof/Laws/Near.lean ====
section
/-! SUPPORT. Lemmas about the near-bank units: reading and setting currants, and what the frame of a micro-op does. -/

namespace Sys2Proof.Machine

@[simp] theorem State.cur_setCur_same (s : State) (ch : Nat) (c : Currant) : (s.setCur ch c).cur ch = c := by
  simp [State.cur, State.setCur]

theorem State.cur_setCur_ne (s : State) (ch k : Nat) (c : Currant) (h : k ≠ ch) : (s.setCur ch c).cur k = s.cur k :=
  Tbl.get_set_ne _ _ _ _ _ h

@[simp] theorem State.cur_count (s : State) (a n k : Nat) : (s.count a n).cur k = s.cur k := rfl
@[simp] theorem State.cur_setWord (s : State) (a k : Nat) (w : W32) : (s.setWord a w).cur k = s.cur k := rfl
@[simp] theorem State.cur_slotSet (s : State) (ch slot off n v k : Nat) : (s.slotSet ch slot off n v).cur k = s.cur k := rfl
@[simp] theorem State.cur_emit (s : State) (o : Out) (k : Nat) : (s.emit o).cur k = s.cur k := rfl

/-- A micro-op whose body leaves REF_DUE as it was answers what its body does. -/
theorem State.microOp_at (s : State) (ch op w : Nat) (e : UEnv) (f : State → Currant → Nat → State) (t : State)
    (h : s.atOp ch op w)
    (hf : f ((s.setCur ch ((s.cur ch).moved e)).count (kNbuBusycyc ch) e.cyc) ((s.cur ch).moved e) w = t)
    (hr : (t.cur ch).refDue = (s.cur ch).refDue) : s.microOp ch op e f = .next t := by
  obtain ⟨h1, h2, h3, h4, h5, hv, h6⟩ := h
  unfold State.microOp State.onCh
  simp only [h1, h2, decide_true, Bool.and_true, if_true]
  rw [if_neg (by simp [h3]), h4, h5, if_neg (by simp [hv]), if_pos rfl]
  unfold Currant.moved at hf
  rw [hf, hr, if_neg]
  intro hh
  simp only [Bool.and_eq_true] at hh
  simp [hh.1.1, hh.2] at h6

/-- A row operation that ECC reads clean: it counts, and its body sees the row and the poison of its lines. -/
theorem State.rowOp_clean (s : State) (ch row : Nat) (e : UEnv) (f : State → Currant → List Byte → List Bool → State)
    (h : row < rowsPerChannel) (he : e.ecc = .clean) : s.rowOp ch row e f = f (s.countRowOps ch 1) ((s.countRowOps ch 1).cur ch)
      (s.rowData ch row) (s.rowPois ch row .clean) := by
  unfold State.rowOp
  rw [if_neg (by omega), he]
  rfl

@[simp] theorem State.cur_countRowOps_same (s : State) (ch n : Nat) :
    (s.countRowOps ch n).cur ch = { s.cur ch with rowops := (s.cur ch).rowops + n, lastRdl := none } := by
  unfold State.countRowOps
  rw [State.cur_count, State.cur_setCur_same]

theorem State.cur_countRowOps_ne (s : State) (ch n k : Nat) (h : k ≠ ch) : (s.countRowOps ch n).cur k = s.cur k := by
  unfold State.countRowOps
  rw [State.cur_count, State.cur_setCur_ne _ _ _ _ h]

@[simp] theorem State.cur_rowWrite (s : State) (ch row k : Nat) (bs : List Byte) (p : List Bool) :
    (s.rowWrite ch row bs p).cur k = s.cur k := by
  simp only [State.cur, (s.rowWrite_touches ch row bs p) .nbu (by decide)]

end Sys2Proof.Machine
end

