-- ==== Sys2Proof/WellFormed.lean ====
section
/-! DEFINITION. Well-formed commands: every operand lies in the field that carries it, on the largest variant. What a variant lacks,
and what a host error is, the meanings decide. -/

namespace Sys2Proof

/-! ## Plain fields -/

def is8 (n : Nat) : Bool := decide (n < 2 ^ 8)
def isPar (n : Nat) : Bool := decide (n ≤ 5)
def is11 (n : Nat) : Bool := decide (n < 2 ^ 11)
def is14 (n : Nat) : Bool := decide (n < 2 ^ 14)
def is16 (n : Nat) : Bool := decide (n < 2 ^ 16)
def is17 (n : Nat) : Bool := decide (n < 2 ^ 17)
def is32 (n : Nat) : Bool := decide (n < 2 ^ 32)
def is64 (n : Nat) : Bool := decide (n < 2 ^ 64)

/-- A core (R5). -/
def isCore (n : Nat) : Bool := decide (n < 192)

/-- A stack channel, and the currant on it (R120). -/
def isCh (n : Nat) : Bool := decide (n < 192)

/-- An NBU block: a channel, or the broadcast block (R156). -/
def isBlock (n : Nat) : Bool := decide (n ≤ 192)

/-- A flash channel and a chip enable (R161). -/
def isFlashCh (n : Nat) : Bool := decide (n < 32)
def isCe (n : Nat) : Bool := decide (n < 8)

/-- A fabric port, and a traffic class (R353, R357). -/
def isPort (n : Nat) : Bool := decide (n < 6)
def isClass (n : Nat) : Bool := decide (n < 8)

/-- A slot of a currant (R123). -/
def isSlot (n : Nat) : Bool := decide (n < 16)

/-- An array of a core, and one of its running-maximum slots (R226, R278). -/
def isArray (n : Nat) : Bool := decide (n < 4)
def isRm (n : Nat) : Bool := decide (n < 16)

/-- A merge unit and one of its contexts (R253). -/
def isMerge (n : Nat) : Bool := decide (n < 64)
def isCtx (n : Nat) : Bool := decide (n < 4)

/-- A function, a VF and a queue of a function (R509, R516). -/
def isFn (n : Nat) : Bool := decide (n < 64)
def isVf (n : Nat) : Bool := decide (n < 64)
def isQueue (n : Nat) : Bool := decide (n < 64)

/-- An index, which numbers its namespace too (R40, R180), and a list (R38). -/
def isIndex (n : Nat) : Bool := decide (n < 2 ^ 16)
def isList (n : Nat) : Bool := decide (n < 2 ^ 22)

/-- A lease position (R298) and a member position (R413). -/
def isPos (n : Nat) : Bool := decide (n < 192)
def isMember (n : Nat) : Bool := decide (n < 8)

/-! ## Structured operands -/

/-- A submission entry (R517). -/
def hdrOk (h : HostHdr) : Bool :=
  isFn h.fn && isQueue h.q && is16 h.cid && is16 h.tenant && is16 h.epoch && is32 h.dlen && is32 h.rlen

/-- A Pustan message (R358). -/
def msgOk (m : Msg) : Bool :=
  isPort m.port && is8 m.mtype && is8 m.flags && is16 m.tenant && is16 m.epoch && is16 m.dconn && is16 m.sconn && is32 m.seq
  && is32 m.msgid && is32 m.offset && is32 m.totlen && is8 m.status && is8 m.opc && is64 m.tag && is32 m.key && is32 m.aux
  && is64 m.arg && decide (m.payload.length ≤ 1048576)

/-- Where a request came from. -/
def srcOk (x : ReqSrc) : Bool := match x with | .queue h => hdrOk h | .conn m => msgOk m

/-- What an ABORT names. -/
def abortOk (x : AbortSrc) : Bool := match x with | .queue h cid => hdrOk h && is16 cid | .conn m => msgOk m

/-- A frame (R355). -/
def frameOk (f : Frame) : Bool := is16 f.len && decide (f.sip < 2 ^ 128) && isClass f.cls && msgOk f.msg && decide (f.msg.payload.length ≤ f.len)

/-- A sloe descriptor (R172). -/
def sloeOk (d : SloeDesc) : Bool :=
  is8 d.op && decide (d.qslot < 8) && is8 d.metric && is8 d.vfmt && is16 d.dim && is16 d.ns && decide (d.rec_ < 2 ^ 40) && is32 d.rlen
  && is32 d.vscale && is64 d.addr && is64 d.okey && is32 d.dmax && is16 d.dest && is16 d.lease && is64 d.tag && is32 d.aux
  && decide (d.dflags < 2)

/-- A tile descriptor (R228). -/
def tileOk (d : TileDesc) : Bool :=
  decide (d.fmt < 16) && decide (d.cell < 4) && decide (d.acc < 4) && decide (d.drain < 4) && is16 d.k && decide (d.amask < 16)
  && decide (d.ofmt < 16) && is32 d.wbase && is32 d.wstride && d.abase.length == 4 && d.abase.all is32 && is32 d.astride
  && is32 d.pbase && is32 d.dbase && is32 d.dstride && is32 d.scbase && is64 d.tag

/-- A read error (R168, R170): 16 sectors in a page, 31 levels at most. -/
def readErrOk (e : ReadErr) : Bool := is64 e.page && e.sects.all (fun i => decide (i < 16)) && e.level.all (fun l => decide (l < 32))

/-- What one array read finds (R169, R170), and what the copies of a fold or a collection meet (R198, R211): four planes. -/
def nandOk (e : NandEnv) : Bool := e.errs.all (fun x => decide (x.1 < 16) && x.2.all (fun l => decide (l < 32)))
def copyOk (e : CopyEnv) : Bool := e.reads.all readErrOk && e.fails.all (fun x => x.2.all (fun p => decide (p < 4)))

/-- The planes that show FAIL at a status poll (R211). -/
def planesOk (l : List Nat) : Bool := l.all (fun p => decide (p < 4))
def blocksOk (l : List Nat) : Bool := l.all (fun p => decide (p < 32))

/-- A feed word that fails parity (R245): a line of the core store. -/
def feedOk (p : FeedPar) : Bool := decide (p.line < 2 ^ 15)

/-- What a step measured (R307, R308, R317): the positions and slots it names. -/
def lateOk (l : Late) : Bool := is8 l.src && isCh l.ch && isSlot l.slot
def measOk (m : StepMeas) : Bool :=
  m.rdvs.all (fun r => is32 r.idx && is64 r.cyc && is64 r.held && lateOk r.late)
  && m.locals.all (fun l => isPos l.pos && is64 l.bank && is64 l.drain) && is64 m.extra && is64 m.predWait && is64 m.emeas && is64 m.peak

/-- A fault in a tile: a cell of an array, or a checksum cell (R244). -/
def cellOk (e : CellErr) : Bool := isArray e.array && decide (e.row ≤ 128) && decide (e.col ≤ 128)

/-- A gather or scatter command (R342). -/
def gsOk (g : GsCmd) : Bool :=
  is8 g.gmode && is16 g.table && is32 g.nidx && is32 g.idxaddr && is32 g.dataddr && is32 g.multaddr && is32 g.mapaddr
  && is32 g.cntaddr && is16 g.line && is64 g.tag

/-- A row of another member. -/
def rowOk (r : RowData) : Bool := decide (r.row < 2 ^ 40) && r.pois.length == (r.bytes.length + 63) / 64

/-- A stream-engine transfer (R296). -/
def xferOk (x : Xfer) : Bool := is32 x.id && is64 x.addr && is32 x.local_ && is32 x.len && is64 x.laddr

/-- An entry of a selector (R250) and a trailer (R252). -/
def entryOk (e : TkEntry) : Bool := is32 e.dist && is64 e.okey && is64 e.vid && is32 e.loc && decide (e.rec_ < 2 ^ 40)
def trailerOk (t : Trailer) : Bool := is16 t.n && is16 t.cap && is32 t.worst && is32 t.ties && is32 t.nans && is32 t.dups

/-- An update's body with its read errors, a tile's faults, a SEND, and what opens and ends a bramble context. -/
def putOk (b : PutBody) : Bool := b.errs.all readErrOk
def tileEnvOk (e : TileEnv) : Bool := e.errs.all cellOk && e.par.all feedOk
def sendOk (f : SendOp) : Bool := xferOk f.x
def ctxOpenOk (o : CtxOpen) : Bool := is32 o.cap
def ctxEndOk (e : CtxEnd) : Bool := trailerOk e.up

/-- A connection record (R366). -/
def connOk (c : ConnRec) : Bool :=
  is16 c.conn && is16 c.pconn && is16 c.tenant && decide (c.ckind < 2) && isClass c.cls && decide (c.peerip < 2 ^ 128) && isPort c.homeport
  && is8 c.spray && decide (c.paths ≤ 16) && is16 c.cgroup && is32 c.iseq && is32 c.irseq && is16 c.rqdepth && isQueue c.cq

/-- A keyed region (R377). -/
def regionRecOk (r : RegionRec) : Bool :=
  is32 r.key && is16 r.tenant && is8 r.rights && is8 r.rkind && is64 r.base && is64 r.length && is8 r.segshift && is64 r.expoff

/-- A route-map entry (R334). -/
def regionEntOkW (e : RegionEnt) : Bool :=
  is16 e.region && is8 e.kind && is8 e.rights && is16 e.owner && is64 e.target && is64 e.length

/-- A state object of a RUN (R429). -/
def objOk (o : ObjRef) : Bool := is64 o.sid && decide (o.region < 4096)

/-- The creation fields of an index (R40). -/
def createFieldsOk (c : CreateFields) : Bool :=
  is16 c.tenant && isIndex c.index && is8 c.skw && is8 c.vfmt && is8 c.metric && is16 c.dim && is8 c.planes && is16 c.fpc
  && is32 c.ncoarse && is16 c.sidecap && is16 c.mergeth && is16 c.compth && is32 c.splitth && is32 c.jointh && is32 c.vscale
  && is32 c.dirn && is64 c.maxitems && is8 c.cfmt && is8 c.store

/-- A gather-table descriptor (R338). -/
def tableDescOk (d : TableDesc) : Bool :=
  is16 d.tenant && is16 d.table && is8 d.tfmt && is8 d.tflags && decide (d.nnodes ≤ 8) && is32 d.rowbytes && is32 d.chunk
  && decide (d.rows < 2 ^ 40) && is64 d.base && decide (d.nodes.length ≤ 8) && d.nodes.all is16 && is32 d.hotth && is32 d.hotwin

/-- A quota record (R330) and a rate record (R395). -/
def quotaOk (q : QuotaRec) : Bool :=
  is16 q.cores && is16 q.leases && is16 q.indexes && is64 q.hbm && is64 q.pool && is64 q.hostmem && is64 q.flash && is32 q.commons
  && is32 q.reslines && is32 q.outreq && is16 q.plans && is16 q.tables
def rateOk (r : RateRec) : Bool := is32 r.prate && is32 r.pburst && is32 r.srate && is32 r.sburst && is16 r.tquant

/-- A part of a pack (R521). -/
def partOk (p : PackPart) : Bool := is32 p.first && is16 p.owner && is32 p.offset

/-- A boot image's surroundings (R413, R516, R562, R563). -/
def imageEnvOk (e : ImageEnv) : Bool :=
  is32 e.devSize && is8 e.retryFeat && decide (e.retryVals.length ≤ 16) && is8 e.slcPrefix && is64 e.wbSize
  && e.group.all (fun g => decide (g.members.length ≤ 8) && decide (g.role < 3) && isMember g.pos && isMember g.master)
  && is64 e.queues.sqRing && is64 e.queues.cqRing && is17 e.queues.sqDepth && is17 e.queues.cqDepth
  && e.nand.dies.all (fun d => isFlashCh d.ch && isCe d.ce) && e.nand.superBad.all isFlashCh && e.nand.jrecBad.all (fun x => decide (x.1 < 2))

/-- A failing unit of a self-test (R578). -/
def bistOk (f : BistFail) : Bool := decide (1 ≤ f.group) && decide (f.group ≤ 6) && is32 f.unit

/-- A finding of a scrub pass (R456). -/
def findOk (f : ScrubFind) : Bool := isCh f.ch && is32 f.row && f.line.all (fun l => decide (l < 16))

/-! ## Commands -/

/-- Does every operand of a command lie in its field? -/
def Instr.wf (i : Instr) : Bool :=
  match i with
  | .coldPowerOn => true
  | .perstAssert => true
  | .perstRelease _ => true
  | .bootImageVerify e => imageEnvOk e
  | .bootComplete fails => fails.all bistOk
  | .watchdogReset => true
  | .elderWatchdog => true
  | .refclkLoss => true
  | .refclkRestore => true
  | .pllUnlock => true
  | .pf0Flr => true
  | .vfFlr vf => isVf vf
  | .vwarnTaken => true
  | .vwarnRelease => true
  | .brownoutRecovery => true
  | .vwmaxExpiry => true
  | .resetThreshold => true
  | .flushComplete => true
  | .thermalTrip => true
  | .pwrLimChange code => is8 code
  | .holdupOkDeassert => true
  | .holdupRead _ => true
  | .calibrationUpdate regulator _ => is8 regulator
  | .energyWindow _ => true
  | .idle1Entry core => isCore core
  | .createCq h fn q depth _ ring => hdrOk h && isFn fn && isQueue q && is17 depth && is64 ring
  | .createSq h fn q depth cq ring => hdrOk h && isFn fn && isQueue q && is17 depth && isQueue cq && is64 ring
  | .deleteSq h fn q => hdrOk h && isFn fn && isQueue q
  | .deleteCq h fn q => hdrOk h && isFn fn && isQueue q
  | .vfBind h vf tenant => hdrOk h && isVf vf && is16 tenant
  | .tenantCreate h tenant => hdrOk h && is16 tenant
  | .tenantDelete h tenant => hdrOk h && is16 tenant
  | .setQuota h tenant rec_ => hdrOk h && is16 tenant && quotaOk rec_
  | .quotaStats h tenant => hdrOk h && is16 tenant
  | .setRate h tenant rate => hdrOk h && is16 tenant && rateOk rate
  | .setClass h tenant cls => hdrOk h && is16 tenant && isClass cls
  | .indexCreate h d splan uplan => hdrOk h && createFieldsOk d && is32 splan && is32 uplan
  | .indexDelete h index => hdrOk h && isIndex index
  | .deletionFinish index => isIndex index
  | .indexQuiesce h index => hdrOk h && isIndex index
  | .indexAttach h index splan uplan => hdrOk h && isIndex index && is32 splan && is32 uplan
  | .setHot h ns _ first count => hdrOk h && isIndex ns && is64 first && is64 count
  | .createTable h d => hdrOk h && tableDescOk d
  | .deleteTable h table => hdrOk h && is16 table
  | .groupIndex h index mask => hdrOk h && isIndex index && is8 mask
  | .loadPack h part _ => hdrOk h && partOk part
  | .packLoadTimeout => true
  | .unloadPlan h plan => hdrOk h && is32 plan
  | .leaseOpen h plan => hdrOk h && is32 plan
  | .leaseClose h lease => hdrOk h && is16 lease
  | .stepLog h => hdrOk h
  | .planStats h lease => hdrOk h && is16 lease
  | .connOpen h c => hdrOk h && connOk c
  | .connClose h conn => hdrOk h && is16 conn
  | .postRecv h conn key offset length => hdrOk h && is16 conn && is32 key && is64 offset && is64 length
  | .regRegion h r => hdrOk h && regionRecOk r
  | .deregRegion h key => hdrOk h && is32 key
  | .segPresent h key seg => hdrOk h && is32 key && is32 seg
  | .segAbsent h key seg => hdrOk h && is32 key && is32 seg
  | .fabTstats h tenant _ => hdrOk h && is16 tenant
  | .routeMap h epoch entries => hdrOk h && is16 epoch && entries.all regionEntOkW
  | .groupReset h => hdrOk h
  | .casLog h => hdrOk h
  | .errLog h => hdrOk h
  | .tierStats h => hdrOk h
  | .progressStats h tenant => hdrOk h && is16 tenant
  | .energyStats h => hdrOk h
  | .setPowerRun h _ => hdrOk h
  | .setPowerIdle2 h _ => hdrOk h
  | .setPowerStandby h _ => hdrOk h
  | .search src _ => srcOk src
  | .insert src body => srcOk src && putOk body
  | .upsert src body => srcOk src && putOk body
  | .delete src _ => srcOk src
  | .run src _ _ objects => srcOk src && objects.all objOk
  | .abort src => abortOk src
  | .sqTailDoorbell fn q value => isFn fn && isQueue q && is32 value
  | .cqHeadDoorbell fn q value => isFn fn && isQueue q && is32 value
  | .dmaTimeout h => hdrOk h
  | .cxlLinkTrain width rate => is8 width && is8 rate
  | .hdmCommit => true
  | .cxlMemRead offset _ => is64 offset
  | .cxlMemWrite offset _ => is64 offset
  | .getVersion _ => true
  | .getCapabilities _ => true
  | .negotiateAlgorithms _ _ _ => true
  | .getDigests _ => true
  | .getCertificate _ slot offset length => is8 slot && is64 offset && is64 length
  | .challenge _ slot _ => is8 slot
  | .getMeasurements _ index _ _ => is8 index
  | .regread mseq addr par => is32 mseq && is64 addr && isPar par
  | .regwrite mseq addr _ par => is32 mseq && is64 addr && isPar par
  | .health mseq => is32 mseq
  | .healthInterval => true
  | .cperread mseq => is32 mseq
  | .standby mseq => is32 mseq
  | .wake mseq => is32 mseq
  | .recover mseq => is32 mseq
  | .flashread mseq addr len => is32 mseq && is64 addr && is32 len
  | .flasherase mseq addr => is32 mseq && is64 addr
  | .flashwrite mseq addr _ => is32 mseq && is64 addr
  | .reset mseq => is32 mseq
  | .arbcommit mseq => is32 mseq
  | .foreignMctpMessage => true
  | .registerWrite _ addr _ par => is64 addr && isPar par
  | .sqClear _ addr _ par => is64 addr && isPar par
  | .aliasSetWrite _ addr _ par => is64 addr && isPar par
  | .aliasClearWrite _ addr _ par => is64 addr && isPar par
  | .aliasToggleWrite _ addr _ par => is64 addr && isPar par
  | .multiwordStagedWrite _ addr _ par => is64 addr && isPar par
  | .quiesce => true
  | .quiesced => true
  | .portReset port => isPort port
  | .gateListEnable port => isPort port
  | .gateIntervalEnd port => isPort port
  | .scaleRegisterWrite core idx _ par => isCore core && is11 idx && isPar par
  | .nbuGo block mask => isBlock block && is16 mask
  | .slotRelease ch slot => isCh ch && isSlot slot
  | .slotStart ch qwait => isCh ch && is32 qwait
  | .uNop ch _ => isCh ch
  | .uLda ch _ => isCh ch
  | .uAdda ch _ => isCh ch
  | .uLdc ch _ => isCh ch
  | .uLoop ch _ => isCh ch
  | .uJmp ch _ => isCh ch
  | .uSets ch _ => isCh ch
  | .uRd ch _ => isCh ch
  | .uWr ch _ => isCh ch
  | .uCopy ch _ => isCh ch
  | .uInit ch _ => isCh ch
  | .uRdl ch _ => isCh ch
  | .uAnd ch _ => isCh ch
  | .uOr ch _ => isCh ch
  | .uXor ch _ => isCh ch
  | .uAndnot ch _ => isCh ch
  | .uNot ch _ => isCh ch
  | .uXpop ch _ => isCh ch
  | .uMacv ch _ => isCh ch
  | .uQk ch _ => isCh ch
  | .uSmax ch _ => isCh ch
  | .uAv ch _ => isCh ch
  | .uOnorm ch _ => isCh ch
  | .uAccw ch _ => isCh ch
  | .uVld ch _ => isCh ch
  | .uAclr ch _ => isCh ch
  | .uSignal ch _ => isCh ch
  | .uEnd ch _ => isCh ch
  | .refDue ch => isCh ch
  | .forcedPause ch => isCh ch
  | .refreshComplete ch cyc => isCh ch && is32 cyc
  | .cewarnInterval ch => isCh ch
  | .tile core d env => isCore core && tileOk d && tileEnvOk env
  | .fill core x => isCore core && xferOk x
  | .fillComplete core id _ => isCore core && is32 id
  | .poolReadTimeout core id => isCore core && is32 id
  | .streamSend core x => isCore core && sendOk x
  | .gather core g remote => isCore core && gsOk g && remote.all rowOk
  | .scatter core g remote => isCore core && gsOk g && remote.all rowOk
  | .release core first count => isCore core && is32 first && is64 count
  | .scaleld core base addr => isCore core && is32 base && is64 addr
  | .rmslot core array slot => isCore core && isArray array && isRm slot
  | .rmseed core array addr => isCore core && isArray array && is64 addr
  | .flagrd core base addr => isCore core && is32 base && is64 addr
  | .tkopen core k _ => isCore core && is32 k
  | .tkoffer core e => isCore core && entryOk e
  | .tkclose core ctx => isCore core && isCtx ctx
  | .brambleMerge unit ctx open_ entries end_ => isMerge unit && isCtx ctx && ctxOpenOk open_ && entries.all entryOk && ctxEndOk end_
  | .nbucmd core ch slot _ => isCore core && isCh ch && isSlot slot
  | .sloedesc core d => isCore core && sloeOk d
  | .fabsend core conn opc payload => isCore core && is16 conn && is8 opc && decide (payload.length ≤ 8192)
  | .branch lease pos addr => is16 lease && isPos pos && is64 addr
  | .wait core cycles => isCore core && is32 cycles
  | .stepend lease m => is16 lease && measOk m
  | .chkwaitExpiry lease => is16 lease
  | .resultStands lease => is16 lease
  | .leaseAdmit => true
  | .leaseWaitLimit lease => is16 lease
  | .stepStart lease errs => is16 lease && errs.all readErrOk
  | .batchwaitExpiry lease => is16 lease
  | .lingerExpiry lease => is16 lease
  | .rendezvousTimeout lease rdv m => is16 lease && is32 rdv && measOk m
  | .stepHang lease m => is16 lease && measOk m
  | .merge list => isList list
  | .compaction list => isList list
  | .split list _ errs => isList list && errs.all readErrOk
  | .listMerge a b => isList a && isList b
  | .reclusterPassEnd index => isIndex index
  | .extentFree list gen => isList list && is32 gen
  | .sideFullTimeout _ => true
  | .loadq d => sloeOk d
  | .fetch d => sloeOk d
  | .scan d errs => sloeOk d && errs.all readErrOk
  | .flashStatusPoll ch ce _ fails => isFlashCh ch && isCe ce && planesOk fails
  | .nandReadComplete ch ce e => isFlashCh ch && isCe ce && nandOk e
  | .nandProgramComplete ch ce => isFlashCh ch && isCe ce
  | .nandEraseComplete ch stripe fails => isFlashCh ch && is14 stripe && blocksOk fails
  | .wbageExpiry ns unit => isIndex ns && is32 unit
  | .writeAdmitTimeout _ => true
  | .foldStart ch e => isFlashCh ch && copyOk e
  | .gcStart ch e => isFlashCh ch && copyOk e
  | .victimErase ch => isFlashCh ch
  | .checkpoint => true
  | .zqCalibration => true
  | .scrubPass finds => finds.all findOk
  | .hotwinBoundary table => is16 table
  | .frameReceive port f => isPort port && frameOk f
  | .pfcFrame port classes quanta => isPort port && is8 classes && is16 quanta
  | .pfcRefresh port cls => isPort port && isClass cls
  | .pfcwdExpiry port cls => isPort port && isClass cls
  | .egressPick port => isPort port
  | .linkUp port => isPort port
  | .linkDown port => isPort port
  | .losttimeExpiry port => isPort port
  | .reasmtoExpiry port dconn msgid => isPort port && is16 dconn && is32 msgid
  | .deadListExpiry port dconn msgid => isPort port && is16 dconn && is32 msgid
  | .reordertoExpiry conn seq => is16 conn && is32 seq
  | .xrdytoExpiry buf => is16 buf
  | .rtoExpiry conn seq => is16 conn && is32 seq
  | .ackintExpiry conn => is16 conn
  | .reswaitExpiry conn seq => is16 conn && is32 seq
  | .connStateFetched conn _ => is16 conn
  | .stagingBufferGrant => true
  | .rangeLockGrant group => is16 group
  | .reply m => msgOk m
  | .ack m => msgOk m
  | .nak m => msgOk m
  | .send m => msgOk m
  | .xrdy m => msgOk m
  | .data m => msgOk m
  | .read m _ _ => msgOk m
  | .rdata m => msgOk m
  | .write m => msgOk m
  | .flush m _ => msgOk m
  | .flushed m => msgOk m
  | .abortrep m => msgOk m
  | .close m => msgOk m
  | .closeack m => msgOk m
  | .ping m => msgOk m
  | .pong m => msgOk m
  | .arrive m => msgOk m
  | .go m => msgOk m
  | .expel m => msgOk m
  | .barrierReset m => msgOk m
  | .barrierRelease => true
  | .releaseDetect => true
  | .bartoExpiry => true
  | .barstuck => true
  | .membtoExpiry tag pos => is64 tag && isMember pos
  | .groupRecordSend tag => is64 tag
  | .confirm m => msgOk m
  | .retract m => msgOk m
  | .replay m => msgOk m
  | .gone m => msgOk m
  | .verdictTimeout steptag => is64 steptag
  | .replayTimeout steptag => is64 steptag
  | .rpkeepExpiry steptag => is64 steptag
  | .applied m => msgOk m
  | .epochDrain => true
  | .ownerQuery m => msgOk m
  | .ownerAnswer m => msgOk m
  | .ownerAssign m => msgOk m
  | .ownerDrop m => msgOk m
  | .ownerFetch m => msgOk m
  | .ownerConflict m => msgOk m
  | .hello m => msgOk m
  | .accept m => msgOk m
  | .refuse m => msgOk m
  | .snapend m => msgOk m
  | .caughtup m => msgOk m
  | .joinAdmit m => msgOk m
  | .jointoExpiry pos => isMember pos
  | .powerLoss => true
  | .holdupOkAssert => true
  | .portResetDone port => isPort port
  | .gateListRestart port => isPort port
  | .linkTrainingFailure port => isPort port

/-- A command whose operands the hardware could carry: a hypothesis of statements, not a check that the machine makes. -/
def Instr.WellFormed (i : Instr) : Prop := i.wf = true

end Sys2Proof
end

