-- ==== Sys2Proof/Tests/Slice0.lean ====
section
/-! SUPPORT. Tests: for each statement of Certificates/Slice0/Obligations.lean a theorem that runs its commands on small states meeting its
hypotheses, clause by clause; an ill-formed operand for each check of WellFormed; and the drain that the spec works through. Expected
values are computed by hand from the rules that the statements cite. -/

section

set_option Elab.async false

open Sys2Proof Sys2Proof.Machine

/-- A node in service: PERST# released, booted, READY. -/
def up : State := { State.reset with regs := [(0x30, 2)], pwr := { State.reset.pwr with phase := .running, perst := false } }

/-- … of the variant M, which has no flash. -/
def upM : State := { up with hw := { up.hw with variant := .m } }

/-- Did the command complete in a next state with the property? -/
def thenHas (o : Outcome) (p : State → Bool) : Bool := match o with | .next t => p t | _ => false

/-- The header of a host command of PF0 in the admin queue. -/
def hdr0 : HostHdr := ⟨0, 0, 7, 0xFFFF, 0, 64, 4096⟩

/-- A submission queue with one entry that the doorbell has named. -/
def sq0 : Sq := { depth := 16, cq := 0, ring := 0x10000, head := 0, tail := 1, enabled := true, running := [] }

/-- Its completion queue, empty. -/
def cq0 : Cq := { depth := 16, ring := 0x20000, ien := true, head := 0, tail := 0, count := 0, phase := true, enabled := true, waiting := [] }

/-- A node that takes host commands from the admin queue. -/
def hosted (s : State) : State := { s with host := { s.host with sqs := [(0, sq0)], cqs := [(0, cq0)] } }

/-- Has the node written a completion entry of CID 7 with the status? -/
def said (st : Status) (t : State) : Bool := t.out.any (fun o => match o with | .cqe _ _ _ _ e => e.cid == 7 && e.status == st | _ => false)

/-- The geometry of a die (R162). -/
def geom0 : Geom := ⟨16384, 2208, 4, 1024, 4096, 4, true, true⟩

/-- A node with one die in each of channels 0 and 1, brought up, of which the journal lies in both. -/
def diced (s : State) : State :=
  let on := fun (c : Nat) (t : State) => ((t.setFld (fFceCfgEnable c) 1).setFld (fFceCfgCemask c) 1).setFld (fFceCapDiemask c) 1
  { (on 0 (on 1 s)) with flash := { s.flash with geom := some geom0, sparesFmt := 96, jchs := [0, 1] } }

/-- Has the model said that the spec gives the command no effect, under the rule? -/
def offSpec (r : Nat) (t : State) : Bool := t.out.any (fun o => match o with | .unpredictable q _ => q == r | _ => false)

theorem test_HostQueuesComeAndGo :
    let s := hosted up
    let t := { s with host := { s.host with sqs := [(0, sq0), (1, { sq0 with cq := 1 }), (2, { sq0 with cq := 1, running := [(1, 1)] })],
                                             cqs := [(0, cq0), (2, cq0)] } }
    (s.takes hdr0 && s.queueOk 0 63 && ringOk 2 0 && ringOk 4096 0x1000 && s.host.waits.isEmpty && t.takes hdr0
      && (Tbl.find s.host.cqs (qKey 0 63)).isNone
      && thenHas (exec (.createCq hdr0 0 63 2 true 0) s) (said .ok)
      && thenHas (exec (.createSq hdr0 0 63 4096 0 0x1000) s) (said .ok)
      && thenHas (exec (.deleteSq hdr0 0 1) t) (said .ok)
      && thenHas (exec (.deleteSq hdr0 0 2) t) (fun u => u.host.waits.length == 1)
      && thenHas (exec (.deleteCq hdr0 0 2) t) (said .ok)) = true := by decide +kernel

/-- A new tenant, with some use. -/
def ten0 : Tenant := {
  limit := QuotaRec.none, used := QuotaRec.none, resident := false, rate := ⟨10, 1, 10, 1, 144⟩, ptokens := 9000, stokens := 5,
  poldrop := 3, shaped := 4, hwm := [], energy := 0, held := 0, prog := Progress.zero }

theorem test_TenantsLimitsAndStatistics :
    let s0 := hosted upM
    let s := { (s0.setFld fHstCfgNumvf 4) with work := { s0.work with tenants := [(5, ten0)] } }
    (s.takes hdr0 && s.fld fHstCfgNumvf == 4 && !s.tenantBusy 5 && (s.tenant? 6).isNone
      && thenHas (exec (.vfBind hdr0 4 5) s) (fun t => said .ok t && t.boundTo 4 == some 5)
      && thenHas (exec (.vfBind hdr0 4 0xFFFF) s) (fun t => said .ok t && t.boundTo 4 == none)
      && thenHas (exec (.tenantCreate hdr0 4095) s) (fun t => said .ok t && (t.tenant? 4095).any (fun x => x.rate.tquant == 144))
      && thenHas (exec (.tenantDelete hdr0 5) s) (fun t => said .ok t && (t.tenant? 5).isNone)
      && thenHas (exec (.setClass hdr0 5 1) s) (fun t => said .ok t && (t.tenant? 5).any (·.resident))
      && thenHas (exec (.setQuota hdr0 5 { QuotaRec.none with cores := 192 }) s) (fun t => said .ok t
          && t.tenant? 5 == some { ten0 with limit := { QuotaRec.none with cores := 192 } })
      && thenHas (exec (.setRate hdr0 5 ⟨10, 1, 5, 1, 4095⟩) s) (fun t => said .ok t
          && (t.tenant? 5).any (fun x => x.ptokens == 8192 && x.stokens == 0))
      && thenHas (exec (.quotaStats hdr0 5) s) (said .ok)
      && thenHas (exec (.progressStats hdr0 5) s) (said .ok)
      && thenHas (exec (.fabTstats hdr0 5 true) s) (fun t => said .ok t && (t.tenant? 5).any (fun x => x.poldrop == 0))) = true := by
  decide +kernel

/-- The state in a power phase, with PERST# released. -/
def inPhase (s : State) (p : Phase) : State := { s with pwr := { s.pwr with phase := p, perst := false } }

/-- … with a flush under way. -/
def flushes (s : State) (w : FlushWhy) : State := { s with pwr := { s.pwr with flushing := some w } }

/-- Has the node been reset with CAUSE and WDSRC? -/
def wasReset (cause wd : Nat) (t : State) : Bool :=
  t.pwr.phase == .held && t.pwr.cause == cause && t.pwr.wdSrc == wd && t.regs == [] && t.pwr.resets == 1

theorem test_RailsPerstAndWatchdogs :
    let held := { up with pwr := { State.reset.pwr with phase := .held, refclk := true } }
    let noClk := fun (s : State) => { s with pwr := { s.pwr with refclk := false } }
    let clk := fun (s : State) => { s with pwr := { s.pwr with refclk := true } }
    (thenHas (exec .coldPowerOn (inPhase up .off)) (fun t => t.pwr.phase == .held && t.regs == [] && t.pwr.perst)
      && thenHas (exec .powerLoss up) (fun t => t.pwr.phase == .off)
      && thenHas (exec (.perstRelease true) held) (fun t => t.pwr.phase == .stage1 && !t.pwr.perst)
      && thenHas (exec (.perstRelease false) held) (fun t => t.fld fTopStatusBootcode == 0x0A && t.fld fSecStateBistgrp == 7)
      && thenHas (exec .perstAssert (inPhase up .standby)) (wasReset 3 0)
      && thenHas (exec .perstAssert upM) (wasReset 1 0)
      && thenHas (exec .perstAssert up) (fun t => t.pwr.flushing == some .perst)
      && thenHas (exec .watchdogReset upM) (wasReset 2 0)
      && thenHas (exec .elderWatchdog upM) (wasReset 2 3)
      && thenHas (exec .refclkRestore (noClk upM)) (wasReset 2 1)
      && thenHas (exec .watchdogReset up) (fun t => t.pwr.flushing == some (.watchdog 0))
      && thenHas (exec .elderWatchdog up) (fun t => t.pwr.flushing == some (.watchdog 3))
      && thenHas (exec .refclkRestore (noClk up)) (fun t => t.pwr.flushing == some (.watchdog 1))
      && thenHas (exec .pllUnlock ((clk up).setFld fNrgClkCorelock 1)) (fun t => t.pwr.flushing == some (.watchdog 2))
      && thenHas (exec .refclkLoss (clk up)) (fun t => !t.pwr.refclk && t.evtBit eNrg 5)) = true := by decide +kernel

/-- … with VWARN asserted. -/
def warned (s : State) : State := { s with pwr := { s.pwr with vwarn := true } }

/-- … with a brownout recovery pending. -/
def recovering (s : State) : State := { s with pwr := { s.pwr with vwRecover := true } }

theorem test_BrownoutHoldAndRecovery :
    (thenHas (exec .vwarnTaken up) (fun t => t.fld fNrgStatePstate == 1 && t.fld fNrgClkCdiv == 48 && t.evtBit eNrg 0
        && t.fld fFtlStateFlusharm == 1)
      && thenHas (exec .vwarnRelease (warned up)) (fun t => t.pwr.vwRecover && !t.pwr.vwarn)
      && thenHas (exec .brownoutRecovery (recovering upM)) (fun t => !t.pwr.vwRecover && t.fld fNrgClkCdiv == 6 && t.evtBit eNrg 1)
      && thenHas (exec .brownoutRecovery (recovering up)) (fun t => !t.pwr.vwRecover && t.mem == up.mem && t.fld fFtlStateFlusharm == 0)) = true := by decide +kernel

theorem test_ThresholdFlushAndTrip :
    (thenHas (exec .resetThreshold upM) (fun t => t.pwr.phase == .stopped && t.regs == [])
      && thenHas (exec .vwmaxExpiry (warned upM)) (fun t => t.pwr.phase == .stopped)
      && thenHas (exec .resetThreshold up) (fun t => t.pwr.flushing == some .holdup)
      && thenHas (exec .vwmaxExpiry (warned up)) (fun t => t.pwr.flushing == some .holdup)
      && thenHas (exec .flushComplete (flushes (diced up) .perst)) (fun t => wasReset 1 0 t
          && (t.flash.journal.1.getLast?.map (·.jtype)) == some .flushend && (t.flash.journal.2.getLast?.map (·.jtype)) == some .flushend)
      && thenHas (exec .flushComplete (flushes (diced up) .holdup)) (fun t => t.pwr.phase == .stopped)
      && thenHas (exec .thermalTrip upM) (fun t => t.pwr.phase == .stopped && t.pwr.thermtrip)
      && thenHas (exec .thermalTrip up) (fun t => t.pwr.flushing == some .thermal && t.pwr.thermtrip)
      && thenHas (exec .thermalTrip (warned up)) (fun t => t.pwr.phase == .running && t.pwr.thermtrip)) = true := by decide +kernel

/-- A plan of a KIND with one section. -/
def plan0 (kind : Nat) : PlanHdr := {
  magicOk := true, zerosOk := true, kind := kind, varmask := 7, classmask := 0x3F, prio := 0, cores := 1, dies := 0, widenmax := 3, rmcfg := 0, sloeq := 0,
  brmctx := 0, nbuwords := 0, qbatch := 1, batchwait := 0, stepcyc := 100, nrdv := 0, nbranch := 1, reslines := 0, timeout := 0,
  stepmax := 100, estep := 0, epeak := 0, linger := 10, toolver := 1, hbmbytes := 0, poolbytes := 0, commonsb := 0, dim := 32, vfmt := 0,
  metric := 0, skw := 0, pflags := 0, inlen := 0, outlen := 0, sections := [⟨1, 0, true, true, [1, 2, 3]⟩], tablesRd := [], tablesWr := [] }

/-- … as its bytes spell it: it has no IODECL. -/
def plan1 (kind : Nat) : PlanHdr := { plan0 kind with tablesRd := Config.ioTables [] false, tablesWr := Config.ioTables [] true }

/-- Bytes of a number, the most significant first, as digests are written. -/
def hx (n x : Nat) : List Byte := (leBytes n x).reverse

/-- The bytes of a plan of a KIND with one section, `plan1` spelled by R293 and R295; the CRC-32C of 01 02 03 is F130F21E. -/
def planBytes (kind : Nat) : List Byte :=
  [0x48, 0x53, 0x50, 0x4C] ++ leBytes 1 kind ++ [7, 0x3F, 0] ++ leBytes 2 1 ++ [0, 3, 0, 0] ++ zeros 4 ++ leBytes 2 1 ++ zeros 4 ++ leBytes 8 100
  ++ zeros 4 ++ leBytes 2 1 ++ zeros 2 ++ zeros 4 ++ leBytes 4 100 ++ zeros 8 ++ leBytes 4 10 ++ leBytes 4 1 ++ zeros 16 ++ zeros 4
  ++ leBytes 2 32 ++ [0, 0, 0, 0] ++ leBytes 2 1 ++ zeros 8 ++ zeros 28 ++ ([1, 0, 0, 0] ++ leBytes 4 512 ++ leBytes 4 3 ++ leBytes 4 0xF130F21E)
  ++ zeros 368 ++ [1, 2, 3]

/-- The header and directory of a pack of that plan (R288), under its DIGEST. -/
def packHead (flags digest : Nat) : List Byte :=
  [0x48, 0x53, 0x50, 0x4B] ++ leBytes 2 1 ++ leBytes 2 1 ++ leBytes 8 7920 ++ leBytes 4 1 ++ leBytes 2 0 ++ leBytes 2 flags ++ leBytes 8 1
  ++ hx 64 digest ++ zeros 160 ++ leBytes 8 4096 ++ leBytes 8 515

/-- SHAKE256 of the part of the pack below that its DIGEST covers, by another program. -/
def dig6 : Nat :=
  0x4cb39f5806d677c9ef383e654f840e1f07a64e64d61badf0ee747a260f5e81e1d954a9c9a59086c6027bc4492f29d35145a816ef6aad842cbbab658bf2a226fe

/-- A whole pack with a maintenance plan. -/
def maintBytes : List Byte :=
  packHead 1 dig6 ++ List.replicate 3824 (0xFF : Byte) ++ planBytes 6 ++ List.replicate 3309 (0xFF : Byte)

/-- A pack of one plan as its bytes spell it. -/
def pack0 (p : PlanHdr) (flags digest : Nat) : Pack := {
  magicOk := true, format := 1, nplans := 1, packlen := 7920, dirOk := true, toolver := 1, keyslot := 0, pkflags := flags, seq := 1,
  digestOk := true, sigOk := true, zerosOk := true, digest := hx 64 digest, plans := [p] }

/-- What the reading of the boot image brings besides its bytes: nothing is wrong, and no die is found. -/
def reading0 : ImageEnv := {
  deviceOk := true, devSize := 16777216, sigOk := true, maintSigOk := true, fwSecDigest := [], fwElderDigest := [], retryFeat := 0x89,
  retryVals := [[1, 0, 0, 0], [2, 0, 0, 0], [3, 0, 0, 0], [4, 0, 0, 0]], slcPrefix := 0xDA, firstPoll := [], wbSize := 2 ^ 32, group := none,
  queues := ⟨0x10000, 0x20000, 16, 32⟩, pmbus := [9], storeMon := 0, nand := ⟨[], [], []⟩ }

/-- SHAKE256 of no bytes, of the CONFIG, KEYS and MAINT below, and of a public key of FFh bytes, by another program. -/
def digNone : Nat := 0x46b9dd2b0ba88d13233b3feb743eeb243fcd52ea62b81b82b50c27646ed5762f
def digCfg : Nat := 0x408fc4c3226f8883c8f04059788a1f8ff7ec4a5ffb89bf77df56217b0243bec5
def digKeys : Nat := 0x3e380d9ad92f3ff5a7a3e8f844059a68ad8c22d0237a49b3ce12737f744425c8
def digMaint : Nat := 0x98dc0c3d3d17195fcf7252964969972754781c2262aa4eac5410cebb142dc50e
def digRoot : Nat := 0xff3d2cdc05d7fcdc414a4ee955f8e3d30162077d620f22f2ba813d3e65f71678

/-- A boot image that passes every check, with one regulator. -/
def img0 : BootImage := {
  deviceOk := true, magicOk := true, format := 1, nsect := 7, imglen := 65536, devSize := 16777216, boundsOk := true, fwver := 0x102,
  mintool := 0, arb := 3, rootslot := 0, variants := 7, bindser := 0, rootKeyOk := true, sigOk := true, digestsOk := true,
  types := [1, 2, 3, 4, 5, 7, 8], secDigests := [(1, hx 32 digNone), (2, hx 32 digCfg), (3, hx 32 digKeys), (4, hx 32 digNone), (5, hx 32 digMaint), (7, hx 32 digNone),
    (8, hx 32 digNone)], fwSecDigest := [], fwElderDigest := [],
  config := [(0x10, 16 * 2 ^ 32), (0x20010, 50)], keys := [⟨true, false, 0⟩, ⟨false, false, 0⟩, ⟨false, false, 0⟩, ⟨false, false, 0⟩], maint := pack0 (plan1 6) 1 dig6, retryFeat := 0x89,
  retryVals := reading0.retryVals, slcPrefix := 0xDA, firstPoll := [], wbSize := 2 ^ 32, group := none, queues := reading0.queues, pmbus := [9],
  storeMon := 0, nand := reading0.nand }

/-- Bytes of the boot flash at a place. -/
def flashAt (off : Nat) (bs : List Byte) : Tbl Byte := (List.range bs.length).map (fun i => (off + i, bs.getD i 0))

theorem lem_find_append (a b : Tbl Byte) (k : Nat) : Tbl.find (a ++ b) k = (Tbl.find a k).or (Tbl.find b k) := by
  induction a with
  | nil => rfl
  | cons x r ih =>
    obtain ⟨j, v⟩ := x
    simp only [List.cons_append, Tbl.find]
    split
    · rfl
    · exact ih

theorem lem_find_below (a : Tbl Byte) (k : Nat) (h : ∀ e ∈ a, e.1 < k) : Tbl.find a k = none := by
  induction a with
  | nil => rfl
  | cons x r ih =>
    obtain ⟨j, v⟩ := x
    have := h (j, v) (by simp)
    simp only [Tbl.find]
    rw [if_neg (by simp only at this; omega)]
    exact ih (fun e he => h e (by simp [he]))

theorem lem_find_range (off i n : Nat) (g : Nat → Byte) (h : i < n) :
    Tbl.find ((List.range n).map (fun i => (off + i, g i))) (off + i) = some (g i) := by
  induction n with
  | zero => omega
  | succ m ih =>
    rw [List.range_succ, List.map_append, lem_find_append]
    by_cases hm : i < m
    · rw [ih hm]; rfl
    · have : i = m := by omega
      subst this
      rw [lem_find_below _ _ (by simp)]
      simp [Tbl.find]

/-- The flash reads back the bytes at their place. -/
theorem lem_bytes (b : Boot) (pre post : Tbl Byte) (off : Nat) (bs : List Byte) (h : ∀ e ∈ pre, e.1 < off)
    (hf : b.flash = pre ++ (flashAt off bs ++ post)) : b.bytes off bs.length = bs := by
  apply List.ext_getElem
  · simp [Boot.bytes]
  · intro i h1 h2
    have hi : i < bs.length := h2
    simp only [Boot.bytes, List.getElem_map, List.getElem_range, Tbl.get, hf]
    rw [lem_find_append, lem_find_below pre _ (fun e he => Nat.lt_of_lt_of_le (h e he) (Nat.le_add_right _ _)), Option.none_or,
      lem_find_append, flashAt, lem_find_range off i _ _ hi]
    simp [List.getD_eq_getElem?_getD, hi]

theorem lem_flashAt_below (off n : Nat) (bs : List Byte) (h : off + bs.length ≤ n) : ∀ e ∈ flashAt off bs, e.1 < n := by
  intro e he
  simp only [flashAt, List.mem_map, List.mem_range] at he
  obtain ⟨i, hi, rfl⟩ := he
  simp only
  omega

/-- A directory entry of the image (R562). -/
def sectEnt (t off len digest : Nat) : List Byte := leBytes 4 t ++ leBytes 4 off ++ leBytes 4 len ++ zeros 4 ++ hx 32 digest

/-- The parts of the image: header and directory, public key, CONFIG, KEYS, MAINT (R562, R563). -/
def headBytes : List Byte :=
  [0x48, 0x53, 0x42, 0x49] ++ leBytes 2 1 ++ leBytes 2 7 ++ leBytes 4 65536 ++ leBytes 4 0x102 ++ leBytes 4 0 ++ [3, 0, 7, 0] ++ leBytes 8 0
  ++ zeros 224 ++ sectEnt 1 0x2000 0 digNone ++ sectEnt 2 0x2000 24 digCfg ++ sectEnt 3 0x3000 1962 digKeys ++ sectEnt 4 0x4000 0 digNone
  ++ sectEnt 5 0x4000 7920 digMaint ++ sectEnt 7 0x4000 0 digNone ++ sectEnt 8 0x4000 0 digNone
def keyBytes : List Byte := List.replicate 1952 (0xFF : Byte)
def cfgBytes : List Byte := leBytes 4 0x10 ++ leBytes 8 (16 * 2 ^ 32) ++ leBytes 4 0x20010 ++ leBytes 8 50
def keysBytes : List Byte := keyBytes ++ ([1, 0] ++ zeros 8)

/-- The image in the boot flash. -/
def bootFlash : Tbl Byte :=
  flashAt 0 headBytes ++ (flashAt 0x1400 keyBytes ++ (flashAt 0x2000 cfgBytes ++ (flashAt 0x3000 keysBytes ++ (flashAt 0x4000 maintBytes ++ []))))

/-- A node in stage 1 with the image in its flash and its key in fuses. -/
def stage1 : State :=
  { State.reset with pwr := { State.reset.pwr with phase := .stage1, perst := false }, boot := { State.reset.boot with flash := bootFlash },
                     hw := { State.reset.hw with rootDigests := [hx 32 digRoot] } }

theorem lem_lengths : (headBytes.length, keyBytes.length, cfgBytes.length, keysBytes.length, maintBytes.length, (planBytes 6).length)
    = (592, 1952, 24, 1962, 7920, 515) := by decide +kernel

theorem lem_flash : stage1.boot.bytes 0x1400 1952 = keyBytes ∧ stage1.boot.bytes 0x2000 24 = cfgBytes
    ∧ stage1.boot.bytes 0x3000 1962 = keysBytes ∧ stage1.boot.bytes 0x4000 7920 = maintBytes := by
  have hl := lem_lengths
  simp only [Prod.mk.injEq] at hl
  obtain ⟨l1, l2, l3, l4, l5, -⟩ := hl
  have b1 := lem_flashAt_below 0 0x1400 headBytes (by omega)
  have b2 := lem_flashAt_below 0x1400 0x2000 keyBytes (by omega)
  have b3 := lem_flashAt_below 0x2000 0x3000 cfgBytes (by omega)
  have b4 := lem_flashAt_below 0x3000 0x4000 keysBytes (by omega)
  have k2 := lem_bytes stage1.boot (flashAt 0 headBytes) _ 0x1400 keyBytes b1 rfl
  have k3 := lem_bytes stage1.boot (flashAt 0 headBytes ++ flashAt 0x1400 keyBytes) _ 0x2000 cfgBytes (by
    intro e he; rcases List.mem_append.mp he with h | h
    · have := b1 e h; omega
    · exact b2 e h) (List.append_assoc _ _ _).symm
  have k4 := lem_bytes stage1.boot ((flashAt 0 headBytes ++ flashAt 0x1400 keyBytes) ++ flashAt 0x2000 cfgBytes) _ 0x3000 keysBytes (by
    intro e he; rcases List.mem_append.mp he with h | h
    · rcases List.mem_append.mp h with h | h
      · have := b1 e h; omega
      · have := b2 e h; omega
    · exact b3 e h) (by simp only [List.append_assoc]; rfl)
  have k5 := lem_bytes stage1.boot (((flashAt 0 headBytes ++ flashAt 0x1400 keyBytes) ++ flashAt 0x2000 cfgBytes) ++ flashAt 0x3000 keysBytes) _
    0x4000 maintBytes (by
    intro e he; rcases List.mem_append.mp he with h | h
    · rcases List.mem_append.mp h with h | h
      · rcases List.mem_append.mp h with h | h
        · have := b1 e h; omega
        · have := b2 e h; omega
      · have := b3 e h; omega
    · exact b4 e h) (by simp only [List.append_assoc]; rfl)
  rw [l2] at k2; rw [l3] at k3; rw [l4] at k4; rw [l5] at k5
  exact ⟨k2, k3, k4, k5⟩

theorem lem_sub (b : Boot) (off m k n : Nat) (h : k + n ≤ m) : b.bytes (off + k) n = ((b.bytes off m).drop k).take n := by
  apply List.ext_getElem
  · simp [Boot.bytes]; omega
  · intro i h1 h2
    simp [Boot.bytes, Nat.add_assoc]

theorem lem_hdr (k n : Nat) (h : k + n ≤ 592) : stage1.boot.bytes k n = (headBytes.drop k).take n := by
  have hl := lem_lengths
  simp only [Prod.mk.injEq] at hl
  have h0 := lem_bytes stage1.boot [] _ 0 headBytes (by simp) (List.nil_append _).symm
  rw [hl.1] at h0
  rw [← h0, ← lem_sub stage1.boot 0 592 k n h, Nat.zero_add]

theorem lem_sects : stage1.boot.sects = [⟨1, 0x2000, 0, hx 32 digNone⟩, ⟨2, 0x2000, 24, hx 32 digCfg⟩, ⟨3, 0x3000, 1962, hx 32 digKeys⟩,
    ⟨4, 0x4000, 0, hx 32 digNone⟩, ⟨5, 0x4000, 7920, hx 32 digMaint⟩, ⟨7, 0x4000, 0, hx 32 digNone⟩, ⟨8, 0x4000, 0, hx 32 digNone⟩] := by
  have hn : min (stage1.boot.field 6 2) 32 = 7 := by rw [Boot.field, lem_hdr _ _ (by decide)]; decide +kernel
  rw [Boot.sects, hn]
  have he : ∀ i ∈ List.range 7, (let e := 0x100 + 48 * i
      (⟨stage1.boot.field e 4, stage1.boot.field (e + 4) 4, stage1.boot.field (e + 8) 4, stage1.boot.bytes (e + 16) 32⟩ : ImageSect))
      = (let f := fun (k n : Nat) => (headBytes.drop (0x100 + 48 * i + k)).take n
         ⟨fromLe (f 0 4), fromLe (f 4 4), fromLe (f 8 4), f 16 32⟩) := by
    intro i hi
    have := List.mem_range.mp hi
    simp only [Boot.field]
    rw [lem_hdr _ _ (by omega), lem_hdr _ _ (by omega), lem_hdr _ _ (by omega), lem_hdr _ _ (by omega)]
    rfl
  rw [List.map_congr_left he]
  decide +kernel

theorem lem_shakes : (shake256 32 [] == hx 32 digNone && shake256 32 cfgBytes == hx 32 digCfg && shake256 32 keysBytes == hx 32 digKeys
    && shake256 32 keyBytes == hx 32 digRoot) = true := by decide +kernel

theorem lem_shakeMaint : (shake256 32 maintBytes == hx 32 digMaint) = true := by decide +kernel

theorem lem_plan : planOf (planBytes 6) = plan1 6 := by
  have h : (List.range (min (leAt (planBytes 6) 0x5A 2) 25)).map (sectionOf (planBytes 6)) = [⟨1, 0, true, true, [1, 2, 3]⟩] := by
    decide +kernel
  simp only [planOf, plan1, plan0, h, PlanHdr.mk.injEq]
  refine ⟨?_, ?_, ?_, ?_, ?_, ?_, ?_, ?_, ?_, ?_, ?_, ?_, ?_, ?_, ?_, ?_, ?_, ?_, ?_, ?_, ?_, ?_, ?_, ?_, ?_, ?_, ?_, ?_, ?_, ?_, ?_, ?_, ?_, ?_,
    ?_, ?_, rfl, rfl⟩ <;> decide +kernel

theorem lem_pack : packOf maintBytes true = pack0 (plan1 6) 1 dig6 := by
  have hd : packDir maintBytes (min (leAt maintBytes 6 2) 65) = [(4096, 515)] := by decide +kernel
  have hs : slice maintBytes 4096 515 = planBytes 6 := by decide +kernel
  simp only [packOf, pack0, hd, List.map_cons, List.map_nil, hs, lem_plan, Pack.mk.injEq]
  refine ⟨?_, ?_, ?_, ?_, ?_, ?_, ?_, ?_, ?_, ?_, ?_, ?_, ?_, ?_⟩ <;> first | exact True.intro | decide +kernel

theorem lem_image : imageOf stage1.hw stage1.boot reading0 = img0 := by
  obtain ⟨f1, f2, f3, f4⟩ := lem_flash
  have hs := lem_shakes
  simp only [Bool.and_eq_true] at hs
  obtain ⟨⟨⟨h1, h2⟩, h3⟩, h4⟩ := hs
  have he : ∀ a, stage1.boot.bytes a 0 = [] := fun _ => rfl
  have hf : stage1.hw.rootDigests = [hx 32 digRoot] := rfl
  have hr : (stage1.hw.rootDigests[stage1.boot.field 0x15 1]? == some (shake256 32 (stage1.boot.bytes 0x1400 pkLen))) = true := by
    have : stage1.boot.field 0x15 1 = 0 := by rw [Boot.field, lem_hdr _ _ (by decide)]; decide +kernel
    rw [this, hf, show pkLen = 1952 from rfl, f1, eq_of_beq h4]
    decide +kernel
  simp only [Boot.field, lem_hdr, Nat.reduceAdd, Nat.reduceLeDiff] at hr
  simp only [imageOf, Boot.sectOf, lem_sects, List.all_cons, List.all_nil, List.map_cons, List.map_nil, f2, f3, f4, he, h1, h2, h3,
    lem_shakeMaint, List.find?, Boot.field, lem_hdr, img0, reading0, BootImage.mk.injEq, Nat.reduceBEq, Nat.reduceAdd, Nat.reduceLeDiff]
  simp only [true_and, and_true]
  refine ⟨?_, ?_, ?_, ?_, ?_, ?_, ?_, ?_, ?_, ?_, ?_, hr, ?_, ?_, ?_, lem_pack⟩ <;> decide +kernel

/-- A node that runs the image. -/
def booted (s : State) : State := { s with boot := { s.boot with image := some img0 } }

theorem test_LimitsAndHoldUpStore :
    let s := booted ((up.setFld fNrgCfgAllow 600).setFld fNrgHoldupHucap 1000)
    (thenHas (exec (.pwrLimChange 2) s) (fun t => t.fld fNrgLimitPincode == 2 && t.evtBit eNrg 7 && t.fld fNrgLimitLive == 300)
      && thenHas (exec .holdupOkDeassert s) (fun t => !t.pwr.holdupOk && t.fld fNrgEavail == 0)
      && thenHas (exec .holdupOkAssert s) (fun t => t.pwr.holdupOk)
      && thenHas (exec (.holdupRead (some 65535)) { s with pwr := { s.pwr with holdupOk := true } }) (fun t =>
          t.fld fNrgEavail == 1000 * 65535 * 65535 / 20000000 && t.fld fNrgHoldupHuvnow == 65535)
      && thenHas (exec (.holdupRead none) { s with pwr := { s.pwr with huFails := 1 } }) (fun t => t.pwr.huFails == 2 && t.evtBit eNrg 4)
      && thenHas (exec (.calibrationUpdate 0 (some 1100)) s) (fun t => Tbl.get 1000 t.nrg.factor 0 == 1100)
      && thenHas (exec (.calibrationUpdate 0 none) { s with nrg := { s.nrg with telFails := [(0, 1)] } }) (fun t =>
          Tbl.get 1000 t.nrg.factor 0 == 1250 && t.evtBit eNrg 4)) = true := by decide +kernel

theorem test_WindowIdle1AndSetPower :
    let s := hosted ((up.setFld fNrgCfgAllow 600).setFld fNrgLimitLimreg 500)
    (up.serving && s.takes hdr0
      && thenHas (exec (.energyWindow ⟨100, 20, 3⟩) s) (fun t => t.nrg.draw == 100 && t.nrg.pcap == min (100 * s.liveLimit) 11000
          && t.nrg.pmin == 9000)
      && thenHas (exec (.energyWindow ⟨5000, 20, 3⟩) s) (fun t => t.nrg.pcap == max (100 * s.liveLimit) (500000 - 1000))
      && thenHas (exec (.idle1Entry 191) up) (fun t => (t.core 191).gated)
      && (exec (.idle1Entry 3) (up.setFld (fCoreStateLease 3) 1) matches .next _)
      && thenHas (exec (.setPowerRun hdr0 true) s) (fun t => said .ok t && t.fld fNrgStateAutowake == 1)
      && thenHas (exec (.setPowerRun hdr0 true) (s.setFld fNrgStatePstate 4)) (fun t => t.fld fNrgStatePstate == 5 && t.host.waits.length == 1)
      && thenHas (exec (.setPowerIdle2 hdr0 false) s) (fun t => t.host.waits == [(hdr0, .setPower 1)])
      && thenHas (exec (.setPowerStandby hdr0 false) s) (fun t => t.host.waits == [(hdr0, .setPower 2)])) = true := by decide +kernel

theorem test_BootImageRefused :
    let s := stage1
    (thenHas (exec (.bootImageVerify reading0) { s with boot := { s.boot with flash := [] } }) (fun t =>
          t.pwr.phase == .failed && t.fld fTopStatusBootcode == 1 && t.fld fTopStatusBootfail == 1)
      && ((s.bootPrep img0).applyConfig []).isNone
      && (((s.bootPrep img0).applyConfig img0.config).any (fun c => (c.imageRuns { img0 with maint := { img0.maint with sigOk := false } }).isNone))
      && (s.bootImage { img0 with config := [] }).fld fTopStatusBootcode == 8
      && (s.bootImage { img0 with maint := { img0.maint with sigOk := false } }).fld fTopStatusBootcode == 9) = true := by decide +kernel

theorem test_BootImageVerified :
    thenHas (exec (.bootImageVerify reading0) stage1) (fun t => t.pwr.phase == .verified && t.work.plans.length == 1
          && t.fld fNrgLimitLimreg == 50 && t.fld fTopFwverFwver == 0x102 && t.fld fSecStateVerified == 1
          && (t.plan? (2 ^ 32 - 1)).any (fun p => p.hdr.kind == 6 && p.owner == 0xFFFF)) = true := by
  rw [show exec (.bootImageVerify reading0) stage1 = execBootImageVerify reading0 stage1 from rfl, execBootImageVerify, lem_image]
  decide +kernel

theorem test_BootChecksInOrder :
    let bad : List BootImage := [{ img0 with magicOk := false }, { img0 with nsect := 33 }, { img0 with rootslot := 4 }, { img0 with sigOk := false },
      { img0 with arb := 2 }, { img0 with variants := 2 }, { img0 with digestsOk := false }, { img0 with types := [1, 2, 3, 5, 7, 8] }]
    bad.map (imageFault { State.reset.hw with variant := .f, arbFuse := 3 }) = [some 1, some 2, some 3, some 4, some 5, some 6, some 7, some 2] := by
  decide +kernel

theorem test_BootOpensTheNode :
    let s := booted { (inPhase State.reset .verified) with hw := upM.hw }
    (thenHas (exec (.bootComplete []) s) (fun t => t.pwr.phase == .running && t.fld fTopStatusBusy == 0 && t.fld fTopStatusReady == 1
        && t.evtBit eTop 0 && (Tbl.find t.host.sqs 0).any (fun q => q.depth == 16) && (Tbl.find t.host.cqs 0).any (fun q => q.ring == 0x20000))
      && thenHas (exec (.bootComplete [⟨4, 1, none⟩]) s) (fun t => t.pwr.phase == .failed && t.fld fTopStatusBootcode == 0x0A)) = true := by
  decide +kernel

/-- An error record that the secure master has not read. -/
def cper0 : Cper := ⟨0x0101, 2, false, false, 5, 0, 0, 0xFFFF, 0, 0, 1, 0, [], [], 0, 0, 0⟩

/-- An access that the control path lost (R446). -/
def lost (s t : State) : Bool := t.evtBit eChk 7 && t.reg64 kChkParreplay == s.reg64 kChkParreplay + 4 && t.mem == s.mem

theorem test_ManagementMessages :
    let s := up.setFld fMgtCfgHealthint 1
    (s.mgmtUp
      && thenHas (exec (.regread 5 0x3FFFFFC 0) s) (fun t => t.out.length == 1)
      && thenHas (exec (.regwrite 5 0x400008 0x23 0) s) (fun t => t.out.length == 1 && t.word 0x400008 == 0x23)
      && thenHas (exec (.regread 5 0 5) s) (fun t => t.out.head? == some (.mgmt 0x01 5 .ok [0xFF, 0xFF, 0xFF, 0xFF]) && lost s t)
      && thenHas (exec (.regwrite 5 0x400008 0x23 5) s) (fun t => t.word 0x400008 == s.word 0x400008 && lost s t)
      && thenHas (exec (.regwrite 5 0x400008 0x23 4) s) (fun t => t.word 0x400008 == 0x23 && t.reg64 kChkParreplay == 4)
      && thenHas (exec (.health 5) s) (fun t => t.out.length == 1)
      && thenHas (exec .healthInterval s) (fun t => t.out.length == 1)
      && thenHas (exec (.cperread 5) s) (fun t => t.out == [.mgmt 0x04 5 .notFound []])
      && thenHas (exec (.cperread 5) { s with chk := { s.chk with ring := [cper0] } }) (fun t => t.out.length == 1 && t.chk.secMark == 1)
      && thenHas (exec (.standby 5) s) (fun t => t.mgmt.stbyReq == some 5 && t.evtBit eMgt 1)
      && thenHas (exec (.wake 5) (inPhase up .standby)) (fun t => wasReset 3 0 t && t.mgmt.wakeReq == some 5)
      && thenHas (exec (.wake 5) up) (fun t => t.out == [.mgmt 0x06 5 .ok []])
      && thenHas (exec .foreignMctpMessage s) (fun t => t.evtBit eMgt 2)) = true := by decide +kernel

theorem test_RecoveryAndBootFlash :
    let r := inPhase up .recovery
    (thenHas (exec (.recover 5) upM) (fun t => t.pwr.phase == .recovery && t.fld fSecStateRecovery == 1)
      && thenHas (exec (.recover 5) up) (fun t => t.pwr.flushing == some .recover)
      && thenHas (exec (.flashread 5 0x1000 256) r) (fun t => t.out == [.mgmt 0x08 5 .ok (List.replicate 256 0xFF)])
      && thenHas (exec (.flasherase 5 0x10000) { r with boot := { r.boot with flash := [(0x1FFFF, 3), (0x20000, 4)] } }) (fun t =>
          t.boot.flash == [(0x20000, 4)])
      && thenHas (exec (.flashwrite 5 0x100 [7, 8]) r) (fun t => t.boot.flash == [(0x100, 7), (0x101, 8)])
      && thenHas (exec (.flashwrite 5 0x100 [7, 8]) up) (fun t => t.out == [.mgmt 0x0A 5 .nodeBusy []])
      && thenHas (exec (.flashread 5 0 1) up) (fun t => t.out == [.mgmt 0x08 5 .nodeBusy []])
      && thenHas (exec (.flasherase 5 0) up) (fun t => t.out == [.mgmt 0x09 5 .nodeBusy []])
      && thenHas (exec (.reset 5) r) (wasReset 1 0)
      && thenHas (exec (.arbcommit 5) (booted up)) (fun t => t.hw.arbFuse == 3)) = true := by decide +kernel

theorem test_SpdmExchange :
    let say := fun (i : Instr) (o : Outcome) => match o with | .next t => exec i t | r => r
    let s1 := exec (.getVersion .doe) up
    let s3 := say (.negotiateAlgorithms .doe true true) (say (.getCapabilities .doe) s1)
    (up.spdmUp .doe && thenHas s1 (fun t => (t.spdm .doe).version && t.spdm .mctp == up.spdm .mctp)
      && thenHas s3 (fun t => (t.spdm .doe).algs && (t.spdm .doe).caps)
      && thenHas (say (.getDigests .doe) s3) (fun t => t.out.length == 4)
      && thenHas (say (.getCertificate .doe 0 0 16) s3) (fun t => t.out.length == 4)
      && thenHas (say (.challenge .doe 0 (List.replicate 32 1)) s3) (fun t => t.out.length == 4)
      && thenHas (say (.getMeasurements .doe 4 false (List.replicate 32 1)) s3) (fun t => t.out.length == 4)
      && thenHas (say (.getMeasurements .doe 0 false []) s3) (fun t => t.out.head? == some (.spdm .doe 0x60 [8]))
      && thenHas (exec (.getDigests .doe) up) (fun t => t.out == [.spdm .doe 0x7F [4]])) = true := by decide +kernel

/-- An open lease of plan 77 of tenant 5, on core 3. -/
def lease0 : Lease := {
  plan := 77, owner := 5, prio := 0, maint := false, st := .open_, arrival := 0, overdue := false, cores := [3], nbuBase := 0, ctxBase := [0, 0, 0, 0],
  qBase := 0, queue := [], batchOk := false, nextSeq := 1, step := none, past := [], totals := List.replicate 16 0, held := false, frozen := false, kv := [],
  nextGroup := false, resident := false, hbmSpan := none, comSpan := none, closeReq := none }

/-- A micro-op word from its fields, left to right as R129 gives them (Y, BS and BT zero where absent). -/
def uop (op y ra rb bd bs bt fn cnt imm : Nat) : Nat :=
  op * 2 ^ 58 + y * 2 ^ 57 + ra * 2 ^ 53 + rb * 2 ^ 50 + bd * 2 ^ 48 + bs * 2 ^ 46 + bt * 2 ^ 44 + fn * 2 ^ 40 + cnt * 2 ^ 24 + imm

/-- A running slot 15 of the currant of channel 5, at counter 3. -/
def cur0 : Currant := { currantReset with rs := .run, slot := 15, pc := 3, a := [32, 64, 2 ^ 28 - 1, 0, 0, 0, 0, 0], c := [2, 0, 0, 0] }

/-- A node where that slot runs the micro-op `w`, on the variant M. -/
def atUop (c : Currant) (w : Nat) : State :=
  let s := { upM with nbu := [(5, c)] }.setFld fTopCapMemoryIrow0 1000
  s.setReg64 (nbuBase 5 + 0x2000 + 8 * 3) w

def env0 : UEnv := ⟨.clean, 4, 0, []⟩

/-- Does the command leave a currant with the property? -/
def curHas (i : Instr) (s : State) (p : Currant → Bool) : Bool := thenHas (exec i s) (fun t => p (t.cur 5))

/-- … where slot 15 is the next of a group of another lease, READY. -/
def ready5 : State :=
  let s := { upM with nbu := [(5, { currantReset with groups := [[15, 2]], lastLease := 9 })] }
  ((s.slotSet 5 15 3 1 1).slotSet 5 15 8 4 77).slotSet 5 15 0x30 4 99

/-- Slot 2 of a node without MAC lanes, whose program holds a MAC micro-op. -/
def macSlot : State := { up with hw := { up.hw with variant := .s } }.setReg64 (nbuBase 5 + 0x2000) (uop 0x20 0 0 0 0 0 0 0 0 0)

theorem test_NearBankSlotsRunInOrder :
    (decide (5 < ready5.nch) && ready5.serving && ready5.flag (fNbuCtlEnable 5) && ready5.sstate 5 15 == 1
      && thenHas (exec (.nbuGo 5 0x8001) upM) (fun t => (t.cur 5).groups == [[0, 15]] && t.sstate 5 15 == 1 && t.sstate 5 0 == 1)
      && thenHas (exec (.nbuGo 5 0x8000) ready5) (fun t => offSpec 124 t && t.sstate 5 15 == 1)
      && thenHas (exec (.slotRelease 5 15) ready5) (fun t => offSpec 124 t && t.sstate 5 15 == 1)
      && (macSlot.slotAbsent 5 2 && thenHas (exec (.nbuGo 5 4) macSlot) (fun t => t.sstate 5 2 == 4
          && t.slotGet 5 2 4 1 == statusCode .notPresent && t.evtBit (eNbu 5) 3 && (t.cur 5).groups == []))
      && thenHas (exec (.slotRelease 5 15) (upM.slotSet 5 15 3 1 4)) (fun t => t.sstate 5 15 == 0)
      && (ready5.cur 5).nextSlot == some (15, [2], [], true)
      && thenHas (exec (.slotStart 5 6) ready5) (fun t => t.sstate 5 15 == 2 && (t.cur 5).rs == .run && (t.cur 5).slot == 15
          && (t.cur 5).areg 0 == 77 && (t.cur 5).limit == 99 && (t.cur 5).qwait == 14 && (t.cur 5).group == [2])
      && thenHas (exec (.slotStart 5 6) { ready5 with nbu := [(5, { currantReset with group := [15], sf := [3] })] }) (fun t =>
          (t.cur 5).qwait == 6 && (t.cur 5).sf == [3])) = true := by decide +kernel

theorem test_RefreshPausesSlots :
    let s := (atUop { cur0 with refDue := true } 0).slotSet 5 15 3 1 2
    (curHas (.refDue 5) (atUop cur0 0) (·.refDue)
      && thenHas (exec (.forcedPause 5) s) (fun t => (t.cur 5).rs == .paused && t.sstate 5 15 == 3 && t.evtBit (eNbu 5) 2)
      && thenHas (exec (.refreshComplete 5 9) (atUop { cur0 with rs := .paused } 0)) (fun t => (t.cur 5).rs == .run && (t.cur 5).pausec == 9
          && t.sstate 5 15 == 2 && t.reg64 (kNbuPausecyc 5) == 9)
      && curHas (.cewarnInterval 5) (atUop { cur0 with ceCount := 3, ceWarned := true } 0) (fun c => c.ceCount == 0 && !c.ceWarned)) = true := by
  decide +kernel

theorem test_ControlMicroOps :
    let run := fun (i : Nat → UEnv → Instr) (w : Nat) => curHas (i 5 env0) (atUop cur0 w)
    (uOp (uop 0x06 1 2 3 1 2 3 9 7 5) == 6
      && run .uNop (uop 0x00 0 0 0 0 0 0 0 0 0) (fun c => c.pc == 4)
      && run .uLda (uop 0x01 0 1 2 0 0 0 1 0 5) (fun c => c.areg 1 == 4)
      && run .uAdda (uop 0x02 0 2 0 0 0 0 0 0 3) (fun c => c.areg 2 == 2)
      && run .uLdc (uop 0x03 0 3 0 0 0 0 0 0xFFFF 0) (fun c => c.c == [2, 0, 0, 0xFFFF])
      && run .uLoop (uop 0x04 0 0 0 0 0 0 0 0 511) (fun c => c.c.getD 0 0 == 1 && c.pc == 511)
      && curHas (.uLoop 5 env0) (atUop { cur0 with c := [1, 0, 0, 0] } (uop 0x04 0 0 0 0 0 0 0 0 511)) (fun c => c.c.getD 0 9 == 0 && c.pc == 4)
      && curHas (.uLoop 5 env0) (atUop cur0 (uop 0x04 0 1 0 0 0 0 0 0 0)) (fun c => c.c.getD 1 0 == 0xFFFF && c.pc == 0)
      && run .uJmp (uop 0x05 0 0 0 0 0 0 0 0 8) (fun c => c.pc == 8)
      && run .uSets (uop 0x06 0 0 0 0 0 0 0 1 9) (fun c => c.scanpos == 9 && c.side)
      && run .uSets (uop 0x06 0 0 0 0 0 0 1 1 9) (fun c => c.limit == 9)
      && thenHas (exec (.uSets 5 env0) (atUop cur0 (uop 0x06 0 0 0 0 0 0 2 0 0))) (fun t => offSpec 130 t && (t.cur 5).pc == 4)
      && thenHas (exec (.uNop 5 env0) (atUop cur0 (uop 0x3E 0 0 0 0 0 0 0 0 0))) (fun t => offSpec 128 t && (t.cur 5).pc == 4)
      && run .uAclr (uop 0x27 0 0 0 0 0 0 0 0 0) (fun c => c.m == 0xFF800000 && c.of_.length == 256)
      && thenHas (exec (.uSignal 5 env0) (atUop cur0 (uop 0x30 0 0 0 0 0 0 0 0 0x12345))) (fun t => t.out == [.nbuSignal 5 0x2345 0])
      && curHas (.uNop 5 env0) (atUop { cur0 with refDue := true } (uop 0 1 0 0 0 0 0 0 0 0)) (fun c => c.rs == .paused && c.pc == 4)) = true := by
  decide +kernel

theorem test_JumpOutOfRange :
    let s := (atUop cur0 (uop 0x05 0 0 0 0 0 0 0 0 8)).slotSet 5 15 6 2 1
    thenHas (exec (.uJmp 5 env0) { s with work := { s.work with leases := [(1, lease0)], plans := [(77, ⟨5, 1, plan0 1, [], [], false⟩)] } })
      (fun t => offSpec 128 t && (t.cur 5).pc == 8) = true := by decide +kernel

/-- Row 2 of channel 5 begins with the bytes 1, 2, 3. -/
def rowed5 (s : State) : State := { s with mem := { s.mem with hbm := [(rowKey 5 2, 1), (rowKey 5 2 + 1, 2), (rowKey 5 2 + 2, 3)] } }

theorem test_RowAndBufferMicroOps :
    let b := List.replicate 1024 (5 : Byte)
    let c := { cur0 with buf := [b, zeros 1024, b, b] }
    let run := fun (i : Nat → UEnv → Instr) (w : Nat) => thenHas (exec (i 5 env0) (rowed5 (atUop c w)))
    (rowOf (uLine { c with pc := 4 } (uop 0x08 0 0 0 1 0 0 0 0 0)) == 2
      && run .uRd (uop 0x08 0 0 0 1 0 0 0 0 0) (fun t => ((t.cur 5).buf.getD 1 []).take 4 == [1, 2, 3, 0] && (t.cur 5).rowops == 1)
      && thenHas (exec (.uRd 5 { env0 with ecc := .uncorrectable }) (rowed5 (atUop c (uop 0x08 0 0 0 1 0 0 0 0 0)))) (fun t =>
          (t.cur 5).bufPois.getD 1 [] == List.replicate 16 true && t.evtBit (eNbu 5) 0)
      && run .uWr (uop 0x09 0 0 0 0 0 0 0 0 0) (fun t => (t.cur 5).rowops == 1 && (t.cur 5).buf.getD 0 [] == b)
      && run .uCopy (uop 0x0A 0 0 1 0 0 0 0 0 0) (fun t => (t.rowData 5 4).take 3 == [1, 2, 3] && (t.cur 5).rowops == 2)
      && run .uInit (uop 0x0B 0 0 0 0 0 0 0 0 0) (fun t => t.mem.hbm == [])
      && thenHas (exec (.uInit 5 env0) (atUop c (uop 0x0B 0 0 0 0 0 0 3 0 0))) (offSpec 130)
      && run .uRdl (uop 0x0C 0 0 0 0 0 0 0 0 0) (fun t => (t.cur 5).ps == 0x030201 && (t.cur 5).lastRdl == some (2, false))
      && thenHas (exec (.uRdl 5 env0) (atUop c (uop 0x0C 0 0 0 0 0 0 5 0 0))) (offSpec 132)
      && run .uVld (uop 0x26 0 0 0 0 0 0 3 0 0) (fun t => ((t.cur 5).v.drop 3072).take 3 == [1, 2, 3])
      && run .uAnd (uop 0x10 0 0 0 1 0 1 0 0 0) (fun t => (t.cur 5).buf.getD 1 [] == zeros 1024)
      && run .uOr (uop 0x11 0 0 0 1 0 1 0 0 0) (fun t => (t.cur 5).buf.getD 1 [] == b)
      && run .uXor (uop 0x12 0 0 0 1 0 2 0 0 0) (fun t => (t.cur 5).buf.getD 1 [] == zeros 1024)
      && run .uAndnot (uop 0x13 0 0 0 1 0 1 0 0 0) (fun t => (t.cur 5).buf.getD 1 [] == b)
      && run .uNot (uop 0x14 0 0 0 1 0 0 0 0 0) (fun t => ((t.cur 5).buf.getD 1 []).head? == some 0xFA)) = true := by decide +kernel

theorem test_ScanAndLaneMicroOps :
    let run := fun (c : Currant) (i : Nat → UEnv → Instr) (w : Nat) => thenHas (exec (i 5 env0) (rowed5 (atUop c w)))
    let v := { cur0 with v := (2 : Byte) :: zeros 4095, sf := (3 : W32) :: List.replicate 255 0 }
    (run { cur0 with limit := 5 } .uXpop (uop 0x18 0 0 0 0 0 0 0 0 0) (fun t => (t.cur 5).scanpos == 64 && (t.cur 5).heap.length ≤ 32)
      && run v .uMacv (uop 0x20 0 0 0 0 0 0 0 0 0) (fun t => (t.cur 5).pc == 4 && (t.cur 5).rowops == 1)
      && run v .uQk (uop 0x21 0 0 0 0 0 0 2 0 0) (fun t => (t.cur 5).pc == 4)
      && run v .uSmax (uop 0x22 0 0 0 0 0 0 0 256 256) (fun t => (t.cur 5).pc == 4)
      && thenHas (exec (.uSmax 5 env0) (atUop v (uop 0x22 0 0 0 0 0 0 0 255 2))) (offSpec 137)
      && run v .uAv (uop 0x23 0 0 0 0 0 0 2 0 0) (fun t => (t.cur 5).pc == 4)
      && run v .uOnorm (uop 0x24 0 0 0 0 0 0 2 0 0) (fun t => (t.cur 5).pc == 4)
      && run v .uAccw (uop 0x25 0 0 0 0 0 0 0 0 0) (fun t => (t.cur 5).pc == 4)
      && run { v with accPois := true, passcnt := 6 } .uEnd (uop 0x3F 0 0 0 0 0 0 0 0 0) (fun t => (t.cur 5).rs == .idle && t.sstate 5 15 == 4
          && t.slotGet 5 15 0x48 4 == 6 && t.slotGet 5 15 4 1 == statusCode .poison)) = true := by decide +kernel

theorem test_NearBankFilesKeepTheirSizes :
    (currantReset.buf.length == 4 && currantReset.buf.all (·.length == 1024) && currantReset.v.length == 4096 && currantReset.sf.length == 256
      && currantReset.of_.length == 256 && currantReset.sPois.length == 256
      && thenHas (exec (.uAclr 5 env0) (atUop cur0 (uop 0x27 0 0 0 0 0 0 0 0 0))) (fun t => (t.cur 5).sf.length == 256)) = true := by
  decide +kernel

theorem test_SequenceNumbersAdvance :
    let s := up.setWord eHst 0xFF000001
    ((s.event eHst 0).word eHst == 0x00000001 && (s.event eHst 23).word eHst == 0x00800001
      && hwmRaise 0xFF000005 6 == 0x00000006 && hwmRaise 0x01000005 5 == 0x01000005
      && hwmRaise 0x01000005 (2 ^ 30) == 0x02FFFFFF && sqClear 0x05000003 0x05000001 == some 0x05000002) = true := by decide +kernel

theorem test_EventRegistersClear :
    let s := (((((((up.setWord eTop 0x07000003).setWord (ePort 5) 0x07000003).setWord eFtl 0x07000003).setWord (eFce 31) 0x07000003).setWord
      (eCore 191) 0x07000003).setWord (eNbu 191) 0x07000003).setWord (portBase 5 + 0x9C) 0x07000003).setWord eMgt 0x07000003
    (([eTop, ePort 5, eFtl, eFce 31, eCore 191, eNbu 191, eMgt].all (fun a =>
        (s.regOf a).all (fun r => 0x07000001 &&& regMask r (fun c => c == .wb) == 0)
        && thenHas (exec (.sqClear .host a 0x07000001 0) s) (fun t => t.word a == 0x07000002)
        && thenHas (exec (.sqClear .host a 0x06000001 0) s) (fun t => t.word a == 0x07000003 && t.reg64 0x80 == 1)))
      && thenHas (exec (.sqClear .host (portBase 5 + 0x9C) 0x07000000 0) s) (fun t => t.word (portBase 5 + 0x9C) == 0x07000000)
      && thenHas (exec (.sqClear .host (portBase 5 + 0x9C) 0x08000000 0) s) (fun t => t.word (portBase 5 + 0x9C) == 0x07000003
          && t.reg64 0x80 == 1)) = true := by decide +kernel

theorem test_RegisterWrites :
    let a := exec (.multiwordStagedWrite .host 0x20010 0x1234 0) up
    (thenHas (exec (.registerWrite .host (coreBase 191 + 8) (24 * 4) 0) up) (fun t => t.word (coreBase 191 + 8) == 96)
      && thenHas a (fun t => t.fld fNrgLimitLimreg == 0xFFFF
          && thenHas (exec (.multiwordStagedWrite .host 0x20014 0 0) t) (fun u => u.fld fNrgLimitLimreg == 0x1234))
      && thenHas (exec (.aliasSetWrite .host 0x4038 1 0) up) (fun t => t.fld fTopCtlQuiesce == 1)
      && thenHas (exec (.aliasClearWrite .host 0x8038 1 0) (up.setFld fTopCtlQuiesce 1)) (fun t => t.fld fTopCtlQuiesce == 0)
      && thenHas (exec (.aliasToggleWrite .host 0xC038 1 0) (up.setFld fTopCtlQuiesce 1)) (fun t => t.fld fTopCtlQuiesce == 0)
      && ([.registerWrite .host 0x38, .sqClear .host eTop, .multiwordStagedWrite .host 0x20010, .aliasSetWrite .secure 0x4038,
          .aliasClearWrite .host 0x8038, .aliasToggleWrite .host 0xC038].all (fun (f : W32 → Nat → Instr) =>
            thenHas (exec (f 1 5) up) (fun t => t.fld fTopCtlQuiesce == 0 && t.stagedW == up.stagedW && lost up t)))
      && thenHas (exec (.aliasSetWrite .host 0x4038 1 4) up) (fun t => t.fld fTopCtlQuiesce == 1 && t.reg64 kChkParreplay == 4)) = true := by decide +kernel

theorem test_QuiesceScaleAndPortReset :
    (thenHas (exec (.scaleRegisterWrite 191 511 0x7E123 5) up) (fun t => t.word (coreBase 191 + 0x1000 + 4 * 511) == up.word (coreBase 191 + 0x1000 + 4 * 511) && lost up t)
      && thenHas (exec .quiesce up) (fun t => t.fld fTopCtlQuiesce == 1)
      && thenHas (exec .quiesced (up.setFld fTopCtlQuiesce 1)) (fun t => t.fld fTopStatusQuiesced == 1 && t.evtBit eTop 1)
      && thenHas (exec (.scaleRegisterWrite 191 511 0x7E123 0) up) (fun t => t.word (coreBase 191 + 0x1000 + 4 * 511) == 0x7E123)
      && thenHas (exec (.portReset 5) up) (fun t => t.fld (fFabPcfgReset 5) == 1 && t.fld (fFabPcfgLinkup 5) == 0)
      && thenHas (exec (.portResetDone 5) (up.setFld (fFabPcfgReset 5) 1)) (fun t => t.fld (fFabPcfgReset 5) == 0)) = true := by decide +kernel

/-- The creation fields of an index of tenant 5, for a variant without flash. -/
def shape0 : CreateFields := {
  tenant := 5, index := 1023, skw := 0, vfmt := 1, metric := 0, dim := 64, planes := 0, fpc := 8, ncoarse := 16, sidecap := 0, mergeth := 0,
  compth := 0, splitth := 0, jointh := 0, vscale := 0, dirn := 4, maxitems := 32, cfmt := 1, store := 1 }

/-- The descriptor of such an index. -/
def desc0 (st : IdxState) : Desc := {
  st := st, c := createFill shape0, coarse0 := 0, epoch := 1, coarseadr := tablesEnd, fineadr := tablesEnd + 0x1000, projadr := 0, scaleadr := 0, diradr := tablesEnd + 0x3000,
  live := 0, splan := 77, uplan := 78, sealValid := true, sealSeq := 9, sealDig := [], skipedge := 0, mdefer := 0, sdefer := 0, sidefull := 0,
  charged := true }

/-- A tenant that may do anything. -/
def rich : Tenant := { ten0 with limit := ⟨192, 256, 1024, 2 ^ 40, 2 ^ 40, 2 ^ 40, 2 ^ 40, 2 ^ 20, 2 ^ 20, 2 ^ 20, 4096, 4096⟩ }

/-- A node with that tenant and a SEARCH and an UPDATE plan of the shape. -/
def stocked (s : State) : State :=
  let p := fun k => ({ plan0 k with dim := 64, vfmt := 1, metric := 0, skw := 0 } : PlanHdr)
  { s with work := { s.work with tenants := [(5, rich)], plans := [(77, ⟨5, 77, p 1, [], [], false⟩), (78, ⟨5, 78, p 5, [], [], false⟩)] } }

/-- … with the index in a state. -/
def indexed (s : State) (d : Desc) : State := { s with idx := { s.idx with desc := [(1023, d)] } }

theorem test_IndexesComeAndGo :
    let s := stocked (hosted upM)
    let f := stocked (hosted up)
    (s.takes hdr0 && (s.tenant? 5).isSome && (s.desc? 1023).isNone && createOk shape0 && s.shapePlan 77 1 (createFill shape0)
      && s.shapePlan 78 5 (createFill shape0) && s.canCharge 5 (indexCharge (createFill shape0))
      && decide (recSpace (createFill shape0) ≤ 16 * shape0.dirn)
      && thenHas (exec (.indexCreate hdr0 { shape0 with store := 0 } 77 78) s) (said .notPresent)
      && thenHas (exec (.indexDelete hdr0 1023) (indexed s (desc0 .active))) (fun t => (t.desc? 1023).any (fun d => d.st == .deleting))
      && thenHas (exec (.deletionFinish 1023) (indexed s (desc0 .deleting))) (fun t => (t.desc? 1023).isNone)
      && thenHas (exec (.indexQuiesce hdr0 1023) (indexed s (desc0 .active))) (fun t => (t.desc? 1023).any (fun d => d.sealSeq == 10))
      && thenHas (exec (.indexAttach hdr0 1023 77 78) (indexed s { desc0 .detached with sealValid := false })) (said .checkFail)
      && f.hw.variant.flash
      && thenHas (exec (.setHot hdr0 3 true 6 2) { f with flash := { f.flash with nsLen := [(3, 8)] } }) (fun t => said .ok t
          && (t.mapEnt 3 7).hot && !(t.mapEnt 3 5).hot)
      && thenHas (exec (.groupIndex hdr0 1023 3) (((indexed s (desc0 .active)).setFld fCasCfgRole 2).setFld fCasCfgNmemb 2)) (fun t =>
          said .ok t && Tbl.get 0 t.idx.groupMask 1023 == 3)) = true := by decide +kernel

/-- Where the channels have rows of their own the index is built; where they have none it is not. -/
theorem test_IndexIsBuiltOrNot :
    let s := stocked (hosted upM)
    let r := stocked (hosted (upM.setFld fTopCapMemoryIrow0 100000))
    (((s.fetched hdr0).buildIndex (createFill shape0) 77 78).isNone && ((r.fetched hdr0).buildIndex (createFill shape0) 77 78).isSome
      && thenHas (exec (.indexCreate hdr0 shape0 77 78) s) (said .noResource) && r.takes hdr0
      && thenHas (exec (.indexCreate hdr0 shape0 77 78) r) (fun t => said .ok t && (t.desc? 1023).any (fun d => d.st == .building))) = true := by
  decide +kernel

/-- A gather table of tenant 5. -/
def table0 : TableDesc := ⟨5, 9, 1, 0, 1, 64, 1, 4, 0x100000, [], 0, 0⟩

theorem test_TablesAndPlansComeAndGo :
    let s := stocked (hosted (booted upM))
    let part := fun (last : Bool) => (⟨300, 5, 0, last⟩ : PackPart)
    (s.takes hdr0 && tableOk table0 && !s.areaMeets 0x100000 (roundUp (s.localRows table0 * 64) 4096) && s.canCharge 5 (tableCharge table0)
      && thenHas (exec (.createTable hdr0 table0) s) (fun t => said .ok t
          && (Tbl.find t.tables.descs 9).any (fun d => d.hotth == 65536 && d.hotwin == 10000))
      && thenHas (exec (.deleteTable hdr0 9) { s with tables := { s.tables with descs := [(9, table0)] } }) (fun t => said .ok t
          && (Tbl.find t.tables.descs 9).isNone)
      && (s.areaTake 4096).isSome
      && !s.loadNext hdr0 { part false with offset := 64 }
      && thenHas (exec (.loadPack hdr0 { part false with offset := 64 } ⟨[], true⟩) s) (said .badArg)
      && thenHas (exec (.loadPack hdr0 (part false) ⟨[1, 2, 3], true⟩) s) (fun t => said .ok t && t.work.load == some ⟨0, 0, 300, 5, [1, 2, 3], tablesEnd⟩)
      && thenHas (exec (.loadPack hdr0 (part true) ⟨[1, 2, 3], true⟩) s) (said .badPack)
      && thenHas (exec .packLoadTimeout { s with work := { s.work with load := some ⟨0, 0, 300, 5, [], tablesEnd⟩ } }) (fun t => t.work.load == none)
      && thenHas (exec (.unloadPlan hdr0 77) { s with work := { s.work with leases := [(1, lease0)] } }) (said .planBusy)
      && thenHas (exec (.unloadPlan hdr0 77) s) (fun t => said .ok t && (t.plan? 77).isNone && (t.plan? 78).isSome)) = true := by
  decide +kernel

/-- The last part of a SYSTEM pack of one plan passes every check; with memory full its plans find no place. -/
theorem test_LastPartLoadsPack :
    let s := stocked (hosted (booted upM))
    let full := { s with alloc := { s.alloc with areas := [⟨0, s.ilvSize⟩] } }
    s.packFault 300 0xFFFF 7920 (packOf ([] ++ maintBytes) true) = none ∧ (packOf ([] ++ maintBytes) true).plans.all planRanges = true
      ∧ (packOf ([] ++ maintBytes) true).zerosOk = true
      ∧ (s.loadEnd.placePlans 0xFFFF 300 300 (packOf ([] ++ maintBytes) true).plans).isSome = true
      ∧ (full.loadEnd.placePlans 0xFFFF 300 300 (packOf ([] ++ maintBytes) true).plans).isNone = true
      ∧ s.canCharge 0xFFFF (packCharge 1) = true := by
  rw [List.nil_append, lem_pack]
  intro s full
  refine ⟨?_, ?_, ?_, ?_, ?_, ?_⟩ <;> decide +kernel

theorem test_LeasesAndLogs :
    let s := stocked (hosted up)
    let l := { (s.setFld (fCoreStateLease 3) 1) with work := { s.work with leases := [(1, lease0)] }, mem := { s.mem with store := [(3 * 2 ^ 21, 7)] } }
    (s.takes hdr0 && l.takes hdr0
      && (match s.openLease 77 with | .ok (n, _) => n == 0 | _ => false)
      && thenHas (exec (.leaseOpen hdr0 77) s) (fun t => said .ok t && (t.lease? 0).any (fun x => x.plan == 77 && x.st == .waiting))
      && (match l.openLease 78 with | .error _ => false | .ok _ => true)
      && (match ({ s with work := { s.work with plans := [(77, ⟨5, 77, { plan0 1 with cores := 193 }, [], [], false⟩)] } } : State).openLease 77 with
          | .error e => e == .noResource | _ => false)
      && thenHas (exec (.leaseClose hdr0 1) l) (fun t => said .ok t && (t.lease? 1).isNone && t.fld (fCoreStateLease 3) == 0xFFFF && t.mem.store == [])
      && thenHas (exec (.planStats hdr0 1) l) (said .ok)
      && thenHas (exec (.stepLog hdr0) s) (said .ok)
      && thenHas (exec (.tierStats hdr0) s) (said .ok)
      && thenHas (exec (.energyStats hdr0) s) (said .ok)
      && thenHas (exec (.casLog hdr0) s) (said .ok)
      && thenHas (exec (.errLog hdr0) { s with chk := { s.chk with ring := [cper0] } }) (fun t => said .ok t && t.chk.hostMark == 1)) = true := by
  decide +kernel

/-- A connection record, and a connection, of tenant 5 with one posted buffer's room. -/
def conn0 : ConnRec := ⟨2, 3, 5, 0, 1, 99, 0, 1, 1, 4, 100, 200, false, 8, 0⟩
def region0 : RegionRec := ⟨0x00010007, 5, 15, 0, tablesEnd, 4096, 0, 0⟩
def demand0 : RegionRec := { region0 with rkind := 2, segshift := 21, length := 2 ^ 22 }

/-- A node with the connection and the region. -/
def wired (s : State) (r : RegionRec) : State :=
  { s with fab := { s.fab with conns := [(2, { connNew conn0 with cached := true })], regions := [(7, ⟨r, []⟩)] } }

theorem test_ConnectionsRegionsAndMaps :
    let s := stocked (hosted up)
    let w := wired s region0
    let e := fun (n : Nat) => ([⟨n, 0, 0, 0xFFFF, 0, 0⟩] : List RegionEnt)
    (s.takes hdr0 && s.connOk conn0 && s.regionOk region0 && !s.exportMeets region0 && w.takes hdr0 && (w.regionBy 0x10007).isSome
      && thenHas (exec (.connOpen hdr0 conn0) s) (fun t => said .ok t && (t.conn? 2).any (fun c => c.st == .open_ && c.next == 200))
      && thenHas (exec (.connClose hdr0 2) w) (fun t => said .ok t && (t.conn? 2).any (fun c => c.st == .draining && c.closing))
      && thenHas (exec (.postRecv hdr0 2 0x10007 0 4096) w) (fun t => said .ok t && (t.conn? 2).any (fun c => c.recv.length == 1))
      && thenHas (exec (.regRegion hdr0 region0) s) (fun t => said .ok t && t.regionBy 0x10007 == some ⟨region0, []⟩)
      && thenHas (exec (.deregRegion hdr0 0x10007) w) (fun t => said .ok t && t.regionBy 0x10007 == none)
      && segOk ⟨demand0, []⟩ 1 && !segOk ⟨demand0, []⟩ 2
      && thenHas (exec (.segPresent hdr0 0x10007 1) (wired s demand0)) (fun t => said .ok t && (t.regionBy 0x10007).any (fun r => r.present == [(1, true)]))
      && thenHas (exec (.segAbsent hdr0 0x10007 1) (wired s demand0)) (fun t => said .ok t)
      && (e 4095).all regionEntOk && distinctRegions (e 4095)
      && thenHas (exec (.routeMap hdr0 3 (e 4095)) s) (fun t => said .ok t && t.fld fCasEpochNew == 3)
      && thenHas (exec (.routeMap hdr0 3 (e 4095)) { s with cas := { s.cas with newMap := some ⟨2, []⟩, oldMap := some ⟨1, []⟩ } }) (fun t =>
          t.fld fCasEpochHeld == 1)) = true := by decide +kernel

/-- The node is master of a group of three, at position 0. -/
def master (s : State) : State :=
  let m : MState → Member := fun st => { st := st, suspect := false, arrived := none, lasts := [], expelled := false, admitAt := none }
  let t := ((s.setFld fCasCfgRole 2).setFld fCasCfgNmemb 3).setFld fCasCfgPos 0
  { t with cas := { t.cas with members := [(0, m .active), (1, m .active), (2, m .absent)] } }

theorem test_FunctionAndGroupResets :
    let s := wired (indexed (stocked (hosted up)) (desc0 .active)) region0
    (thenHas (exec .pf0Flr s) (fun t => t.work.tenants == [] && t.fab.conns == [] && t.evtBit eTop 0
        && t.idx.desc.all (fun e => e.2.st == .detached) && t.idx.desc.length == 1)
      && thenHas (exec (.vfFlr 4) { (s.setFld fHstCfgNumvf 4) with host := { s.host with binds := [(4, 5), (3, 5)] } }) (fun t =>
          t.boundTo 4 == none && t.boundTo 3 == some 5)
      && (master (hosted up)).takes hdr0 && (master (hosted up)).role == 2
      && thenHas (exec (.groupReset hdr0) (master (hosted up))) (fun t => t.cas.resetWait == some hdr0)
      && thenHas (exec (.groupReset hdr0) { master (hosted up) with cas := { State.reset.cas with members := [] } }) (fun t =>
          t.cas.resetWait == none && said .ok t)) = true := by decide +kernel

theorem lem_tableSeal (x : Idx) (d : Desc) (g : List Byte) (a : Nat) (h : maskBase ≤ a) :
    ({ x with desc := [(1023, { d with sealDig := g })] } : Idx).tableByte a = ({ x with desc := [(1023, d)] } : Idx).tableByte a := by
  have h1 : ¬ a < maskBase := Nat.not_lt.mpr h
  have h2 : ¬ a < descBase := Nat.not_lt.mpr (Nat.le_trans (by decide) h)
  unfold Idx.tableByte
  rw [if_neg h2, if_neg h2, if_neg h1, if_neg h1]
  refine ite_congr rfl (fun _ => rfl) (fun _ => ?_)
  refine ite_congr rfl (fun _ => rfl) (fun _ => ?_)
  refine ite_congr rfl (fun _ => rfl) (fun _ => ?_)
  by_cases hp : (decide (d.diradr ≤ a) && decide (a < d.diradr + 64 * d.c.dirn)) = true
  · simp only [List.find?, hp]
  · simp only [List.find?, hp]

theorem lem_readSeal (s : State) (d : Desc) (g : List Byte) (x n : Nat) (h : maskBase ≤ x) :
    (indexed s { d with sealDig := g }).ilvRead x n = (indexed s d).ilvRead x n := by
  unfold State.ilvRead
  refine List.map_congr_left (fun i _ => ?_)
  have e := lem_tableSeal s.idx d g (x + i) (Nat.le_trans h (Nat.le_add_right _ _))
  unfold State.ilvByte
  exact congrArg (fun o : Option Byte => o.getD (Tbl.get 0 s.mem.hbm (s.ilvKey (x + i)))) e

theorem lem_inputSeal (s : State) (d : Desc) (g : List Byte) (hc : maskBase ≤ d.coarseadr) (hf : maskBase ≤ d.fineadr) :
    (indexed s { d with sealDig := g }).sealInput { d with sealDig := g } = (indexed s d).sealInput d := by
  have hh : ∀ l, (indexed s { d with sealDig := g }).ilvRead (hdrBase + 64 * l) 64 = (indexed s d).ilvRead (hdrBase + 64 * l) 64 :=
    fun l => lem_readSeal s d g _ _ (Nat.le_trans (show maskBase ≤ hdrBase from Nat.le_add_right _ _) (Nat.le_add_right _ _))
  have ha : ∀ l, (indexed s { d with sealDig := g }).ilvRead (adjBase + 64 * l) 64 = (indexed s d).ilvRead (adjBase + 64 * l) 64 :=
    fun l => lem_readSeal s d g _ _
      (Nat.le_trans (Nat.le_trans (show maskBase ≤ hdrBase from Nat.le_add_right _ _) (show hdrBase ≤ adjBase from Nat.le_add_right _ _))
        (Nat.le_add_right _ _))
  unfold State.sealInput
  simp only [hh, ha, lem_readSeal s d g _ _ hc, lem_readSeal s d g _ _ hf]
  rfl

theorem test_SealFits :
    let s := stocked (hosted upM)
    ∃ d : Desc, d.st = .detached ∧ d.sealValid = true ∧ (indexed s d).sealOf d = d.sealDig
      ∧ (indexed s d).canCharge 5 ((indexed s d).indexTotal 1023 d) = true ∧ (indexed s d).shapePlan 77 1 d.c = true
      ∧ (indexed s d).shapePlan 78 5 d.c = true :=
  let s := stocked (hosted upM)
  ⟨{ desc0 .detached with sealDig := (indexed s (desc0 .detached)).sealOf (desc0 .detached) }, rfl, rfl,
    congrArg (shake256 32) (lem_inputSeal s (desc0 .detached) _ (by decide) (by decide)), by decide +kernel, by decide +kernel,
    by decide +kernel⟩

/-- A queue entry of tenant 5. -/
def hdr5 : HostHdr := { hdr0 with tenant := 5 }

/-- A live map. -/
def mapped (s : State) : State := { s with cas := { s.cas with newMap := some ⟨0, []⟩ } }

/-- The body of a SEARCH of the index (R83): k 1, nprobe 1, candidates 1, a query in the index's own format. -/
def body0 : List Byte :=
  leBytes 2 5 ++ leBytes 2 1023 ++ leBytes 2 1 ++ leBytes 2 1 ++ leBytes 2 1 ++ [0, 0, 1, 0, 0, 0] ++ zeros 24 ++ leBytes 4 32 ++ zeros 36

/-- The body of an INSERT, and of a DELETE, of the item 9 of tenant 5 (R363). -/
def put0 : List Byte := leBytes 2 5 ++ leBytes 2 1023 ++ [1, 0, 0, 0] ++ leBytes 8 (5 * 2 ^ 48 + 9) ++ zeros 8 ++ leBytes 4 32 ++ zeros 36
def del0 : List Byte := leBytes 2 5 ++ leBytes 2 1023 ++ zeros 4 ++ leBytes 8 (5 * 2 ^ 48 + 9) ++ zeros 16

/-- The body of a RUN of plan 79 (R364). -/
def run0 : List Byte := leBytes 2 5 ++ zeros 2 ++ leBytes 4 79 ++ leBytes 4 4 ++ zeros 8

/-- A CMD of the connection, ready. -/
def cmd0 (t opc : Nat) (bs : List Byte) : Msg := {
  port := 0, mtype := t, flags := 0, tenant := 5, epoch := 0, dconn := 2, sconn := 3, seq := 200, msgid := 1, offset := 0, totlen := bs.length,
  status := 0, opc := opc, tag := 6, key := 0, aux := 0, arg := 0, payload := bs }

/-- … on a node. -/
def readied (s : State) (m : Msg) : State := { s with fab := { s.fab with ready := [m] } }

/-- A node with the tenant, its plans, its index and a live map. -/
def served : State :=
  let s := mapped (indexed (stocked (hosted upM)) (desc0 .active))
  { s with work := { s.work with plans := s.work.plans ++ [(79, ⟨5, 79, { plan0 7 with inlen := 8 }, [], [], false⟩)] } }

theorem test_RequestsQueueOnLeases :
    let m := cmd0 mCmd 1 body0
    let w := readied (wired served region0) m
    (served.takesOp hdr5
      && (match served.searchChecks (zeros 80) 5 with | .error e => e == .keyFail | .ok _ => false)
      && thenHas (exec (.search (.queue hdr5) (zeros 80)) served) (said .keyFail)
      && (match served.searchChecks body0 5 with | .error _ => false | .ok d => d.splan == 77)
      && (match served.leaseFor 77 with | .ok e => e.1 == 0 | .error _ => false)
      && thenHas (exec (.search (.queue hdr5) body0) served) (fun t => t.work.reqs.length == 1 && (t.lease? 0).any (fun x => x.queue == [0]))
      && w.isReady m mCmd && !w.sysMsg m && m.payload ++ w.bulkOf m == body0
      && thenHas (exec (.search (.conn m) []) w) (fun t => t.work.reqs.length == 1 && t.fab.ready == [])
      && (match served.leaseFor 79 with | .ok _ => true | .error _ => false)
      && thenHas (exec (.run (.queue hdr5) run0 true []) served) (fun t => t.work.reqs.any (fun r => r.op == .run && r.plan == 79))) = true := by
  decide +kernel

/-- … with one active list that has room, and one whose only entry is the item. -/
def listed (n : Nat) : State :=
  let h : Hdr := { st := .active, home := 0, copy := false, gen := 1, mbase := 0, mcount := 0, mcap := 0, sbase := 100, scount := n, scap := 64, tombs := 0,
                   succ := 0, fepoch := 0, owner := 1023, mcopy := 0, scopy := 0 }
  let s := served.setFld fTopCapMemoryIrow0 100000
  { s with idx := { s.idx with hdr := [(0, h)], mask := [(0, 1)] } }

theorem test_UpdatesRun :
    let s := listed 0
    let t := s.entered hdr5 .insert (desc0 .active) put0 []
    (s.takesOp hdr5 && (match s.updateChecks .insert put0 6 with | .error e => e == .keyFail | .ok _ => false)
      && (match s.updateChecks .insert put0 5 with | .error _ => false | .ok d => d.st == .active)
      && (match t.runPut 1023 (desc0 .active) .insert put0 [] with
          | .done u st => st == .ok && u.host == t.host && (u.desc? 1023).any (fun d => d.live == 1) | _ => false)
      && (match s.lookup 1023 (desc0 .active) (uVid del0) with | .none_ => true | _ => false)
      && (match s.updateChecks .delete del0 5 with | .error _ => false | .ok d => d.st == .active)
      && thenHas (exec (.delete (.queue hdr5) del0) s) (said .notFound)) = true := by decide +kernel

/-- … with the item in the first side slot of its list. -/
def stored : State :=
  let s := listed 1
  { s with idx := { s.idx with dir := [(70300024700976, ⟨0, 220, .live⟩)] },
           mem := { s.mem with hbm := (List.range 16).map (fun i => (102400 + i, (0xFF : Byte))) ++ [(103424, 9), (103430, 5)] } }

theorem test_UpdatesFindTheItem :
    ((match stored.lookup 1023 (desc0 .active) (uVid put0) with | .found _ l _ => l == 0 | _ => false) && (stored.hdr? 0).isSome
      && thenHas (exec (.insert (.queue hdr5) ⟨put0, []⟩) stored) (said .idExists)
      && thenHas (exec (.delete (.queue hdr5) del0) stored) (fun t => said .ok t && (t.desc? 1023).any (fun d => d.live == 0))) = true := by decide +kernel

theorem test_AbortsCatchWaitingRequests :
    let q := exec (.search (.queue { hdr5 with cid := 9 }) body0) served
    let a := readied (wired served region0) (cmd0 mAbort 0 [])
    (thenHas q (fun t =>
        let s := { t with host := { t.host with sqs := [(0, { sq0 with tail := 2, head := 1 })] } }
        s.takesOp hdr5 && s.work.reqs.length == 1 && thenHas (exec (.abort (.queue hdr5 9)) s) (fun u => u.work.reqs == []))
      && thenHas (exec (.abort (.queue hdr5 9)) served) (fun u => u.out.any (fun o => match o with | .cqe _ _ _ _ e => e.result == padTo 16 [0x16] | _ => false))
      && thenHas (exec (.abort (.queue hdr5 9)) { served with host := { served.host with waits := [({ hdr0 with cid := 9, q := 3 }, .setPower 1)] } }) (fun u =>
          u.out.any (fun o => match o with | .cqe _ _ _ _ e => e.result == padTo 16 [0x03] | _ => false))
      && a.isReady (cmd0 mAbort 0 []) mAbort && (a.replayTag 2 6).isNone
      && thenHas (exec (.abort (.conn (cmd0 mAbort 0 []))) a) (fun u => u.fab.ready == [] && u.out == [])) = true := by decide +kernel

theorem test_DoorbellsLinkAndWindow :
    let v := { up with host := { up.host with sqs := [(4 * 64, sq0), (0, sq0)], cqs := [(0, { cq0 with count := 3, tail := 15, head := 12 })] } }
    let full := { cq0 with count := 16, tail := 15, head := 12, waiting := [⟨3, .ok, 0, 0, 0, []⟩] }
    let w := ((up.setFld fHstCfgHdmsize 1).setFld fHstLinkHdmcommit 1).setFld fHstLinkLinkup 1
    (thenHas (exec (.sqTailDoorbell 0 0 15) v) (fun t => (Tbl.find t.host.sqs 0).any (fun q => q.tail == 15))
      && thenHas (exec (.sqTailDoorbell 0 0 16) v) (fun t => offSpec 523 t && t.host == v.host)
      && thenHas (exec (.sqTailDoorbell 4 0 16) v) (fun t => t.evtBit eHst 1 && t.reg64 kHstQerrs == 1)
      && thenHas (exec (.sqTailDoorbell 4 1 16) v) (fun t => t == v)
      && thenHas (exec (.cqHeadDoorbell 0 0 15) v) (fun t => (Tbl.find t.host.cqs 0).any (fun c => c.count == 0 && c.head == 15))
      && thenHas (exec (.cqHeadDoorbell 0 0 13) { v with host := { v.host with cqs := [(0, full)] } }) (fun t => t.out.length == 1 && (Tbl.find t.host.cqs 0).any (fun c => c.tail == 0 && !c.phase))
      && thenHas (exec (.dmaTimeout hdr0) (hosted up)) (fun t => said .bounds t && t.evtBit eHst 2 && t.reg64 kHstDmaerrs == 1)
      && thenHas (exec (.cxlLinkTrain 4 2) up) (fun t => t.fld fHstLinkWidth == 4 && t.evtBit eHst 0 && t.host.pcieOnly)
      && thenHas (exec .hdmCommit (up.setFld fHstCfgHdmsize 1)) (fun t => t.fld fHstLinkHdmcommit == 1)
      && w.hdmReach (2 ^ 28 - 64) && decide (w.hdmBytes ≤ w.ilvSize)
      && thenHas (exec (.cxlMemWrite 0 ((List.range 64).map (fun k => if k = 63 then some 9 else none))) w) (fun t =>
          (t.ilvRead (t.hdmAt 0) 64).getLast? == some 9)
      && thenHas (exec (.cxlMemRead 0 .clean) w) (fun t => t.out == [.memData (zeros 64) false])
      && thenHas (exec (.cxlMemRead 0 .uncorrectable) w) (fun t => t.ilvPois (t.hdmAt 0) 64)) = true := by decide +kernel

/-- A step of the lease. -/
def step0 : Step := {
  seq := 1, epoch := 0, run := 1, reqs := [], status := .ok, ended := false, fails := [], prevFails := [], third := [], waitB := [], admitwait := 0,
  runsAdv := 0, advRun2 := 0, frz := 0, meas := none, staged := [], before := [], arms := [], errs := [], rdvDone := [], rdvFroze := [], wasHeld := false, rm2 := [], rmax := [], provSent := false, replayed := false, resident := false,
  group := false }

/-- The lease in that step. -/
def busy0 : Lease := { lease0 with step := some step0, hbmSpan := some ⟨tablesEnd, 8192⟩ }

/-- A node whose core 3 runs it, with lines of its store FILLED. -/
def stepping (s : State) (filled : List Nat) : State :=
  let t := (stocked s).setFld (fCoreStateLease 3) 1
  { t with work := { t.work with leases := [(1, busy0)] }, mem := { t.mem with storeFilled := filled.map (fun n => (3 * 2 ^ 15 + n, true)) } }

/-- Do `runsOn` and what it asks hold of core 3? -/
def runs3 (s : State) : Bool := s.serving && s.leaseOf 3 == some (1, busy0) && (s.core 3).waiting == []

def tile0 : TileDesc := {
  fmt := 3, cell := 0, acc := 0, drain := 0, k := 1, amask := 1, ofmt := 1, wbase := 0, wstride := 64, abase := [0, 0, 0, 0], astride := 64, pbase := 0,
  dbase := 65536, dstride := 65536, scbase := 0, chk := false, tag := 0 }

theorem test_TilesAccumulate :
    let s := stepping up [0, 1]
    (runs3 s && s.tileBad 3 { tile0 with k := 0 } == some 228 && s.tileBad 3 tile0 == none && !s.tileEmpty 3 tile0
      && s.tileBad 3 { tile0 with drain := 1 } == none && (stepping up [0]).tileEmpty 3 tile0
      && thenHas (exec (.tile 3 { tile0 with k := 0 } ⟨[], []⟩) s) (offSpec 228)
      && thenHas (exec (.tile 3 tile0 ⟨[], []⟩) (stepping up [0])) (fun t => (t.core 3).waiting.length == 1 && t.fld (fCoreStateFrozen 3) == 1 && (t.lease? 1).any (·.frozen))) = true := by
  decide +kernel

/-- A path on which nothing happens. -/
def path0 : PathEnv := ⟨true, true, 0, []⟩

/-- A transfer of one line between the store and the lease's area. -/
def xfer0 : Xfer := ⟨4, tablesEnd, 128, 64, 0⟩

theorem test_FillsAndSends :
    let s := stepping up [2]
    let f := { s with comp := { s.comp with cores := [(3, { s.core 3 with fills := [xfer0] })] }, mem := { s.mem with storeFilled := [] } }
    let g := { s with comp := { s.comp with cores := [(3, { s.core 3 with fills := [{ xfer0 with addr := 3 * 2 ^ 60 + 7 * 2 ^ 48 }] })] },
                      cas := { s.cas with newMap := some ⟨0, [⟨7, 1, 3, 5, 0, 4096⟩]⟩ } }
    (runs3 s && storeOk 128 64
      && thenHas (exec (.fill 3 { xfer0 with addr := 8 }) s) (offSpec 296)
      && thenHas (exec (.streamSend 3 ⟨{ xfer0 with addr := 8 }, path0, none⟩) s) (offSpec 296)
      && (match s.bound busy0 step0 tablesEnd 64 false with | .ok => true | _ => false)
      && thenHas (exec (.fill 3 xfer0) s) (fun t => (t.core 3).fills == [xfer0])
      && (f.fillOf 3 4).isSome && f.readStarted 3 4 && (f.source busy0 tablesEnd 64).isSome && f.sourceChecks busy0 xfer0 == []
      && thenHas (exec (.fillComplete 3 4 ⟨[], false, path0⟩) f) (fun t => t.storeFull 3 128 64 && (t.core 3).fills == [])
      && thenHas (exec (.fillComplete 3 4 ⟨[], true, path0⟩) f) (fun t => t.storePois 3 128 64)
      && (g.fillOf 3 4).isSome && (g.regionOf 0 (3 * 2 ^ 60 + 7 * 2 ^ 48)).any (fun e => e.1.kind == 1) && g.readStarted 3 4
      && g.sourceChecks busy0 { xfer0 with addr := 3 * 2 ^ 60 + 7 * 2 ^ 48 } == []
      && thenHas (exec (.poolReadTimeout 3 4) g) (fun t => t.storePois 3 128 64)
      && thenHas (exec (.streamSend 3 ⟨xfer0, path0, none⟩) (stepping up [])) (fun t => (t.core 3).waiting.length == 1)
      && (match s.bound busy0 step0 tablesEnd 64 true with | .ok => true | _ => false)
      && thenHas (exec (.streamSend 3 ⟨xfer0, path0, none⟩) { s with mem := { s.mem with store := [(3 * 2 ^ 21 + 128, 5)] } }) (fun t => (t.ilvRead tablesEnd 64).head? == some 5)
      && thenHas (exec (.release 3 (2 ^ 15 - 2) 2) s) (fun t => t.mem.storeFilled.length == 1)) = true := by decide +kernel

theorem test_ScalesSlotsAndBranches :
    let s := stepping up [0]
    (runs3 s
      && thenHas (exec (.scaleld 3 384 0) (s.setWord (scaleAddr 3 511) 0x7F27F000)) (fun t => t.word (scaleAddr 3 511) == 0x7F200000)
      && thenHas (exec (.rmslot 3 3 15) s) (fun t => (t.core 3).curSlot.getD 3 0 == 15)
      && thenHas (exec (.rmslot 3 3 16) s) (offSpec 278)
      && thenHas (exec (.rmslot 3 4 0) s) (offSpec 278)
      && thenHas (exec (.rmseed 3 3 64) s) (fun t => (t.core 3).fills == [])
      && thenHas (exec (.flagrd 3 384 0) s) (fun t => t.storeFull 3 0 64)
      && thenHas (exec (.wait 3 9) s) (fun t => t.reg64 (coreBase 3 + 0x20) == 9)
      && thenHas (exec (.branch 1 0 4) { s with mem := { s.mem with store := [(3 * 2 ^ 21 + 4, 1)] } }) (fun t =>
          ((t.lease? 1).bind (·.step)).any (fun p => p.arms == [true]))) = true := by decide +kernel

/-- A gather of the row that the first index of the store names. -/
def gs0 : GsCmd := ⟨0, 9, 1, 0, 64, 0, 0, 256, 5, 3⟩

theorem test_GathersAndScatters :
    let s0 := stepping up [0, 1]
    let s := { s0 with tables := { s0.tables with descs := [(9, table0)] }, mem := { s0.mem with store := [(3 * 2 ^ 21, 3)] },
                       work := { s0.work with plans := [(77, ⟨5, 77, { plan0 1 with tablesRd := [9], tablesWr := [9] }, [], [], false⟩)] } }
    let far := { s with mem := { s.mem with store := [(3 * 2 ^ 21, 4)] } }
    (runs3 s && !s.storePois 3 0 8 && !gsBad gs0 64 false && s.gsIndices 3 gs0 == [3] && (s.rowFor 3 step0 table0 [] 3).any (fun y => y.bytes.length == 64)
      && thenHas (exec (.gather 3 gs0 []) s) (fun t => t.storeFull 3 320 64 && t.storeRead 3 256 4 == leBytes 4 1)
      && far.gsIndices 3 gs0 == [4]
      && s.storeFull 3 64 64
      && thenHas (exec (.scatter 3 gs0 []) s) (fun t => ((t.lease? 1).bind (·.step)).any (fun p => p.staged.map (·.row) == [3]))) = true := by decide +kernel

/-- A selector of capacity 1 with one entry. -/
def sel0 : Topk := ⟨1, false, [⟨0x3F800000, 4, 4, 0, 0⟩], 0, 0, 0, []⟩

theorem test_SelectorsAndMergeUnits :
    let s := stepping up []
    let o := { s with comp := { s.comp with cores := [(3, { s.core 3 with sel := some sel0 })] } }
    let better : TkEntry := ⟨0x3F000000, 9, 9, 0, 0⟩
    (runs3 s && runs3 o
      && (sel0.offer better).held == [better] && (sel0.offer ⟨0x7FC00000, 1, 1, 0, 0⟩) == { sel0 with nans := 1 }
      && thenHas (exec (.tkopen 3 1024 true) s) (fun t => (t.core 3).sel == some ⟨1024, true, [], 0, 0, 0, []⟩)
      && thenHas (exec (.tkopen 3 1025 true) s) (offSpec 250)
      && thenHas (exec (.tkopen 3 0 true) s) (offSpec 250)
      && thenHas (exec (.tkoffer 3 better) o) (fun t => (t.core 3).sel == some (sel0.offer better))
      && thenHas (exec (.tkclose 3 3) o) (fun t => (t.core 3).sel == none && t.out == [] && (Tbl.find t.comp.brm 27).any (fun k => k.held == sel0.held))
      && unitPresent .f 6 && thenHas (exec (.brambleMerge 6 3 ⟨16384, true⟩ [better] ⟨sel0.trailer, false⟩) up) (fun t =>
          (Tbl.find t.comp.brm 27).isSome && t.out == [])
      && thenHas (exec (.brambleMerge 6 3 ⟨16384, true⟩ [better] ⟨sel0.trailer, true⟩) up) (fun t =>
          (Tbl.find t.comp.brm 27).isNone && t.out.length == 1)) = true := by
  decide +kernel

theorem test_CommandsToOtherUnits :
    let s := wired (stepping up []) region0
    let m := wired (stepping upM []) region0
    (runs3 s && s.sstate 5 15 == 0 && s.flag (fNbuCtlEnable 5)
      && thenHas (exec (.nbucmd 3 5 15 [7, 0]) s) (fun t => t.sstate 5 15 == 1 && t.slotGet 5 15 0 2 == 7 && t.slotGet 5 15 6 2 == 1)
      && thenHas (exec (.sloedesc 3 ⟨1, 0, 0, 1, 64, 1023, 0, 64, 0, 0, 0, 0, 0, 0, 0, 0, 0⟩) s) (fun t => t.flash.disp.map (·.lease) == [1])
      && thenHas (exec (.sloedesc 3 ⟨1, 0, 0, 1, 64, 1023, 0, 64, 0, 0, 0, 0, 0, 0, 0, 0, 0⟩) m) (fun t => t == { m with out := [.descDone 3 0 .notPresent] })
      && thenHas (exec (.fabsend 3 2 1 [1]) s) (fun t => (t.conn? 2).any (fun c => c.txSeq == 101 && c.sent.length == 1))) = true := by decide +kernel

/-- A node whose core 3 runs the step `p` of the lease. -/
def stepOf (p : Step) : State :=
  let s := stepping up []
  { s with work := { s.work with leases := [(1, { busy0 with step := some p, hbmSpan := none })] } }

/-- … that runs no step; the step `past` waits for its result to stand. -/
def idleWith (past : List Step) (queue : List Nat) : State :=
  let s := stepping up []
  { s with work := { s.work with leases := [(1, { lease0 with past := past, queue := queue })] } }

/-- A tile that failed, and a measurement. -/
def fail0 : TileFail := ⟨0, 3, 0, 1, 2, 3, false, [5], [false], [6]⟩
def meas0 : StepMeas := ⟨[], [], 0, 0, 0, 0⟩

theorem test_StepEndDecides :
    let q := fun (t : State) => (t.lease? 1).bind (·.step)
    let two := { step0 with run := 2, prevFails := [fail0], fails := [fail0] }
    let full := (List.range 192).foldl (fun (t : State) c => if c = 3 then t else t.setFld (fCoreStateQuar c) 1) (stepOf two)
    (up.role == 0 && up.serving && ((stepOf step0).core 3).waiting == [] && (stepOf step0).plan? 77 != none
      && thenHas (exec (.stepend 1 meas0) (stepOf step0)) (fun t => q t == none && t.work.stepLog.length == 1
          && t.reg64 kChkCommit == 1
          && (t.lease? 1).any (fun y => y.past.length == 1))
      && thenHas (exec (.stepend 1 meas0) (stepOf { step0 with fails := [fail0] })) (fun t => (q t).any (fun p => p.run == 2 && p.prevFails == [fail0]))
      && thenHas (exec (.stepend 1 meas0) (stepOf { step0 with run := 2, prevFails := [fail0] })) (fun t => q t == none)
      && thenHas (exec (.stepend 1 meas0) (stepOf two)) (fun t =>
          (q t).any (fun p => p.run == 3) && (t.lease? 1).any (fun y => y.cores == [0]))
      && (stepOf two).spareCore 0 3 == some 0 && full.spareCore 0 3 == none
      && thenHas (exec (.stepend 1 meas0) full) (fun t => (q t).any (fun p => p.run == 2 && p.waitB == [0]))
      && thenHas (exec (.stepend 1 meas0) (stepOf { step0 with status := .poison })) (fun t => q t == none && t.work.stepLog.length == 1)) = true := by
  decide +kernel

theorem test_StepsEndAndLeasesClose :
    let w := stepOf { step0 with waitB := [0], meas := some ⟨40, 40, [], 0, 0, 0, [], []⟩ }
    let z : Lease := { busy0 with step := some { step0 with rdvFroze := [6] }, hbmSpan := none, frozen := true }
    let d := { (stepOf step0) with work := { (stepOf step0).work with plans := [(77, ⟨5, 77, { plan0 1 with timeout := 9 }, [], [], false⟩)], leases := [(1, z)] } }
    (up.work.reqs == [] && w.serving
      && thenHas (exec (.chkwaitExpiry 1) w) (fun t => t.fld (fCoreStateSuspect 3) == 1)
      && thenHas (exec (.chkwaitExpiry 1) (stepOf step0)) (fun t => t == stepOf step0)
      && d.timedRdv z { step0 with rdvFroze := [6] } 6
      && thenHas (exec (.rendezvousTimeout 1 6 meas0) d) (fun t => t.work.stepLog.map (fun r => r.tordv) == [6])
      && (busy0.past == [] && !holdTaken busy0 && (stepOf step0).serving
      && thenHas (exec (.stepHang 1 meas0) (stepOf step0)) (fun t => (t.lease? 1).isNone)
     )
      && thenHas (exec (.resultStands 1) (idleWith [{ step0 with ended := true }] [])) (fun t => (t.lease? 1).any (fun y => y.past == []))
      && (idleWith [] []).serving
      && thenHas (exec (.batchwaitExpiry 1) (idleWith [] [4])) (fun t => (t.lease? 1).any (fun y => y.batchOk))) = true := by decide +kernel

/-- The lease as it waits for its resources. -/
def waiting0 : State := { (stocked up) with work := { (stocked up).work with leases := [(1, { lease0 with st := .waiting, cores := [] })] } }

/-- A request of the lease's plan. -/
def req0 : Req := ⟨4, .queue hdr5, .run, 5, 0, 77, 0, [], .queued, 1, none, [], 0, false, [], false, none⟩

theorem test_LeasesAreAdmittedAndStepsStart :
    let b := { (idleWith [] [4]) with work := { (idleWith [] [4]).work with reqs := [req0] } }
    (waiting0.serving && waiting0.waitOrder.map (·.1) == [1] && (waiting0.tryAdmit 1).isSome
      && thenHas (exec .leaseAdmit waiting0) (fun t => (t.lease? 1).any (fun y => y.st == .open_ && y.cores == [0]) && t.fld (fCoreStateLease 0) == 1)
      && thenHas (exec (.leaseWaitLimit 1) waiting0) (fun t => (t.lease? 1).any (fun y => y.overdue))
      && b.serving && (b.plan? 77).isSome && b.batch lease0 1 == [] && b.batch { lease0 with queue := [4] } 1 == [4]
      && batchReady { lease0 with queue := [4] } (plan0 1) [4] && b.cas.provs == [] && b.role == 0
      && !b.flag (fCoreStateQuar 3) && !b.flag (fCoreStateSuspect 3)
      && b.admits ((b.plan? 77).elim 0 Plan.admitFigure) && !b.stepBefore { lease0 with queue := [4] }
      && thenHas (exec (.stepStart 1 []) b) (fun t => (t.lease? 1).any (fun y => y.queue == [] && y.step.any (fun p => p.reqs == [4])))) = true := by
  decide +kernel

theorem test_LeasesDeferTheirSteps :
    let b0 := { (idleWith [] [4]) with work := { (idleWith [] [4]).work with reqs := [req0] } }
    let b := { b0 with work := { b0.work with plans := [(77, ⟨5, 77, { plan0 1 with epeak := 2 ^ 40, estep := 2 ^ 40 }, [], [], false⟩)] } }
    ((!b.admits ((b.plan? 77).elim 0 Plan.admitFigure)) && !b.stepBefore { lease0 with queue := [4] }
      && thenHas (exec (.stepStart 1 []) b) (fun t => t.reg64 kNrgAdmitdefer == 1)) = true := by decide +kernel

/-- Two lists of the index with MCOUNT, SCOUNT and TOMBS as given, under the thresholds MERGETH, SPLITTH and JOINTH; a maintenance lease is open. -/
def merging (mc sc tb th sp jo : Nat) : State :=
  let d : Desc := { desc0 .active with c := { createFill shape0 with mergeth := th, compth := 1, splitth := sp, jointh := jo } }
  let h : Hdr := { st := .active, home := 0, copy := false, gen := 1, mbase := 50, mcount := mc, mcap := 64, sbase := 100, scount := sc, scap := 64, tombs := tb,
                   succ := 0, fepoch := 0, owner := 1023, mcopy := 0, scopy := 0 }
  let s := indexed (stocked (up.setFld fTopCapMemoryIrow0 20000)) d
  { s with idx := { s.idx with hdr := [(0, h), (1, { h with mbase := 200, sbase := 300 })], mask := [(0, 3)] },
           work := { s.work with leases := [(9, { lease0 with maint := true, cores := [] })] } }

/-- … where memory has no row left. -/
def crowded (s : State) : State := { s with alloc := { s.alloc with rows := [(0, [⟨0, rowsPerChannel⟩])] } }

/-- `maintains`, for list 0. -/
def maintains0 (s : State) : Bool :=
  (s.maintOf 0).isSome && s.serving && s.fld fNrgStatePstate == 0 && s.maintReady && s.idx.deferred == [] && s.work.reqs == []

theorem test_MaintenanceKeepsEntries :
    let s := merging 2 1 1 1 1 9
    let h := ((s.hdr? 0).getD ⟨.free, 0, false, 0, 0, 0, 0, 0, 0, 0, 0, 0, 0, 0, 0, 0⟩)
    let d := ((s.desc? 1023).getD (desc0 .active))
    (maintains0 s && d.c.mergeth == 1 && h.mcount != 0 && decide (d.c.compth * h.mcount ≤ h.tombs * 256)
      && (s.rebuild d.c h h.home (roundUp (s.liveSlots d.c h).length 64)).isSome
      && ((crowded s).rebuild d.c h h.home (roundUp (s.liveSlots d.c h).length 64)).isNone
      && thenHas (exec (.merge 0) (crowded s)) (fun t => (t.desc? 1023).any (fun e => e.mdefer == 1) && t.hdr? 0 == some h)
      && thenHas (exec (.merge 0) s) (fun t => (t.hdr? 0).any (fun k => k.gen == 2 && k.mcount == 3 && k.scount == 0 && k.home == 0))
      && thenHas (exec (.merge 0) (merging 1 1 0 2 1 9)) (fun t => t == merging 1 1 0 2 1 9)) = true := by
  decide +kernel

theorem test_SplitsAndListMerges :
    let s := merging 1 1 0 1 1 0
    let j := merging 1 1 0 1 2 9
    let h := ((s.hdr? 0).getD ⟨.free, 0, false, 0, 0, 0, 0, 0, 0, 0, 0, 0, 0, 0, 0, 0⟩)
    let d := ((s.desc? 1023).getD (desc0 .active))
    let e := ((j.desc? 1023).getD (desc0 .active))
    let none_ := { s with idx := { s.idx with hdr := (List.range 64).map (fun k => (k, h)) } }
    let z := s.splitSides 0 h d ⟨[], []⟩ []
    (maintains0 s && maintains0 j && maintains0 none_
      && thenHas (exec (.split 0 ⟨[], []⟩ []) j) (fun t => t == j)
      && decide (d.c.splitth < h.livec) && d.c.jointh == 0 && none_.freeList 0 == none
      && thenHas (exec (.split 0 ⟨[], []⟩ []) none_) (fun t => (t.desc? 1023).any (fun d => d.sdefer == 1))
      && s.freeList 0 == some 2
      && (z.1.rebuild d.c h h.home (roundUp z.2.1.length 64)).any (fun a =>
          (a.2.rebuild d.c (s.freshHdr 2 h) h.home (roundUp z.2.2.length 64)).isSome)
      && thenHas (exec (.split 0 ⟨[], []⟩ []) s) (fun t =>
          (t.hdr? 0).any (fun a => (t.hdr? 2).any (fun b => a.st == .active && b.st == .active && a.mcount + b.mcount == 2)))
      && (j.maintOf 1).isSome && decide (h.livec < e.c.jointh)
      && (j.rebuild e.c { h with mbase := 200, sbase := 300 } 0 (roundUp ((j.liveSlots e.c { h with mbase := 200, sbase := 300 }).length + (j.liveSlots e.c h).length) 64)).isSome
      && ((crowded j).rebuild e.c { h with mbase := 200, sbase := 300 } 0 (roundUp ((j.liveSlots e.c { h with mbase := 200, sbase := 300 }).length + (j.liveSlots e.c h).length) 64)).isNone
      && thenHas (exec (.listMerge 0 1) j) (fun t => (t.hdr? 0).any (fun k => k.st == .forward && k.succ == 1)
          && (t.hdr? 1).any (fun k => k.mcount == 4))
      && thenHas (exec (.listMerge 0 1) (crowded j)) (fun t => t == crowded j)) = true := by
  decide +kernel

theorem test_PassesAndRetiredExtents :
    let s0 := merging 1 1 0 1 1 9
    let h : Hdr := ((s0.hdr? 0).getD ⟨.free, 0, false, 0, 0, 0, 0, 0, 0, 0, 0, 0, 0, 0, 0, 0⟩)
    let s := { s0 with idx := { s0.idx with hdr := [(0, h), (1, { h with st := .dead }), (2, { h with st := .forward, fepoch := 0 })] },
                       alloc := { s0.alloc with retired := [⟨0, 1, 0, [], [], 1023, []⟩] } }
    let q : Req := { req0 with op := .search, gens := [(0, 1)] }
    let u := { s with work := { s.work with reqs := [{ req0 with op := .insert, index := 1023, st := .sideWait }] } }
    (s.serving && (s.desc? 1023).any (fun d => d.st == .active) && !s.descBad 1023 && s.maintReady && s.idx.deferred == [] && s.work.reqs == []
      && thenHas (exec (.reclusterPassEnd 1023) s) (fun t => (t.hdr? 1).any (fun g => g.st == .free) && (t.hdr? 2).any (fun g => g.st == .free)
          && t.hdr? 0 == some h && (t.desc? 1023).any (fun e => e.epoch == 2))
      && ({ s with work := { s.work with reqs := [q] } } : State).genInUse 0 1 && !s.genInUse 0 1
      && thenHas (exec (.extentFree 0 1) s) (fun t => t.alloc.retired == [])
      && u.work.reqs.length == 1 && u.serving
      && thenHas (exec (.sideFullTimeout 4) u) (fun t => t.work.reqs == [] && (t.desc? 1023).any (fun e => e.sidefull == 1))) = true := by decide +kernel

/-- A node with one die in the flash channels 0 and 1: 100 stripes of 8 pages, 4 of them SLC. -/
def flashy : State :=
  let s := diced up
  { s with flash := { s.flash with geom := some { geom0 with blocks := 101, pages := 8 }, sparesFmt := 1 } }

/-- A descriptor of the record 0 of the namespace 1023. -/
def sd0 (op : Nat) : SloeDesc := ⟨op, 3, 1, 1, 32, 1023, 0, 64, 0, 0, 5, 0x7F800000, 0, 1, 0, 4, 0⟩

/-- … waits in the dispatcher; the dies do what `dies` says. -/
def asked (op : Nat) (dies : Tbl Die) : State := { flashy with flash := { flashy.flash with disp := [sd0 op], dies := dies } }

/-- The unit 0 of the namespace, dirty, and mapped to a page. -/
def unit0 : WUnit := ⟨0, 1023, 0, 0, none, false, [(0, true)], [], ⟨[(1, 9)], []⟩⟩
def dirty (s : State) : State := { s with flash := { s.flash with wbuf := [unit0] } }
def flat (s : State) : State :=
  { s with flash := { s.flash with map := [(mapKey 1023 0, { mapNone with page := pageNo 0 0 7 1, mapped := true })],
                                   pages := [(pageNo 0 0 7 1, ⟨1023, 0, 0, false, false, false, ⟨[], []⟩⟩)] } }

/-- A record of zeros with its CHECK. -/
def rec0 : List Byte := zeros 20 ++ leBytes 4 (checkValue (zeros 64) 0) ++ zeros 40

/-- The read of the record's page is under way, its FETCH aborted or not. -/
def fetching (dead : Bool) : State :=
  let s := flat (asked 2 [(dieKey 0 0, ⟨.read (sd0 2) (pageNo 0 0 7 1), true, []⟩)])
  { s with flash := { s.flash with fetches := [⟨sd0 2, 0, zeros 32, rec0, false, true, false, dead, [⟨pageNo 0 0 7 1, [0], 64, .reading⟩]⟩] } }

theorem test_DescriptorsReadRecords :
    (flashy.sloesRun && (asked 1 []).waitDisp == [sd0 1] && decide (sloeElems (sd0 1) ≤ 8192)
      && ((List.range (sloeElems (sd0 1))).mapM (fun i => flashy.hbmKey ((sd0 1).addr + i))).isSome
      && thenHas (exec (.loadq (sd0 1)) (asked 1 [])) (fun t => t.flash.disp == [] && (Tbl.find t.flash.qslots 3).isSome)
      && (asked 2 []).waitDisp == [sd0 2] && !(asked 2 []).mapBad 1023 0 64
      && (dirty (asked 2 [])).recParts 1023 0 64 == some [] && (asked 2 []).recParts 1023 0 64 == none
      && (flat (asked 2 [])).recParts 1023 0 64 == some [⟨pageNo 0 0 7 1, [0], 64, .waiting⟩]
      && thenHas (exec (.fetch (sd0 2)) (dirty (asked 2 []))) (fun t => t.flash.disp == [] && t.out.length == 1)
      && thenHas (exec (.fetch (sd0 2)) (asked 2 [])) (fun t => t.flash.disp == [] && t.out.length == 1)
      && thenHas (exec (.fetch (sd0 2)) (flat (asked 2 []))) (fun t => t.flash.disp == [sd0 2] && t.flash.fetches.length == 1
          && t.out == [.nand 0 0 [0x00, 0x30]])
      && thenHas (exec (.fetch (sd0 2)) (flat (asked 2 [(dieKey 0 0, ⟨.erase 3, false, []⟩)]))) (fun t => t.flash.fetches.length == 1 && t.out == [])
      && thenHas (exec (.flashStatusPoll 0 0 true [2]) (asked 2 [(dieKey 0 0, ⟨.erase 3, false, []⟩)])) (fun t =>
          (Tbl.find t.flash.dies 0).any (fun x => x.ready && x.fails == [2]))
      && recordOk rec0 0 && (fetching false).sloeAt 1023 0 == 0
      && thenHas (exec (.nandReadComplete 0 0 ⟨false, []⟩) (fetching false)) (fun t => t.flash.dies == [] && t.flash.disp == [] && t.out.length == 2)
      && thenHas (exec (.nandReadComplete 0 0 ⟨false, []⟩) (fetching true)) (fun t => t.flash.fetches == [] && t.out == [])
      && (asked 3 []).waitDisp == [sd0 3] && ((flat (asked 3 [])).scanPages (sd0 3)).length == 1
      && ((flat (asked 3 [])).hbmKey ((sd0 3).addr + ((sd0 3).aux - 1) / 8)).isSome
      && thenHas (exec (.scan (sd0 3) []) (flat (asked 3 []))) (fun t => t.flash.disp == [])) = true := by decide +kernel

theorem test_UnitsAreProgrammed :
    let d := dirty flashy
    let p := pageNo 0 0 1 0
    let prog := fun (fails : List Nat) => ({ d with flash := { d.flash with
      dies := [(dieKey 0 0, ⟨.prog p 1023 0 (List.range 16), true, fails⟩)], wbuf := [{ unit0 with prog := some p }],
      pages := [(p, ⟨1023, 0, 0, true, false, false, unit0.dat⟩)] } } : State)
    let w := { flashy with work := { flashy.work with reqs := [{ req0 with op := .insert, st := .admitWait }] } }
    (flashy.hw.variant.flash && flashy.pwr.phase == .running && flashy.buffered 1023 0 == none && d.buffered 1023 0 == some unit0 && d.progMay
      && d.stagedUnits 0 == 1 && d.stripePages 0 true == 2 && d.slcFree 0 == 6 && (d.takePage 0 true).any (fun e => e.1 == p)
      && thenHas (exec (.wbageExpiry 1023 0) d) (fun t => t.flash.wseq == d.flash.wseq + 1 && (Tbl.find t.flash.pages p).any (fun g => g.slc))
      && (prog []).comp.cores == [] && (prog []).work.reqs == [] && !((prog []).mapEnt 1023 0).hot && (prog []).jUp 0 && (prog []).jUp 1
      && thenHas (exec (.nandProgramComplete 0 0) (prog [])) (fun t => (t.mapEnt 1023 0).page == p && t.flash.wbuf == []
          && t.flash.journal.1.length == 1 && t.flash.journal.1 == t.flash.journal.2)
      && thenHas (exec (.nandProgramComplete 0 0) (prog [0])) (fun t => t.flash.map == [] && t.flash.wbuf.length == 1 && t.evtBit (eFce 0) 3
          && Tbl.has t.flash.urgent (stripeKey 0 1))
      && (w.req? 4).isSome
      && thenHas (exec (.writeAdmitTimeout 4) w) (fun t => t.work.reqs == [] && t.reg64 kFtlRetrylater == 1)) = true := by decide +kernel

/-- Stripe 1 of the SLC region and stripe 5 are closed. -/
def filled : State :=
  let s := (((flashy.setFld fFtlCfgFoldhi 5).setFld fFtlCfgFoldlo 2).setFld fFtlCfgGclo 200).setFld fFtlCfgGchi 250
  { s with flash := { s.flash with stripes := [(1, ⟨.closed, true, 2, 0⟩), (5, ⟨.closed, false, 8, 0⟩)] } }

/-- … where only stripe 5 is closed. -/
def closed5 : State := { filled with flash := { filled.flash with stripes := [(5, ⟨.closed, false, 8, 0⟩)] } }

/-- A node of 25 stripes, of which stripe 5 is closed and holds the unit 7 of the namespace 1 and the stripes 6 to 14 are victims. -/
def heldUnit : State :=
  let s := (flashy.setFld fFtlCfgGclo 15).setFld fFtlCfgGchi 16
  { s with flash := { s.flash with
      geom := some { geom0 with blocks := 26, pages := 8 }
      stripes := (5, ⟨.closed, false, 8, 0⟩) :: (List.range 9).map (fun i => (i + 6, ⟨.victim, false, 8, 0⟩))
      map := [(mapKey 1 7, { mapNone with page := pageNo 0 0 5 1, mapped := true })]
      pages := [(pageNo 0 0 5 1, ⟨1, 7, 0, false, false, false, ⟨[(5, 1)], []⟩⟩)] } }

theorem test_StripesAreCollected :
    let g := { filled with flash := { filled.flash with gc := [(0, ⟨5, true, false⟩)] } }
    let e := fun (n : Nat) => { g with flash := { g.flash with dies := [(dieKey 0 0, ⟨.erase 5, true, []⟩)], sparesFmt := n } }
    let on := fun (s : State) => ({ s with flash := { s.flash with gcOn := Tbl.set s.flash.gcOn 0 true } } : State)
    (filled.gcMay 0 && filled.slcOver 0 (filled.fld fFtlCfgFoldhi) && !filled.slcUnder 0 (filled.fld fFtlCfgFoldlo)
      && leastBy (fun k => [filled.stripeWseq 0 k, k]) (filled.closed 0 true) == some 1 && filled.validUnits 0 1 == []
      && thenHas (exec (.foldStart 0 ⟨[], []⟩) filled) (fun t => (Tbl.find t.flash.gc 0).any (fun g => g.victim == 1) && t.flash.journal.1.length == 1)
      && !flashy.slcOver 0 (flashy.fld fFtlCfgFoldhi) && !Tbl.get false flashy.flash.foldOn 0
      && decide (closed5.freeQlc 0 < closed5.fld fFtlCfgGclo) && decide (closed5.freeQlc 0 < closed5.fld fFtlCfgGchi)
      && State.gcVictim (on closed5) 0 == some 5 && closed5.validUnits 0 5 == []
      && thenHas (exec (.gcStart 0 ⟨[], []⟩) closed5) (fun t => (Tbl.find t.flash.gc 0).any (fun g => g.victim == 5))
      && g.dies 0 == [0] && g.readsDone 0 5 && Tbl.get [] g.flash.urgent (stripeKey 0 5) == []
      && thenHas (exec (.victimErase 0) g) (fun t => t.flash.dies == [(0, ⟨.erase 5, false, []⟩)]
          && t.out == [.nand 0 0 [0x60, 0xD1, 0x60, 0xD1, 0x60, 0xD1, 0x60, 0xD0]])
      && (e 1).comp.cores == [] && (e 1).flash.wbuf == [] && (e 1).flash.fetches == [] && (e 1).planes 0 == [0, 1, 2, 3]
      && ((e 1).markBadBlock 0 5 0).nextSpare 0 0 == some 100 && ((e 0).markBadBlock 0 5 0).nextSpare 0 0 == none
      && thenHas (exec (.nandEraseComplete 0 5 []) (e 1)) (fun t => (t.stripe 0 5).st == .free && (t.stripe 0 5).erases == 1)
      && thenHas (exec (.nandEraseComplete 0 5 [0]) (e 1)) (fun t => (t.stripe 0 5).st == .free && t.blockUsed 0 0 5 == 100 && t.spareLeft 0 0 == 0)
      && thenHas (exec (.nandEraseComplete 0 5 [0]) (e 0)) (fun t => (t.stripe 0 5).st == .retired)) = true := by decide +kernel

theorem test_ValidUnitsAreMoved :
    let on := fun (s : State) => ({ s with flash := { s.flash with gcOn := Tbl.set s.flash.gcOn 0 true } } : State)
    (heldUnit.gcMay 0 && decide (heldUnit.freeQlc 0 < 15) && heldUnit.validUnits 0 5 == [mapKey 1 7] && State.gcVictim (on heldUnit) 0 == some 5 && (heldUnit.page (pageNo 0 0 5 1)).isSome
      && decide (heldUnit.chUnits 0 ≤ heldUnit.exported 0) && (heldUnit.takePage 0 false).any (fun e => e.1 == pageNo 0 0 1 0)
      && thenHas (exec (.gcStart 0 ⟨[], []⟩) heldUnit) (fun t => (t.mapEnt 1 7).page == pageNo 0 0 1 0
          && (Tbl.find t.flash.pages (pageNo 0 0 1 0)).any (fun g => g.moved && Tbl.get 0 g.dat.bytes 5 == 1) && (t.stripe 0 5).st == .victim)
      && thenHas (exec (.gcStart 0 ⟨[⟨pageNo 0 0 5 1, [3], none⟩], []⟩) heldUnit) (fun t => t.evtBit (eFce 0) 1 && (t.stripe 0 5).st == .victim)) = true := by
  decide +kernel

theorem test_CheckpointScrubAndHotWindow :
    let c := { (flat flashy) with flash := { (flat flashy).flash with sinceCkpt := 2 ^ 20 } }
    let s := { up with tables := { up.tables with descs := [(9, { table0 with tflags := 2, hotth := 4 })], hot := [⟨9, 1, 5, 1⟩, ⟨8, 1, 5, 1⟩] } }
    (thenHas (exec .checkpoint c) (fun t => t.flash.ckpts.map (fun e => e.2.map) == [c.flash.map] && t.flash.sinceCkpt == 0
        && t.flash.journal.1.length == 1 && t.flash.supers.length == 2)
      && thenHas (exec .zqCalibration flashy) (fun t => t.out == [.nand 1 0 [0xD9], .nand 0 0 [0xD9]])
      && up.nch == 192 && up.alloc.ceRows == [] && up.alloc.gone == [] && decide (1 < (up.setFld fChkCtlCerow 2).fld fChkCtlCerow)
      && up.wbLine 191 2441405 3 == none
      && thenHas (exec (.scrubPass [⟨191, 2441405, none⟩]) (up.setFld fChkCtlCerow 2)) (fun t => t.reg64 kChkScrubce == 1)
      && thenHas (exec (.hotwinBoundary 9) s) (fun t => t.tables.decisions == [(9, 1, true)] && t.tables.hot.map (fun e => e.count) == [0, 5])) = true := by
  decide +kernel

/-- A connection of tenant 5, on chip, and one of the group. -/
def live0 : Conn := { connNew conn0 with cached := true }
def sys0 : Conn := { live0 with rec_ := { conn0 with ckind := 1 } }

/-- A node with the connection, whose port is up, and messages that stand ready. -/
def talking (c : Conn) (ms : List Msg) : State :=
  { (mapped (stocked up)) with fab := { up.fab with ports := [(0, { portReset with up := true })], conns := [(2, c)], regions := [(7, ⟨region0, []⟩)],
                                                    ready := ms } }

/-- … with another state of port 0. -/
def ported (p : Port) : State := { (talking live0 []) with fab := { (talking live0 []).fab with ports := [(0, p)] } }

/-- A frame that waits to leave in class 1, and one that arrives with a PING's reply. -/
def egr0 : Egress := ⟨1, 0xFFFF, 0, 126, 0, cmd0 mPong 0 [], 0, 9⟩
def frame0 (m : Msg) : Frame := ⟨200, 0, true, true, true, true, 1, false, 3, m⟩

theorem test_PortsReceiveAndSend :
    let s := (talking sys0 []).setFld (fFabPfcPfcmask 0) 8
    let m := { cmd0 mCmd 1 [] with flags := 1 }
    let p := { portReset with up := true, txPause := [(1, true)], occ := [(1, 2 ^ 30)], paused := [(1, 9)] }
    let e := (ported { portReset with up := true, egress := [egr0] }).setReg64 (portBase 0 + 0x48) (144 * 2 ^ 36)
    let g := ((ported { portReset with up := true, armed := true }).setFld (fFabGclctlEnable 0) 1).setFld (fFabGclctlAlign 0) 1
    let h := ((ported { portReset with up := true, armed := true, sending := true }).setFld (fFabGclctlEnable 0) 1).setFld (fFabGclctlAlign 0) 1
    (s.serving && (s.port 0).up && bitOf (s.fld (fFabPfcPfcmask 0)) 3 && packetOk m && (s.mapOf 0).isSome && s.ctxOf m == none && sys0.next == m.seq
      && thenHas (exec (.frameReceive 0 { frame0 m with fcsOk := false }) s) (fun t => t.reg64 (kFabFcserr 0) == 1)
      && thenHas (exec (.frameReceive 0 (frame0 m)) s) (fun t => t.fab.ready == [m] && (t.conn? 2).any (fun d => d.next == 201))
      && thenHas (exec (.pfcFrame 0 2 100) s) (fun t => (Tbl.find (t.port 0).paused 1) == some 1)
      && thenHas (exec (.pfcFrame 0 2 0) (ported p)) (fun t => (Tbl.find (t.port 0).paused 1) == none)
      && thenHas (exec (.pfcRefresh 0 1) (ported p)) (fun t => t.out == [.pfc 0 1 0xFFFF])
      && thenHas (exec (.pfcRefresh 0 2) (ported p)) (fun t => t == ported p)
      && (ported p).pausedAt ((ported p).port 0) 1 && !(ported p).pausedAt ((ported p).port 0) 2
      && thenHas (exec (.pfcwdExpiry 0 1) (ported p)) (fun t => t.evtBit (ePort 0) 3)
      && (e.pick 0 { e.port 0 with sending := false }).any (fun r => r.1 == 1 && r.2.2.1 == egr0)
      && thenHas (exec (.egressPick 0) e) (fun t => t.out == [.frame 0 (e.frameBytes 0 egr0)] && (t.port 0).egress == [])
      && (s.pick 0 { s.port 0 with sending := false }).isNone && !(s.port 0).restart
      && thenHas (exec (.gateListEnable 0) s) (fun t => t.flag (fFabGclctlEnable 0))
      && g.flag (fFabGclctlEnable 0) && g.flag (fFabGclctlAlign 0) && (g.port 0).armed && !(g.port 0).sending && (h.port 0).sending
      && thenHas (exec (.gateIntervalEnd 0) g) (fun t => (t.port 0).gate == 0)
      && thenHas (exec (.gateListRestart 0) h) (fun t => (t.port 0).restart)) = true := by decide +kernel

theorem test_LinksAndReassembly :
    let d := (ported portReset).setFld (fFabPcfgEnable 0) 1
    let x : Ctx := ⟨1, cmd0 mReply 0 [], [], [], 0⟩
    let c := ported { portReset with up := true, ctxs := [x], dead := [(2, 9)] }
    (d.serving && d.flag (fFabPcfgEnable 0) && !d.flag (fFabPcfgReset 0) && !(d.port 0).up && !(d.port 0).lost
      && thenHas (exec (.linkUp 0) d) (fun t => (t.port 0).up && t.evtBit (ePort 0) 1)
      && thenHas (exec (.linkDown 0) (talking live0 [])) (fun t => !(t.port 0).up && (t.conn? 2).any (fun k => k.st == .failed))
      && thenHas (exec (.losttimeExpiry 0) d) (fun t => (t.port 0).lost && t.evtBit (ePort 0) 2)
      && thenHas (exec (.linkTrainingFailure 0) d) (fun t => (t.port 0).lost)
      && thenHas (exec (.linkTrainingFailure 0) (talking live0 [])) (fun t => t == talking live0 [])
      && (c.port 0).ctxs.find? (fun y => y.head.dconn == 2 && y.head.msgid == 1) == some x
      && thenHas (exec (.reasmtoExpiry 0 2 1) c) (fun t => (t.port 0).ctxs == [] && (t.port 0).dead == [(2, 9), (2, 1)])
      && thenHas (exec (.deadListExpiry 0 2 9) c) (fun t => (t.port 0).dead == [])) = true := by decide +kernel

/-- A request of this node that the peer has not acknowledged. -/
def sent0 (t : Nat) (bulk : List Byte) : Sent := ⟨200, t, 6, cmd0 t 1 [], 0, false, bulk⟩

theorem test_TransportTimers :
    let s := (talking { live0 with held := [cmd0 mSend 0 []], sent := [sent0 mCmd []], unacked := [4], lastAcc := some (cmd0 mCmd 1 []) } []).setFld
      fFabTcfg2Retries 3
    let z := (talking { live0 with sent := [sent0 mCmd []] } []).setFld fFabTcfg2Retries 0
    let i : Inflight := ⟨cmd0 mCmd 1 [], .data 3⟩
    let b := { (talking { live0 with infl := [i] } []) with fab := { (talking { live0 with infl := [i] } []).fab with
      staging := [(3, ⟨5, some (2, 200), [], [], false⟩)] } }
    let g : Inflight := ⟨cmd0 mRead 0 [], .segs⟩
    let q : Inflight := ⟨cmd0 mCmd 1 [], .staging⟩
    let w := { (talking { live0 with infl := [q] } []) with fab := { (talking { live0 with infl := [q] } []).fab with stWait := [(2, 200)] } }
    let miss := { (talking { live0 with cached := false } []) with fab := { (talking { live0 with cached := false } []).fab with
      missq := [frame0 (cmd0 mPong 0 [])] } }
    let l : RLock := ⟨2, 200, 7, 0, 64, false, false⟩
    let r : Inflight := ⟨cmd0 mRead 0 [], .lock⟩
    let k := { (talking { live0 with infl := [r] } []) with fab := { (talking { live0 with infl := [r] } []).fab with locks := [(4, [l])] } }
    (s.serving && (s.conn? 2).isSome && s.fld fFabTcfg2Retries == 3 && s.sprayUp 1 != []
      && thenHas (exec (.reordertoExpiry 2 200) s) (fun t => (t.conn? 2).any (fun c => c.held == []) && t.reg64 kTraReorddrop == 1)
      && thenHas (exec (.rtoExpiry 2 200) s) (fun t => (t.conn? 2).any (fun c => c.sent.map (fun x => x.tries) == [1]))
      && z.fld fFabTcfg2Retries == 0 && thenHas (exec (.rtoExpiry 2 200) z) (fun t => (t.conn? 2).any (fun c => c.st == .failed))
      && thenHas (exec (.ackintExpiry 2) s) (fun t => (t.conn? 2).any (fun c => c.unacked == []) && (t.port 0).egress.length == 1)
      && b.grantee 3 == some i && thenHas (exec (.xrdytoExpiry 3) b) (fun t => Tbl.find t.fab.staging 3 == some ⟨6, none, [], [], false⟩)
      && thenHas (exec (.reswaitExpiry 2 200) (talking { live0 with infl := [g] } [])) (fun t => t.reg64 kTraResnak == 1)
      && thenHas (exec (.connStateFetched 2 true) miss) (fun t => (t.conn? 2).any (fun c => c.cached) && t.fab.missq == [])
      && thenHas (exec (.connStateFetched 2 false) miss) (fun t => t.evtBit eTra 0 && t.fab.missq == [])
      && w.freeBuf == some 0
      && thenHas (exec .stagingBufferGrant w) (fun t => t.fab.stWait == [] && (Tbl.find t.fab.staging 0).any (fun y => y.owner == some (2, 200)))
      && k.fab.lockWait == [] && k.lockTab 4 == [l] && thenHas (exec (.rangeLockGrant 4) k) (fun t => t.fab.ready == [r.msg])) = true := by decide +kernel

theorem test_ResponsesAndClosing :
    let m := fun (t : Nat) => cmd0 t 0 []
    let on := fun (t : Nat) (c : Conn) => talking c [m t]
    let out := fun (t : Nat) => { live0 with sent := [sent0 t []] }
    let busy : Conn := { live0 with infl := [⟨m mClose, .none_⟩, ⟨{ m mSend with seq := 7 }, .none_⟩] }
    let rd := { m mRdata with tag := 3 * 2 ^ 32 + 4, payload := sysPack (List.replicate 64 5) [false] }
    let f0 := stepping (talking { sys0 with sent := [sent0 mRead []] } [rd]) [2]
    let f := { f0 with comp := { f0.comp with cores := [(3, { f0.core 3 with fills := [xfer0] })] }, mem := { f0.mem with storeFilled := [] } }
    let u := sysUnpack rd.payload
    ((on mReply live0).isReady (m mReply) mReply && (on mReply live0).memberOf 2 == none
      && thenHas (exec (.reply (m mReply)) (on mReply (out mCmd))) (fun t => (t.conn? 2).any (fun c => c.sent == []))
      && thenHas (exec (.ack (m mAck)) (on mAck (out mWrite))) (fun t => (t.conn? 2).any (fun c => c.sent == []))
      && (on mNak live0).isReady (m mNak) mNak
      && thenHas (exec (.nak { m mNak with status := statusCode .retryLater })
          ((talking (out mCmd) [{ m mNak with status := statusCode .retryLater }]).setFld fFabTcfg2Retries 3)) (fun t =>
            (t.conn? 2).any (fun c => c.sent.map (fun x => x.tries) == [1]))
      && thenHas (exec (.nak { m mNak with status := statusCode .keyFail }) (talking (out mCmd) [{ m mNak with status := statusCode .keyFail }])) (fun t =>
            (t.conn? 2).any (fun c => c.sent == []))
      && thenHas (exec (.xrdy (m mXrdy)) (on mXrdy { live0 with sent := [sent0 mSend [1, 2]] })) (fun t => (t.port 0).egress.any (fun e => e.msg.payload == [1, 2]))
      && thenHas (exec (.flushed (m mFlushed)) (on mFlushed (out mFlush))) (fun t => (t.conn? 2).any (fun c => c.sent == []))
      && (on mAbortrep live0).isReady (m mAbortrep) mAbortrep && (on mPong live0).isReady (m mPong) mPong
      && thenHas (exec (.ping (m mPing)) (on mPing live0)) (fun t => (t.port 0).egress.any (fun e => e.msg.mtype == mPong))
      && f.isReady rd mRdata && (f.fillOf 3 4).isSome && u.1 == List.replicate 64 5 && u.2.2 == 0 && storeOk 128 64
      && f.sourceChecks busy0 xfer0 == [] && (f.core 3).waiting == []
      && thenHas (exec (.rdata rd) f) (fun t => t.storeFull 3 128 64)
      && thenHas (exec (.close (m mClose)) (on mClose { live0 with infl := [⟨m mClose, .none_⟩] })) (fun t => (t.conn? 2).any (fun c => c.st == .closed))
      && thenHas (exec (.close (m mClose)) (on mClose { busy with infl := busy.infl.reverse })) (fun t => (t.conn? 2).any (fun c => c.st == .draining))
      && thenHas (exec (.closeack (m mCloseack)) (on mCloseack { (out mClose) with st := .draining })) (fun t =>
            (t.conn? 2).any (fun c => c.st == .closed))) = true := by decide +kernel

theorem test_BulkDataAndOneSidedAccess :
    let m := fun (t : Nat) => { cmd0 t 0 [8, 9] with key := 0x10007, arg := 64 }
    let c : Conn := live0
    let post : PostBuf := ⟨0x10007, 0, 4096, 1, 2, none, [], [], none⟩
    let snd := { cmd0 mSend 0 [8, 9] with key := 0 }
    let i : Inflight := ⟨{ cmd0 mCmd 1 [] with arg := 2 }, .data 3⟩
    let d := { cmd0 mData 0 [8, 9] with arg := 3, aux := 5 }
    let g := { (talking { c with infl := [i] } [d]) with fab := { (talking { c with infl := [i] } [d]).fab with staging := [(3, ⟨5, some (2, 200), [], [], false⟩)] } }
    let rd := { m mRead with aux := 2, payload := [] }
    let s := talking c [m mWrite]
    let fl := m mFlush
    (s.sprayUp c.rec_.spray == [0] && c.next == 200 && c.held == [] && c.head == none && { c with recv := [post] }.head == some post
      && thenHas (exec (.send snd) (talking c [snd])) (fun t => (t.conn? 2).any (fun x => x.next == 200) && (t.port 0).egress.any (fun e => e.msg.mtype == mNak))
      && (s.keyed 0x10007 5).isSome && (match s.place (tablesEnd + 0) with | .ilv x => x == tablesEnd && decide (x + 66 ≤ s.ilvSize) | _ => false)
      && thenHas (exec (.send snd) (talking { c with recv := [post] } [snd])) (fun t => t.ilvRead tablesEnd 2 == [8, 9] && (t.conn? 2).any (fun x => x.next == 201))
      && g.isReady d mData && thenHas (exec (.data { d with aux := 4 }) (talking { c with infl := [i] } [{ d with aux := 4 }])) (fun t => t.reg64 kTraGenmis == 1)
      && thenHas (exec (.data d) g) (fun t => t.fab.ready == [i.msg])
      && (match s.access c rd with | .ok a => a.len == 2 && a.off == 64 | .error _ => false)
      && (match s.access c (m mWrite) with | .ok a => a.len == 2 && a.off == 64 | .error _ => false)
      && s.lockTab 4 == [] && s.fab.lockWait == [] && !s.ilvPois (tablesEnd + 64) 2
      && thenHas (exec (.read rd [] false) (talking c [rd])) (fun t => (t.port 0).egress.any (fun e => e.msg.mtype == mRdata))
      && thenHas (exec (.write (m mWrite)) s) (fun t => t.ilvRead (tablesEnd + 64) 2 == [8, 9] && (t.conn? 2).any (fun x => x.next == 201))
      && (match s.access c { rd with key := 1 } with | .ok _ => false | .error e => e == .keyFail)
      && thenHas (exec (.read { rd with key := 1 } [] false) (talking c [{ rd with key := 1 }])) (fun t => (t.port 0).egress.any (fun e => e.msg.mtype == mNak))
      && { c with infl := [⟨{ cmd0 mWrite 0 [] with seq := 199 }, .segs⟩] }.writesBefore 200 && !c.writesBefore 200
      && thenHas (exec (.flush fl false) (talking c [fl])) (fun t => (t.port 0).egress.any (fun e => e.msg.mtype == mFlushed))) = true := by decide +kernel

/-- A node of a group of two: node 20 at position 0, the master, and node 21 at position 1; they share the connection 2. -/
def grouped (role : Nat) (ms : List Msg) : State :=
  let pos := if role = 2 then 0 else 1
  let g : GroupSection := ⟨role, pos, 0, if role = 2 then [⟨20, 8, 99⟩, ⟨21, 9, 2⟩] else [⟨20, 8, 2⟩, ⟨21, 9, 99⟩], 20, 0, 0, []⟩
  let s := ((((talking sys0 ms).setFld fCasCfgRole role).setFld fCasCfgNmemb 2).setFld fCasCfgPos pos).setFld fCasCfgNodenum (20 + pos)
  let m : Nat → Member := fun p => { st := .active, suspect := false, arrived := if p = 0 then some 5 else none, lasts := [], expelled := false,
                                     admitAt := none }
  { s with boot := { s.boot with image := some { img0 with group := some g } },
           cas := { s.cas with members := if role = 2 then [(0, m 0), (1, m 1)] else [] } }

/-- A SYS message of a type with a body. -/
def sys (t : Nat) (bs : List Byte) : Msg := cmd0 t 0 bs

/-- … on a node of the group, with other state of the group. -/
def onGroup (role : Nat) (m : Msg) (f : Cas → Cas) : State := { (grouped role [m]) with cas := f (grouped role [m]).cas }

theorem test_BarrierRounds :
    let arr := fun (n : Nat) => sys mBarrier (barrierBody 1 2 n 0 7)
    let noMsg := sys mPong []
    let open_ := fun (s : State) => { s with cas := { s.cas with detected := true } }
    let up1 := fun (s : State) => { s with boot := { s.boot with image := some { img0 with group := some ⟨2, 0, 0, [⟨20, 8, 99⟩, ⟨21, 9, 77⟩], 20, 7, 2, []⟩ } } }
    let m := grouped 2 []
    let low := { (grouped 2 []) with pwr := { m.pwr with stepRdyLow := true },
                                     work := { m.work with leases := [(1, { lease0 with nextGroup := true })] } }
    (m.serving && m.role == 2 && !m.cas.stuck && m.cas.resetWait == none && !m.pwr.stepGo && !m.pwr.stepRdyLow && m.childrenIn
      && m.parentConn == none && low.groupBusy && (up1 m).parentConn == some 2
      && thenHas (exec .barrierRelease low) (fun t => t.cas == low.cas && t.pwr == low.pwr && t.regs == low.regs)
      && thenHas (exec .barrierRelease (onGroup 2 noMsg (fun c => { c with verdicts := [(9, 1)] }))) (fun t => t.fld fCasBarHoldv == 1)
      && !(onGroup 2 noMsg (fun c => { c with children := [(0, ⟨.active, false, none, [], false, none⟩)] })).childrenIn
      && thenHas (exec .barrierRelease (open_ m)) (fun t => t.pwr.stepGo && t.fld fCasBarBseq == 1 && t.cas.ring.length == 1)
      && thenHas (exec .barrierRelease (up1 m)) (fun t => t.fld fCasBarWaitgo == 1 && t.cas.sentArrive)
      && thenHas (exec .releaseDetect (grouped 1 [])) (fun t => t.pwr.stepRdyLow && t.fld fCasBarBseq == 1)
      && thenHas (exec .releaseDetect { m with pwr := { m.pwr with stepGo := true } }) (fun t => t.pwr.stepRdyLow && !t.pwr.stepGo)
      && (grouped 2 [arr 0]).isReady (arr 0) mBarrier && (grouped 2 [arr 0]).memberOf 2 == some 1
      && thenHas (exec (.arrive (arr 0)) (grouped 2 [arr 0])) (fun t => (Tbl.find t.cas.members 1).any (fun x => x.arrived == some 7))
      && thenHas (exec (.arrive (arr 3)) (grouped 2 [arr 3])) (fun t => (Tbl.find t.cas.members 1).any (fun x => x.arrived == none))
      && thenHas (exec (.go (sys mBarrier (barrierBody 2 4 0 0 0))) (up1 (onGroup 2 (sys mBarrier (barrierBody 2 4 0 0 0)) (fun c => { c with sentArrive := true }))))
          (fun t => t.cas.parentGo)
      && thenHas (exec (.expel (sys mBarrier (barrierBody 3 3 0 0 0))) (grouped 1 [sys mBarrier (barrierBody 3 3 0 0 0)])) (fun t => t.cas.expelled)
      && thenHas (exec (.barrierReset (sys mBarrier (barrierBody 4 3 6 0 0))) (grouped 1 [sys mBarrier (barrierBody 4 3 6 0 0)])) (fun t =>
          t.fld fCasBarBseq == 6)
      && thenHas (exec .bartoExpiry (open_ m)) (fun t => (Tbl.find t.cas.members 1).any (fun x => x.st == .absent && x.expelled))
      && thenHas (exec .barstuck { m with cas := { m.cas with members := [(1, ⟨.absent, false, none, [], true, none⟩)] } }) (fun t =>
          t.cas.stuck && t.evtBit eCas 1)) = true := by decide +kernel

/-- A member's part of a group request, and the request. -/
def part0 : Part := ⟨1, some 200, none, none, [], false, none⟩
def greq0 (p : Part) : GroupReq := ⟨6, 4, .search, 1023, [p]⟩
def prov0 (v : Option Bool) : Prov := ⟨9, 1, 2, step0, [], [], v, false⟩

theorem test_GroupRecordsAndVerdicts :
    let ver := fun (k : Nat) => sys mVerdict (verdictBody k 9)
    let none0 := sys mPong []
    let rec0 := SearchRec.fail .ok 1 1023 5 0 9 0
    let held := onGroup 2 none0 (fun c => { c with groupReqs := [greq0 part0] })
    let full0 := onGroup 2 none0 (fun c => { c with groupReqs := [greq0 { part0 with failed := some .noConn }] })
    let full := { full0 with host := (hosted up).host, work := { full0.work with reqs := [{ req0 with op := .search, body := body0 }] } }
    let wait := fun (k : Nat) => onGroup 2 (ver k) (fun c => { c with verdicts := [(9, 1)], groupReqs := [greq0 { part0 with rec_ := some { rec0 with steptag := 9 }, prov := true }] })
    let mem := fun (k : Nat) (v : Option Bool) => onGroup 1 (ver k) (fun c => { c with provs := [prov0 v] })
    let run := { (mem 3 (some true)) with work := { (mem 3 none).work with leases := [(1, { lease0 with cores := [] })] } }
    let app := sys mApplied []
    let old := onGroup 2 none0 (fun c => { c with oldMap := some ⟨3, []⟩ })
    (held.serving && held.role == 2
      && thenHas (exec (.membtoExpiry 6 1) held) (fun t => t.cas.groupReqs == [greq0 { part0 with failed := some .tierTimeout }])
      && (full.req? 4).isSome && (Tbl.find full.host.sqs (qKey 0 0)).isSome
      && thenHas (exec (.groupRecordSend 6) full) (fun t => t.work.reqs == [] && t.cas.groupReqs == [])
      && (wait 1).isReady (ver 1) mVerdict && sysKind (ver 1) == 1 && verdictTag (ver 1) == 9 && (wait 1).memberOf 2 == some 1
      && thenHas (exec (.confirm (ver 1)) (wait 1)) (fun t => t.cas.confirmed == [9] && t.cas.verdicts == [] && t.reg64 kCasConfirms == 1)
      && thenHas (exec (.retract (ver 2)) (wait 2)) (fun t => t.cas.ignored == [9] && t.evtBit eCas 4)
      && thenHas (exec (.gone (ver 4)) (wait 4)) (fun t => t.cas.groupReqs.all (fun g => g.parts.all (fun p => p.failed == some .checkFail)))
      && thenHas (exec (.replayTimeout 9) (wait 4)) (fun t => t.cas.ignored == [9] && t.cas.verdicts == [])
      && thenHas (exec (.verdictTimeout 9) (mem 3 none)) (fun t => t.evtBit eCas 4 && t.reg64 kCasRetracts == 1)
      && thenHas (exec (.verdictTimeout 9) (mem 3 (some true))) (fun t => t.cas == (mem 3 (some true)).cas)
      && run.fromMaster (ver 3) && (run.lease? 1).any (fun x => x.step == none && x.past == [])
      && thenHas (exec (.replay (ver 3)) run) (fun t => (t.lease? 1).any (fun y => y.step.any (fun p => p.replayed && p.run == 1)))
      && thenHas (exec (.rpkeepExpiry 9) (mem 3 (some true))) (fun t => t.cas.provs == [])
      && thenHas (exec (.rpkeepExpiry 9) (mem 3 none)) (fun t => t.cas == (mem 3 none).cas)
      && thenHas (exec (.replay (ver 3)) (grouped 1 [ver 3])) (fun t => (t.port 0).egress.any (fun e => e.msg.payload == verdictBody 4 9))
      && thenHas (exec (.applied app) (grouped 2 [app])) (fun t => t.cas.appliedFrom == [21])
      && old.epochCount 3 == 0 && old.epochCount 0 == 0 && thenHas (exec .epochDrain old) (fun t => t.cas.oldMap == none && t.evtBit eCas 2)
      && ({ old with work := { old.work with reqs := [{ req0 with epoch := 3 }] } } : State).epochCount 3 != 0) = true := by decide +kernel

theorem test_OwnershipOfObjects :
    let own := fun (k : Nat) (keeper : Nat) => sys mOwner (ownerBody k 3 keeper 50)
    let kept := fun (m : Msg) => onGroup 2 m (fun c => { c with owners := [⟨50, 20, 1, true⟩] })
    let ask := onGroup 2 (own 2 0) (fun c => { c with queries := [⟨50, [(0, 21)], [], false⟩] })
    let tells := fun (k : Nat) (t : State) => (t.port 0).egress.any (fun e => e.msg.mtype == mOwner && leAt e.msg.payload 0 1 == k)
    ((kept (own 1 0)).serving && (kept (own 1 0)).peerNode 2 == 21 && (kept (own 1 0)).sysConn 21 == some 2 && sys0.st == .open_
      && (kept (own 1 0)).sprayUp 1 != [] && ownerSid (own 1 0) == 50 && (kept (own 1 0)).nodeNum == 20
      && thenHas (exec (.ownerQuery (own 1 0)) (kept (own 1 0))) (tells 2)
      && thenHas (exec (.ownerQuery (own 1 0)) (grouped 2 [own 1 0])) (tells 2)
      && ask.work.reqs == []
      && thenHas (exec (.ownerAnswer (own 2 0)) ask) (fun t => t.owner? 50 == some ⟨50, 21, 3, false⟩ && t.cas.queries == [])
      && (grouped 1 [own 3 20]).masterConn == some 2
      && thenHas (exec (.ownerAssign (own 3 20)) (grouped 1 [own 3 20])) (fun t => (t.owner? 50).any (fun o => o.keeper == 20 && o.lepoch == 3))
      && thenHas (exec (.ownerDrop (own 4 0)) (kept (own 4 0))) (fun t => t.owner? 50 == none)
      && thenHas (exec (.ownerFetch (own 5 0)) (kept (own 5 0))) (fun t => t.owner? 50 == some ⟨50, 21, 0, false⟩ && tells 2 t)
      && thenHas (exec (.ownerFetch (own 5 0)) (grouped 2 [own 5 0])) (tells 2)
      && thenHas (exec (.ownerConflict (own 6 20)) (grouped 1 [own 6 20])) (fun t => t.reg64 kCasOwnconfs == 0)
      && thenHas (exec (.ownerConflict (own 6 20)) (grouped 2 [own 6 20])) (fun t => t.evtBit eCas 3 && t.reg64 kCasOwnconfs == 1)) = true := by
  decide +kernel

theorem test_MembersJoin :
    let join := fun (k bist node b fw : Nat) => sys mJoin (joinBody k bist node b fw 0)
    let at1 := fun (st : MState) (m : Msg) => onGroup 2 m (fun c => { c with members := [(1, ⟨st, false, none, [], false, none⟩)] })
    let hello := join 1 0 21 0 0x102
    let out := fun (m : Msg) => onGroup 1 m (fun c => { c with outside := true })
    let st := fun (t : State) => ((Tbl.find t.cas.members 1).map (fun x => x.st))
    let tells := fun (k : Nat) (t : State) => (t.port 0).egress.any (fun e => e.msg.mtype == mJoin && leAt e.msg.payload 0 1 == k)
    ((at1 .absent hello).serving && (at1 .absent hello).isReady hello mJoin && (at1 .absent hello).memberOf 2 == some 1
      && thenHas (exec (.hello hello) (at1 .absent hello)) (fun t => st t == some .joining && tells 2 t)
      && thenHas (exec (.hello hello) (at1 .active hello)) (tells 3)
      && (grouped 1 [join 2 0 21 0 0]).fromMaster (join 2 0 21 0 0)
      && thenHas (exec (.accept (join 2 0 21 0 0)) (grouped 1 [join 2 0 21 0 0])) (fun t => t.cas.join.waiting)
      && thenHas (exec (.accept (join 2 0 22 0 0)) (grouped 1 [join 2 0 22 0 0])) (fun t => t.cas.join.joiner == some 22)
      && thenHas (exec (.refuse (join 3 0 21 0 0)) (grouped 1 [join 3 0 21 0 0])) (fun t => t.cas.join.waiting)
      && thenHas (exec (.snapend (join 4 0 21 0 0)) (out (join 4 0 21 0 0))) (fun t => t.cas.join.snapEnd)
      && thenHas (exec (.snapend (join 4 0 21 0 0)) (grouped 1 [join 4 0 21 0 0])) (fun t => !t.cas.join.snapEnd)
      && thenHas (exec (.caughtup (join 5 0 21 0 0)) (at1 .joining (join 5 0 21 0 0))) (fun t =>
          (Tbl.find t.cas.members 1).any (fun x => x.admitAt == some 2) && tells 6 t)
      && thenHas (exec (.joinAdmit (join 6 0 21 1 0)) (out (join 6 0 21 1 0))) (fun t => t.cas.join.admitAt == some 1 && t.fld fCasBarBseq == 2 ^ 32 - 1)
      && thenHas (exec (.jointoExpiry 1) (at1 .joining hello)) (fun t => st t == some .absent)
      && (out hello).role == 1 && (out hello).cas.join.joiner == none
      && thenHas (exec (.jointoExpiry 1) (out hello)) (fun t => !t.cas.join.waiting)) = true := by decide +kernel

theorem test_StepRunsTheCommandInFront :
    (thenHas (step { up with pending := [.quiesce, .checkpoint] }) (fun t => t.fld fTopCtlQuiesce == 1 && t.pending == [.checkpoint])
      && thenHas (step up) (fun t => t.uptime == up.uptime + 1 && t.pending == [])) = true := by decide +kernel

theorem test_StepsKeepMemoryAndHistory :
    (thenHas (core.run 2 { up with pending := [.quiesce, .quiesced] }) (fun t => t.fld fTopStatusQuiesced == 1 && t.pending == [])) = true := by
  decide +kernel

theorem test_CommandsTouchOnlyTheirParts : (thenHas (exec .quiesce up) (fun t => t.fld fTopCtlQuiesce == 1)) = true := by decide +kernel

/-! ## Ill-formed operands: a term that each check refuses -/

theorem test_PlainFieldsAreChecked :
    ([.pwrLimChange 256, .createCq hdr0 0 0 (2 ^ 17) true 0, .createCq { hdr0 with fn := 64 } 0 0 2 true 0, .createSq hdr0 0 64 2 0 0, .idle1Entry 192,
      .scaleRegisterWrite 0 2048 0 0, .regread 0 0 6, .nbuGo 193 0, .slotRelease 192 0, .slotRelease 0 16, .nbuGo 0 (2 ^ 16), .slotStart 0 (2 ^ 32),
      .flashStatusPoll 32 0 true [], .flashStatusPoll 0 8 true [], .flashStatusPoll 0 0 true [4], .nandEraseComplete 0 (2 ^ 14) [],
      .nandEraseComplete 0 0 [32], .nandReadComplete 0 0 ⟨false, [(16, none)]⟩, .gcStart 0 ⟨[], [(0, [4])]⟩, .portReset 6, .pfcRefresh 0 8, .rmslot 0 4 0,
      .rmslot 0 0 16, .tkclose 0 4, .vfFlr 64, .indexDelete hdr0 (2 ^ 16), .merge (2 ^ 22), .branch 0 192 0, .jointoExpiry 8,
      .cxlMemRead (2 ^ 64) .clean, .stepend 0 ⟨[], [⟨192, 0, 0⟩], 0, 0, 0, 0⟩] : List Instr).all (fun i => !i.wf) = true := by decide +kernel

theorem test_StructuredOperandsAreChecked :
    let f := frame0 (cmd0 mPing 0 [])
    ([.search (.conn { cmd0 mCmd 1 [] with mtype := 256 }) [], .search (.queue { hdr0 with cid := 2 ^ 16 }) [], .abort (.queue hdr0 (2 ^ 16)),
      .frameReceive 0 { f with cls := 8 }, .frameReceive 0 { f with len := 2 ^ 16 }, .frameReceive 0 { f with sip := 2 ^ 128 },
      .fetch { sd0 2 with rec_ := 2 ^ 40 }, .fetch { sd0 2 with qslot := 8 }, .tile 0 { tile0 with fmt := 16 } ⟨[], []⟩,
      .tile 0 tile0 ⟨[⟨4, 0, 0, 0⟩], []⟩, .tile 0 tile0 ⟨[], [⟨2 ^ 15, 0⟩]⟩, .gather 0 { gs0 with gmode := 256 } [],
      .gather 0 gs0 [⟨2 ^ 40, [], []⟩], .fill 0 { xfer0 with id := 2 ^ 32 }, .streamSend 0 ⟨{ xfer0 with id := 2 ^ 32 }, path0, none⟩,
      .tkoffer 0 ⟨2 ^ 32, 0, 0, 0, 0⟩, .brambleMerge 64 0 ⟨1, false⟩ [] ⟨sel0.trailer, false⟩, .brambleMerge 0 0 ⟨2 ^ 32, false⟩ [] ⟨sel0.trailer, false⟩,
      .brambleMerge 0 0 ⟨1, false⟩ [] ⟨{ sel0.trailer with n := 2 ^ 16 }, false⟩, .insert (.queue hdr0) ⟨[], [⟨2 ^ 64, [], none⟩]⟩,
      .stepStart 0 [⟨0, [16], none⟩], .connOpen hdr0 { conn0 with ckind := 2 }, .regRegion hdr0 { region0 with rights := 256 },
      .routeMap hdr0 0 [⟨0, 256, 0, 0, 0, 0⟩], .run (.queue hdr0) [] true [⟨0, 4096⟩], .indexCreate hdr0 { shape0 with skw := 256 } 0 0,
      .createTable hdr0 { table0 with rows := 2 ^ 40 }, .setQuota hdr0 5 { rich.limit with cores := 2 ^ 16 },
      .setRate hdr0 5 { rich.rate with tquant := 2 ^ 16 }, .loadPack hdr0 ⟨2 ^ 32, 5, 0, true⟩ ⟨[], true⟩,
      .bootImageVerify { reading0 with devSize := 2 ^ 32 }, .bootImageVerify { reading0 with retryVals := List.replicate 17 [] },
      .bootImageVerify { reading0 with group := some ⟨3, 0, 0, [], 0, 0, 0, []⟩ }, .bootComplete [⟨7, 0, none⟩],
      .scrubPass [⟨192, 0, none⟩]] : List Instr).all (fun i => !i.wf) = true := by decide +kernel

theorem test_OrdinaryOperandsPass :
    ([.search (.conn (cmd0 mCmd 1 [])) [], .frameReceive 0 (frame0 (cmd0 mPing 0 [])), .fetch (sd0 2), .tile 191 tile0 ⟨[], []⟩, .gather 0 gs0 [],
      .fill 0 xfer0, .streamSend 0 ⟨xfer0, path0, none⟩, .brambleMerge 0 0 ⟨1, false⟩ [] ⟨sel0.trailer, false⟩, .connOpen hdr0 conn0,
      .regRegion hdr0 region0, .indexCreate hdr0 shape0 1 2, .createTable hdr0 table0, .setQuota hdr0 5 rich.limit,
      .loadPack hdr0 ⟨0, 5, 0, true⟩ ⟨[], true⟩, .bootImageVerify reading0, .scrubPass [⟨191, 0, some 15⟩]] : List Instr).all (fun i => i.wf) = true := by
  decide +kernel

/-! ## The spec's worked drain (07_arithmetic.md, "A drain worked through") -/

/-- The history of slot 3 of array 1: 224.0, 208.0, 256.0, 192.0 and 180.0, newest first. -/
def slot3 : RmSlot := { rmReset with hist := [0x43600000, 0x43500000, 0x43800000, 0x43400000, 0x43340000] }

/-- The accumulators 300, −53 and 1,000 drain as 2, 0 and 7, the last with a clip, under a gain of 2^−6; with 500.0 in the history the next step's
gain is 0x3C03126F. -/
theorem test_WorkedDrain :
    let h := hroom 0x60
    let d := (slot3.start (rmDepth 0x60)).drain 1 h
    let n := ((d.append 0x43FA0000).start 4).drain 1 h
    (scaleBits 0x0017E000 == 0x3F000000 && d.gain == 0x3C800000
      && ([300, -53, 1000] : List Int).map (fun a => convert 1 (fmul (requantT 3 a (scaleBits 0x0017E000)) d.gain)) == [(2, false), (0, false), (7, true)]
      && requantT 3 (-53) (scaleBits 0x0017E000) == 0xC1D40000
      && n.gain == 0x3C03126F && convert 1 (fmul 0x43FA0000 n.gain) == (4, false)) = true := by decide +kernel

/-- A lease in a step with an open connection of its tenant and a region. -/
def posting : State := { (stepping up []) with fab := (talking live0 []).fab }

/-- A plan posts a buffer, and a SEND that fills it is told to the plan in its line (R374). -/
theorem test_plan_posts_a_buffer :
    let mine : PostBuf := ⟨0x10007, 0, 4096, 0, 0, none, [], [], some ⟨1, 0, 0, 5⟩⟩
    let snd := { cmd0 mSend 0 [8, 9] with key := 0 }
    let s := { (mapped posting) with fab := (talking { live0 with recv := [mine] } [snd]).fab }
    (thenHas (exec (.streamSend 3 ⟨xfer0, path0, some ⟨2, 0x10007, 0, 4096, 5⟩⟩) posting) (fun t => (t.conn? 2).any (fun c => c.recv == [mine]))
      && thenHas (exec (.streamSend 3 ⟨xfer0, path0, some ⟨2, 0x10007, 64, 4096, 5⟩⟩) posting) (offSpec 374)
      && thenHas (exec (.send snd) s) (fun t => t.ilvRead tablesEnd 2 == [8, 9] && t.storeFull 3 320 64
          && t.storeRead 3 320 6 == [2, 0, 2, 0, 0, 0] && t.host.cqs == s.host.cqs)) = true := by decide +kernel

/-- APPLIED of the one home of a DIST table fills the barrier line of a running step (R349). -/
theorem test_barrier_line :
    let app := sys mApplied []
    let g := grouped 2 [app]
    let h := { plan0 1 with nrdv := 1, tablesRd := [9], pflags := 8,
                            sections := [⟨3, 0, true, true, [0, 0, 7, 0] ++ leBytes 4 5 ++ zeros 8⟩] }
    let s := { g with work := { g.work with leases := [(1, busy0)], plans := [(77, ⟨5, 77, h, [], [], false⟩)] },
                      tables := { g.tables with descs := [(9, { table0 with tflags := 1, nnodes := 1, nodes := [21] })] } }
    (!s.storeFull 3 320 64 && !(s.homesApplied h) && rdvTab h false == [⟨0, 7, 5, 0⟩]
      && thenHas (exec (.applied app) s) (fun t => t.storeFull 3 320 64 && !t.storeFull 3 384 64)) = true := by decide +kernel

/-- A GATHER from a DIST table outside a GROUPSTEP plan (R349), and the copy that a core of the second die reads (R346). -/
theorem test_copies_of_rows :
    let s0 := stepping up [0, 1]
    let d := { table0 with tflags := 1, nnodes := 1, nodes := [0], chunk := 1 }
    let s := { s0 with tables := { s0.tables with descs := [(9, d)] },
                       work := { s0.work with plans := [(77, ⟨5, 77, { plan0 1 with tablesRd := [9] }, [], [], false⟩)] } }
    let b := tablesEnd + 4096
    let y : Staged := ⟨9, 3, List.replicate 64 6, [false]⟩
    let c := ({ s0 with tables := { s0.tables with replicas := [(9 * 2 ^ 40 + 3, b)] } } : State).rowPut table0 y
    (thenHas (exec (.gather 3 gs0 []) s) (offSpec 349)
      && (c.rowNear table0 3 100).bytes == List.replicate 64 6 && c.ilvRead b 64 == List.replicate 64 6
      && c.ilvRead (b + 4 * 64) 64 == List.replicate 64 6 && c.ilvRead (b + 5 * 64) 64 == zeros 64
      && (({ c with mem := { c.mem with hbm := [] } } : State).rowNear table0 3 100).bytes == zeros 64) = true := by decide +kernel

/-- A lease takes a core that runs ballast: the ballast goes to another idle core (R481). -/
theorem test_ballast_moves :
    let s := (waiting0.setFld (fCoreStateBallaston 0) 1).setFld fNrgStateBalcores 1
    thenHas (exec .leaseAdmit s) (fun t => t.fld (fCoreStateLease 0) == 1 && !t.flag (fCoreStateBallaston 0) && t.flag (fCoreStateBallaston 1)
      && t.fld fNrgStateBalcores == 1) = true := by decide +kernel

/-- A step of a lease of higher PRIO that fits goes first (R478). -/
theorem test_steps_start_in_order :
    let b0 := idleWith [] [4]
    let b := { b0 with work := { b0.work with reqs := [req0], leases := [(1, { lease0 with queue := [4] }),
                                                                          (2, { lease0 with prio := 7, queue := [4], cores := [] })] } }
    (b.stepBefore { lease0 with queue := [4] } && thenHas (exec (.stepStart 1 []) b) (fun t => t == b)
      && !b.stepBefore { lease0 with prio := 7 }
      && thenHas (exec (.stepStart 2 []) b) (fun t => (t.lease? 2).any (fun y => y.step.isSome))) = true := by decide +kernel

end
end

section
/-! The family of 15_registers.md: event words after an event and after a clear (R538, R539), what a write of an SQ register makes of
the state, and where the event registers and the high-water marks lie on the bus. -/

namespace Sys2Proof

/-! ## The sizes of the variants (R2) -/

theorem Variant.ports_le (v : Variant) : v.ports ≤ 6 := by cases v <;> decide
theorem Variant.cores_le (v : Variant) : v.cores ≤ 192 := by cases v <;> decide
theorem Variant.channels_le (v : Variant) : v.channels ≤ 192 := by cases v <;> decide

end Sys2Proof

namespace Sys2Proof.Machine

/-! ## Words of 24 bits and a sequence number (R538) -/

theorem evtSeq_lt (w : W32) : evtSeq w < 256 := by
  have := w.isLt
  unfold evtSeq
  omega

/-- A word put together from its low 24 bits and SEQ is not cut. -/
theorem toNat_low_add_seq (m q : Nat) (hm : m < 2 ^ 24) (hq : q < 256) : (BitVec.ofNat 32 (m + 2 ^ 24 * q)).toNat = m + 2 ^ 24 * q := by
  rw [BitVec.toNat_ofNat, Nat.mod_eq_of_lt (by omega)]

theorem evtSeq_low_add_seq (m q : Nat) (hm : m < 2 ^ 24) (hq : q < 256) : evtSeq (BitVec.ofNat 32 (m + 2 ^ 24 * q)) = q := by
  rw [evtSeq, toNat_low_add_seq m q hm hq]
  omega

theorem low_low_add_seq (m q : Nat) (hm : m < 2 ^ 24) (hq : q < 256) : (BitVec.ofNat 32 (m + 2 ^ 24 * q)).toNat % 2 ^ 24 = m := by
  rw [toNat_low_add_seq m q hm hq]
  omega

theorem bitOf_low_add_seq (m q b : Nat) (hm : m < 2 ^ 24) (hq : q < 256) (hb : b < 24) :
    bitOf (BitVec.ofNat 32 (m + 2 ^ 24 * q)).toNat b = m.testBit b := by
  rw [bitOf, toNat_low_add_seq m q hm hq, Nat.add_comm, Nat.testBit_two_pow_mul_add _ hm, if_pos hb]

/-- An event at another bit leaves a bit as it was. -/
theorem State.evtBit_event_ne (s : State) (a b c : Nat) (hb : b < 24) (hc : c < 24) (h : c ≠ b) : (s.event a b).evtBit a c = s.evtBit a c := by
  simp only [State.evtBit, State.event, State.word_setWord_same, evtRecord_other _ _ _ hb hc h]

theorem State.evtSeq_event (s : State) (a b : Nat) (hb : b < 24) : evtSeq ((s.event a b).word a) = (evtSeq (s.word a) + 1) % 256 := by
  rw [State.event, State.word_setWord_same, evtRecord_seq _ _ hb]

/-! ## The high-water mark (R398, R538) -/

theorem hwmRaise_rises (w : W32) (v : Nat) (h : w.toNat % 2 ^ 24 < min v (2 ^ 24 - 1)) :
    evtSeq (hwmRaise w v) = (evtSeq w + 1) % 256 ∧ (hwmRaise w v).toNat % 2 ^ 24 = min v (2 ^ 24 - 1) := by
  have hm : min v (2 ^ 24 - 1) < 2 ^ 24 := by omega
  have hq : (evtSeq w + 1) % 256 < 256 := Nat.mod_lt _ (by decide)
  rw [hwmRaise, if_pos h]
  exact ⟨evtSeq_low_add_seq _ _ hm hq, low_low_add_seq _ _ hm hq⟩

theorem hwmRaise_stays (w : W32) (v : Nat) (h : min v (2 ^ 24 - 1) ≤ w.toNat % 2 ^ 24) : hwmRaise w v = w :=
  if_neg (by omega)

/-! ## A clear of an event word (R539) -/

theorem sqClear_stale (w x : W32) (h : evtSeq x ≠ evtSeq w) : sqClear w x = none := if_neg (Ne.symm h)

theorem sqClear_fresh (w x : W32) (h : evtSeq x = evtSeq w) :
    sqClear w x = some (BitVec.ofNat 32 ((w.toNat % 2 ^ 24 &&& (0xFFFFFF - x.toNat % 2 ^ 24)) + 2 ^ 24 * evtSeq w)) := if_pos h.symm

/-- What a clear leaves of the low 24 bits fits in them. -/
theorem low_and_lt (w : W32) (m : Nat) : w.toNat % 2 ^ 24 &&& m < 2 ^ 24 :=
  Nat.lt_of_le_of_lt Nat.and_le_left (Nat.mod_lt _ (by decide))

theorem sqClear_seq (w x y : W32) (h : sqClear w x = some y) : evtSeq y = evtSeq w := by
  unfold sqClear at h
  split at h
  · cases h
    exact evtSeq_low_add_seq _ _ (low_and_lt w _) (evtSeq_lt w)
  · cases h

/-- A clear takes away the bits that the written value names and no others. -/
theorem sqClear_bit (w x y : W32) (b : Nat) (hb : b < 24) (h : sqClear w x = some y) :
    bitOf y.toNat b = (bitOf w.toNat b && !bitOf x.toNat b) := by
  unfold sqClear at h
  split at h
  · cases h
    have hx : x.toNat % 2 ^ 24 < 2 ^ 24 := Nat.mod_lt _ (by decide)
    have hc : (0xFFFFFF - x.toNat % 2 ^ 24).testBit b = !x.toNat.testBit b := by
      rw [show 0xFFFFFF - x.toNat % 2 ^ 24 = 2 ^ 24 - (x.toNat % 2 ^ 24 + 1) by omega, Nat.testBit_two_pow_sub_succ hx,
        Nat.testBit_mod_two_pow]
      simp [hb]
    rw [bitOf_low_add_seq _ _ _ (low_and_lt w _) (evtSeq_lt w) hb, Nat.testBit_and, Nat.testBit_mod_two_pow, hc]
    simp [hb, bitOf]
  · cases h

/-! ## A write of an SQ register (R539) -/

/-- A stale write counts in TOP_SQSTALE and does nothing else. -/
theorem State.sqWrite_stale (s : State) (n : Nat) (r : Reg) (x : W32) (h : evtSeq x ≠ evtSeq (s.word (n * 0x10000 + r.off))) :
    s.sqWrite n r x = s.count 0x80 1 := by
  simp only [State.sqWrite, sqClear_stale _ _ h]

/-- Below the high-water marks of a port lie event registers only: the word takes the cleared value. -/
theorem State.sqWrite_event (s : State) (n : Nat) (r : Reg) (x y : W32) (hr : r.off < 0x80)
    (h : sqClear (s.word (n * 0x10000 + r.off)) x = some y) : s.sqWrite n r x = s.setWord (n * 0x10000 + r.off) y := by
  simp only [State.sqWrite, h]
  split
  · exact if_neg (by omega)
  · rfl

/-- A high-water mark becomes zero whatever the written low bits are. -/
theorem State.sqWrite_hwm (s : State) (n : Nat) (r : Reg) (x : W32) (p : Nat) (hp : blkOf n = .port p) (h1 : 0x80 ≤ r.off)
    (h2 : r.off < 0xA0) (h : evtSeq x = evtSeq (s.word (n * 0x10000 + r.off))) :
    s.sqWrite n r x = s.setWord (n * 0x10000 + r.off) (BitVec.ofNat 32 (2 ^ 24 * evtSeq (s.word (n * 0x10000 + r.off)))) := by
  simp only [State.sqWrite, sqClear_fresh _ _ h, hp, if_pos (And.intro h1 h2)]

/-! ## From the command to the register -/

/-- A block of a unit that the part has, and no broadcast block. -/
structure LoneBlock (v : Variant) (n : Nat) : Prop where
  inMap : n < 0x400
  present : blkAbsent v (blkOf n) = false
  single : blkCovers v (blkOf n) = []

/-- A register of such a block that the sequence-number rule clears. -/
structure SqRegister (hw : Hw) (n : Nat) (r : Reg) : Prop where
  lone : LoneBlock hw.variant n
  mapped : regAt hw n r.off = some r
  inPage : r.off < 0x4000
  aligned : r.off % 4 = 0
  sq : r.sq = true

theorem State.onBus_lone (s : State) (n o : Nat) (f : Nat → Nat → State → Outcome) (hn : LoneBlock s.hw.variant n) (ho : o < 0x4000)
    (ha : o % 4 = 0) (hbusy : s.fld fTopStatusBusy = 0) : s.onBus (n * 0x10000 + o) f = f n o s := by
  have := hn.inMap
  have hblk : (n * 0x10000 + o) / 0x10000 = n := by omega
  have hoff : (n * 0x10000 + o) % 0x4000 = o := by omega
  have hmap : ¬((n * 0x10000 + o) % 4 ≠ 0 ∨ 0x4000000 ≤ n * 0x10000 + o) := by omega
  simp [State.onBus, hblk, hoff, if_neg hmap, hn.present, hn.single, State.flag, hbusy]

theorem State.regOf_sqRegister (s : State) (n : Nat) (r : Reg) (hr : SqRegister s.hw n r) : s.regOf (n * 0x10000 + r.off) = some r := by
  have := hr.inPage
  have hblk : (n * 0x10000 + r.off) / 0x10000 = n := by omega
  have hoff : (n * 0x10000 + r.off) % 0x4000 = r.off := by omega
  simp only [State.regOf, hblk, hoff, hr.lone.single, hr.mapped]

/-- A value without ones in the reserved bits goes to the register's sequence-number rule. -/
theorem State.baseWrite_sqRegister (s : State) (req : Requester) (n : Nat) (r : Reg) (x : W32) (hr : SqRegister s.hw n r)
    (hwb : x.toNat &&& regMask r (fun c => c == .wb) = 0) : s.baseWrite req n r.off x = .next (s.sqWrite n r x) := by
  have hlow : x.toNat &&& regMask r (fun c => c == .wb) % 2 ^ 32 = 0 := by
    rw [← Nat.mod_eq_of_lt x.isLt, ← Nat.and_mod_two_pow, hwb, Nat.zero_mod]
  simp only [State.baseWrite, hr.mapped, hr.sq, Nat.sub_self, Nat.mul_zero, Nat.pow_zero, Nat.div_one, hlow, ne_eq, not_true_eq_false,
    if_false, if_true]

/-- SQ_CLEAR of a register of the node, with a value that its reserved bits allow, is the sequence-number rule. -/
theorem exec_sqClear_sqRegister (s : State) (req : Requester) (n : Nat) (r : Reg) (x : W32) (hr : SqRegister s.hw n r)
    (hbusy : s.fld fTopStatusBusy = 0) (hwb : x.toNat &&& regMask r (fun c => c == .wb) = 0) :
    exec (.sqClear req (n * 0x10000 + r.off) x 0) s = .next (s.sqWrite n r x) := by
  have hp := hr.inPage
  have hbase : (n * 0x10000 + r.off) % 0x10000 < 0x4000 := by omega
  have hsq : (s.regOf (n * 0x10000 + r.off)).any (·.sq) = true := by rw [s.regOf_sqRegister n r hr]; exact hr.sq
  have hpage : (n * 0x10000 + r.off) % 0x10000 / 0x4000 = 0 := by omega
  calc exec (.sqClear req (n * 0x10000 + r.off) x 0) s
      = s.ctlPath 0 .next (fun t => t.busWrite req (n * 0x10000 + r.off) x) := if_pos ⟨hbase, hsq⟩
    _ = s.busWrite req (n * 0x10000 + r.off) x := rfl
    _ = s.onBus (n * 0x10000 + r.off) (fun n o t => t.baseWrite req n o x) := by simp only [State.busWrite, hpage]
    _ = s.baseWrite req n r.off x := s.onBus_lone n r.off _ hr.lone hp hr.aligned hbusy
    _ = .next (s.sqWrite n r x) := s.baseWrite_sqRegister req n r x hr hwb

/-! ## Where the event registers and the high-water marks lie -/

/-- The event status registers of the blocks that a variant has. -/
def EventAddr (v : Variant) (a : Nat) : Prop :=
  a ∈ [eTop, eHst, eNrg, eChk, eSec, eMgt, eCas, eTra] ∨ (∃ p, p < v.ports ∧ a = ePort p)
    ∨ (v.flash = true ∧ (a = eFtl ∨ ∃ c, c < 32 ∧ a = eFce c)) ∨ (∃ c, c < v.cores ∧ a = eCore c) ∨ (∃ c, c < v.channels ∧ a = eNbu c)

/-- FAB_HWM of the classes of the ports that a variant has. -/
def HwmAddr (v : Variant) (a : Nat) : Prop := ∃ p c, p < v.ports ∧ c < 8 ∧ a = portBase p + 0x80 + 4 * c

/-- The layout of an event status register with `k` event bits (R538). -/
def eventReg (o k : Nat) : Reg := ⟨o, 1, (List.range k).map (fun b => ⟨b, b, .sq, 0⟩) ++ [⟨k, 23, .wb, 0⟩, ⟨24, 31, .sq, 0⟩]⟩

theorem eventReg_sq (o k : Nat) : (eventReg o k).sq = true := by simp [eventReg, Reg.sq]

theorem blkOf_port (p : Nat) (hp : p < 6) : blkOf (8 + p) = .port p := by grind [blkOf]

theorem blkOf_fce (c : Nat) (hc : c < 32) : blkOf (16 + c) = .fce c := by grind [blkOf]

theorem blkOf_core (c : Nat) (hc : c < 192) : blkOf (64 + c) = .core c := by grind [blkOf]

theorem blkOf_nbu (c : Nat) (hc : c < 192) : blkOf (320 + c) = .nbu c := by grind [blkOf]

theorem LoneBlock.port (v : Variant) (p : Nat) (hp : p < v.ports) : LoneBlock v (8 + p) := by
  have h6 := v.ports_le
  have hb := blkOf_port p (by omega)
  exact ⟨by omega, by simp [hb, blkAbsent, hp], by rw [hb]; rfl⟩

theorem LoneBlock.fce (v : Variant) (c : Nat) (hv : v.flash = true) (hc : c < 32) : LoneBlock v (16 + c) := by
  have hb := blkOf_fce c hc
  exact ⟨by omega, by simp [hb, blkAbsent, hv], by rw [hb]; rfl⟩

theorem LoneBlock.core (v : Variant) (c : Nat) (hc : c < v.cores) : LoneBlock v (64 + c) := by
  have hle := v.cores_le
  have hb := blkOf_core c (by omega)
  exact ⟨by omega, by simp [hb, blkAbsent, hc], by rw [hb]; rfl⟩

theorem LoneBlock.nbu (v : Variant) (c : Nat) (hc : c < v.channels) : LoneBlock v (320 + c) := by
  have hle := v.channels_le
  have hb := blkOf_nbu c (by omega)
  exact ⟨by omega, by simp [hb, blkAbsent, hc], by rw [hb]; rfl⟩

/-- An address of a register that the sequence-number rule clears, at an offset below those of the high-water marks. -/
def EventAt (hw : Hw) (a : Nat) : Prop := ∃ n r, a = n * 0x10000 + r.off ∧ r.off < 0x80 ∧ SqRegister hw n r

theorem EventAt.of_eventReg (hw : Hw) (a n o k : Nat) (ha : a = n * 0x10000 + o) (ho : o < 0x80) (h4 : o % 4 = 0)
    (hn : LoneBlock hw.variant n) (hr : regAt hw n o = some (eventReg o k)) : EventAt hw a :=
  ⟨n, eventReg o k, ha, ho, hn, hr, Nat.lt_trans ho (by decide), h4, eventReg_sq o k⟩

/-- The blocks that every part has once. -/
theorem eventAt_single (hw : Hw) (a : Nat) (h : a ∈ [eTop, eHst, eNrg, eChk, eSec, eMgt, eCas, eTra]) : EventAt hw a := by
  simp only [List.mem_cons, List.not_mem_nil, or_false] at h
  rcases h with rfl | rfl | rfl | rfl | rfl | rfl | rfl | rfl
  · exact .of_eventReg hw _ 0 0x40 3 rfl (by decide) rfl ⟨by decide, rfl, rfl⟩ rfl
  · exact .of_eventReg hw _ 1 0x18 4 rfl (by decide) rfl ⟨by decide, rfl, rfl⟩ rfl
  · exact .of_eventReg hw _ 2 0x28 8 rfl (by decide) rfl ⟨by decide, rfl, rfl⟩ rfl
  · exact .of_eventReg hw _ 3 0x08 9 rfl (by decide) rfl ⟨by decide, rfl, rfl⟩ rfl
  · exact .of_eventReg hw _ 4 0x10 3 rfl (by decide) rfl ⟨by decide, rfl, rfl⟩ rfl
  · exact .of_eventReg hw _ 5 0x08 3 rfl (by decide) rfl ⟨by decide, rfl, rfl⟩ rfl
  · exact .of_eventReg hw _ 6 0x20 6 rfl (by decide) rfl ⟨by decide, rfl, rfl⟩ rfl
  · exact .of_eventReg hw _ 15 0x18 3 rfl (by decide) rfl ⟨by decide, rfl, rfl⟩ rfl

theorem eventAt_port (hw : Hw) (p : Nat) (hp : p < hw.variant.ports) : EventAt hw (ePort p) := by
  have hb := blkOf_port p (Nat.lt_of_lt_of_le hp hw.variant.ports_le)
  exact .of_eventReg hw _ (8 + p) 0x10 6 (by simp only [ePort, portBase]; omega) (by decide) rfl (.port _ p hp)
    (by simp only [regAt, hb]; rfl)

theorem eventAt_ftl (hw : Hw) (hv : hw.variant.flash = true) : EventAt hw eFtl :=
  .of_eventReg hw _ 7 0x20 6 rfl (by decide) rfl ⟨by decide, congrArg (! ·) hv, rfl⟩ rfl

theorem eventAt_fce (hw : Hw) (c : Nat) (hv : hw.variant.flash = true) (hc : c < 32) : EventAt hw (eFce c) := by
  have hb := blkOf_fce c hc
  exact .of_eventReg hw _ (16 + c) 0x18 9 (by simp only [eFce, fceBase]; omega) (by decide) rfl (.fce _ c hv hc)
    (by simp only [regAt, hb]; rfl)

theorem eventAt_core (hw : Hw) (c : Nat) (hc : c < hw.variant.cores) : EventAt hw (eCore c) := by
  have hb := blkOf_core c (Nat.lt_of_lt_of_le hc hw.variant.cores_le)
  exact .of_eventReg hw _ (64 + c) 0x18 5 (by simp only [eCore, coreBase]; omega) (by decide) rfl (.core _ c hc)
    (by simp only [regAt, hb]; rfl)

theorem eventAt_nbu (hw : Hw) (c : Nat) (hc : c < hw.variant.channels) : EventAt hw (eNbu c) := by
  have hb := blkOf_nbu c (Nat.lt_of_lt_of_le hc hw.variant.channels_le)
  exact .of_eventReg hw _ (320 + c) 0x10 4 (by simp only [eNbu, nbuBase]; omega) (by decide) rfl (.nbu _ c hc)
    (by simp only [regAt, hb]; rfl)

theorem EventAddr.eventAt {hw : Hw} {a : Nat} (h : EventAddr hw.variant a) : EventAt hw a := by
  obtain h | ⟨p, hp, rfl⟩ | ⟨hv, rfl | ⟨c, hc, rfl⟩⟩ | ⟨c, hc, rfl⟩ | ⟨c, hc, rfl⟩ := h
  · exact eventAt_single hw a h
  · exact eventAt_port hw p hp
  · exact eventAt_ftl hw hv
  · exact eventAt_fce hw c hv hc
  · exact eventAt_core hw c hc
  · exact eventAt_nbu hw c hc

theorem regAt_hwm (hw : Hw) (p c : Nat) (hp : p < 6) (hc : c < 8) : regAt hw (8 + p) (0x80 + 4 * c) = some ⟨0x80 + 4 * c, 1, hwmFlds⟩ := by
  simp only [regAt, blkOf_port p hp]
  interval_cases c <;> rfl

/-- The high-water marks are registers of their ports. -/
theorem HwmAddr.sqRegister {hw : Hw} {a : Nat} (h : HwmAddr hw.variant a) :
    ∃ n r p, a = n * 0x10000 + r.off ∧ blkOf n = .port p ∧ 0x80 ≤ r.off ∧ r.off < 0xA0 ∧ SqRegister hw n r := by
  obtain ⟨p, c, hp, hc, rfl⟩ := h
  have h6 : p < 6 := Nat.lt_of_lt_of_le hp hw.variant.ports_le
  refine ⟨8 + p, ⟨0x80 + 4 * c, 1, hwmFlds⟩, p, ?_, blkOf_port p h6, ?_, ?_, .port _ p hp, regAt_hwm hw p c h6 hc, ?_, ?_, rfl⟩
  · simp only [portBase]; omega
  all_goals dsimp only; omega

/-- Every register of R539 is one that the bus reaches. -/
theorem sqRegister_of_addr {hw : Hw} {a : Nat} (h : EventAddr hw.variant a ∨ HwmAddr hw.variant a) :
    ∃ n r, a = n * 0x10000 + r.off ∧ SqRegister hw n r := by
  rcases h with h | h
  · obtain ⟨n, r, ha, -, hr⟩ := h.eventAt
    exact ⟨n, r, ha, hr⟩
  · obtain ⟨n, r, -, ha, -, -, -, hr⟩ := h.sqRegister
    exact ⟨n, r, ha, hr⟩

/-! ## SQ_CLEAR (R539) -/

section
variable {s : State} {req : Requester} {a : Nat} {x : W32}
  (hbusy : s.fld fTopStatusBusy = 0) (hwb : ∀ r, s.regOf a = some r → x.toNat &&& regMask r (fun c => c == .wb) = 0)
include hbusy hwb

/-- With SEQ named, an event status register takes the cleared word. -/
theorem exec_sqClear_event (ha : EventAddr s.hw.variant a) (hseq : evtSeq x = evtSeq (s.word a)) :
    ∃ y, sqClear (s.word a) x = some y ∧ exec (.sqClear req a x 0) s = .next (s.setWord a y) := by
  obtain ⟨n, r, rfl, hlow, hr⟩ := ha.eventAt
  have hy := sqClear_fresh _ _ hseq
  exact ⟨_, hy, by rw [exec_sqClear_sqRegister s req n r x hr hbusy (hwb r (s.regOf_sqRegister n r hr)), s.sqWrite_event n r x _ hlow hy]⟩

/-- With SEQ named, a high-water mark becomes zero. -/
theorem exec_sqClear_hwm (ha : HwmAddr s.hw.variant a) (hseq : evtSeq x = evtSeq (s.word a)) :
    exec (.sqClear req a x 0) s = .next (s.setWord a (BitVec.ofNat 32 (2 ^ 24 * evtSeq (s.word a)))) := by
  obtain ⟨n, r, p, rfl, hp, h1, h2, hr⟩ := ha.sqRegister
  rw [exec_sqClear_sqRegister s req n r x hr hbusy (hwb r (s.regOf_sqRegister n r hr)), s.sqWrite_hwm n r x p hp h1 h2 hseq]

/-- With another SEQ, only TOP_SQSTALE counts. -/
theorem exec_sqClear_stale (ha : EventAddr s.hw.variant a ∨ HwmAddr s.hw.variant a) (hseq : evtSeq x ≠ evtSeq (s.word a)) :
    exec (.sqClear req a x 0) s = .next (s.count 0x80 1) := by
  obtain ⟨n, r, rfl, hr⟩ := sqRegister_of_addr ha
  rw [exec_sqClear_sqRegister s req n r x hr hbusy (hwb r (s.regOf_sqRegister n r hr)), s.sqWrite_stale n r x hseq]

end

/-! ## The obligations -/

/-- Settles O14: the event word, the high-water mark and the cleared word are each put together from 24 low bits and SEQ, which is read back. -/
theorem sequenceNumbersAdvance : Obligations.SequenceNumbersAdvance := by
  exact ⟨fun s a b hb => ⟨s.evtBit_event_same a b hb, s.evtSeq_event a b hb, fun c hc hne => s.evtBit_event_ne a b c hb hc hne,
    fun k hk => s.word_event_ne a k b hk⟩, fun w v => ⟨hwmRaise_rises w v, hwmRaise_stays w v⟩, sqClear_seq⟩

/-- Settles O15: every register of R539 is reached by the bus, where the write is the sequence-number rule. -/
theorem eventRegistersClear : Obligations.EventRegistersClear := by
  intro s req a x hbusy hwb
  refine ⟨fun ha hseq => ?_, fun p c hp hc ha hseq => ?_, fun ha hseq => ?_⟩
  · obtain ⟨y, hy, hex⟩ := exec_sqClear_event (req := req) hbusy hwb ha hseq
    refine ⟨_, hex, ?_, fun b hb => ?_, fun k hk => s.word_setWord_ne a k y hk, rfl⟩
    · rw [State.word_setWord_same, sqClear_seq _ _ _ hy]
    · rw [State.evtBit, State.word_setWord_same, sqClear_bit _ _ _ b hb hy, State.evtBit]
  · have hzero := Nat.zero_add (2 ^ 24 * evtSeq (s.word a))
    refine ⟨_, exec_sqClear_hwm hbusy hwb ⟨p, c, hp, hc, ha⟩ hseq, ?_, ?_, fun k hk => s.word_setWord_ne a k _ hk, rfl⟩
    · rw [State.word_setWord_same, ← hzero, evtSeq_low_add_seq _ _ (by decide) (evtSeq_lt _)]
    · rw [State.word_setWord_same, ← hzero, low_low_add_seq _ _ (by decide) (evtSeq_lt _)]
  · have haddr : EventAddr s.hw.variant a ∨ HwmAddr s.hw.variant a := by simpa only [EventAddr, HwmAddr, or_assoc] using ha
    exact ⟨_, exec_sqClear_stale hbusy hwb haddr hseq, s.reg64_count 0x80 1, fun k h1 h2 => s.word_count_ne 0x80 k 1 h1 h2, rfl⟩

end Sys2Proof.Machine
end
